-- ==== Sys2Proof/Word.lean ====
section
/-! DEFINITION. Word types of the Helora Maryen (R5, R7 of 00_scope.md) and the plainest arithmetic on them. -/
namespace Sys2Proof

/-- A 96-bit instruction word (R7, R325). -/
abbrev Word96 := BitVec 96
/-- A 64-bit value (a dword of R7). -/
abbrev W64 := BitVec 64
/-- One byte of memory. -/
abbrev Byte := BitVec 8

/-- The three strands of a core (R21, R44). -/
inductive Strand where
  | a | e | m
  deriving DecidableEq, Repr

/-- A sparse table: entries by number, in ascending order; what an absent entry holds is the reader's default. -/
abbrev Tbl (α : Type) := List (Nat × α)

/-- Names a result, a memory access or a store in flight: core, bank, strand and its number in that strand. -/
structure ResultId where
  core : Nat
  bank : Nat
  st : Strand
  id : Nat
  deriving DecidableEq, Repr

/-- A checksum mismatch that the continuity check meets on one K-block (R205, R206): whether the second take
mismatches too, and the checksum differences of the takes. -/
structure Mismatch where
  block : Nat
  twice : Bool
  syn1 : W64
  syn2 : W64
  deriving DecidableEq, Repr

/-- What a write of CPYRES names (R247). -/
structure CopySel where
  die : Nat
  cluster : Nat
  core : Nat
  slot : Nat
  cq : Nat
  deriving DecidableEq, Repr

/-- A request or write-back that a head under a lapse refuses (R293). -/
inductive Refused where
  | writeBack (line : Nat)
  | access (r : ResultId)
  | chunk (core slot : Nat)
  deriving DecidableEq, Repr

/-- A bring-up step that fails, with the FAIL code it sets (R350, R364). -/
structure BootFail where
  stage : Nat
  code : Nat
  deriving DecidableEq, Repr

end Sys2Proof
end

