-- ==== Sys2Proof/Machine/Flags.lean ====
section
/-! DEFINITION. The sticky flags of FPFLAGS (R152): their bits, and what an operation raises. -/
namespace Sys2Proof.Machine

/-- FPFLAGS, bit by bit (R152). -/
abbrev Flags := BitVec 9

def flagIO : Flags := 0x001
def flagDZ : Flags := 0x002
def flagOF : Flags := 0x004
def flagUF : Flags := 0x008
def flagIX : Flags := 0x010
def flagSATF : Flags := 0x020
def flagDIN : Flags := 0x040
def flagADZ : Flags := 0x100

/-- The flag when the condition holds. -/
def flagIf (c : Bool) (f : Flags) : Flags := if c then f else 0

/-- OR of the flags that the pieces of a word raise (R153). -/
def flagsOr (l : List Flags) : Flags := l.foldl (· ||| ·) 0

/-- The flag of a division by zero: DZ on E, ADZ on A (R145). -/
def divFlag (st : Strand) (byZero : Bool) : Flags := flagIf byZero (if st = .a then flagADZ else flagDZ)

end Sys2Proof.Machine
end

