-- ==== Sys2Proof/Config.lean ====
section
/-! DEFINITION. What the spec leaves to the device: the free values (opaque, no body: nothing can evaluate them)
and the constants a particular device has fused. Each is named in notes/assumptions. -/
namespace Sys2Proof.Config

/-- The free value number `n`: any bit pattern (R3). A step that needs one applies this to the counter `fresh` of
State and advances the counter (log entry 2). -/
opaque freeNat : Nat → Nat

/-- What a byte of memory whose contents are undefined reads as, until it is written (R3, R57): the tag of the
undefined span, then the address (log entry 2). -/
opaque freeByte : Nat → Nat → BitVec 8

/-- The one fixed mapping of a special function (R168): function code of R340, element type code of R119, input bits; it picks one of the codes that the
bounds of R168 allow, for inputs that its table does not decide (log entry 6). -/
opaque sfu : Nat → Nat → Nat → Nat

/-- SHA-256 of an image, as the security processor computes it (R358, R359; log entry 8). -/
opaque sha256 : List (BitVec 8) → Nat
/-- SLH-DSA-SHA2-192s verification of a manifest under the fused key hash (R358; log entry 8). -/
opaque manifestSigned : List (BitVec 8) → Bool
/-- The version that a manifest gives (R358; log entry 8). -/
opaque manifestVersion : List (BitVec 8) → Nat
/-- The SHA-256 hashes that a manifest gives for its three images (R358; log entry 8). -/
opaque manifestHashes : List (BitVec 8) → List Nat
/-- The identity key's signature over a report (R359; log entry 8). -/
opaque sign : List Nat → Nat
/-- The ML-KEM-1024 public key that the security processor makes at boot number `n` (R359; log entry 8). -/
opaque kemKey : Nat → Nat
/-- The measurement of the immutable boot ROM (R359; log entry 8). -/
opaque romMeasure : Nat
/-- VA of the runtime's entry slate in the manifest (R364 step 7; log entry 9). -/
opaque runtimeEntry : Nat → BitVec 57
/-- Physical address of the runtime's root page table that the security processor builds (R364 step 7; log entry 9). -/
opaque runtimeRoot : Nat → Nat
/-- The runtime image that the security processor copies into local HBM at bring-up, with the page tables it
builds there: cells of address and byte (R364 step 7; log entry 9). -/
opaque runtimeImage : Nat → List (Nat × BitVec 8)

end Sys2Proof.Config
end

