-- ==== Sys2Proof/Syntax.lean ====
section
/-! DEFINITION. The syntax of the machine: one constructor of `Instr` per row of spec/opcode_table.json.
A word carries the fields of its format (R327-R336) whole, RsvdZ fields among them, so that no bit of a word is lost and
the checks of R339 can be made on it; an event carries its operands. -/
namespace Sys2Proof

/-- The common header below the opcode (R327): stall, predicate specifier, predicate negation. -/
structure Hdr where
  stl : BitVec 6
  pr : BitVec 4
  pn : Bool
  deriving DecidableEq, Repr

/-- RR format: register operations (R329). -/
structure RR where
  hdr : Hdr
  d : BitVec 7
  a : BitVec 7
  b : BitVec 7
  c : BitVec 7
  sub : BitVec 8
  imm : BitVec 16
  bi : Bool
  rm : BitVec 3
  ft : BitVec 3
  ft2 : BitVec 3
  z : BitVec 15
  deriving DecidableEq, Repr

/-- RI format: immediates and control transfers (R330). -/
structure RI where
  hdr : Hdr
  d : BitVec 7
  a : BitVec 7
  b : BitVec 7
  sub : BitVec 8
  imm : BitVec 48
  deriving DecidableEq, Repr

/-- MEM format: strand memory accesses, atomics, fences and futures (R331). -/
structure MEM where
  hdr : Hdr
  d : BitVec 7
  a : BitVec 7
  b : BitVec 7
  c : BitVec 7
  sub : BitVec 8
  sz : BitVec 3
  scope : BitVec 2
  ord : BitVec 2
  dc : BitVec 2
  sx : Bool
  z : BitVec 7
  off : BitVec 24
  deriving DecidableEq, Repr

/-- VEC format: vector, mask and DACC words (R332). -/
structure VEC where
  hdr : Hdr
  d : BitVec 7
  a : BitVec 7
  b : BitVec 7
  c : BitVec 7
  et : BitVec 4
  g : BitVec 2
  z : Bool
  sat : Bool
  rm : BitVec 3
  bsel : BitVec 2
  sub : BitVec 4
  imm : BitVec 32
  deriving DecidableEq, Repr

/-- MAT format: matrix words (R333). -/
structure MAT where
  hdr : Hdr
  acc : BitVec 3
  ws : BitVec 5
  ia : BitVec 3
  ib : BitVec 3
  sub : BitVec 6
  mm1 : BitVec 7
  nm1 : BitVec 8
  kbm1 : BitVec 9
  row0 : BitVec 7
  offa : BitVec 16
  str : BitVec 10
  deriving DecidableEq, Repr

/-- CPY format: the copy family, PFLUSH and PINV (R334). -/
structure CPY where
  hdr : Hdr
  dst : BitVec 7
  src : BitVec 7
  len : BitVec 7
  aux : BitVec 7
  nrg : BitVec 7
  bar : BitVec 11
  cq : BitVec 3
  scope : BitVec 2
  note : Bool
  errstop : Bool
  tag : Bool
  rtype : BitVec 2
  tagv : BitVec 13
  z : BitVec 8
  deriving DecidableEq, Repr

/-- SYS format: CSR, barrier and system words (R335). -/
structure SYS where
  hdr : Hdr
  d : BitVec 7
  a : BitVec 7
  b : BitVec 7
  sub : BitVec 8
  csr : BitVec 12
  imm : BitVec 36
  deriving DecidableEq, Repr

/-- REP format: repetition (R336). -/
structure REP where
  hdr : Hdr
  count : BitVec 6
  sd : BitVec 4
  sa : BitVec 4
  sb : BitVec 4
  sc : BitVec 4
  z : BitVec 55
  deriving DecidableEq, Repr

/-- One constructor per row of spec/opcode_table.json: the words of the opcode map (R338) and the device's events. -/
inductive Instr where
  /-- ILLEGAL (R338) -/
  | illegal (body : BitVec 88)
  /-- ADD (R366) -/
  | add (w : RR)
  /-- SUB (R466) -/
  | sub (w : RR)
  /-- MUL (R439) -/
  | mul (w : RR)
  /-- MULH (R439) -/
  | mulh (w : RR)
  /-- DIV (R398) -/
  | div (w : RR)
  /-- REM (R457) -/
  | rem (w : RR)
  /-- AND (R372) -/
  | and (w : RR)
  /-- OR (R442) -/
  | or (w : RR)
  /-- XOR (R501) -/
  | xor (w : RR)
  /-- ANDN (R372) -/
  | andn (w : RR)
  /-- SHL (R461) -/
  | shl (w : RR)
  /-- SHR (R461) -/
  | shr (w : RR)
  /-- SRA (R461) -/
  | sra (w : RR)
  /-- ROTR (R461) -/
  | rotr (w : RR)
  /-- MIN (R426) -/
  | min (w : RR)
  /-- MAX (R426) -/
  | max (w : RR)
  /-- CMP (R389) -/
  | cmp (w : RR)
  /-- SEL (R462) -/
  | sel (w : RR)
  /-- CLZ (R388) -/
  | clz (w : RR)
  /-- CTZ (R388) -/
  | ctz (w : RR)
  /-- POPC (R442) -/
  | popc (w : RR)
  /-- BFX (R376) -/
  | bfx (w : RR)
  /-- BFI (R376) -/
  | bfi (w : RR)
  /-- ADDI (R367) -/
  | addi (w : RI)
  /-- LI (R421) -/
  | li (w : RI)
  /-- LIH (R421) -/
  | lih (w : RI)
  /-- FADD (R401) -/
  | fadd (w : RR)
  /-- FSUB (R401) -/
  | fsub (w : RR)
  /-- FMUL (R401) -/
  | fmul (w : RR)
  /-- FFMA (R409) -/
  | ffma (w : RR)
  /-- FDIV (R401) -/
  | fdiv (w : RR)
  /-- FSQRT (R410) -/
  | fsqrt (w : RR)
  /-- FMIN (R401) -/
  | fmin (w : RR)
  /-- FMAX (R401) -/
  | fmax (w : RR)
  /-- FCMP (R406) -/
  | fcmp (w : RR)
  /-- FCVT (R407) -/
  | fcvt (w : RR)
  /-- FCLASS (R402) -/
  | fclass (w : RR)
  /-- BR (R380) -/
  | br (w : RI)
  /-- JMP (R413) -/
  | jmp (w : RI)
  /-- JMPR (R413) -/
  | jmpr (w : RI)
  /-- CALL (R385) -/
  | call (w : RI)
  /-- RET (R459) -/
  | ret (w : RI)
  /-- LOOP (R423) -/
  | loop (w : RI)
  /-- BRQ (R382) -/
  | brq (w : RI)
  /-- SYNCV (R467) -/
  | syncv (w : SYS)
  /-- NOP (R440) -/
  | nop (w : SYS)
  /-- LD (R418) -/
  | ld (w : MEM)
  /-- ST (R464) -/
  | st (w : MEM)
  /-- LDRO (R420) -/
  | ldro (w : MEM)
  /-- ROINV (R460) -/
  | roinv (w : MEM)
  /-- AMO (R368) -/
  | amo (w : MEM)
  /-- CAS (R386) -/
  | cas (w : MEM)
  /-- FENCE (R408) -/
  | fence (w : MEM)
  /-- QMARK (R449) -/
  | qmark (w : MEM)
  /-- QFENCE (R449) -/
  | qfence (w : MEM)
  /-- PREF (R445) -/
  | pref (w : MEM)
  /-- FGET (R404) -/
  | fget (w : MEM)
  /-- FSET (R404) -/
  | fset (w : MEM)
  /-- FCLR (R404) -/
  | fclr (w : MEM)
  /-- WAITA (R499) -/
  | waita (w : MEM)
  /-- BINIT (R377) -/
  | binit (w : SYS)
  /-- BARR (R373) -/
  | barr (w : SYS)
  /-- BWAIT (R383) -/
  | bwait (w : SYS)
  /-- BTEST (R383) -/
  | btest (w : SYS)
  /-- BEXP (R375) -/
  | bexp (w : SYS)
  /-- QPUSH (R450) -/
  | qpush (w : RR)
  /-- QBIND (R447) -/
  | qbind (w : RR)
  /-- QUNB (R448) -/
  | qunb (w : RR)
  /-- QSTAT (R451) -/
  | qstat (w : RR)
  /-- VADD (R479) -/
  | vadd (w : VEC)
  /-- VSUB (R479) -/
  | vsub (w : VEC)
  /-- VMUL (R479) -/
  | vmul (w : VEC)
  /-- VFMA (R479) -/
  | vfma (w : VEC)
  /-- VMIN (R479) -/
  | vmin (w : VEC)
  /-- VMAX (R479) -/
  | vmax (w : VEC)
  /-- VABS (R479) -/
  | vabs (w : VEC)
  /-- VNEG (R479) -/
  | vneg (w : VEC)
  /-- VAND (R479) -/
  | vand (w : VEC)
  /-- VOR (R479) -/
  | vor (w : VEC)
  /-- VXOR (R479) -/
  | vxor (w : VEC)
  /-- VSHL (R479) -/
  | vshl (w : VEC)
  /-- VSHR (R479) -/
  | vshr (w : VEC)
  /-- VCMP (R481) -/
  | vcmp (w : VEC)
  /-- VSEL (R481) -/
  | vsel (w : VEC)
  /-- VCLAMP (R481) -/
  | vclamp (w : VEC)
  /-- VCVT (R483) -/
  | vcvt (w : VEC)
  /-- VSFU (R498) -/
  | vsfu (w : VEC)
  /-- VSPLAT (R486) -/
  | vsplat (w : VEC)
  /-- VIOTA (R486) -/
  | viota (w : VEC)
  /-- VRCO (R494) -/
  | vrco (w : VEC)
  /-- VSLICE (R482) -/
  | vslice (w : VEC)
  /-- VCAT (R482) -/
  | vcat (w : VEC)
  /-- VREV (R482) -/
  | vrev (w : VEC)
  /-- VLEN (R492) -/
  | vlen (w : VEC)
  /-- VSETL (R492) -/
  | vsetl (w : VEC)
  /-- VINS (R484) -/
  | vins (w : VEC)
  /-- VEXT (R484) -/
  | vext (w : VEC)
  /-- VLD (R487) -/
  | vld (w : VEC)
  /-- VST (R487) -/
  | vst (w : VEC)
  /-- VLDP (R490) -/
  | vldp (w : VEC)
  /-- VSTP (R490) -/
  | vstp (w : VEC)
  /-- VLDRG (R491) -/
  | vldrg (w : VEC)
  /-- VGATH (R485) -/
  | vgath (w : VEC)
  /-- VSCAT (R485) -/
  | vscat (w : VEC)
  /-- VLDA (R489) -/
  | vlda (w : VEC)
  /-- VSTA (R489) -/
  | vsta (w : VEC)
  /-- VPARK (R493) -/
  | vpark (w : VEC)
  /-- VUNPK (R493) -/
  | vunpk (w : VEC)
  /-- VRSUM (R495) -/
  | vrsum (w : VEC)
  /-- VRMAX (R495) -/
  | vrmax (w : VEC)
  /-- VRMIN (R495) -/
  | vrmin (w : VEC)
  /-- VRDOT (R495) -/
  | vrdot (w : VEC)
  /-- VSEGSUM (R497) -/
  | vsegsum (w : VEC)
  /-- VSEGMAX (R497) -/
  | vsegmax (w : VEC)
  /-- VSCAN (R496) -/
  | vscan (w : VEC)
  /-- KAND (R415) -/
  | kand (w : VEC)
  /-- KOR (R415) -/
  | kor (w : VEC)
  /-- KXOR (R415) -/
  | kxor (w : VEC)
  /-- KNOT (R415) -/
  | knot (w : VEC)
  /-- KMOV (R415) -/
  | kmov (w : VEC)
  /-- KCNT (R416) -/
  | kcnt (w : VEC)
  /-- KFIRST (R416) -/
  | kfirst (w : VEC)
  /-- MACQ (R425) -/
  | macq (w : MAT)
  /-- MREL (R425) -/
  | mrel (w : MAT)
  /-- MCFG (R429) -/
  | mcfg (w : MAT)
  /-- MSET (R437) -/
  | mset (w : MAT)
  /-- MMA (R434) -/
  | mma (w : MAT)
  /-- MMAS (R434) -/
  | mmas (w : MAT)
  /-- MOLA (R435) -/
  | mola (w : MAT)
  /-- MLDW (R433) -/
  | mldw (w : MAT)
  /-- MROWSUM (R436) -/
  | mrowsum (w : MAT)
  /-- MDRAIN (R430) -/
  | mdrain (w : MAT)
  /-- MLDACC (R432) -/
  | mldacc (w : MAT)
  /-- MIDX (R431) -/
  | midx (w : MAT)
  /-- CPY (R390) -/
  | cpy (w : CPY)
  /-- CPYS (R390) -/
  | cpys (w : CPY)
  /-- CPYG (R390) -/
  | cpyg (w : CPY)
  /-- CPYSC (R390) -/
  | cpysc (w : CPY)
  /-- CPYR (R390) -/
  | cpyr (w : CPY)
  /-- CPYF (R390) -/
  | cpyf (w : CPY)
  /-- CPYN (R390) -/
  | cpyn (w : CPY)
  /-- REELAPP (R453) -/
  | reelapp (w : RR)
  /-- REELLNK (R455) -/
  | reellnk (w : RR)
  /-- REELKICK (R454) -/
  | reelkick (w : RR)
  /-- REELSTAT (R456) -/
  | reelstat (w : RR)
  /-- TSPAWN (R473) -/
  | tspawn (w : RR)
  /-- LNCH (R422) -/
  | lnch (w : RR)
  /-- TRET (R472) -/
  | tret (w : RR)
  /-- TYIELD (R476) -/
  | tyield (w : RR)
  /-- TTAGR (R474) -/
  | ttagr (w : RR)
  /-- TTAGW (R474) -/
  | ttagw (w : RR)
  /-- TDESC (R468) -/
  | tdesc (w : RR)
  /-- TQRY (R470) -/
  | tqry (w : RR)
  /-- WIDF (R500) -/
  | widf (w : RR)
  /-- MTINS (R438) -/
  | mtins (w : RR)
  /-- MTDEL (R438) -/
  | mtdel (w : RR)
  /-- PFLUSH (R444) -/
  | pflush (w : CPY)
  /-- PINV (R444) -/
  | pinv (w : CPY)
  /-- LRENEW (R424) -/
  | lrenew (w : RR)
  /-- NQPOST (R297) -/
  | nqpost (w : RR)
  /-- NQTAKE (R297) -/
  | nqtake (w : RR)
  /-- ORPHX (R443) -/
  | orphx (w : RR)
  /-- DACC (R396) -/
  | dacc (w : VEC)
  /-- HASHR (R412) -/
  | hashr (w : RR)
  /-- CSRR (R394) -/
  | csrr (w : SYS)
  /-- CSRW (R394) -/
  | csrw (w : SYS)
  /-- CSRS (R394) -/
  | csrs (w : SYS)
  /-- CSRC (R394) -/
  | csrc (w : SYS)
  /-- TRAP (R471) -/
  | trap (w : SYS)
  /-- ERET (R399) -/
  | eret (w : SYS)
  /-- TLBINV (R469) -/
  | tlbinv (w : SYS)
  /-- IDLE (R411) -/
  | idle (w : SYS)
  /-- HALT (R411) -/
  | halt (w : SYS)
  /-- BKPT (R379) -/
  | bkpt (w : SYS)
  /-- SWAPB (R463) -/
  | swapb (w : SYS)
  /-- SPILL (R463) -/
  | spill (w : SYS)
  /-- REP (R458) -/
  | rep (w : REP)
  /-- DOORBELL (R86) -/
  | doorbell (q : Nat) (v : W64)
  /-- LQCTL_WRITE (R84) -/
  | lqctlWrite (q : Nat) (v : W64)
  /-- LAUNCH_RECORD_READ (R86) -/
  | launchRecordRead (die : Nat)
  /-- DEVICE_LAUNCH_ACCEPT (R90) -/
  | deviceLaunchAccept (die : Nat)
  /-- LAUNCH_ACTIVATE (R90) -/
  | launchActivate (die : Nat)
  /-- TASK_EXPAND (R90) -/
  | taskExpand (die : Nat)
  /-- DISPATCH (R76) -/
  | dispatch (task : Nat)
  /-- DISPATCH_READ_RETRY (R512) -/
  | dispatchReadRetry (task : Nat)
  /-- TAG_POLL (R98) -/
  | tagPoll (die : Nat)
  /-- HOLDCTL_REDISPATCH (R82) -/
  | holdctlRedispatch (die task : Nat)
  /-- HOLDCTL_FAIL (R82) -/
  | holdctlFail (die task : Nat)
  /-- TASK_SELECT (R94) -/
  | taskSelect (core : Nat)
  /-- AGE_PROMOTE (R93) -/
  | agePromote (cluster task : Nat)
  /-- RESERVE_TASK (R96) -/
  | reserveTask (cluster : Nat)
  /-- GANG_PLACE (R97) -/
  | gangPlace (die : Nat)
  /-- STEAL (R99) -/
  | steal (cluster : Nat)
  /-- TASK_STAGE (R102) -/
  | taskStage (core : Nat)
  /-- STAGING_COMPLETE (R102) -/
  | stagingComplete (core : Nat)
  /-- PREEMPT (R103) -/
  | preempt (core : Nat)
  /-- PARK_SWAP (R104) -/
  | parkSwap (core : Nat)
  /-- BANK_SWAP_BEGIN (R321) -/
  | bankSwapBegin (core : Nat)
  /-- BANK_SWAP_COMPLETE (R321) -/
  | bankSwapComplete (core : Nat)
  /-- CONTEXT_SPILL (R322) -/
  | contextSpill (core : Nat)
  /-- CONTEXT_RESTORE (R322) -/
  | contextRestore (core area : Nat)
  /-- ENERGY_REFILL (R106) -/
  | energyRefill (die watts : Nat)
  /-- JUNCTION_TEMP_THRESHOLD (R355) -/
  | junctionTempThreshold (die temp : Nat)
  /-- ESHARE_WRITE (R109) -/
  | eshareWrite (die : Nat) (hi : Bool) (v : W64)
  /-- SYSMASK_WRITE (R305) -/
  | sysmaskWrite (die : Nat) (hi : Bool) (v : W64)
  /-- SYSMASK_APPLY (R305) -/
  | sysmaskApply (core : Nat)
  /-- REGISTER_WRITE (R8) -/
  | registerWrite (off size : Nat) (v : W64)
  /-- BAR0_UNSUPPORTED_ACCESS (R348) -/
  | bar0UnsupportedAccess (off size : Nat) (write : Bool)
  /-- SECTION_BEGIN (R48) -/
  | sectionBegin (core : Nat) (st : Strand)
  /-- SECTION_RETIRE (R51) -/
  | sectionRetire (core : Nat) (st : Strand)
  /-- TASK_RETIRE (R53) -/
  | taskRetire (task : Nat)
  /-- FAILED_TASK_RETIRE (R511) -/
  | failedTaskRetire (task : Nat)
  /-- LAUNCH_COMPLETE (R37) -/
  | launchComplete (launch : Nat)
  /-- INTERRUPT_TAKE (R319) -/
  | interruptTake (die : Nat)
  /-- TRAPCTL_RESUME (R317) -/
  | trapctlResume (die task : Nat)
  /-- TRAPCTL_RESUME_AFTER (R317) -/
  | trapctlResumeAfter (die task : Nat)
  /-- TRAPCTL_FAIL (R317) -/
  | trapctlFail (die task : Nat)
  /-- RESULT_LAND (R307) -/
  | resultLand (r : ResultId)
  /-- FREEZE_BEGIN (R311) -/
  | freezeBegin (core : Nat)
  /-- WATCHDOG_EXPIRY (R312) -/
  | watchdogExpiry (r : ResultId)
  /-- MATRIX_LEASE_GRANT (R188) -/
  | matrixLeaseGrant (cluster : Nat)
  /-- MATRIX_BUDGET_SPENT (R188) -/
  | matrixBudgetSpent (cluster : Nat)
  /-- MATRIX_COMMAND_COMPLETE (R192) -/
  | matrixCommandComplete (cluster : Nat) (miss : List Mismatch)
  /-- SLOT_FILL_COMPLETE (R197) -/
  | slotFillComplete (cluster slot : Nat)
  /-- COPY_COMMAND_BEGIN (R244) -/
  | copyCommandBegin (core slot : Nat)
  /-- CHUNK_PERFORM (R245) -/
  | chunkPerform (core slot : Nat)
  /-- CPYRES_RESUME (R247) -/
  | cpyresResume (sel : CopySel)
  /-- CPYRES_ABORT (R247) -/
  | cpyresAbort (sel : CopySel)
  /-- REEL_FETCH (R253) -/
  | reelFetch (core : Nat) (rcb : Nat)
  /-- STREAM_BLOCK_PUSH (R447) -/
  | streamBlockPush (core bank q : Nat)
  /-- BARRIER_WINDOW_WRITE (R250) -/
  | barrierWindowWrite (pa : Nat) (v : W64) (poison : Bool)
  /-- WINDOW_REGISTER_WRITE (R138) -/
  | windowRegisterWrite (pa : Nat) (data : List Byte) (poison : Bool)
  /-- WAIT_POLL (R258) -/
  | waitPoll (core : Nat) (st : Strand)
  /-- FAULT_RECORD_POST (R236) -/
  | faultRecordPost (die : Nat)
  /-- CACHE_EVICT (R217): of cluster 0-127, of the north (128) or south (129) pool agent, or of the read-only cache of core 0-511 (130 on) -/
  | cacheEvict (cluster line : Nat)
  /-- PRTCMD_CREATE (R284) -/
  | prtcmdCreate (idx : Nat)
  /-- LEASE_GRANT_ACK (R284) -/
  | leaseGrantAck (idx : Nat)
  /-- COLD_RESET (R364) -/
  | coldReset (heads : List Nat) (fail : Option BootFail)
  /-- WARM_RESET (R364) -/
  | warmReset (fail : Option BootFail)
  /-- STORE_PERFORMED (R261) -/
  | storePerformed (r : ResultId)
  /-- MLDW_RETRANSLATE (R433) -/
  | mldwRetranslate (cluster slot : Nat)
  /-- ROW_CAPTURE (R224) -/
  | rowCapture (row : Nat)
  /-- HBM_SCRUB (R222) -/
  | hbmScrub (atom : Nat) (uncorrectable : Bool)
  /-- PRTCMD_RETIRE (R284) -/
  | prtcmdRetire (idx : Nat)
  /-- PRTCMD_REJOIN (R294) -/
  | prtcmdRejoin (idx : Nat)
  /-- LEASE_RENEWAL (R291) -/
  | leaseRenewal (idx : Nat)
  /-- LEASE_RENEWAL_ACK (R291) -/
  | leaseRenewalAck (idx : Nat)
  /-- LEASE_EXPIRY_DEVICE (R292) -/
  | leaseExpiryDevice (idx : Nat)
  /-- LAPSE_NOTICE (R293) -/
  | lapseNotice (idx : Nat)
  /-- HEAD_REFUSAL (R293) -/
  | headRefusal (r : Refused)
  /-- BI_SNOOP (R289) -/
  | biSnoop (line : Nat) (block downgrade : Bool)
  /-- HOST_SNOOP (R304) -/
  | hostSnoop (line : Nat) (downgrade : Bool)
  /-- DC_EXTENT_OFFER (R299) -/
  | dcExtentOffer (head gbase count : Nat)
  /-- DC_RELEASE_REQUEST (R299) -/
  | dcReleaseRequest (head gbase count : Nat)
  /-- DCACC_ACCEPT (R299) -/
  | dcaccAccept (head gbase count : Nat)
  /-- DCACC_REJECT (R299) -/
  | dcaccReject (head gbase count : Nat)
  /-- DCACC_RELEASE (R299) -/
  | dcaccRelease (head gbase count : Nat)
  /-- HEAD_DECLARE (R300) -/
  | headDeclare (head : Nat)
  /-- HEAD_FATAL_NOTICE (R300) -/
  | headFatalNotice (head : Nat)
  /-- LINK_DOWN (R300) -/
  | linkDown (head : Nat)
  /-- LINK_RETRAIN_TIMEOUT (R300) -/
  | linkRetrainTimeout (head : Nat)
  /-- REQUEST_TIMEOUT (R300) -/
  | requestTimeout (head : Nat)
  /-- IDE_INTEGRITY_FAIL (R361) -/
  | ideIntegrityFail (port : Nat) (atoms : List Nat) (beyondLimit : Bool)
  /-- HOST_MEM_READ (R304) -/
  | hostMemRead (pa : Nat)
  /-- HOST_MEM_WRITE (R363) -/
  | hostMemWrite (pa : Nat) (data : List Byte)
  /-- PSCTL_REQ_PS0 (R351) -/
  | psctlReqPs0
  /-- PSCTL_REQ_PS1 (R352) -/
  | psctlReqPs1
  /-- PSCTL_REQ_PS2 (R352) -/
  | psctlReqPs2
  /-- PSCTL_REQ_PS3 (R351) -/
  | psctlReqPs3
  /-- PS1_ENTER (R352) -/
  | ps1Enter
  /-- PS1_WAKE (R351) -/
  | ps1Wake
  /-- MAILBOX_MANIFEST (R358) -/
  | mailboxManifest (manifest : List Byte) (images : List (List Byte))
  /-- ATTESTATION_REPORT (R359) -/
  | attestationReport (nonce : BitVec 256)
  /-- MAILBOX_SESSION (R360) -/
  | mailboxSession (secret : Nat) (group : Nat)
  /-- MAILBOX_CONFIDENTIAL_SET (R363) -/
  | mailboxConfidentialSet (granule : Nat) (set : Bool)
  /-- LINK_RETRAIN (R300) -/
  | linkRetrain (head : Nat) (half : Bool)
  /-- MANAGEMENT_CONTROLLER_MESSAGE (R319) -/
  | managementControllerMessage (die : Nat)
  /-- FORCED_REFRESH (R223) -/
  | forcedRefresh (stack : Nat) (r : ResultId)
  deriving DecidableEq, Repr

end Sys2Proof
end

