-- ==== Sys2Proof/Machine/Operands.lean ====
section
/-! DEFINITION. Operand forms: what each field of a word names (R117, R329-R337 and the instruction reference), the
checks of R339 step 4 on a word's fields, and the strand and privilege groups of R45 and R306. -/
namespace Sys2Proof.Machine

/-- How an instruction uses a register field. `src`, `dst`: scalar specifiers; `srcDst`: LOOP's counter; `vsrc`, `vdst`: vector
groups; `vreg`: a vector register that may not be a queue; `msrc`, `mdst`: masks; `idxSrc`, `idxDst`: index registers;
`accum`, `wslot`: matrix names. -/
inductive Role where
  | src | dst | srcDst | vsrc | vdst | vreg | msrc | mdst | idxSrc | idxDst | accum | wslot
  deriving DecidableEq, Repr

/-- An operand of a word: the letter of R336 whose step moves it (0 D, 1 A, 2 B, 3 C, 4 none), its code, its role and
the number of registers it names (a group of R126 or a tuple of R331). -/
structure Operand where
  fld : Nat
  code : Nat
  role : Role
  n : Nat := 1
  deriving DecidableEq, Repr

/-! ## Element types (R119) -/

/-- Width in bits of an element type code. -/
def etWidth (et : Nat) : Nat :=
  if et ≤ 1 then 4 else if et ≤ 7 then 8 else if et ≤ 11 then 16 else 32

/-- The integer element types. -/
def etInt (et : Nat) : Bool := et ≤ 3 || et == 8 || et == 9 || et == 12 || et == 13
/-- The signed integer element types. -/
def etSigned (et : Nat) : Bool := et == 0 || et == 2 || et == 8 || et == 12
/-- The IEEE and bfloat16 element types. -/
def etFloat (et : Nat) : Bool := et == 10 || et == 11 || et == 14
/-- The narrow element types. -/
def etNarrow (et : Nat) : Bool := 4 ≤ et && et ≤ 7
/-- Pairs per register of an element type. -/
def etCap (et : Nat) : Nat := 2048 / etWidth et

/-- Group size of a G code (R126). -/
def groupSize (g : Nat) : Nat := if g = 0 then 1 else if g = 1 then 2 else 4

/-- Registers of VCVT's destination group (R483): the group of A times the widening. -/
def vcvtGroup (g et sub : Nat) : Nat := groupSize g * max 1 (etWidth et / etWidth sub)

/-! ## The header -/

/-- The header of a word; events and ILLEGAL have none. -/
def hdrOf : Instr → Option Hdr
  | .add w | .sub w | .mul w | .mulh w | .div w | .rem w | .and w | .or w | .xor w | .andn w | .shl w | .shr w | .sra w
  | .rotr w | .min w | .max w | .cmp w | .sel w | .clz w | .ctz w | .popc w | .bfx w | .bfi w
  | .fadd w | .fsub w | .fmul w | .ffma w | .fdiv w | .fsqrt w | .fmin w | .fmax w | .fcmp w | .fcvt w | .fclass w
  | .qpush w | .qbind w | .qunb w | .qstat w | .reelapp w | .reellnk w | .reelkick w | .reelstat w
  | .tspawn w | .lnch w | .tret w | .tyield w | .ttagr w | .ttagw w | .tdesc w | .tqry w | .widf w | .mtins w | .mtdel w
  | .lrenew w | .nqpost w | .nqtake w | .orphx w | .hashr w => some w.hdr
  | .addi w | .li w | .lih w | .br w | .jmp w | .jmpr w | .call w | .ret w | .loop w | .brq w => some w.hdr
  | .ld w | .st w | .ldro w | .roinv w | .amo w | .cas w | .fence w | .qmark w | .qfence w | .pref w
  | .fget w | .fset w | .fclr w | .waita w => some w.hdr
  | .syncv w | .nop w | .binit w | .barr w | .bwait w | .btest w | .bexp w | .csrr w | .csrw w | .csrs w | .csrc w
  | .trap w | .eret w | .tlbinv w | .idle w | .halt w | .bkpt w | .swapb w | .spill w => some w.hdr
  | .vadd w | .vsub w | .vmul w | .vfma w | .vmin w | .vmax w | .vabs w | .vneg w | .vand w | .vor w | .vxor w | .vshl w
  | .vshr w | .vcmp w | .vsel w | .vclamp w | .vcvt w | .vsfu w | .vsplat w | .viota w | .vrco w | .vslice w | .vcat w
  | .vrev w | .vlen w | .vsetl w | .vins w | .vext w | .vld w | .vst w | .vldp w | .vstp w | .vldrg w | .vgath w
  | .vscat w | .vlda w | .vsta w | .vpark w | .vunpk w | .vrsum w | .vrmax w | .vrmin w | .vrdot w | .vsegsum w
  | .vsegmax w | .vscan w | .kand w | .kor w | .kxor w | .knot w | .kmov w | .kcnt w | .kfirst w | .dacc w => some w.hdr
  | .macq w | .mrel w | .mcfg w | .mset w | .mma w | .mmas w | .mola w | .mldw w | .mrowsum w | .mdrain w | .mldacc w
  | .midx w => some w.hdr
  | .cpy w | .cpys w | .cpyg w | .cpysc w | .cpyr w | .cpyf w | .cpyn w | .pflush w | .pinv w => some w.hdr
  | .rep w => some w.hdr
  | _ => none

/-! ## Strands and privilege -/

/-- The strands that may execute a word (R45): A, E, M. -/
def strandsOf : Instr → Bool × Bool × Bool
  | .add _ | .sub _ | .mul _ | .mulh _ | .div _ | .rem _ | .and _ | .or _ | .xor _ | .andn _ | .shl _ | .shr _ | .sra _
  | .rotr _ | .min _ | .max _ | .cmp _ | .sel _ | .clz _ | .ctz _ | .popc _ | .bfx _ | .bfi _ | .addi _ | .li _
  | .lih _ => (true, true, false)
  | .fadd _ | .fsub _ | .fmul _ | .ffma _ | .fdiv _ | .fsqrt _ | .fmin _ | .fmax _ | .fcmp _ | .fcvt _
  | .fclass _ => (false, true, false)
  | .br _ | .jmp _ | .jmpr _ | .call _ | .ret _ => (true, true, false)
  | .loop _ | .brq _ => (false, true, false)
  | .syncv _ | .nop _ | .rep _ => (true, true, true)
  | .ld _ | .st _ | .ldro _ | .roinv _ | .amo _ | .cas _ | .fence _ | .qmark _ | .qfence _ | .pref _ => (true, true, false)
  | .fget _ | .fset _ | .fclr _ | .waita _ | .binit _ | .bexp _ => (true, true, false)
  | .barr _ | .bwait _ | .btest _ => (true, true, true)
  | .qpush _ | .qbind _ | .qunb _ => (true, false, false)
  | .qstat _ => (true, true, false)
  | .vadd _ | .vsub _ | .vmul _ | .vfma _ | .vmin _ | .vmax _ | .vabs _ | .vneg _ | .vand _ | .vor _ | .vxor _ | .vshl _
  | .vshr _ | .vcmp _ | .vsel _ | .vclamp _ | .vcvt _ | .vsfu _ | .vsplat _ | .viota _ | .vrco _ | .vslice _ | .vcat _
  | .vrev _ | .vlen _ | .vsetl _ | .vins _ | .vext _ | .vld _ | .vst _ | .vldp _ | .vstp _ | .vldrg _ | .vgath _
  | .vscat _ | .vlda _ | .vsta _ | .vpark _ | .vunpk _ | .vrsum _ | .vrmax _ | .vrmin _ | .vrdot _ | .vsegsum _
  | .vsegmax _ | .vscan _ | .kand _ | .kor _ | .kxor _ | .knot _ | .kmov _ | .kcnt _ | .kfirst _ => (false, true, false)
  | .macq _ | .mrel _ | .mcfg _ | .mset _ | .mma _ | .mmas _ | .mola _ | .mldw _ | .mrowsum _ | .mdrain _ | .mldacc _
  | .midx _ => (false, false, true)
  | .cpy _ | .cpys _ | .cpyg _ | .cpysc _ | .cpyr _ | .cpyf _ | .cpyn _ | .reelapp _ | .reellnk _ | .reelkick _
  | .reelstat _ => (true, false, false)
  | .ttagr _ | .tdesc _ | .tqry _ | .widf _ => (true, true, false)
  | .tspawn _ | .lnch _ | .tret _ | .tyield _ | .ttagw _ | .mtins _ | .mtdel _ => (false, true, false)
  | .pflush _ | .pinv _ | .lrenew _ | .nqpost _ | .nqtake _ | .orphx _ => (true, true, false)
  | .dacc _ | .hashr _ => (false, true, false)
  | .csrr _ | .csrw _ | .csrs _ | .csrc _ | .eret _ | .tlbinv _ | .idle _ | .halt _ | .bkpt _ | .swapb _
  | .spill _ => (true, true, false)
  | .trap _ => (true, true, true)
  | _ => (true, true, true)

/-- R45: may this strand execute the word. -/
def strandOk (st : Strand) (i : Instr) : Bool :=
  match st with
  | .a => (strandsOf i).1
  | .e => (strandsOf i).2.1
  | .m => (strandsOf i).2.2

/-- The supervisor-only instructions (R306). -/
def supervisorOnly : Instr → Bool
  | .mtins _ | .mtdel _ | .eret _ | .tlbinv _ | .idle _ | .halt _ | .swapb _ | .spill _ | .orphx _ | .lrenew _ => true
  | _ => false

/-- Words whose predicate is a mask (R328): vector and mask words. DACC takes none (R396). -/
def maskPredicated : Instr → Bool
  | .vadd _ | .vsub _ | .vmul _ | .vfma _ | .vmin _ | .vmax _ | .vabs _ | .vneg _ | .vand _ | .vor _ | .vxor _ | .vshl _
  | .vshr _ | .vcmp _ | .vsel _ | .vclamp _ | .vcvt _ | .vsfu _ | .vsplat _ | .viota _ | .vrco _ | .vslice _ | .vcat _
  | .vrev _ | .vlen _ | .vsetl _ | .vins _ | .vext _ | .vld _ | .vst _ | .vldp _ | .vstp _ | .vldrg _ | .vgath _
  | .vscat _ | .vlda _ | .vsta _ | .vpark _ | .vunpk _ | .vrsum _ | .vrmax _ | .vrmin _ | .vrdot _ | .vsegsum _
  | .vsegmax _ | .vscan _ | .kand _ | .kor _ | .kxor _ | .knot _ | .kmov _ | .kcnt _ | .kfirst _ | .dacc _ => true
  | _ => false

/-- The branch words, which REP may not repeat (0x30-0x36, R336). -/
def isBranch : Instr → Bool
  | .br _ | .jmp _ | .jmpr _ | .call _ | .ret _ | .loop _ | .brq _ => true
  | _ => false

/-- The words that block by themselves (R308); a word that pops a queue blocks as well. -/
def blocking : Instr → Bool
  | .fget _ | .waita _ | .bwait _ | .btest _ | .nqpost _ | .nqtake _ | .ttagr _ | .reelstat _ | .syncv _ => true
  | _ => false

/-! ## Operands of each word -/

/-- Tuple size of a MEM size code (R331): 16 and 32 bytes name 2 and 4 registers. -/
def tupleSize (sz : BitVec 3) : Nat := if sz = 4 then 2 else if sz = 5 then 4 else 1

def opD (c : BitVec 7) (r : Role) (n : Nat := 1) : Operand := ⟨0, c.toNat, r, n⟩
def opA (c : BitVec 7) (r : Role) (n : Nat := 1) : Operand := ⟨1, c.toNat, r, n⟩
def opB (c : BitVec 7) (r : Role) (n : Nat := 1) : Operand := ⟨2, c.toNat, r, n⟩
def opC (c : BitVec 7) (r : Role) (n : Nat := 1) : Operand := ⟨3, c.toNat, r, n⟩

/-- Operands d, a and b of the scalar words; B only while BI = 0 (R366). -/
def rrOps (w : RR) : List Operand :=
  [opD w.d .dst, opA w.a .src] ++ (if w.bi then [] else [opB w.b .src])

/-- Operands of an elementwise word with a B operand read as BSEL gives (R479). -/
def vecOps (w : VEC) (d : Role) (c : List Operand) : List Operand :=
  let n := groupSize w.g.toNat
  [opD w.d d n, opA w.a .vsrc n] ++
  (if w.bsel = 0 then [opB w.b .vsrc n] else if w.bsel = 1 then [opB w.b .src] else []) ++ c

/-- The register operands of a CPY-format word: the fields that the kind uses (R334, R390, R444). -/
def cpyOps (w : CPY) (dst src len : Bool) (aux : Nat) : List Operand :=
  (if dst then [opD w.dst .src] else []) ++ (if src then [opA w.src .src] else []) ++
  (if len then [opB w.len .src] else []) ++ (if aux = 0 then [] else [opC w.aux .src aux]) ++
  (if w.note then [⟨4, w.nrg.toNat, .src, 2⟩] else [])

/-- Operands of a matrix word: accumulator, slot, index registers read, index registers written. -/
def matOps (w : MAT) (acc ws ia ib : Bool) : List Operand :=
  (if acc then [⟨0, w.acc.toNat, .accum, 1⟩] else []) ++ (if ws then [⟨3, w.ws.toNat, .wslot, 1⟩] else []) ++
  (if ia then [⟨1, w.ia.toNat, .idxSrc, 1⟩] else []) ++ (if ib then [⟨2, w.ib.toNat, .idxSrc, 1⟩] else [])

/-- The register operands of a word on a strand, with their roles, in the order D, A, B, C. Fields that the entry makes 0
are no operands. -/
def operands (st : Strand) : Instr → List Operand
  | .add w | .sub w | .mul w | .mulh w | .div w | .rem w | .and w | .or w | .xor w | .andn w | .shl w | .shr w | .sra w
  | .rotr w | .min w | .max w | .cmp w | .hashr w => rrOps w
  | .sel w => rrOps w ++ [opC w.c .src]
  | .clz w | .ctz w | .popc w | .bfx w | .fsqrt w | .fcvt w | .fclass w => [opD w.d .dst, opA w.a .src]
  | .bfi w => [opD w.d .dst, opA w.a .src, opC w.c .src]
  | .fadd w | .fsub w | .fmul w | .fdiv w | .fmin w | .fmax w | .fcmp w => [opD w.d .dst, opA w.a .src, opB w.b .src]
  | .ffma w => [opD w.d .dst, opA w.a .src, opB w.b .src, opC w.c .src]
  | .addi w | .lih w => [opD w.d .dst, opA w.a .src]
  | .li w | .call w => [opD w.d .dst]
  | .br w => [opA w.a .src, opB w.b .src]
  | .jmp _ => []
  | .jmpr w | .ret w | .brq w => [opA w.a .src]
  | .loop w => [opD w.d .srcDst]
  | .ld w => [opD w.d .dst (tupleSize w.sz), opA w.a .src]
  | .ldro w => [opD w.d .dst (tupleSize w.sz), opA w.a .src]
  | .st w => [opD w.d .src (tupleSize w.sz), opA w.a .src]
  | .amo w => [opD w.d .dst (tupleSize w.sz), opA w.a .src, opB w.b .src (tupleSize w.sz)]
  | .cas w => [opD w.d .dst (tupleSize w.sz), opA w.a .src, opB w.b .src (tupleSize w.sz), opC w.c .src (tupleSize w.sz)]
  | .roinv _ | .fence _ | .qmark _ | .qfence _ => []
  | .pref w | .fclr w => [opA w.a .src]
  | .fget w => [opD w.d .dst, opA w.a .src]
  | .fset w => [opD w.d .src, opA w.a .src]
  | .waita w => [opD w.d .dst, opA w.a .src, opB w.b .src]
  | .syncv _ | .nop _ | .idle _ | .halt _ | .bkpt _ | .trap _ => []
  | .binit w | .bexp w => [opA w.a .src]
  | .barr w => if w.sub = 1 then [opB w.b .src] else []
  | .bwait w | .btest w =>
    if st = .m then [opD w.d .idxDst, opA w.a .idxSrc] else [opD w.d .dst, opA w.a .src]
  | .csrr w => [opD w.d .dst]
  | .csrw w | .csrs w | .csrc w | .swapb w | .spill w => [opD w.d .dst, opA w.a .src]
  | .eret w => [opA w.a .src]
  | .tlbinv w => if w.sub = 1 then [opA w.a .src] else if w.sub = 2 then [opA w.a .src, opB w.b .src] else []
  | .qpush w => [opD w.d .dst] ++ [opA w.a .src]
  | .qbind w | .lnch w | .lrenew w | .reelkick w => [opA w.a .src]
  | .qunb _ | .tret _ | .tyield _ => []
  | .qstat w | .tqry w => [opD w.d .dst]
  | .reelapp w | .reellnk w | .ttagw w => [opA w.a .src, opB w.b .src]
  | .reelstat w => [opD w.d .dst 2, opA w.a .src]
  | .tspawn w | .ttagr w | .tdesc w => [opD w.d .dst, opA w.a .src]
  | .widf w => if w.sub = 1 then [opD w.d .dst, opA w.a .src] else [opD w.d .dst]
  | .mtins w | .nqpost w | .nqtake w => [opD w.d .dst, opA w.a .src, opB w.b .src]
  | .mtdel w => [opD w.d .dst, opB w.b .src]
  | .orphx w => [opD w.d .dst, opA w.a .src, opB w.b .src, opC w.c .src]
  | .vadd w | .vsub w | .vmul w | .vmin w | .vmax w | .vand w | .vor w | .vxor w | .vshl w | .vshr w => vecOps w .vdst []
  | .vfma w => vecOps w .vdst [opC w.c .vsrc (groupSize w.g.toNat)]
  | .vabs w | .vneg w | .vsfu w | .vrev w =>
    [opD w.d .vdst (groupSize w.g.toNat), opA w.a .vsrc (groupSize w.g.toNat)]
  | .vcmp w => vecOps w .mdst []
  | .vsel w => vecOps w .vdst [opC w.c .msrc]
  | .vclamp w => vecOps w .vdst
      (if w.bsel = 0 then [opC w.c .vsrc (groupSize w.g.toNat)] else if w.bsel = 1 then [opC w.c .src] else [])
  | .vcvt w =>
    [opD w.d .vdst (vcvtGroup w.g.toNat w.et.toNat w.sub.toNat), opA w.a .vsrc (groupSize w.g.toNat)]
  | .vsplat w => [opD w.d .vdst (groupSize w.g.toNat), opA w.a .src, opB w.b .src]
  | .viota w => [opD w.d .vdst (groupSize w.g.toNat), opA w.a .src, opB w.b .src, opC w.c .src]
  | .vrco w => [opD w.d .vreg (groupSize w.g.toNat)]
  | .vslice w => [opD w.d .vdst (groupSize w.g.toNat), opA w.a .vsrc (groupSize w.g.toNat), opB w.b .src, opC w.c .src]
  | .vcat w =>
    [opD w.d .vdst (groupSize w.g.toNat), opA w.a .vsrc (groupSize w.g.toNat), opB w.b .vsrc (groupSize w.g.toNat)]
  | .vlen w => if w.sub = 4 then [opD w.d .dst] else [opD w.d .dst, opA w.a .vreg]
  | .vsetl w => [opD w.d .vdst (groupSize w.g.toNat), opA w.a .vsrc (groupSize w.g.toNat), opB w.b .src]
  | .vins w => [opD w.d .vdst (groupSize w.g.toNat), opA w.a .vsrc (groupSize w.g.toNat), opB w.b .src, opC w.c .src]
  | .vext w => [opD w.d .dst, opA w.a .vsrc (groupSize w.g.toNat), opB w.b .src]
  | .vld w => [opD w.d .vdst (groupSize w.g.toNat), opA w.a .src, opB w.b .src]
  | .vst w => [opD w.d .vsrc (groupSize w.g.toNat), opA w.a .src] ++ (if w.sub = 1 then [opB w.b .src] else [])
  | .vldp w => [opD w.d .vdst (groupSize w.g.toNat), opA w.a .src]
  | .vstp w => [opD w.d .vsrc (groupSize w.g.toNat), opA w.a .src]
  | .vldrg w =>
    [opD w.d .vdst (groupSize w.g.toNat), opA w.a .src, opB w.b .src, opC w.c .src, ⟨4, (w.imm.extractLsb' 0 4).toNat, .mdst, 1⟩]
  | .vgath w => [opD w.d .vdst (groupSize w.g.toNat), opA w.a .src, opB w.b .vsrc (groupSize w.g.toNat)]
  | .vscat w => [opD w.d .vsrc (groupSize w.g.toNat), opA w.a .src, opB w.b .vsrc (groupSize w.g.toNat)]
  | .vlda w => [opD w.d .vdst (groupSize w.g.toNat), ⟨4, (w.imm.extractLsb' 29 3).toNat, .accum, 1⟩]
  | .vsta w => [opD w.d .vsrc (groupSize w.g.toNat), ⟨4, (w.imm.extractLsb' 29 3).toNat, .accum, 1⟩]
  | .vpark w => [opA w.a .vsrc]
  | .vunpk w => [opD w.d .vdst]
  | .vrsum w | .vrmax w | .vrmin w => [opD w.d .dst, opA w.a .vsrc (groupSize w.g.toNat)]
  | .vrdot w => [opD w.d .dst, opA w.a .vsrc (groupSize w.g.toNat), opB w.b .vsrc (groupSize w.g.toNat)]
  | .vsegsum w | .vsegmax w | .vscan w =>
    [opD w.d .vdst (groupSize w.g.toNat), opA w.a .vsrc (groupSize w.g.toNat), opC w.c .msrc]
  | .kand w | .kor w | .kxor w => [opD w.d .mdst, opA w.a .msrc, opB w.b .msrc]
  | .knot w | .kmov w => [opD w.d .mdst, opA w.a .msrc]
  | .kcnt w | .kfirst w => [opD w.d .dst, opA w.a .msrc]
  | .dacc w =>
    [opD w.d .dst] ++ (if w.sub = 0 then [opA w.a .src, opB w.b .src] else [opC w.c .vsrc]) ++
    [⟨4, (w.imm.extractLsb' 0 7).toNat, .vsrc, 1⟩, ⟨4, (w.imm.extractLsb' 7 7).toNat, .vsrc, 1⟩,
     ⟨4, (w.imm.extractLsb' 14 4).toNat, .mdst, 1⟩]
  | .macq _ | .mrel _ => []
  | .mcfg w => matOps w false false true true
  | .mset w | .mldacc w => matOps w true false true false
  | .mma w | .mmas w => matOps w true true true true
  | .mola w => matOps w true true false true
  | .mldw w => matOps w false true true false
  | .mrowsum w => if w.sub = 0 then matOps w false false true true else matOps w false true false true
  | .mdrain w => matOps w true false true true
  | .midx w =>
    if w.sub = 0 then [⟨1, w.ia.toNat, .idxDst, 1⟩]
    else if w.sub = 1 then [⟨1, w.ia.toNat, .idxDst, 1⟩, ⟨1, w.ia.toNat, .idxSrc, 1⟩]
    else [⟨1, w.ia.toNat, .idxDst, 1⟩, ⟨1, w.ia.toNat, .idxSrc, 1⟩, ⟨2, w.ib.toNat, .idxSrc, 1⟩]
  | .cpy w | .cpyr w => cpyOps w true true true 0
  | .cpys w => cpyOps w true true true 2
  | .cpyg w | .cpysc w => cpyOps w true true true 1
  | .cpyf w => cpyOps w true true true 0
  | .cpyn w => cpyOps w false false false 0
  | .pflush w | .pinv w => cpyOps w true false true 0
  | _ => []

/-! ## Specifiers (R117, R129) -/

/-- Scalar registers that a strand's specifiers name: x0-x31 on A, s0-s63 on E. -/
def scalarFile (st : Strand) : Nat := match st with | .a => 32 | .e => 64 | .m => 0

/-- A code of a queue specifier that the strand may pop as a scalar source. -/
def popOk (st : Strand) (c : Nat) : Bool :=
  match st with | .a => 0x4C ≤ c && c ≤ 0x4F | .e => 0x40 ≤ c && c ≤ 0x47 | .m => false
/-- A code of a queue specifier that the strand may push as a destination. -/
def pushOk (st : Strand) (c : Nat) : Bool :=
  match st with | .a => 0x40 ≤ c && c ≤ 0x47 | .e => 0x4C ≤ c && c ≤ 0x4F | .m => false

/-- R117, R126, R129, R331: is the specifier of an operand allowed on the strand. Tuples start at a multiple of their size and
cannot name a queue; groups start at a multiple of their size. -/
def Operand.ok (st : Strand) (o : Operand) : Bool :=
  match o.role with
  | .src => (o.code < scalarFile st && o.code % o.n == 0) || (o.n == 1 && popOk st o.code)
  | .dst => (o.code < scalarFile st && o.code % o.n == 0) || (o.n == 1 && pushOk st o.code)
  | .srcDst => o.code < scalarFile st && o.code != 0
  | .vsrc => (o.code < 64 && o.code % o.n == 0) || (0x48 ≤ o.code && o.code ≤ 0x4B)
  | .vdst | .vreg => o.code < 64 && o.code % o.n == 0
  | .msrc | .mdst => o.code < 16
  | .idxSrc | .idxDst | .accum => o.code < 8
  | .wslot => o.code < 32

/-- Keeps the first of equal numbers. -/
def dedupNat : List Nat → List Nat
  | [] => []
  | a :: l => a :: (dedupNat l).filter (· != a)

/-- The scalar queues that a word pops, each once (R131). -/
def popsOf (st : Strand) (i : Instr) : List Nat :=
  dedupNat (((operands st i).filter fun o => o.role == .src && 0x40 ≤ o.code).map fun o => o.code - 0x40)

/-- The scalar queue that a word pushes. -/
def pushesOf (st : Strand) (i : Instr) : List Nat :=
  ((operands st i).filter fun o => o.role == .dst && 0x40 ≤ o.code).map fun o => o.code - 0x40

/-- The stream queues that a word pops, each once, with the blocks of the group (R130, R131). -/
def streamPopsOf (st : Strand) (i : Instr) : List (Nat × Nat) :=
  let l := (operands st i).filter fun o => o.role == .vsrc && 0x48 ≤ o.code
  (dedupNat (l.map fun o => o.code - 0x40)).map fun q => (q, (l.foldl (fun m o => if o.code = q + 0x40 then max m o.n else m) 1))

/-! ## Fields that must be 0 or hold an allowed code (R337, R339 step 4, R340, R341) -/

/-- The tail of an RR word outside 0x20-0x2A: no rounding, no types (R341). -/
def rrTail (w : RR) : Bool := w.rm == 0 && w.ft == 0 && w.ft2 == 0 && w.z == 0
/-- A two-source RR word with the immediate form of BI (R366) and SUB up to `sub`. -/
def rrAlu (w : RR) (sub : Nat) : Bool :=
  w.sub.toNat ≤ sub && (if w.bi then w.b == 0 else w.imm == 0) && rrTail w
/-- An RR word whose B, C, SUB, IMM16, BI, RM, FT and FT2 are 0 except as the flags allow. -/
def rrPlain (w : RR) (d a b c imm : Bool) : Bool :=
  (d || w.d == 0) && (a || w.a == 0) && (b || w.b == 0) && (c || w.c == 0) && (imm || w.imm == 0) && w.sub == 0 && !w.bi && rrTail w
/-- RM codes that round: 0-4 and 7 (R150). -/
def rmOk (rm : BitVec 3) : Bool := rm != 5 && rm != 6
/-- A scalar floating-point word (R400): whether it uses B and C, rounds, the largest SUB. -/
def rrFloat (w : RR) (b c rnd : Bool) (sub : Nat) : Bool :=
  (b || w.b == 0) && (c || w.c == 0) && (if rnd then rmOk w.rm else w.rm == 0) && w.sub.toNat ≤ sub && w.ft.toNat ≤ 3 &&
  w.ft2 == 0 && !w.bi && w.imm == 0 && w.z == 0

/-- A MEM word's fields SX and [30:24] for a word without sign extension. -/
def memTail (w : MEM) : Bool := !w.sx && w.z == 0
/-- A future word's fixed fields (R403, R499). -/
def memFuture (w : MEM) : Bool := w.c == 0 && w.sub == 0 && w.sz == 3 && w.ord == 0 && memTail w
/-- A MEM word whose bits [76:0] are zero outside SUB, SCOPE and ORD. -/
def memBare (w : MEM) : Bool :=
  w.d == 0 && w.a == 0 && w.b == 0 && w.c == 0 && w.sz == 0 && w.dc == 0 && memTail w && w.off == 0
/-- AMO's and CAS's size and SX (R370). -/
def memAtomic (w : MEM) : Bool :=
  (w.sz == 2 || w.sz == 3 || w.sz == 4) && (!w.sx || w.sz == 2) && w.z == 0

/-- A SYS word whose bits [76:0] are all zero. -/
def sysBare (w : SYS) : Bool := w.d == 0 && w.a == 0 && w.b == 0 && w.sub == 0 && w.csr == 0 && w.imm == 0
/-- A barrier word's fields (R373-R383): D, B, SUB and CSR zero. -/
def sysBar (w : SYS) : Bool := w.d == 0 && w.b == 0 && w.sub == 0 && w.csr == 0

/-- A VEC word takes no predicate (R477). -/
def vecNoPred (w : VEC) : Bool := w.hdr.pr == 0 && !w.hdr.pn
/-- Z, SAT, RM: which of them a word accepts (R477, R480). -/
def vecAcc (w : VEC) (z sat rm : Bool) : Bool :=
  (z || !w.z) && (sat || !w.sat) && (if rm then rmOk w.rm else w.rm == 0)
/-- ET and G are not reserved (R119, R126). -/
def vecTypes (w : VEC) : Bool := w.et != 15 && w.g != 3
/-- A non-arithmetic VEC word: types, BSEL 0, SUB up to `sub`. -/
def vecPlain (w : VEC) (sub : Nat) : Bool := vecTypes w && w.bsel == 0 && w.sub.toNat ≤ sub
/-- The immediate and B of an elementwise word under BSEL (R332, R479). -/
def vecBsel (w : VEC) : Bool :=
  w.bsel != 3 && (if w.bsel == 2 then w.b == 0 else w.imm == 0)
/-- A mask specifier in a 7-bit field: the upper three bits are 0 (R414, R477). -/
def maskField (f : BitVec 7) : Bool := f.toNat < 16
/-- VADD, VSUB, VMUL, VFMA: SAT on integers, RM on floats and narrow types (R480). -/
def vecArith (w : VEC) : Bool :=
  vecTypes w && vecBsel w && w.sub == 0 && vecAcc w true (etInt w.et.toNat) (!etInt w.et.toNat)
/-- VMIN, VMAX and the bitwise words. -/
def vecSimple (w : VEC) : Bool := vecTypes w && vecBsel w && w.sub == 0 && vecAcc w true false false
/-- IMM[31:24] is 0 (VSLICE, VSPLAT and the like). -/
def immHi (w : VEC) : Bool := w.imm.extractLsb' 24 8 == 0
/-- ORD is 0 or the one other code given (R478). -/
def vecOrd (w : VEC) (o : Nat) : Bool :=
  (w.imm.extractLsb' 28 2).toNat == 0 || (w.imm.extractLsb' 28 2).toNat == o

/-- A MAT word's predicate is 0 (R427). -/
def matHdr (w : MAT) : Bool := w.hdr.pr == 0 && !w.hdr.pn
/-- The fields of a MAT word that are not used are 0 (R333): ACC, WS, IA, IB, MM1, NM1, KBM1, ROW0, OFFA, STR. -/
def matUses (w : MAT) (acc ws ia ib mm1 nm1 kbm1 row0 offa str : Bool) : Bool :=
  matHdr w && (acc || w.acc == 0) && (ws || w.ws == 0) && (ia || w.ia == 0) && (ib || w.ib == 0) && (mm1 || w.mm1 == 0) &&
  (nm1 || w.nm1 == 0) && (kbm1 || w.kbm1 == 0) && (row0 || w.row0 == 0) && (offa || w.offa == 0) && (str || w.str == 0)

/-- TAGV holds no reserved code of R66: LAY, SPC, FMT. -/
def tagvOk (t : BitVec 13) : Bool :=
  (t.extractLsb' 9 4).toNat ≤ 4 && (t.extractLsb' 5 4).toNat ≤ 4 && (t.extractLsb' 0 5).toNat ≤ 16
/-- Step 1 of R392 for a CPY-format word: which fields its kind uses, whether AUX names a pair, whether TAG is allowed. -/
def cpyFields (w : CPY) (dst src len : Bool) (aux : Nat) (tag : Bool) : Bool :=
  (dst || w.dst == 0) && (src || w.src == 0) && (len || w.len == 0) && (aux != 0 || w.aux == 0) && (aux != 2 || w.aux.toNat % 2 == 0) &&
  (if w.note then w.nrg.toNat % 2 == 0 else w.nrg == 0) && (tag || !w.tag) && (if w.tag then tagvOk w.tagv else w.tagv == 0) && w.z == 0

/-- R339 step 4 and step 1 of the entries, as far as the word alone decides them: fields that the entry does not use are 0, and
no reserved code stands in a field. Specifiers are checked by `Operand.ok`; narrow descriptors by the meaning (R155). -/
def fieldsOk (st : Strand) : Instr → Bool
  | .add w | .sub w | .mul w | .and w | .or w | .xor w | .andn w | .shl w | .shr w | .sra w | .rotr w | .hashr w =>
    rrAlu w 0 && w.c == 0
  | .mulh w | .div w | .rem w | .min w | .max w => rrAlu w 1 && w.c == 0
  | .cmp w => rrAlu w 9 && w.c == 0
  | .sel w => rrAlu w 0
  | .clz w | .ctz w | .popc w => rrPlain w true true false false false
  | .bfx w => rrPlain w true true false false true && w.imm.extractLsb' 0 4 == 0
  | .bfi w => rrPlain w true true false true true && w.imm.extractLsb' 0 4 == 0
  | .addi w => w.b == 0 && w.sub == 0
  | .li w => w.a == 0 && w.b == 0 && w.sub == 0
  | .lih w => w.b == 0 && w.sub == 0 && w.imm.extractLsb' 16 32 == 0
  | .fadd w | .fsub w | .fmul w | .fdiv w => rrFloat w true false true 0
  | .ffma w => rrFloat w true true true 0
  | .fsqrt w => rrFloat w false false true 0
  | .fmin w | .fmax w => rrFloat w true false false 0
  | .fcmp w => rrFloat w true false false 6
  | .fclass w => rrFloat w false false false 0
  | .fcvt w =>
    w.b == 0 && w.c == 0 && rmOk w.rm && w.sub == 0 && w.ft.toNat ≤ 5 && w.ft2.toNat ≤ 5 && (w.ft.toNat ≤ 3 || w.ft2.toNat ≤ 3) &&
    !w.bi && w.imm == 0 && w.z == 0
  | .br w => w.d == 0 && w.sub.toNat ≤ 9
  | .jmp w => w.d == 0 && w.a == 0 && w.b == 0 && w.sub == 0
  | .jmpr w | .ret w => w.d == 0 && w.b == 0 && w.sub == 0
  | .brq w => w.d == 0 && w.b == 0 && w.sub == 0 && popOk .e w.a.toNat
  | .call w => w.a == 0 && w.b == 0 && w.sub == 0 && w.d != 0 && w.d.toNat < 64
  | .loop w => w.a == 0 && w.b == 0 && w.sub == 0
  | .syncv w | .nop w | .idle w | .halt w | .bkpt w => sysBare w
  | .ld w => w.b == 0 && w.c == 0 && w.sub == 0 && w.sz.toNat ≤ 5 && w.ord.toNat ≤ 1 && (!w.sx || w.sz.toNat ≤ 2) && w.z == 0
  | .ldro w => w.b == 0 && w.c == 0 && w.sub == 0 && w.sz.toNat ≤ 5 && w.ord == 0 && (!w.sx || w.sz.toNat ≤ 2) && w.z == 0
  | .st w => w.b == 0 && w.c == 0 && w.sub == 0 && w.sz.toNat ≤ 5 && (w.ord == 0 || w.ord == 2) && memTail w
  | .roinv w | .qmark w => memBare w && w.sub == 0 && w.scope == 0 && w.ord == 0
  | .qfence w => memBare w && w.scope == 0 && w.ord == 0
  | .amo w => memAtomic w && w.c == 0 && w.sub.toNat ≤ 9 && (w.sz != 4 || w.sub == 0)
  | .cas w => memAtomic w && w.sub == 0
  | .fence w => memBare w && w.sub == 0 && w.ord != 0
  | .pref w => w.d == 0 && w.b == 0 && w.c == 0 && w.sz == 0 && w.scope == 0 && w.ord == 0 && w.dc == 0 && w.sub.toNat ≤ 1 && memTail w
  | .fget w | .fset w => w.b == 0 && memFuture w
  | .fclr w => w.d == 0 && w.b == 0 && memFuture w
  | .waita w => memFuture w
  | .binit w => sysBar w && w.imm.extractLsb' 23 13 == 0
  | .bexp w => sysBar w && w.imm.extractLsb' 35 1 == 0
  | .barr w =>
    w.d == 0 && w.a == 0 && w.csr == 0 && w.imm.extractLsb' 13 23 == 0 && w.sub.toNat ≤ 1 &&
    (if w.sub == 0 then w.b == 0 else w.imm.extractLsb' 0 11 == 0 && st != .m) && (st != .m || w.imm.extractLsb' 12 1 == 0)
  | .bwait w | .btest w => w.b == 0 && w.sub == 0 && w.csr == 0 && w.imm.extractLsb' 11 25 == 0
  | .csrr w => w.a == 0 && w.b == 0 && w.sub == 0 && w.imm == 0
  | .csrw w | .csrs w | .csrc w => w.b == 0 && w.sub == 0 && w.imm == 0
  | .trap w => w.d == 0 && w.a == 0 && w.b == 0 && w.sub == 0 && w.csr == 0 && w.imm.extractLsb' 8 28 == 0
  | .eret w => w.d == 0 && w.b == 0 && w.sub == 0 && w.csr == 0 && w.imm == 0
  | .tlbinv w =>
    w.d == 0 && w.csr == 0 && w.imm == 0 && w.sub.toNat ≤ 2 && (w.sub != 0 || w.a == 0) && (w.sub == 2 || w.b == 0)
  | .swapb w | .spill w => w.b == 0 && w.sub == 0 && w.csr == 0 && w.imm == 0
  | .qpush w => 0x40 ≤ w.d.toNat && w.b == 0 && w.c == 0 && w.sub == 0 && (w.bi || w.imm == 0) && rrTail w
  | .qbind w => rrPlain w false true false false true && w.imm.extractLsb' 2 14 == 0
  | .qunb w => rrPlain w false false false false true && w.imm.extractLsb' 2 14 == 0
  | .qstat w => rrPlain w true false false false true && w.imm.extractLsb' 4 12 == 0
  | .reelapp w | .reellnk w => rrPlain w false true true false false
  | .reelkick w => rrPlain w false true false false false
  | .reelstat w => rrPlain w true true false false false && w.d != 0
  | .tspawn w | .ttagr w => rrPlain w true true false false false
  | .lnch w | .lrenew w => rrPlain w false true false false false
  | .tret w | .tyield w => rrPlain w false false false false false
  | .ttagw w => rrPlain w false true true false false
  | .tdesc w => rrPlain w true true false false true && w.imm.extractLsb' 3 13 == 0
  | .tqry w => rrPlain w true false false false true && w.imm.toNat ≤ 9
  | .widf w =>
    w.b == 0 && w.c == 0 && !w.bi && rrTail w && w.sub.toNat ≤ 1 && (w.sub == 1 || w.a == 0) && w.imm.extractLsb' 5 11 == 0 &&
    (w.imm.extractLsb' 0 3).toNat ≤ 5
  | .mtins w | .nqpost w => rrPlain w true true true false false
  | .mtdel w => rrPlain w true false true false false
  | .nqtake w => rrPlain w true true true false true && w.imm.extractLsb' 1 15 == 0
  | .orphx w => rrPlain w true true true true false
  | .vadd w | .vsub w | .vmul w => vecArith w && w.c == 0
  | .vfma w => vecArith w
  | .vmin w | .vmax w | .vand w | .vor w | .vxor w => vecSimple w && w.c == 0
  | .vabs w | .vneg w =>
    vecTypes w && w.bsel == 0 && w.b == 0 && w.c == 0 && w.imm == 0 && w.sub == 0 && vecAcc w true (etInt w.et.toNat) false
  | .vshl w => vecTypes w && vecBsel w && w.c == 0 && w.sub == 0 && etInt w.et.toNat && vecAcc w true true false
  | .vshr w => vecTypes w && vecBsel w && w.c == 0 && w.sub == 0 && etInt w.et.toNat && vecAcc w true false false
  | .vcmp w =>
    vecTypes w && vecBsel w && w.c == 0 && maskField w.d && vecAcc w true false false &&
    (if etInt w.et.toNat then w.sub.toNat ≤ 3 || w.sub == 6 || w.sub == 7 else w.sub.toNat ≤ 6)
  | .vsel w => vecSimple w && maskField w.c
  | .vclamp w => vecSimple w && w.bsel != 2
  | .vcvt w =>
    vecTypes w && w.bsel == 0 && w.sub != 15 && w.b == 0 && w.c == 0 && w.imm == 0 && vecAcc w true true true &&
    vcvtGroup w.g.toNat w.et.toNat w.sub.toNat ≤ 8
  | .vsfu w => vecPlain w 8 && w.b == 0 && w.c == 0 && w.imm == 0 && etFloat w.et.toNat && vecAcc w true false false
  | .vsplat w => vecPlain w 0 && w.c == 0 && immHi w && vecAcc w true false false
  | .viota w => vecPlain w 0 && immHi w && etInt w.et.toNat && vecAcc w true false false
  | .vrco w => vecPlain w 1 && w.a == 0 && w.b == 0 && w.c == 0 && w.imm == 0 && vecNoPred w && vecAcc w false false false
  | .vslice w => vecPlain w 0 && immHi w && vecAcc w true false false
  | .vcat w => vecPlain w 0 && w.c == 0 && w.imm == 0 && vecAcc w true false false
  | .vrev w => vecPlain w 0 && w.b == 0 && w.c == 0 && w.imm == 0 && vecAcc w true false false
  | .vlen w =>
    vecPlain w 4 && w.g == 0 && w.b == 0 && w.c == 0 && w.imm == 0 && vecNoPred w && vecAcc w false false false &&
    (if w.sub == 4 then w.a == 0 else w.et == 0)
  | .vsetl w => vecPlain w 0 && w.c == 0 && immHi w && vecNoPred w && vecAcc w false false false
  | .vins w => vecPlain w 0 && immHi w && vecNoPred w && vecAcc w false false false
  | .vext w => vecPlain w 0 && w.c == 0 && immHi w && vecNoPred w && vecAcc w false false false
  | .vld w =>
    vecPlain w 1 && w.c == 0 && vecNoPred w && vecAcc w false false false && vecOrd w 1 &&
    (w.sub == 0 || (w.imm.extractLsb' 12 14 == 0 && w.et != 6 && w.et != 7))
  | .vst w =>
    vecPlain w 1 && w.c == 0 && vecAcc w false false false && vecOrd w 2 &&
    (if w.sub == 0 then w.b == 0 && (w.et.toNat ≥ 2 || vecNoPred w)
     else vecNoPred w && w.imm.extractLsb' 12 14 == 0 && w.et != 6 && w.et != 7)
  | .vldp w => vecPlain w 0 && w.b == 0 && w.c == 0 && vecNoPred w && vecAcc w false false false && vecOrd w 1
  | .vstp w =>
    vecPlain w 0 && w.et == 0 && w.b == 0 && w.c == 0 && vecNoPred w && vecAcc w false false false && vecOrd w 2
  | .vldrg w => vecPlain w 0 && w.imm.extractLsb' 4 22 == 0 && vecNoPred w && vecAcc w false false false && vecOrd w 1
  | .vgath w => vecPlain w 0 && w.c == 0 && vecAcc w true false false && vecOrd w 0 && w.et.toNat ≥ 2
  | .vscat w => vecPlain w 0 && w.c == 0 && vecAcc w false false false && vecOrd w 0 && w.et.toNat ≥ 2
  | .vlda w =>
    vecPlain w 0 && w.a == 0 && w.b == 0 && w.c == 0 && vecNoPred w && vecAcc w false true true && w.imm.extractLsb' 0 22 == 0
  | .vsta w =>
    vecPlain w 0 && w.a == 0 && w.b == 0 && w.c == 0 && vecNoPred w && vecAcc w false false false && w.imm.extractLsb' 0 22 == 0
  | .vpark w =>
    vecPlain w 0 && w.et == 0 && w.g == 0 && w.d == 0 && w.b == 0 && w.c == 0 && vecNoPred w && vecAcc w false false false &&
    w.imm.extractLsb' 12 20 == 0
  | .vunpk w =>
    vecPlain w 0 && w.g == 0 && w.a == 0 && w.b == 0 && w.c == 0 && vecNoPred w && vecAcc w false false false &&
    w.imm.extractLsb' 12 20 == 0
  | .vrsum w => vecPlain w 0 && w.b == 0 && w.c == 0 && w.imm == 0 && vecAcc w false false (!etInt w.et.toNat)
  | .vrmax w | .vrmin w => vecPlain w 0 && w.b == 0 && w.c == 0 && w.imm == 0 && vecAcc w false false false
  | .vrdot w => vecPlain w 0 && w.c == 0 && w.imm == 0 && vecAcc w false false (!etInt w.et.toNat)
  | .vsegsum w =>
    vecPlain w 0 && w.b == 0 && w.imm == 0 && maskField w.c && vecNoPred w && vecAcc w false (etInt w.et.toNat) (!etInt w.et.toNat)
  | .vsegmax w => vecPlain w 0 && w.b == 0 && w.imm == 0 && maskField w.c && vecNoPred w && vecAcc w false false false
  | .vscan w =>
    vecPlain w 2 && w.b == 0 && w.imm == 0 && maskField w.c && vecNoPred w &&
    vecAcc w false (w.sub == 0 && etInt w.et.toNat) (w.sub == 0 && !etInt w.et.toNat)
  | .kand w | .kor w | .kxor w =>
    vecPlain w 0 && w.et == 0 && w.g == 0 && w.c == 0 && w.imm == 0 && maskField w.d && maskField w.a && maskField w.b &&
    vecAcc w true false false
  | .knot w | .kmov w =>
    vecPlain w 0 && w.et == 0 && w.g == 0 && w.b == 0 && w.c == 0 && w.imm == 0 && maskField w.d && maskField w.a && vecAcc w true false false
  | .kcnt w | .kfirst w =>
    vecPlain w 0 && w.et == 0 && w.g == 0 && w.b == 0 && w.c == 0 && w.imm == 0 && maskField w.a && vecAcc w false false false
  | .dacc w =>
    vecPlain w 1 && w.et == 14 && w.g == 0 && vecNoPred w && vecAcc w false false false && w.imm.extractLsb' 18 14 == 0 &&
    (if w.sub == 0 then w.c == 0 else w.a == 0 && w.b == 0)
  | .macq w | .mrel w =>
    w.hdr.stl == 0 && w.sub == 0 && matUses w false false false false false false false false false false
  | .mcfg w => w.sub == 0 && matUses w false false true true false false false false false false
  | .mset w => w.sub.toNat ≤ 1 && matUses w true false true false true false false true false false
  | .mma w | .mmas w => w.sub == 0 && matUses w true true true true true true true true true true
  | .mola w => w.sub == 0 && matUses w true true false true true true true true false false
  | .mldw w => w.sub == 0 && matUses w false true true false false false false false false false
  | .mrowsum w =>
    if w.sub == 0 then matUses w false false true true true false true false true true
    else w.sub == 1 && matUses w false true false true false true true false false false
  | .mdrain w =>
    w.sub.toNat ≤ 7 && matUses w true false true (w.sub.extractLsb' 0 2 != 0) true true false true (w.sub.toNat < 4) false
  | .mldacc w => w.sub.toNat ≤ 1 && matUses w true false true false true false false true true false
  | .midx w =>
    w.sub.toNat ≤ 2 && w.acc == 0 && w.ws == 0 && matHdr w && w.mm1 == 0 && w.nm1 == 0 && w.kbm1 == 0 && w.row0.extractLsb' 6 1 == 0 &&
    (if w.sub == 2 then w.row0 == 0 && w.offa == 0 && w.str == 0 else w.ib == 0)
  | .cpy w => cpyFields w true true true 0 true && w.rtype == 0
  | .cpys w => cpyFields w true true true 2 true && w.rtype == 0
  | .cpyg w | .cpysc w => cpyFields w true true true 1 false && w.rtype == 0
  | .cpyr w => cpyFields w true true true 0 false && w.rtype != 3 && w.scope.toNat ≥ 2
  | .cpyf w => cpyFields w true true true 0 true && w.rtype == 0
  | .cpyn w => cpyFields w false false false 0 false && w.rtype == 0 && w.note
  | .pflush w | .pinv w => cpyFields w true false true 0 false && w.rtype == 0
  | .rep w => w.hdr.pr == 0 && !w.hdr.pn && w.hdr.stl == 0 && w.z == 0
  | _ => true

/-- R117: on an M word any predicate other than 0 is reserved. -/
def predOk (st : Strand) (i : Instr) : Bool :=
  st != .m || (match hdrOf i with | some h => h.pr == 0 && !h.pn | none => true)

/-- R339 step 4 as far as the word and the strand decide it. -/
def wordOk (st : Strand) (i : Instr) : Bool :=
  fieldsOk st i && predOk st i && (operands st i).all (Operand.ok st)

end Sys2Proof.Machine
end

