-- ==== Sys2Proof/Machine/State.lean ====
section
/-! DEFINITION. The state of one Helora Maryen as plain data, and the state right after reset.
Every piece of state that the spec names stands here; INVENTORY.md lists them with their rules. -/
namespace Sys2Proof.Machine

/-! ## Registers of a bank -/

/-- A scalar or address register: 64 bits and a POI bit (R113, R115). -/
structure Reg where
  v : W64 := 0
  poi : Bool := false
  deriving DecidableEq, Repr

/-- An index register: 32 bits and a POI bit (R113). -/
structure IReg where
  v : BitVec 32 := 0
  poi : Bool := false
  deriving DecidableEq, Repr

/-- A vector or mask register: 512 bytes of pairs as one little-endian string (R119, R127) and the fields of the
status word (R122). -/
structure VReg where
  pairs : BitVec 4096 := 0
  et : BitVec 4 := 0
  rc : BitVec 10 := 0
  ll : BitVec 24 := 0
  can : Bool := true
  poi : Bool := false
  stale : Bool := false
  deriving DecidableEq, Repr

/-- A slot of a scalar queue: its entry, and whether the pushed value has landed (R128, R365). -/
structure QSlot where
  r : Reg := {}
  landed : Bool := true
  deriving DecidableEq, Repr

/-- A scalar queue, q0-q7 or q12-q15 (R128). `was`: the cycle of its last push or pop, and its control word at the beginning of that cycle (R451). -/
structure Queue where
  slots : Tbl QSlot := []
  head : Nat := 0
  tail : Nat := 0
  count : Nat := 0
  was : Option (Nat × Nat) := none
  deriving DecidableEq, Repr

/-- A bound stream: its descriptor and its VA, the next block, and where a failed read stopped it (R446-R448). -/
structure Stream where
  descVa : Nat
  desc : BitVec 256
  next : Nat := 0
  failed : Option (Nat × Nat × Nat) := none
  deriving DecidableEq, Repr

/-- A stream queue, q8-q11 (R128); `was` as for a scalar queue. -/
structure SQueue where
  slots : Tbl VReg := []
  head : Nat := 0
  tail : Nat := 0
  count : Nat := 0
  bound : Option Stream := none
  was : Option (Nat × Nat) := none
  deriving DecidableEq, Repr

/-- The KIND of a page (R229). -/
inductive Kind where
  | loc | host | coh | ror | swf | window | mmio
  deriving DecidableEq, Repr

/-- A register that a result goes to: a scalar or address register, an index register, a physical vector or mask
register, or a queue slot. -/
inductive Dest where
  | reg (n : Nat)
  | idx (n : Nat)
  | vec (n : Nat)
  | mask (n : Nat)
  | queue (q slot : Nat)
  deriving DecidableEq, Repr

/-- A result on its way to one register. -/
inductive Write where
  | reg (n : Nat) (r : Reg)
  | idx (n : Nat) (r : IReg)
  | vec (n : Nat) (r : VReg)
  | mask (n : Nat) (r : VReg)
  | queue (q slot : Nat) (r : Reg)
  deriving DecidableEq, Repr

/-- A change that reaches a barrier (R378), in the order in which the changes of one cycle are applied. -/
inductive BarKind where
  | initA | initE | expect | arrive | sub
  deriving DecidableEq, Repr

/-- What the bytes of a vector load hold (R183, R184, R485, R487, R488, R490, R491): rows of dense elements, each from a byte on; a string of up to `n` pairs; an element where `none`
stands, between elements that stand already, each with its count; or the raw pairs of the registers. -/
inductive VForm where
  | dense (rows : List Nat)
  | pairs (n : Nat)
  | picks (l : List (Option Nat × Nat))
  | raw
  deriving DecidableEq, Repr

/-- A vector load whose bytes are still to be read: its element type, the width of a value, its group, what the bytes hold, and the poison that it has besides. -/
structure VLoad where
  et : Nat
  wd : Nat
  g : Nat
  form : VForm
  poi : Bool := false
  deriving DecidableEq, Repr

/-- What a memory operation in flight does (R261, R368, R386, R408, R449); `ldro`: whether its line is installed in the read-only cache (R460); `arrive`: BARR's arrival, which stands behind its release
(R374); `change`: a change of a barrier that stands behind an earlier one of the strand (R378); `vload`: a vector load whose bytes are still to be read, and `reply`: one whose bytes have been
read and whose reply is on its way (R311; log entry 10); `tlbinv`: a TLBINV that has dropped the translations and is to complete (R234);
`swap`: SWAPB's answer, which comes when the named cores have swapped, none while the swap of the selected core could not be requested yet; `spill`: SPILL's, which comes
when the shadow bank of the core has been spilled or returned (R463). -/
inductive MemKind where
  | load
  | ldro (fills : Bool)
  | store
  | amo (op : Nat)
  | cas
  | fence
  | qmark
  | arrive (core bar : Nat)
  | change (core bar : Nat) (kind : BarKind) (n : Nat)
  | vload (x : VLoad)
  | reply
  | tlbinv
  | swap (core : Nat) (cores : List Nat)
  | spill (core : Nat)
  deriving DecidableEq, Repr

/-- A piece of an access: its physical address and length, and the KIND, SM and TAGGED of its page (R266). -/
structure Piece where
  pa : Nat
  n : Nat
  kind : Kind := .loc
  sm : Bool := false
  tagged : Bool := false
  deriving DecidableEq, Repr

/-- A memory operation of a strand that has issued: it is performed at its point by RESULT_LAND or STORE_PERFORMED.
The pieces ascend; `data` and `data2` are the bytes as one number; `did`: the pieces already performed, by their place, each with what a load read there (R266); `typed`: one more than
the FMT, SPC and LAY that a typed store records, as the tag holds them, or 0 (R70). -/
structure MemOp where
  kind : MemKind
  va : Nat := 0
  n : Nat := 0
  pieces : List Piece := []
  scope : Nat := 0
  ord : Nat := 0
  sx : Bool := false
  data : Nat := 0
  pdata : Bool := false
  data2 : Nat := 0
  pdata2 : Bool := false
  dc : Nat := 0
  did : Tbl (Nat × Bool) := []
  typed : Nat := 0
  deriving DecidableEq, Repr

/-- A word that has issued and whose result, access or fence is outstanding (R307): its number in the strand, the
execution it belongs to, where it writes, what it writes once known, its flags (R153), its memory operation, its
latency bound in core time, whether it has landed (a store: been performed), whether it blocks its strand (R308), the
destinations that a later word has written since (R116), the name of the free values that its destinations hold until it lands (R3, R307), the enabled cycles
after its bound that its bank's core time does not count (R312), the cycle at which it issued (R300), and the vector store that it is a piece of, or 0 (R266). -/
structure Flight where
  id : Nat
  ent : BitVec 32 := 0
  dests : List Dest := []
  writes : List Write := []
  flags : BitVec 9 := 0
  op : Option MemOp := none
  bound : Nat := 0
  landed : Bool := false
  blocks : Bool := false
  killed : List Dest := []
  tag : Nat := 0
  lost : Nat := 0
  sent : Nat := 0
  grp : Nat := 0
  deriving DecidableEq, Repr

/-! ## Strands -/

/-- Where a strand stands (R43, R48, R52, R319). `header`: E of a task that has not started, at the routine address; `slate`: at a slate it has not begun; `again`: before a repetition
of its section; `run`: inside a section; `ended`: past its END section; `stopped`: stopped by a system trap. -/
inductive Phase where
  | absent | header | slate | again | run | ended | stopped
  deriving DecidableEq, Repr

/-- What an unretired execution still carries (R50, R51): its ENT number, whether all its words have issued, whether
it is the last of an END section, and whether it releases the lease. -/
structure Exec where
  n : BitVec 32
  issued : Bool := false
  last : Bool := false
  lrel : Bool := false
  deriving DecidableEq, Repr

/-- REP in progress: the issues less one, the steps of D, A, B and C, and the REP index (R336, R458). -/
structure RepSt where
  count : Nat
  sd : Int
  sa : Int
  sb : Int
  sc : Int
  j : Nat := 0
  deriving DecidableEq, Repr

/-- What a parked strand or task waits on: a word of memory, a barrier of a core, or a tag (R73, R256). -/
inductive WaitKey where
  | word (pa : Nat)
  | bar (core n : Nat)
  | tag (pa : Nat)
  deriving DecidableEq, Repr

/-- Which wait table holds an entry (R256); `none_` polls, because the table was full (R258). -/
inductive WaitTable where
  | cluster (c : Nat)
  | agent (south : Bool)
  | none_
  deriving DecidableEq, Repr

/-- The condition that a parked wait waits for (R256): FGET's, that bit 63 is set; WAITA's, that the word is not this one; a notify queue's, that bits [62:0] are
these; BWAIT's, that PHASE is not this one; and any write, for a tag. -/
inductive WaitCond where
  | bit63
  | differs (v : Nat)
  | equals (v : Nat)
  | phaseNot (v : BitVec 32)
  | any
  deriving DecidableEq, Repr

/-- A parked wait of a strand: what it waits on, where its entry stands, whether it has been woken, its condition and scope, the cycle at which it parked (R258), and what the
satisfying write left in the word when the wait was met while its bank was not to go on (R324). -/
structure Park where
  key : WaitKey
  table : WaitTable
  woken : Bool := false
  cond : WaitCond := .any
  scope : Nat := 0
  since : Nat := 0
  sat : Option (Nat × Bool) := none
  deriving DecidableEq, Repr

/-- An entry of a wait table (R256): the task, the strand for a strand's wait, the address, the condition, and the scope of the check. -/
structure WaitEnt where
  key : WaitKey
  task : Nat
  st : Option Strand
  core : Nat
  cond : WaitCond := .any
  scope : Nat := 0
  deriving DecidableEq, Repr

/-- Why a strand did not issue at its last turn; R104 counts `wait` (FGET, WAITA, BWAIT), `dep` (a section dependency) and `queue` (an empty queue).
`held`: the whole core stands (it has no clock, is frozen, is being swapped, its task is trapped): the reason before that goes on. -/
inductive StallWhy where
  | wait | dep | queue | tret | held | other
  deriving DecidableEq, Repr

/-- A strand's own state: R44, R48-R52, R307-R308, R336. `retPrev` is RET before the retirements of cycle `retAt` (R49).
`claimed` is the notify-queue index that a word holds, and `claimOf` the LOG and the PRT index of that queue (R298); `sync`: the strand waits for the register results of the flights below this number (R467); `busy` the core time after the last pass of the word that issued last (R176); `ready` the core time before which no word issues; `late` the
distance class and VA of each access that the watchdog abandoned and whose LATE is not yet taken, the oldest first (R312); `probed` is 1 more than the last cycle in
which the strand stood at a word boundary that a swap or an interrupt waits for, and no trap was due there (R319, R321). -/
structure StrandSt where
  phase : Phase := .absent
  pc : W64 := 0
  base : Nat := 0
  slate : W64 := 0
  repIdx : Nat := 0
  rep : Option RepSt := none
  ent : BitVec 32 := 0
  ret : BitVec 32 := 0
  retPrev : BitVec 32 := 0
  retAt : Nat := 0
  execs : List Exec := []
  busy : Nat := 0
  ready : Nat := 0
  stall : Option (StallWhy × Nat) := none
  park : Option Park := none
  claimed : Option Nat := none
  claimOf : Nat × Nat := (0, 0)
  sync : Nat := 0
  late : List (Nat × Nat) := []
  probed : Nat := 0
  flight : List Flight := []
  nextId : Nat := 0
  deriving DecidableEq, Repr

/-- A pending trap of a task's bank (R314, R315): cause, subcause, strand (3 none), the record's CURSOR, and the cycle. -/
structure TrapSt where
  cause : Nat
  sub : Nat
  st : Nat
  cursor : Nat := 0
  at_ : Nat := 0
  deriving DecidableEq, Repr

/-- A matrix command accepted by the array (R189, R195): the word, who issued it, the values its index registers and MCONF had at issue, its cluster tile
and weight slot, the narrow descriptors FD0 and FD1 and the rounding mode that a drain had at issue (R142, R208), the drain parameter block and the pages of a drain to a tensor, the units already complete (R213), the cycle its running began, and the
number at its issue of M's next result (R374). `clash`: the rows that E has written or read while the command was outstanding (R212). -/
structure MCmd where
  w : Instr
  core : Nat
  task : Nat
  bank : Nat
  ent : BitVec 32
  ia : BitVec 32 := 0
  ib : BitVec 32 := 0
  poi : Bool := false
  mconf : W64 := 0
  tile : Nat := 0
  slot : Option Nat := none
  fd0 : BitVec 16 := 0
  fd1 : BitVec 16 := 0
  rm : Nat := 0
  blk : BitVec 512 := 0
  ref : Nat := 0
  td : BitVec 512 := 0
  rows : List (List Piece) := []
  unit : Nat := 0
  start : Nat := 0
  seq : Nat := 0
  clash : List Nat := []
  deriving DecidableEq, Repr

/-- What a weight-buffer slot was filled from (R197): root, key group, TID, tile index, footprint base and tag. -/
structure SlotSrc where
  root : Nat
  key : Nat
  tdt : Nat
  ref : Nat
  fbase : Nat
  tag : BitVec 16
  deriving DecidableEq, Repr

/-- An MLDW that has issued (R51, R198, R433): its execution, the number at its issue of M's next result (R374), the name and the operand reference; and the slot that it mapped
with what that is filled from, none while a read of its descriptor or tag has failed and it waits to translate again. -/
structure Mldw where
  ent : BitVec 32
  seq : Nat
  wn : Nat
  ref : Nat
  took : Option (Nat × SlotSrc) := none
  deriving DecidableEq, Repr

/-- A register bank with the task in it (R55). `mwait`: the matrix command that stands issued but not accepted (R211); `mldws`: the MLDWs of M whose executions have not retired; `mldwPosted`: the refill of a command has posted its
record, and waits to translate again (R199, R433); `yielded`: TYIELD has issued and the bank has not been back in the foreground since (R476); `csrOld`: the writes of FD0-FD3, FPCTL and DBGCTL that have not yet taken full effect, each with the CSR, its value before and
after, and the core time of its end (R142); `fpNew`: the flags that landed last and the core time of that (R153); `cut` and `saved`: the command that was cut and the one accepted behind it (R214). -/
structure Bank where
  task : Option Nat := none
  root : Nat := 0
  key : Nat := 0
  x : Tbl Reg := []
  s : Tbl Reg := []
  i : Tbl IReg := []
  v : Tbl VReg := []
  k : Tbl VReg := []
  q : Tbl Queue := []
  sq : Tbl SQueue := []
  sa : StrandSt := {}
  se : StrandSt := {}
  sm : StrandSt := {}
  trap : Option TrapSt := none
  tretIssued : Bool := false
  wid : W64 := 0
  widfmt : BitVec 54 := 0
  taskid : BitVec 32 := 0
  opid : BitVec 13 := 0
  vrb : BitVec 5 := 0
  krb : BitVec 3 := 0
  fd0 : BitVec 16 := 0
  fd1 : BitVec 16 := 0
  fd2 : BitVec 16 := 0
  fd3 : BitVec 16 := 0
  fpctl : BitVec 4 := 0
  fpflags : BitVec 9 := 0
  parkav : BitVec 11 := 0
  accmap : BitVec 48 := 0
  bbase : BitVec 11 := 0
  bcnt : BitVec 12 := 0
  scrbase : BitVec 21 := 0
  scrsize : BitVec 22 := 0
  tdtbase : BitVec 57 := 0
  enest : W64 := 0
  mconf : W64 := 0
  mwait : Option MCmd := none
  mldws : List Mldw := []
  mldwPosted : Bool := false
  yielded : Bool := false
  cut : Option MCmd := none
  saved : Option MCmd := none
  cursor : W64 := 0
  csrOld : List (Nat × W64 × W64 × Nat) := []
  fpNew : Nat × BitVec 9 := (0, 0)
  deriving DecidableEq, Repr

/-! ## Cores -/

/-- A barrier (R248). -/
structure Bar where
  pend : BitVec 24 := 0
  arrv : BitVec 12 := 0
  exp : BitVec 12 := 0
  err : Bool := false
  undr : Bool := false
  phase : BitVec 32 := 0
  deriving DecidableEq, Repr

/-- A change of the present cycle to a barrier, applied with the others of the cycle (R249, R378): the core, the physical barrier,
the kind, the count, whether it also sets ERR (R243, R250), and whether it is the subtraction of a copy command of the core (R245). -/
structure BarChg where
  core : Nat
  bar : Nat
  kind : BarKind
  n : Nat
  err : Bool := false
  own : Bool := false
  deriving DecidableEq, Repr

/-- A window write to a bank that is being swapped or spilled, held until that ends (R138). -/
structure HeldWrite where
  pa : Nat
  n : Nat
  v : Nat
  poison : Bool
  deriving DecidableEq, Repr

/-- Where a copy command stands (R244, R246): queued, moving bytes, or parked on a fault. -/
inductive CopySt where
  | queued | running | parked
  deriving DecidableEq, Repr

/-- A copy command in its slot (R238-R246): the 64-byte command, the task, its address space and mode, the queue, the physical barrier, the
bytes of the command and those performed, the reel it came from (its RCB's address), its number in the core's order of issue, the earlier commands that it is
fenced behind (R271), whether it met a poisoned index (R514), and the cycle at which its next chunk was
sent out (R300), and the bytes of its present chunk that have been performed, with the page of each side that the chunk uses (R226, R246). -/
structure CopyCmd where
  cmd : BitVec 512
  task : Nat
  sup : Bool := false
  root : Nat := 0
  key : Nat := 0
  cq : Nat
  bar : Nat
  len : Nat
  done : Nat := 0
  st : CopySt := .queued
  reel : Option Nat := none
  seq : Nat := 0
  gate : List Nat := []
  badIdx : Bool := false
  sent : Nat := 0
  part : Nat := 0
  srcPage : Option (Nat × Piece) := none
  dstPage : Option (Nat × Piece) := none
  deriving DecidableEq, Repr

/-- A reel bound to a core's copy engine in STATE 1 (R253, R454): the RCB's physical address, its task, and whether
its task is retiring (R254). -/
structure Reel where
  rcb : Nat
  task : Nat
  root : Nat := 0
  key : Nat := 0
  sup : Bool := false
  stopping : Bool := false
  deriving DecidableEq, Repr

/-- A 128-byte cache line (R217): data, valid bytes, dirty bytes, poisoned atoms, the SM and TAGGED attributes of the
page it was filled through (R263, R273), its KIND, and the dirty bytes by the core of the cluster that wrote them. -/
structure Line where
  line : Nat
  data : BitVec 1024 := 0
  valid : BitVec 128 := 0
  dirty : BitVec 128 := 0
  poison : BitVec 4 := 0
  sm : Bool := false
  tagged : Bool := false
  kind : Kind := .loc
  wrote : Tbl (BitVec 128) := []
  deriving DecidableEq, Repr

/-- A table entry in a die's walk cache (R233): the root of the walk that read it, its address and its value. -/
structure WalkEnt where
  root : Nat
  addr : Nat
  e : Nat
  deriving DecidableEq, Repr

/-- An entry of a tensor descriptor table in a cluster's cache (R59): the root, its VA and its value. -/
structure TdEnt where
  root : Nat
  va : Nat
  e : BitVec 512
  deriving DecidableEq, Repr

/-- A 64-byte line of local HBM that the host holds modified (R304): its number, its bytes, and which of them the host has written. -/
structure HostCopy where
  line : Nat
  data : BitVec 512
  mask : BitVec 64
  deriving DecidableEq, Repr

/-- A cached translation (R233): the root, the first VA and the size of the page, the leaf and its address. -/
structure TlbEnt where
  root : Nat
  va : Nat
  size : Nat
  leaf : W64
  pte : Nat
  deriving DecidableEq, Repr

/-- A core (R21, R320). `frozen` holds the core time at which a freeze stands; `lag` the difference between the die's
clock and core time, and `fgAt` the core time since which the present foreground bank stands there (R311); `turn` the cycle of the core's last strand turn and that
strand (R314; log entry 1); `amStopped` whether a system trap holds A and M, and `savedE` what each stopped on E, the latest first (R319); `swapAt` and `stageAt` the cycles at which what is in progress ends; `fgStart` whether what is staged stands in the foreground bank (R102); `swapWant`
whether a swap has been decided and not begun (R103, R104, R463); `spillAt` the save area that a spill in progress has taken (R322). -/
structure Core where
  fg : Nat := 0
  b0 : Bank := {}
  b1 : Bank := {}
  shst : Nat := 0
  pm : Bool := false
  ppm : Bool := false
  ie : Bool := false
  pie : Bool := false
  sys : Bool := false
  sysWant : Option Bool := none
  cause : W64 := 0
  epc : BitVec 57 := 0
  tval : W64 := 0
  trec : BitVec 32 := 0
  tvec : BitVec 57 := 0
  mixchk : Bool := false
  latchk : Bool := false
  ccinj : BitVec 2 := 0
  rtk : BitVec 16 := 0
  swapAt : Option Nat := none
  stageAt : Option Nat := none
  spillAt : Option Nat := none
  fgStart : Bool := false
  swapWant : Bool := false
  halted : Bool := false
  amStopped : Bool := false
  savedE : List StrandSt := []
  frozen : Option Nat := none
  lag : Nat := 0
  fgAt : Nat := 0
  turn : Nat × Nat := (0, 0)
  bars : Tbl Bar := []
  slots : Tbl CopyCmd := []
  copySeq : Nat := 0
  latches : List Nat := []
  fences : List (List Nat × List Nat) := []
  reels : List Reel := []
  ro : List Line := []
  tlb : List TlbEnt := []
  scrKey : Tbl Nat := []
  held : List HeldWrite := []
  deriving DecidableEq, Repr

/-! ## Clusters -/

/-- An accumulator tile (R22, R136, R202): rows of 256 elements of 48 bits, the poisoned atoms (48 a row), AFT, SAT
and POI, and the key group of the task that last owned it (R57). `mola`: of each row that a MOLA has corrected, the bytes
of its columns that no write has replaced since (R204). -/
structure AccTile where
  rows : Tbl (BitVec 12288) := []
  undef : Option Nat := none
  poison : List Nat := []
  aft : Bool := false
  sat : Bool := false
  poi : Bool := false
  key : Option Nat := none
  mola : Tbl (BitVec 1536) := []
  deriving DecidableEq, Repr

/-- A weight-buffer slot (R197-R201): its source, rows and columns, the stored bytes and side record as numbers, its
scales in order, whether it is poisoned (R198) and which of its atoms are (R216), and how far its filling is. -/
structure WSlot where
  src : SlotSrc
  rows : Nat := 0
  cols : Nat := 0
  fmt : Nat := 0
  spc : Nat := 0
  nd : BitVec 16 := 0
  bytes : Nat := 0
  side : Nat := 0
  sfmt : Nat := 0
  scales : List Nat := []
  poison : Bool := false
  marks : List Nat := []
  filled : Bool := false
  waiting : Bool := false
  owner : Nat := 0
  used : Nat := 0
  deriving DecidableEq, Repr

/-- A cluster (R21, R92, R96, R188, R189, R197, R202, R217, R256). `grantAt` and `grantClk`: the cycle of the lease's grant, and the die's enabled cycles then
(R188, R191, R353); `freeAt` the enabled cycle at which the array stands at the boundary of its last cut (R213). -/
structure Cluster where
  q0 : List Nat := []
  q1 : List Nat := []
  q2 : List Nat := []
  q3 : List Nat := []
  reserved : Option Nat := none
  headAt : Nat := 0
  holder : Option Nat := none
  grantAt : Nat := 0
  grantClk : Nat := 0
  cmds : Nat := 0
  lastHolder : Nat := 3
  freeAt : Nat := 0
  want : List Nat := []
  releasing : Bool := false
  running : Option MCmd := none
  behind : Option MCmd := none
  acc : Tbl AccTile := []
  slots : Tbl WSlot := []
  cache : List Line := []
  waits : List WaitEnt := []
  tlb : List TlbEnt := []
  tdt : List TdEnt := []
  stealAt : Nat := 0
  deriving DecidableEq, Repr

/-! ## Dies -/

/-- A unit that waits while its record finds the fault queue full (R236): the die's dispatcher, the copy engine of a core, the matrix array of a cluster, a pool agent, a strand of a core. -/
inductive PostUnit where
  | dispatcher
  | agent (south : Bool)
  | strand (core : Nat) (st : Strand)
  | copies (core : Nat)
  | array (cluster : Nat)
  deriving DecidableEq, Repr
/-- A record waiting to be posted to the fault queue (R236): its 64 bytes, the core whose TREC it sets (R315), and whether its wait has been counted. -/
structure Post where
  img : BitVec 512
  core : Option Nat := none
  unit : Option PostUnit := none
  counted : Bool := false
  deriving DecidableEq, Repr

/-- A record that LNCH handed over (R422): the record, and what the launch inherits (R88). -/
structure LaunchBuf where
  img : BitVec 1024
  root : Nat
  key : Nat
  prio : Nat
  deriving DecidableEq, Repr

/-- A die's dispatcher block and dispatcher state. `clkAt`, `clkBase`: the cycle since which the present DVFS point stands and the die's enabled cycles then; `clkHist` the same and the
point of those before it, the latest first (R312, R353). -/
structure Die where
  holdctl : W64 := 0
  agectl : BitVec 32 := 65536
  encap : BitVec 10 := 650
  eshare0 : W64 := 0
  eshare1 : W64 := 0
  estall : W64 := 0
  eacc : List Int := []
  dlybase : W64 := 0
  dlyctl : W64 := 0
  dlyhead : BitVec 32 := 0
  dlytail : BitVec 32 := 0
  dlydrop : W64 := 0
  fqbase : W64 := 0
  fqhead : BitVec 32 := 0
  fqtail : BitVec 32 := 0
  fullw : BitVec 32 := 0
  badb : Bool := false
  posts : List Post := []
  cpyres : W64 := 0
  trapctl : W64 := 0
  ctxbase : W64 := 0
  ctxn : BitVec 16 := 0
  sysmask0 : W64 := 1
  sysmask1 : W64 := 0
  point : BitVec 3 := 2
  curPoint : BitVec 3 := 2
  thcap : BitVec 10 := 1023
  thTemp : BitVec 10 := 1023
  thPower : BitVec 10 := 1023
  capOld : Option (Nat × BitVec 10 × BitVec 10) := none
  clkAt : Nat := 0
  clkBase : Nat := 0
  clkHist : List (Nat × Nat × Nat) := []
  refills : Nat := 0
  eDeduct : Nat := 0
  eCredit : Int := 0
  eStalls : Nat := 0
  eLost : Int := 0
  cursor : Nat := 0
  rotSource : Nat := 64
  accepted : List Nat := []
  active : List Nat := []
  launchBuf : List LaunchBuf := []
  spawnBuf : List Nat := []
  pollList : List Nat := []
  pollAt : Nat := 0
  areas : Tbl Nat := []
  walks : List WalkEnt := []
  intFq : Bool := false
  intMc : Bool := false
  deriving DecidableEq, Repr

/-! ## Tasks and launches -/

/-- Where a task stands between its creation and its retirement. -/
inductive TaskSt where
  | dispatching
  | waitRead
  | parked (pa : Nat) (woken : Bool)
  | arenaWait
  | held (reason : Nat)
  | ready
  | inBank
  | spilled (area : Nat)
  | retired (status : Nat)
  deriving DecidableEq, Repr

/-- A claimed tile (R69): its operand reference, its TDT entry, and the tag's physical address and whether it is performed at SYS scope. -/
structure Claim where
  ref : Nat
  td : BitVec 512
  pa : Nat
  sys : Bool
  deriving DecidableEq, Repr

/-- A tile task: its record (R39), its dispatch state, its allocations (R56) and its account; `est` is the estimate that has been deducted for it (R107);
`due`: it has been expanded, and its launch has not yet lost its turn to its equals (R90). -/
structure Task where
  opid : Nat := 0
  prio : Nat := 0
  nops : Nat := 0
  outm : Nat := 0
  ecls : Nat := 0
  conv : Bool := false
  wid : W64 := 0
  ops : List Nat := []
  glev : Nat := 7
  pdie : Option Nat := none
  pclu : Option Nat := none
  pcore : Option Nat := none
  launch : Nat := 0
  root : Nat := 0
  key : Nat := 0
  die : Nat := 0
  st : TaskSt := .dispatching
  cluster : Nat := 0
  core : Nat := 0
  bank : Nat := 0
  method : Option Nat := none
  eff : Nat := 0
  since : Nat := 0
  waited : Nat := 0
  aged : Bool := false
  started : Bool := false
  claims : List Claim := []
  arena : List Nat := []
  est : Nat := 0
  scr : Nat × Nat := (0, 0)
  bars : Nat × Nat := (0, 0)
  acc : List Nat := []
  wmap : Tbl (Option Nat) := []
  wsrc : Tbl WSlot := []
  poisoned : List Nat := []
  enacc : Nat := 0
  latches : List Nat := []
  failing : Option Nat := none
  runnable : Bool := false
  expanded : Bool := false
  due : Bool := false
  keep : Option Bank := none
  deriving DecidableEq, Repr

/-- Where the placement of a bound group stands (R91, R100): its cluster is one of the device's 128. -/
structure Place where
  level : Nat
  gkey : W64
  cluster : Nat
  core : Option Nat := none
  started : Bool := false
  deriving DecidableEq, Repr

/-- A launch (R31, R89, R90). -/
structure Launch where
  img : BitVec 1024
  root : Nat
  key : Nat
  die : Nat
  src : Nat
  prio : Nat
  pos : Nat := 0
  total : Nat := 0
  outstanding : Nat := 0
  bad : Nat := 0
  anyPoisoned : Bool := false
  anyFailed : Bool := false
  arenaUsed : List Nat := []
  places : List Place := []
  complete : Bool := false
  deriving DecidableEq, Repr

/-! ## The pool, the host, management and trust -/

/-- An orphaned line (R292, R301). -/
structure Orphan where
  line : Nat
  data : BitVec 1024
  dirty : BitVec 128
  poison : BitVec 4
  die : Nat
  cluster : Nat
  pool : Bool
  prt : Nat
  deriving DecidableEq, Repr

/-- A lease of a COH region (R284, R291): PRT index, the sending that the device counts from, the sendings of requests and renewals that are not yet
acknowledged (the oldest first), whether a create or rejoin waits for its grant, and its length in ms. -/
structure Lease where
  prt : Nat
  sent : Nat
  asked : List Nat := []
  waiting : Bool := false
  lms : Nat
  deriving DecidableEq, Repr

/-- A pool head as this device sees it (R283, R299, R300). -/
structure Head where
  state : Nat := 0
  accepted : List (Nat × Nat) := []
  offered : List (Nat × Nat) := []
  decl : Bool := false
  downAt : Option Nat := none
  deriving DecidableEq, Repr

/-- The pool block of the north I/O die and the pool agents (R282-R304). `perms`: the COH lines on which the agents hold a permission, and whether it is ownership (R288);
`lineKeys`: the key group under which each pool line was last written at its head (R362). -/
structure Pool where
  prtbase : W64 := 0
  prtIdx : BitVec 10 := 0
  prtAct : BitVec 2 := 0
  prtBusy : Bool := false
  prtErr : Bool := false
  dcacc : BitVec 34 := 0
  dcBusy : Bool := false
  dcErr : Bool := false
  heads : Tbl Head := []
  leases : List Lease := []
  north : List Line := []
  south : List Line := []
  waitsN : List WaitEnt := []
  waitsS : List WaitEnt := []
  orphans : List Orphan := []
  perms : List (Nat × Bool) := []
  lineKeys : Tbl Nat := []
  deriving DecidableEq, Repr

/-- A host launch queue (R83-R87). -/
structure LaunchQ where
  base : W64 := 0
  ctl : W64 := 0x3400
  head : BitVec 32 := 0
  tail : BitVec 32 := 0
  root : W64 := 0
  ovf : Bool := false
  ref : Bool := false
  rot : Nat := 0
  deriving DecidableEq, Repr

/-- The management block (R350, R351) and the security processor's state (R358-R363). `wake`: the pool has called for the device in PS1 (R351); `barAt`, `sideAt`: the cycles of the last
PSCTL write over BAR0 and of the last one over the sideband that set BUSY (R357); `doorAt`: that of the last doorbell (R352); `hostLink`: the link of the host port is up (R361, R364); `stored`: the manifest and the images that the security
mailbox has taken, which the next boot checks (R358). -/
structure Mgmt where
  stage : Nat := 0
  fail : Nat := 0
  psReq : BitVec 2 := 0
  psCur : BitVec 2 := 0
  psBusy : Bool := false
  temps : Tbl Nat := []
  ecc : W64 := 0
  rollback : Nat := 0
  boots : Nat := 0
  identity : Bool := false
  measures : List Nat := []
  groups : List (Nat × Nat) := []
  confidential : List Nat := []
  mailbox : List Nat := []
  runtime : Bool := false
  wake : Bool := false
  barAt : Option Nat := none
  sideAt : Option Nat := none
  doorAt : Option Nat := none
  hostLink : Bool := false
  stored : Option (List Byte × List (List Byte)) := none
  deriving DecidableEq, Repr

/-! ## Memory -/

/-- A span of addresses with undefined contents, from `lo` up to `hi`, not included; `tag` names the free values it reads as
(R3). -/
structure Span where
  lo : Nat
  hi : Nat
  tag : Nat
  deriving DecidableEq, Repr

/-- The physical bytes (R219): the cells that are not 0, ascending; the poisoned 32-byte atoms, ascending; and the undefined
spans. The scratchpads are the window addresses of space 0 (R225). -/
structure Memory where
  cells : List Host.Cell := []
  poison : List Nat := []
  undef : List Span := []
  deriving DecidableEq, Repr

/-- The last strong access of a strand to bytes of an atom (R267): the bytes, the size of the whole access, the strand and its task, the cycle, whether it is the
atom's last while MIXCHK is set, and its home point: 0, or 1 more than the cluster whose cache it is. -/
structure Strong where
  pa : Nat
  n : Nat
  size : Nat
  core : Nat
  st : Strand
  task : Option Nat
  cycle : Nat
  chk : Bool
  place : Nat := 0
  deriving DecidableEq, Repr

/-- What a vector register (file 0), a mask register (1) or a block slot (2: 8 x queue + slot) held before the first window write of the present cycle (R118). -/
structure WinOld where
  core : Nat
  bank : Nat
  file : Nat
  n : Nat
  r : VReg
  deriving DecidableEq, Repr

/-- Whose turn is next, after how many cycles (log entry 1): a strand of a core, or an event of the table. -/
inductive Turn where
  | strand (dt core : Nat) (st : Strand)
  | event (dt : Nat) (i : Instr)
  deriving DecidableEq, Repr

end Sys2Proof.Machine

namespace Sys2Proof.Machine

/-- The whole device. `agenda`, `fresh` and `cur` are the model's own (log entries 1 and 2). `todo`: the register writes of this step whose action on
other state is still to be made, by offset and value (R349). `barChg`: the changes that reach barriers in this cycle; `barRead`: the barriers that something has read in it, whose further changes, `barLate`, reach them in the next (R249, R250). `hwSet`: the register bits that hardware has set in this cycle, by offset and mask (R10); `hostLines` and
`hostDirty`: the 64-byte lines of local HBM that the host holds, and those that it holds modified (R304); `captured`: the captured rows, the last used first (R224). `codeOf`: the 4 KiB frames from which
tasks that are not retired have fetched, each with the task; `codeOld`: what bytes of those frames held before they were first stored to (R326). -/
structure State where
  agenda : List Turn := []
  fresh : Nat := 0
  curCore : Nat := 0
  curSt : Strand := .e
  cycle : Nat := 0
  mem : Memory := {}
  cores : Tbl Core := []
  clusters : Tbl Cluster := []
  dies : Tbl Die := []
  tasks : Tbl Task := []
  nextTask : Nat := 1
  launches : Tbl Launch := []
  nextLaunch : Nat := 1
  methods : Tbl (BitVec 256) := []
  queues : Tbl LaunchQ := []
  pool : Pool := {}
  hostLines : List Nat := []
  hostDirty : List HostCopy := []
  hwSet : List (Nat × Nat) := []
  captured : List Nat := []
  strong : List Strong := []
  barChg : List BarChg := []
  barLate : List BarChg := []
  barRead : List (Nat × Nat) := []
  winOld : List WinOld := []
  codeOf : List (Nat × Nat) := []
  codeOld : List (Nat × Nat) := []
  todo : List (Nat × Nat) := []
  mgmt : Mgmt := {}
  deriving DecidableEq, Repr

/-- Why the machine stops with a fault. -/
inductive Fault where
  /-- The agenda holds a word where an event must stand. Raised by `step`. Safe: nothing of the device stops here; the agenda
  is the model's own input (log entry 1). -/
  | wordInAgenda
  deriving DecidableEq, Repr

/-- Why an instruction has no meaning here. -/
inductive Refusal where
  /-- Not modelled yet; raised by `exec`'s refused arms only. Safe. -/
  | notModelled (mnemonic : String)
  deriving DecidableEq, Repr

/-- The EACC sub-accounts of a die after reset (R106): one refill each. With all shares 0 the refill of class 0 is
650 x 10,000 nJ and that of every other class is 0. -/
def eaccReset : List Int := 6500000 :: List.replicate 15 0

/-- Core 0 of cluster 0 of a die is a system core at reset (R305, R323): SYS and PM are 1. -/
def sysCore : Core := { sys := true, pm := true }

/-- The machine right after reset: no bring-up step is complete (BOOTSTAT.STAGE 0, R350), so nothing runs until COLD_RESET's
steps (R364). Registers with no reset value of the spec hold 0 (log entry 3). -/
def State.reset : State :=
  { cores := [(0, sysCore), (128, sysCore), (256, sysCore), (384, sysCore)]
    dies := [(0, { eacc := eaccReset }), (1, { eacc := eaccReset }), (2, { eacc := eaccReset }), (3, { eacc := eaccReset })] }

end Sys2Proof.Machine
end

