-- ==== Sys2Proof/Machine/Ops.lean ====
section
/-! DEFINITION. The named operations over the state: tables, cores, banks, registers, results in flight, posting of records, taking a
trap (R314-R316, R319) and returning from one (R317, R320). -/
namespace Sys2Proof.Machine

/-! ## Tables and numbers -/

/-- The entry of a table, if there is one. -/
def tfind {α : Type} : Tbl α → Nat → Option α
  | [], _ => none
  | (i, v) :: t, k => if i = k then some v else tfind t k

/-- The entry of a table, or the default. -/
def tget {α : Type} (t : Tbl α) (k : Nat) (d : α) : α := (tfind t k).getD d

/-- Sets an entry, keeping the numbers ascending. -/
def tset {α : Type} : Tbl α → Nat → α → Tbl α
  | [], k, v => [(k, v)]
  | (i, w) :: t, k, v => if i = k then (k, v) :: t else if k < i then (k, v) :: (i, w) :: t else (i, w) :: tset t k v

/-- Removes an entry. -/
def tdel {α : Type} (t : Tbl α) (k : Nat) : Tbl α := t.filter fun e => e.1 != k

/-- Bits [lo + n - 1 : lo] of a number. -/
def nbits (x lo n : Nat) : Nat := (x >>> lo) % 2 ^ n
/-- Bit `i` of a number. -/
def nbit (x i : Nat) : Bool := x.testBit i
/-- The two's complement reading of the low `w` bits. -/
def sintN (w x : Nat) : Int := if x % 2 ^ w < 2 ^ (w - 1) then (x % 2 ^ w : Nat) else (x % 2 ^ w : Nat) - (2 ^ w : Nat)
/-- The low `w` bits of an integer. -/
def wrapN (w : Nat) (x : Int) : Nat := (x % (2 ^ w : Nat)).toNat
/-- Replaces bits [lo + n - 1 : lo] of a number. -/
def setBits (x lo n v : Nat) : Nat := x - (nbits x lo n <<< lo) + ((v % 2 ^ n) <<< lo)
/-- Does [a, a + n) meet [b, b + m). -/
def overlaps (a n b m : Nat) : Bool := a < b + m && b < a + n
/-- Replaces the element at a place, if there is one. -/
def listSet {α : Type} (l : List α) (k : Nat) (v : α) : List α := l.set k v

/-! ## Cores, banks and strands -/

/-- The core `c`, 0-511: 128 of each die, 4 of each cluster. -/
def coreOf (s : State) (c : Nat) : Core := tget s.cores c {}
def updCore (s : State) (c : Nat) (f : Core → Core) : State := { s with cores := tset s.cores c (f (coreOf s c)) }
/-- The cluster `k`, 0-127. -/
def clusterOf (s : State) (k : Nat) : Cluster := tget s.clusters k {}
def updCluster (s : State) (k : Nat) (f : Cluster → Cluster) : State := { s with clusters := tset s.clusters k (f (clusterOf s k)) }
def dieOf (s : State) (d : Nat) : Die := tget s.dies d {}
def updDie (s : State) (d : Nat) (f : Die → Die) : State := { s with dies := tset s.dies d (f (dieOf s d)) }
def taskOf (s : State) (t : Nat) : Task := tget s.tasks t {}
def updTask (s : State) (t : Nat) (f : Task → Task) : State :=
  match tfind s.tasks t with
  | some x => { s with tasks := tset s.tasks t (f x) }
  | none => s
def updLaunch (s : State) (l : Nat) (f : Launch → Launch) : State :=
  match tfind s.launches l with
  | some x => { s with launches := tset s.launches l (f x) }
  | none => s

/-- Bank 0 or 1 of a core (R137). -/
def bankSel (c : Core) (b : Nat) : Bank := if b = 0 then c.b0 else c.b1
def setBank (c : Core) (b : Nat) (k : Bank) : Core := if b = 0 then { c with b0 := k } else { c with b1 := k }
/-- The foreground bank. -/
def fgBank (c : Core) : Bank := bankSel c c.fg
/-- The shadow bank's number. -/
def shadow (c : Core) : Nat := 1 - c.fg
def bankOf (s : State) (c b : Nat) : Bank := bankSel (coreOf s c) b
def updBank (s : State) (c b : Nat) (f : Bank → Bank) : State := updCore s c fun k => setBank k b (f (bankSel k b))

def strandSel (b : Bank) (st : Strand) : StrandSt := match st with | .a => b.sa | .e => b.se | .m => b.sm
def setStrand (b : Bank) (st : Strand) (x : StrandSt) : Bank :=
  match st with | .a => { b with sa := x } | .e => { b with se := x } | .m => { b with sm := x }
def strandOf (s : State) (c b : Nat) (st : Strand) : StrandSt := strandSel (bankOf s c b) st
def updStrand (s : State) (c b : Nat) (st : Strand) (f : StrandSt → StrandSt) : State :=
  updBank s c b fun k => setStrand k st (f (strandSel k st))

/-- The number of the current core's foreground bank. -/
def curFg (s : State) : Nat := (coreOf s s.curCore).fg
/-- The bank of the word being executed: the foreground bank of the current core. -/
def curBank (s : State) : Bank := fgBank (coreOf s s.curCore)
def modBank (s : State) (f : Bank → Bank) : State := updBank s s.curCore (curFg s) f
/-- The strand of the word being executed. -/
def curStrand (s : State) : StrandSt := strandSel (curBank s) s.curSt
def modStrand (s : State) (f : StrandSt → StrandSt) : State := updStrand s s.curCore (curFg s) s.curSt f

def dieOfCore (c : Nat) : Nat := c / 128
def clusterOfCore (c : Nat) : Nat := c / 4
def strandNum (st : Strand) : Nat := match st with | .a => 0 | .e => 1 | .m => 2

/-- Supervisor mode (R305, R320). -/
def supervisor (s : State) (c : Nat) : Bool := (coreOf s c).pm

/-! ## Time (R311, R353) -/

/-- Enabled cycles in 16 at a DVFS point (R353). -/
def duty (point : Nat) : Nat := if point = 0 then 10 else if point = 1 then 13 else 16
/-- The die's count of enabled cycles. -/
def dieClock (s : State) (d : Nat) : Nat :=
  let k := dieOf s d
  k.clkBase + (s.cycle - k.clkAt) * duty k.curPoint.toNat / 16
/-- The cycle in which the enabled cycles of a die reached `n`, by the stretches of its points, the latest first: since which cycle, the enabled cycles then, and
the point. -/
def clockCycle : List (Nat × Nat × Nat) → Nat → Nat
  | [], _ => 0
  | (at_, base, p) :: l, n => if base ≤ n || l.isEmpty then at_ + ((n - base) * 16 + (duty p - 1)) / duty p else clockCycle l n
/-- The cycles that have passed since the die's last `n` enabled cycles began, the disabled ones included (R312, R353). -/
def cyclesSince (s : State) (d n : Nat) : Nat :=
  let k := dieOf s d
  s.cycle - clockCycle ((k.clkAt, k.clkBase, k.curPoint.toNat) :: k.clkHist) (dieClock s d - n)
/-- A reply that a strand of the bank still waits for: a memory access with a destination that has not landed. -/
def Flight.awaits (f : Flight) : Bool := !f.landed && f.op.isSome && !f.dests.isEmpty
/-- The flights of the three strands of a bank. -/
def bankFlights (b : Bank) : List Flight := b.sa.flight ++ b.se.flight ++ b.sm.flight
/-- The core time at which the replies awaited in the foreground freeze the core, unless they land before: the cycle after the first bound elapses; not before the bank
came to the foreground, and not before the last pass of E's word has entered (R176, R311). -/
def freezeDue (k : Core) : Option Nat :=
  if k.swapAt.isSome then none else
  ((bankFlights (fgBank k)).filter Flight.awaits).foldl (fun (m : Option Nat) f =>
    let t := max (f.bound + 1) (max k.fgAt (fgBank k).se.busy)
    match m with | none => some t | some u => some (min t u)) none
/-- The core's count of cycles as if it were not frozen. -/
def rawTime (s : State) (c : Nat) : Nat := dieClock s (dieOfCore c) - (coreOf s c).lag
/-- The core time at which the core stands frozen (R311). -/
def freezeTime (s : State) (c : Nat) : Option Nat :=
  match (coreOf s c).frozen with
  | some t => some t
  | none => (freezeDue (coreOf s c)).filter (· ≤ rawTime s c)
/-- The core is frozen: its strands, its vector unit and its copy engine have no clock (R311). -/
def frozenNow (s : State) (c : Nat) : Bool := (freezeTime s c).isSome
/-- The core's own count of cycles in which its strands run: it stands still in disabled and in frozen cycles. -/
def coreTime (s : State) (c : Nat) : Nat := (freezeTime s c).getD (rawTime s c)

/-- Passes of E's word are still entering: a trap of another strand is taken after the last of them (R176). -/
def passesIn (s : State) (c : Nat) : Bool := decide (coreTime s c + 1 < (fgBank (coreOf s c)).se.busy)

/-! ## Bits that hardware sets (R10) -/

/-- Hardware has set the bits `mask` of the register at an MMIO offset in this cycle. -/
def noteSet (s : State) (off mask : Nat) : State := { s with hwSet := (off, mask) :: s.hwSet }
/-- The bits of a counter that a new value sets. -/
def newBits (old new : Nat) : Nat := new ^^^ (new &&& old)
/-- Of the ones written to a register, those that clear a bit: hardware has not set it in this cycle. -/
def clears (s : State) (off ones : Nat) : Nat :=
  s.hwSet.foldl (fun a e => if e.1 = off then newBits e.2 a else a) ones

/-! ## Free values (R3) -/

/-- The free value number `k` under a name. -/
def freeOf (tag k : Nat) : Nat := Config.freeNat (tag * 2 ^ 32 + k)
/-- The free value number `k` of this step. -/
def freeAt (s : State) (k : Nat) : Nat := freeOf s.fresh k
/-- The next step has free values of its own. -/
def useFresh (s : State) : State := { s with fresh := s.fresh + 1 }

/-! ## Registers -/

/-- The flight on its way to a destination, the latest: an unlanded result that no later word has replaced (R307). -/
def pendingTo (fl : List Flight) (d : Dest) : Option Flight :=
  fl.reverse.find? fun f => !f.landed && f.dests.contains d && !f.killed.contains d

/-- The flight that a read of the destination at `now` comes too early for (R309, R116), the latest: the bound of a word that writes it has not elapsed, or its result has
not landed. The destination of a blocking word is read safely once it has landed (R308). -/
def earlyTo (now : Nat) (fl : List Flight) (d : Dest) : Option Flight :=
  fl.reverse.find? fun f => f.dests.contains d && ((now < f.bound && !f.blocks) || (!f.landed && !f.killed.contains d))
/-- The destination awaits a reply that is late: its bound has elapsed (R311). -/
def lateTo (now : Nat) (fl : List Flight) (d : Dest) : Bool :=
  fl.any fun f => f.awaits && f.bound ≤ now && f.dests.contains d && !f.killed.contains d

/-- Scalar or address register `n` of a strand, at core time `now`: register 0 reads as 0 (R113). An early read gives the undefined value that the register holds
(R3, R309). -/
def readReg (now : Nat) (b : Bank) (st : Strand) (n : Nat) : Reg :=
  if n = 0 then {}
  else match earlyTo now (strandSel b st).flight (.reg n) with
    | some f => { v := BitVec.ofNat 64 (freeOf f.tag n), poi := false }
    | none => tget (if st = .a then b.x else b.s) n {}

/-- Index register `n` (R113). -/
def readIdx (now : Nat) (b : Bank) (n : Nat) : IReg :=
  match earlyTo now b.sm.flight (.idx n) with
  | some f => { v := BitVec.ofNat 32 (freeOf f.tag (100 + n)), poi := false }
  | none => tget b.i n {}

/-- The queue slot at the head. -/
def queueHead (q : Queue) : QSlot := tget q.slots q.head {}
/-- Depth of queue `n` (R128). -/
def queueDepth (n : Nat) : Nat := if n < 8 then 32 else if n < 12 then 8 else 16

/-- A scalar operand (R365): a register, or the entry at the head of the queue, which the word pops once (R131). -/
def rdS (s : State) (f : BitVec 7) : Reg :=
  if f.toNat < 64 then readReg (coreTime s s.curCore) (curBank s) s.curSt f.toNat
  else (queueHead (tget (curBank s).q (f.toNat - 0x40) {})).r

/-- A result for a scalar destination (R365): register 0 discards it; a queue takes it in the slot that the word reserves. -/
def wrS (f : BitVec 7) (v : W64) (p : Bool) : List Write :=
  if f.toNat = 0 then [] else if f.toNat < 64 then [.reg f.toNat { v := v, poi := p }] else [.queue (f.toNat - 0x40) 0 { v := v, poi := p }]

/-- The destination of a write. -/
def Write.dest : Write → Dest
  | .reg n _ => .reg n
  | .idx n _ => .idx n
  | .vec n _ => .vec n
  | .mask n _ => .mask n
  | .queue q sl _ => .queue q sl

/-- Physical vector register of a name (R133). -/
def physV (vrb : BitVec 5) (n : Nat) : Nat := if n < 32 then n else 32 + (n - 32 + vrb.toNat) % 32
/-- Physical mask register of a name (R133). -/
def physK (krb : BitVec 3) (n : Nat) : Nat := if n < 8 then n else 8 + (n - 8 + krb.toNat) % 8

/-- A vector or mask register with undefined contents and status (R3, R307); a read of it raises no trap (R309). -/
def undefVec (tag k : Nat) : VReg :=
  { pairs := BitVec.ofNat 4096 (freeOf tag k), et := BitVec.ofNat 4 (freeOf tag (k + 1)), rc := BitVec.ofNat 10 (freeOf tag (k + 2)),
    ll := BitVec.ofNat 24 (freeOf tag (k + 3)), can := nbit (freeOf tag (k + 4)) 0 }
/-- What the destination of a flight holds until the result lands. -/
def undefPhys (f : Flight) (file p : Nat) : VReg := undefVec f.tag (10000 + 1000 * file + 8 * p)

/-- What a register of a file (0 vectors, 1 masks, 2 block slots) of the current bank held before the window writes of this cycle, if any has reached it (R118). -/
def winBefore (s : State) (file n : Nat) : Option VReg :=
  (s.winOld.find? fun e => e.core = s.curCore && e.bank = curFg s && e.file = file && e.n = n).map WinOld.r

/-- A vector register as a word reads it. -/
def readVec (s : State) (now : Nat) (b : Bank) (p : Nat) : VReg :=
  match earlyTo now b.se.flight (.vec p) with
  | some f => undefPhys f 0 p
  | none => (winBefore s 0 p).getD (tget b.v p {})
/-- A mask register as a word reads it. -/
def readMaskReg (s : State) (now : Nat) (b : Bank) (p : Nat) : VReg :=
  match earlyTo now b.se.flight (.mask p) with
  | some f => undefPhys f 1 p
  | none => (winBefore s 1 p).getD (tget b.k p {})

/-- Stores a result in its bank. -/
def applyWrite (b : Bank) (st : Strand) : Write → Bank
  | .reg n r => if n = 0 then b else if st = .a then { b with x := tset b.x n r } else { b with s := tset b.s n r }
  | .idx n r => { b with i := tset b.i n r }
  | .vec n r => { b with v := tset b.v n r }
  | .mask n r => if n = 0 then b else { b with k := tset b.k n r }
  | .queue q sl r =>
    let k := tget b.q q {}
    { b with q := tset b.q q { k with slots := tset k.slots sl { r := r, landed := true } } }
/-- The push into a slot that a window write has reached lands: the slot keeps its undefined value (R138, R365). -/
def landSlot (b : Bank) : Dest → Bank
  | .queue q sl => { b with q := tset b.q q { tget b.q q {} with slots := tset (tget b.q q {}).slots sl { tget (tget b.q q {}).slots sl {} with landed := true } } }
  | _ => b

/-! ## Results in flight (R307, R116, R153) -/

/-- Flags land in FPFLAGS at core time `t`; those that landed in one cycle are kept together (R152, R153). -/
def landFlags (b : Bank) (fl : BitVec 9) (t : Nat) : Bank :=
  if fl = 0 then b else { b with fpflags := b.fpflags ||| fl, fpNew := (t, if b.fpNew.1 = t then b.fpNew.2 ||| fl else fl) }

/-- The flags that landed at core time `t`. -/
def landedNow (b : Bank) (t : Nat) : BitVec 9 := if b.fpNew.1 = t then b.fpNew.2 else 0

/-- Lands a result whose writes are known, at core time `t`: writes every destination that no later word has written (R116), ORs its flags into FPFLAGS
(R153), and marks the destination as written for every earlier result still in flight. -/
def landFlight (b : Bank) (st : Strand) (id t : Nat) : Bank :=
  let x := strandSel b st
  match x.flight.find? (fun f => f.id = id) with
  | none => b
  | some f =>
    let ws := f.writes.filter fun w => !f.killed.contains w.dest
    let b := f.killed.foldl landSlot (ws.foldl (fun b w => applyWrite b st w) b)
    let b := landFlags b f.flags t
    let x := strandSel b st
    let fl := x.flight.map fun g =>
      if g.id = id then { g with landed := true, writes := [], flags := 0, op := none }
      else if g.id < id then { g with killed := g.killed ++ f.dests }
      else g
    setStrand b st { x with flight := fl }

/-- Results without a memory access land at the latest when their bound has elapsed (R307). -/
def landDue (b : Bank) (st : Strand) (now : Nat) : Bank :=
  let due := (strandSel b st).flight.filter fun f => !f.landed && f.op.isNone && f.bound ≤ now
  let b := due.foldl (fun b f => landFlight b st f.id f.bound) b
  let x := strandSel b st
  setStrand b st { x with flight := x.flight.filter fun f => !(f.landed && f.bound ≤ now) }

/-- A bank at core time `t`: the results whose bound has elapsed have landed. -/
def landBank (b : Bank) (t : Nat) : Bank := landDue (landDue (landDue b .a t) .e t) .m t
/-- Results of both banks of a core whose bound has elapsed land. -/
def landCore (s : State) (c : Nat) : State :=
  let t := coreTime s c
  updCore s c fun k => { k with b0 := landBank k.b0 t, b1 := landBank k.b1 t }

/-- STL of a thawed strand: no word issues in the cycle in which the late reply lands (R311). -/
def holdStrand (t : Nat) (x : StrandSt) : StrandSt := { x with ready := max x.ready (t + 1) }
/-- A late reply to a bank that stands behind a frozen foreground: its watchdog counts the `n` cycles that core time does not (R312). -/
def loseTime (t n : Nat) (x : StrandSt) : StrandSt :=
  { x with flight := x.flight.map fun f => if f.awaits && f.bound < t then { f with lost := f.lost + n } else f }
/-- The three strands of a bank, each changed. -/
def mapStrands (f : StrandSt → StrandSt) (b : Bank) : Bank := { b with sa := f b.sa, se := f b.se, sm := f b.sm }

/-- A freeze that stood at core time `was` ends in the cycle after the last late reply has landed (R311): core time goes on from where it stood. -/
def thaw (s : State) (c : Nat) (was : Option Nat) : State :=
  match was with
  | none => s
  | some t =>
    if ((freezeDue (coreOf s c)).filter (· ≤ t)).isSome then s
    else
      let lag := dieClock s (dieOfCore c) - t
      updCore s c fun k =>
        let k' := setBank { k with frozen := none, lag := lag } k.fg (mapStrands (holdStrand t) (fgBank k))
        setBank k' (shadow k) (mapStrands (loseTime t (lag - k.lag)) (bankSel k (shadow k)))

/-! ## What a word's body answers -/

/-- Why a word does not complete: it traps with a cause, a subcause and TVAL (R313); or it stays unissued this cycle. -/
inductive Stop where
  | trap (cause sub tval : Nat)
  | stall (why : StallWhy)
  deriving DecidableEq, Repr

/-- What a word's body leaves: the state with the effects other than register results; the results; its flags; its bound and the passes
that enter (R175, R307); a control target; a memory access that is performed later and the registers it writes; whether the results land at once
(a blocking word, R308); whether the word has issued at all; the trap that it takes with the partial effect that it leaves (R12); and the stores of a vector word, with whether they are pieces of one access (R266). -/
structure Out where
  s : State
  writes : List Write := []
  flags : Flags := 0
  bound : Nat := 0
  passes : Nat := 1
  target : Option W64 := none
  op : Option MemOp := none
  dests : List Dest := []
  atOnce : Bool := false
  issued : Bool := true
  hold : Bool := false
  traps : Option (Nat × Nat × Nat) := none
  stores : List MemOp := []
  loose : Bool := false
  deriving DecidableEq, Repr

def trap {α : Type} (cause sub tval : Nat) : Except Stop α := .error (.trap cause sub tval)
def illegalField {α : Type} : Except Stop α := trap 0x01 1 0
/-- Traps unless the condition holds. -/
def check (c : Bool) (cause sub tval : Nat) : Except Stop Unit := if c then .ok () else .error (.trap cause sub tval)

/-! ## Sections (R46, R52, R325) -/

def slateCount (w : W64) : Nat := (w.extractLsb' 50 8).toNat
def slateRepeat (w : W64) : Nat := (w.extractLsb' 24 8).toNat
def slateEnd (w : W64) : Bool := w.getLsbD 23
def slateLrel (w : W64) : Bool := w.getLsbD 22
/-- The first word of the section at a slate. -/
def firstWord (base : Nat) : Nat := base + 8
/-- The address after the last word of a section. -/
def sectionEnd (base : Nat) (slate : W64) : Nat := base + 8 + 12 * slateCount slate
/-- The next slate (R325). -/
def nextSlate (base : Nat) (slate : W64) : Nat :=
  sectionEnd base slate + (if slateCount slate % 2 = 1 then 4 else 0)
/-- Is `pc` a word boundary inside the section's words. -/
def inSection (base : Nat) (slate : W64) (pc : Nat) : Bool :=
  base + 8 ≤ pc && pc < sectionEnd base slate && (pc - base - 8) % 12 == 0

/-- Marks the current execution as having issued all its words; `fin`: no repetition follows; `last`: the strand ends. -/
def execIssued (x : StrandSt) (fin last : Bool) : StrandSt :=
  { x with execs := x.execs.map fun e =>
      if e.n = x.ent then { e with issued := true, last := last, lrel := e.lrel && fin } else e }

/-- After the last word of an execution (R52): the section repeats, or the strand ends, or the next slate is read. -/
def endExecution (x : StrandSt) : StrandSt :=
  if x.repIdx < slateRepeat x.slate then
    { execIssued x false false with phase := .again, repIdx := x.repIdx + 1, pc := BitVec.ofNat 64 x.base }
  else if slateEnd x.slate then { execIssued x true true with phase := .ended }
  else { execIssued x true false with phase := .slate, pc := BitVec.ofNat 64 (nextSlate x.base x.slate), repIdx := 0 }

/-- The word at PC has issued without a transfer: the next word, or the end of the execution. -/
def advancePc (x : StrandSt) : StrandSt :=
  let n := x.pc.toNat + 12
  if n < sectionEnd x.base x.slate then { x with pc := BitVec.ofNat 64 n } else endExecution x

/-- Control goes to `t` (R52, R381): a word of the section continues the execution; any other target is read as a slate. -/
def jumpTo (x : StrandSt) (t : W64) : StrandSt :=
  if inSection x.base x.slate t.toNat then { x with pc := t }
  else { execIssued x true false with phase := .slate, pc := t, repIdx := 0 }

/-- The address that CALL saves and at which a trapped task resumes after a word (R385, R317). -/
def afterWord (x : StrandSt) : W64 :=
  if x.pc.toNat + 12 < sectionEnd x.base x.slate then x.pc + 12 else BitVec.ofNat 64 (nextSlate x.base x.slate)

/-- The word has issued: under REP the next issue, else the next word (R336, R458). -/
def stepPc (x : StrandSt) : StrandSt :=
  match x.rep with
  | some r => if r.j < r.count then { x with rep := some { r with j := r.j + 1 } } else advancePc { x with rep := none }
  | none => advancePc x

/-! ## Records and posts (R236, R315) -/

/-- Posts a 64-byte record to a die's fault queue: it waits there until FAULT_RECORD_POST writes it (R236). -/
def postRecord (s : State) (d : Nat) (img : BitVec 512) (core : Option Nat := none) (unit : Option PostUnit := none) : State :=
  updDie s d fun k => { k with posts := k.posts ++ [{ img := img, core := core, unit := unit }] }
/-- The die's fault queue holds 4,096 records. -/
def fqFull (d : Die) : Bool := (d.fqhead - d.fqtail).toNat == 4096
/-- The unit waits to post into a full fault queue (R236). -/
def postWaits (s : State) (die : Nat) (u : PostUnit) : Bool :=
  let d := dieOf s die
  fqFull d && d.posts.any fun p => p.unit == some u

/-- Eight words of a record, word 0 first. -/
def record8 (w : List Nat) : BitVec 512 :=
  BitVec.ofNat 512 (w.foldr (fun x acc => x % 2 ^ 64 + 2 ^ 64 * acc) 0)

/-- Word 0 of a trap record (R315). -/
def trapWord0 (s : State) (c b : Nat) (st : Nat) (cause sub : Nat) : Nat :=
  let k := bankOf s c b
  let x := if st = 0 then k.sa else if st = 1 then k.se else k.sm
  let word := if x.phase = .run then (x.pc.toNat - x.base - 8) / 12 else 0
  let rep := match x.rep with | some r => r.j | none => 0
  cause % 256 + (sub % 256) * 2 ^ 8 + (st % 4) * 2 ^ 16 + (b % 2) * 2 ^ 20 + (rep % 64) * 2 ^ 21 + (word % 256) * 2 ^ 27 +
    (c / 128) * 2 ^ 35 + (c / 4 % 32) * 2 ^ 37 + (c % 4) * 2 ^ 42

/-- A trap record (R315). -/
def trapRecord (s : State) (c b : Nat) (st cause sub tval cursor estat : Nat) : BitVec 512 :=
  let k := bankOf s c b
  let x := if st = 0 then k.sa else if st = 1 then k.se else k.sm
  record8 [trapWord0 s c b st cause sub, x.pc.toNat % 2 ^ 57, x.ent.toNat + 2 ^ 32 * x.ret.toNat, tval, estat, cursor, k.wid.toNat, k.taskid.toNat]

/-! ## Taking a trap -/

def causePoison : Nat := 0x15

/-- The step is to make an action on other state before it ends: `off` is a register's MMIO offset, or one of the codes below. -/
def addTodo (s : State) (off v : Nat) : State := { s with todo := s.todo ++ [(off, v)] }
/-- The action of settling a task that has begun to fail (R511 steps 1 and 2). -/
def failTodo : Nat := 2 ^ 20

/-- Stops E, A and M of a system core and restarts E at the slate of TVEC (R319), once the last pass of E's word has entered (R176). `epc` is the PC of E's next word, for an interrupt, or
of the trapping word, of whichever strand (R319, R379, R381, R471); `cause` holds bit 63 for an interrupt. -/
def enterHandler (s : State) (c : Nat) (cause : W64) (epc tval : Nat) : State :=
  updCore s c fun k =>
    let b := fgBank k
    let e := b.se
    let e' := { e with
      phase := .slate, pc := k.tvec.setWidth 64, repIdx := 0, rep := none, stall := none, park := none, execs := [], claimed := none, sync := 0, ready := e.busy }
    let k' := { k with
      cause := cause, epc := BitVec.ofNat 57 epc, tval := BitVec.ofNat 64 tval, ppm := k.pm, pie := k.ie, pm := true, ie := false,
      amStopped := true, savedE := e :: k.savedE }
    setBank k' k'.fg { b with se := e' }

/-- The causes whose TVAL the spec states: an address of ALIGN, PAGE, PROT, COW, HOMELOST and LATE, and a specifier of STALE and LATV (R231, R309, R312, R313). -/
def tvalStated (cause : Nat) : Bool :=
  cause = 0x04 || cause = 0x05 || cause = 0x06 || cause = 0x07 || cause = 0x0A || cause = 0x0E || cause = 0x10 || cause = 0x11

/-- Taking a trap of strand `st` on core `c`, in its foreground bank: the one operation behind every trap. On a system core R319; in a
task R314 and R315, or R316 for POISON with subcause 1; a TRET that waits is issued again on resume (R472). `cursor` and `estat` are words 5 and 4 of the record. A TVAL that the spec does not state is a free
value. -/
def takeTrap (s0 : State) (c : Nat) (st : Strand) (cause sub tval0 : Nat) (cursor estat : Nat := 0) : State :=
  let tval := if tvalStated cause then tval0 else freeAt s0 997
  let s := if tvalStated cause then s0 else useFresh s0
  let k := coreOf s c
  let b := fgBank k
  if k.sys && b.task.isNone then
    enterHandler s c (BitVec.ofNat 64 (cause + 256 * sub)) (strandSel b st).pc.toNat tval
  else
    let s1 := postRecord s (dieOfCore c) (trapRecord s c k.fg (strandNum st) cause sub tval cursor estat) (some c)
    let s2 := updBank s1 c k.fg fun b =>
      { b with trap := some { cause := cause, sub := sub, st := strandNum st, cursor := cursor, at_ := s.cycle }, tretIssued := false }
    match b.task with
    | some t => if cause = causePoison ∧ sub = 1 then addTodo (updTask s2 t fun x => { x with failing := some 1 }) failTodo t else s2
    | none => s2

/-! ## Returning from a trap -/

/-- ERET with value 0 (R320, R399): PM from PPM, IE from PIE; E continues at EPC, in the section that the trap stopped when EPC is one of its
words, and otherwise reads EPC as a slate; A and M continue from where they stopped. E's counters and unretired executions are again those of
the code that was stopped; results of the handler in flight stay in flight. -/
def leaveHandler (s : State) (c : Nat) : State :=
  updCore s c fun k =>
    let b := fgBank k
    let e := b.se
    let pc := k.epc.setWidth 64
    let e' := match k.savedE with
      | [] => { e with phase := .slate, pc := pc, repIdx := 0, rep := none }
      | v :: _ =>
        let v := { v with flight := e.flight, nextId := e.nextId, late := e.late, stall := none, ready := 0 }
        if v.phase = .run && inSection v.base v.slate pc.toNat then { v with pc := pc, rep := if pc = v.pc then v.rep else none }
        else if v.phase = .again && pc = v.pc then v
        else if v.phase = .run then { execIssued v true false with phase := .slate, pc := pc, repIdx := 0, rep := none }
        else { v with phase := .slate, pc := pc, repIdx := 0, rep := none }
    setBank { k with pm := k.ppm, ie := k.pie, amStopped := false, savedE := k.savedE.drop 1 } k.fg { b with se := e' }

/-- Where a resumed word's strand goes on (R317): the trapping word again, or the word after it (after TRAPI and BKPT, or action 3). -/
def resumeStrand (x : StrandSt) (after : Bool) : StrandSt :=
  if after && x.phase = .run then { stepPc x with claimed := none } else x

/-- Resuming the trapped task of a bank (R317): action 1, or with `after` action 3. -/
def resumeBank (b : Bank) (after : Bool) : Bank :=
  match b.trap with
  | none => b
  | some t =>
    let a := after || t.cause = 0x18 || t.cause = 0x17
    let st := if t.st = 0 then Strand.a else if t.st = 1 then Strand.e else Strand.m
    setStrand { b with trap := none } st (resumeStrand (strandSel b st) a)

end Sys2Proof.Machine
end

