-- ==== Sys2Proof/Machine/Mem.lean ====
section
/-! DEFINITION. Memory: the bytes at the homes with their poison and undefined spans (R219-R222, R3), cache lines (R216, R217, R261-R263), the
page walk and the checks of every access (R228-R235, R285). -/
namespace Sys2Proof.Machine

/-! ## Bytes at the homes -/

/-- Sets one byte, keeping the addresses strictly rising and no byte 0 listed. -/
def setCell : List Host.Cell → Nat → Byte → List Host.Cell
  | [], a, b => if b = 0 then [] else [(a, b)]
  | (i, x) :: t, a, b =>
    if a < i then (if b = 0 then (i, x) :: t else (a, b) :: (i, x) :: t)
    else if a = i then (if b = 0 then t else (a, b) :: t)
    else (i, x) :: setCell t a b

/-- The byte of a cell; an unlisted address reads as 0 (log entry 4). -/
def getCell : List Host.Cell → Nat → Byte
  | [], _ => 0
  | (i, x) :: t, a => if a = i then x else getCell t a

/-- Every listed address lies above `lo`, the addresses rise strictly and no listed byte is 0. -/
def cellsFrom : Nat → List Host.Cell → Bool
  | _, [] => true
  | lo, (a, b) :: t => lo ≤ a && b != 0 && cellsFrom (a + 1) t

/-- The canonical form of memory. -/
def Memory.wf (m : Memory) : Bool := cellsFrom 0 m.cells

/-- Cuts one address out of the undefined spans. -/
def cutSpans (l : List Span) (a : Nat) : List Span :=
  l.flatMap fun sp =>
    if sp.lo ≤ a ∧ a < sp.hi then
      (if sp.lo < a then [{ sp with hi := a }] else []) ++ (if a + 1 < sp.hi then [{ sp with lo := a + 1 }] else [])
    else [sp]

/-- One byte as a reader finds it: a free value while it is undefined (R3). -/
def memByte (m : Memory) (a : Nat) : Byte :=
  match m.undef.find? (fun sp => sp.lo ≤ a ∧ a < sp.hi) with
  | some sp => Config.freeByte sp.tag a
  | none => getCell m.cells a

/-- Writes one byte. -/
def memSetByte (m : Memory) (a : Nat) (b : Byte) : Memory :=
  { m with cells := setCell m.cells a b, undef := cutSpans m.undef a }

/-- `n` bytes from `a` as one little-endian number (R5). -/
def memRead (m : Memory) (a : Nat) : Nat → Nat
  | 0 => 0
  | n + 1 => (memByte m a).toNat + 256 * memRead m (a + 1) n

/-- Writes the low `n` bytes of a number from `a` on. -/
def memWrite (m : Memory) (a : Nat) : Nat → Nat → Memory
  | 0, _ => m
  | n + 1, v => memWrite (memSetByte m a (BitVec.ofNat 8 v)) (a + 1) n (v / 256)

/-- Inserts into an ascending list without repeats. -/
def insertAsc : List Nat → Nat → List Nat
  | [], k => [k]
  | i :: t, k => if k = i then i :: t else if k < i then k :: i :: t else i :: insertAsc t k

/-- The 32-byte atoms that `n` bytes from `a` touch. -/
def atomsOf (a n : Nat) : List Nat := if n = 0 then [] else (List.range ((a + n - 1) / 32 - a / 32 + 1)).map (a / 32 + ·)
/-- Is an atom of the bytes poisoned. -/
def memPoison (m : Memory) (a n : Nat) : Bool := (atomsOf a n).any m.poison.contains
/-- Marks or clears an atom. -/
def setPoison (m : Memory) (k : Nat) (p : Bool) : Memory :=
  { m with poison := if p then insertAsc m.poison k else m.poison.filter (· != k) }

/-- The poison of the atoms after a write of `n` bytes from `a` (R222): poisoned data poisons; a write of all 32 bytes clears; any other
write leaves the mark. -/
def poisonWrite (m : Memory) (a n : Nat) (p : Bool) : Memory :=
  (atomsOf a n).foldl (fun m k =>
    if p then setPoison m k true else if a ≤ 32 * k ∧ 32 * k + 32 ≤ a + n then setPoison m k false else m) m

/-- A write performed at a home (R221, R222). -/
def homeWrite (m : Memory) (a n v : Nat) (p : Bool) : Memory := poisonWrite (memWrite m a n v) a n p

/-- Marks bytes as undefined (R3): they read as free values of this tag until they are written. -/
def memUndef (m : Memory) (lo hi tag : Nat) : Memory :=
  let m1 := { m with
    cells := m.cells.filter fun c => !(lo ≤ c.1 && c.1 < hi)
    undef := m.undef.flatMap fun sp =>
      (if sp.lo < min sp.hi lo then [{ sp with hi := min sp.hi lo }] else []) ++ (if max sp.lo hi < sp.hi then [{ sp with lo := max sp.lo hi }] else []) }
  if lo < hi then { m1 with undef := m1.undef ++ [{ lo := lo, hi := hi, tag := tag }] } else m1

/-- Zeroes bytes and clears the poison of the atoms that they hold whole. -/
def memZero (m : Memory) (lo hi : Nat) : Memory :=
  let m1 := memUndef m lo hi 0
  { m1 with undef := m1.undef.filter (fun sp => !(sp.lo == lo && sp.hi == hi)),
            poison := m1.poison.filter fun k => !(lo ≤ 32 * k && 32 * k + 32 ≤ hi) }

/-- Splits `n` bytes from `a` at multiples of `sz`: address and length of each piece, ascending. -/
def piecesAt (sz : Nat) : Nat → Nat → Nat → List (Nat × Nat)
  | 0, _, _ => []
  | fuel + 1, a, n =>
    if n = 0 then [] else
    let k := min n (sz - a % sz)
    (a, k) :: piecesAt sz fuel (a + k) (n - k)
/-- The pieces of an access at multiples of `sz`. -/
def pieces (sz a n : Nat) : List (Nat × Nat) := piecesAt sz (n / sz + 2) a n

/-! ## The physical address map (R219) -/

def paLocal (pa : Nat) : Bool := pa < 0xC000000000
def paHost (pa : Nat) : Bool := 0x4000000000000 ≤ pa && pa < 0x8000000000000
def paPool (pa : Nat) : Bool := 0x8000000000000 ≤ pa && pa < 0x8800000000000
def paWindow (pa : Nat) : Bool := 0xE000000000000 ≤ pa && pa < 0xE100000000000
def paMmio (pa : Nat) : Bool := 0xF000000000000 ≤ pa && pa < 0x10000000000000
/-- Head of a pool address. -/
def headOfPa (pa : Nat) : Nat := (pa - 0x8000000000000) / 0x100000000000
/-- Granule of a pool address within its head. -/
def granuleOfPa (pa : Nat) : Nat := (pa - 0x8000000000000) % 0x100000000000 / 0x10000000
def headOf (s : State) (h : Nat) : Head := tget s.pool.heads h {}
/-- The granule has been accepted (R299). -/
def granuleAccepted (s : State) (h g : Nat) : Bool := (headOf s h).accepted.any fun e => e.1 ≤ g && g < e.1 + e.2
/-- The address lies in no reserved range (R219). -/
def paMapped (s : State) (pa : Nat) : Bool :=
  paLocal pa || paHost pa || (paPool pa && granuleAccepted s (headOfPa pa) (granuleOfPa pa)) || paWindow pa || paMmio pa

/-- The stack of a local address (R220). -/
def homeStack (pa : Nat) : Nat := 3 * (pa / 0x3000000000) + pa / 4096 % 3

/-- KINDs by code (R229). -/
def kindOf (c : Nat) : Option Kind :=
  match c with
  | 0 => some .loc | 1 => some .host | 2 => some .coh | 3 => some .ror | 4 => some .swf | 5 => some .window | 6 => some .mmio
  | _ => none
/-- The page's addresses agree with its KIND (R229). -/
def kindRange (s : State) (k : Kind) (pa : Nat) : Bool :=
  match k with
  | .loc => paLocal pa
  | .host => paHost pa
  | .coh | .ror | .swf => paPool pa && granuleAccepted s (headOfPa pa) (granuleOfPa pa)
  | .window => paWindow pa
  | .mmio => paMmio pa
def Kind.pooled (k : Kind) : Bool := k = .coh || k = .ror || k = .swf

/-! ## Page table entries (R229) -/

def pteKey (e : Nat) : Nat := nbits e 55 8
def pteKind (e : Nat) : Nat := nbits e 52 3
def ptePfn (e : Nat) : Nat := nbits e 12 40 * 4096
def pteS64 (e : Nat) : Bool := nbit e 11
def pteCow (e : Nat) : Bool := nbit e 10
def pteTstale (e : Nat) : Bool := nbit e 9
def pteTagged (e : Nat) : Bool := nbit e 8
def pteSm (e : Nat) : Bool := nbit e 7
def pteD (e : Nat) : Bool := nbit e 6
def pteA (e : Nat) : Bool := nbit e 5
def pteT (e : Nat) : Bool := nbit e 4
def pteX (e : Nat) : Bool := nbit e 3
def pteW (e : Nat) : Bool := nbit e 2
def pteR (e : Nat) : Bool := nbit e 1
def pteV (e : Nat) : Bool := nbit e 0
/-- A table entry's form: no permission bit. -/
def pteTable (e : Nat) : Bool := !pteR e && !pteW e && !pteX e
/-- Every field of a table entry other than V and PFN is 0. -/
def pteTableZero (e : Nat) : Bool := nbits e 52 12 = 0 && nbits e 1 11 = 0

/-- Why a translation fails: cause, subcause, the VA that TVAL takes, the entry that failed (0 if none was read) and the level reached
(R231, R237). -/
structure PageFault where
  cause : Nat
  sub : Nat
  va : Nat
  pte : Nat := 0
  level : Nat := 4
  deriving DecidableEq, Repr

/-- A leaf as a walk or a TLB entry gives it: its value, its address, and its page size. -/
structure Leaf where
  pte : Nat
  addr : Nat
  size : Nat
  level : Nat
  deriving DecidableEq, Repr

/-- Checks 3 to 5 on a leaf of level 0 and, with S64 = 1, on the group entry that the walk uses in its place (R230): checks 3 and 4 of both come before check 5. -/
def walkLeaf (m : Memory) (va base : Nat) : Except PageFault Leaf :=
  let i := nbits va 12 9
  let at0 := base + 8 * i
  if memPoison m at0 8 then .error ⟨0x05, 8, va, 0, 0⟩ else
  let e := memRead m at0 8
  if !pteV e then .error ⟨0x05, 1, va, e, 0⟩
  else if pteTable e then .error ⟨0x05, 2, va, e, 0⟩
  else if pteS64 e then
    let at1 := base + 8 * (i / 16 * 16)
    if memPoison m at1 8 then .error ⟨0x05, 8, va, e, 0⟩ else
    let g := memRead m at1 8
    if !pteV g then .error ⟨0x05, 1, va, g, 0⟩
    else if nbit e 63 then .error ⟨0x05, 2, va, e, 0⟩
    else if nbit g 63 || pteTable g || !pteS64 g then .error ⟨0x05, 2, va, g, 0⟩
    else .ok ⟨g, at1, 65536, 0⟩
  else if nbit e 63 then .error ⟨0x05, 2, va, e, 0⟩
  else .ok ⟨e, at0, 4096, 0⟩
/-- One walk from the table at `base` (R228-R231): checks 2 to 5, level by level. A table entry that `cached` holds is not read again (R233). -/
def walkFrom (m : Memory) (cached : Nat → Option Nat) (va : Nat) : Nat → Nat → Except PageFault Leaf
  | 0, base => if !paLocal base then .error ⟨0x05, 6, va, 0, 0⟩ else walkLeaf m va base
  | n + 1, base =>
    if !paLocal base then .error ⟨0x05, 6, va, 0, n + 1⟩ else
    let at0 := base + 8 * nbits va (12 + 9 * (n + 1)) 9
    match cached at0 with
    | some e => walkFrom m cached va n (ptePfn e)
    | none =>
      if memPoison m at0 8 then .error ⟨0x05, 8, va, 0, n + 1⟩ else
      let e := memRead m at0 8
      if !pteV e then .error ⟨0x05, 1, va, e, n + 1⟩ else
      if pteTable e then
        if !pteTableZero e then .error ⟨0x05, 2, va, e, n + 1⟩ else walkFrom m cached va n (ptePfn e)
      else if nbit e 63 || n + 1 ≥ 3 then .error ⟨0x05, 2, va, e, n + 1⟩
      else .ok ⟨e, at0, if n + 1 = 2 then 2 ^ 30 else 2 ^ 21, n + 1⟩
/-- The table entries, with their addresses, that a walk that succeeds passes through. -/
def walkTables (m : Memory) (cached : Nat → Option Nat) (va stop : Nat) : Nat → Nat → List (Nat × Nat)
  | 0, _ => []
  | n + 1, base =>
    if n + 1 ≤ stop then [] else
    let at0 := base + 8 * nbits va (12 + 9 * (n + 1)) 9
    let e := (cached at0).getD (memRead m at0 8)
    (at0, e) :: walkTables m cached va stop n (ptePfn e)
/-- The walk cache of a die, for the walks from a root. -/
def walkCache (s : State) (die root : Nat) (addr : Nat) : Option Nat :=
  ((dieOf s die).walks.find? fun w => w.root = root && w.addr = addr).map WalkEnt.e

/-- What an access is, for checks 10-14 of R231; `rescue`: a write to ORPHX's buffer, whose KIND must be LOCAL (R443). -/
inductive Acc where
  | read | write | fetch | atomic | ldro | copyRead | copyWrite | rescue
  deriving DecidableEq, Repr

def Acc.writes (a : Acc) : Bool := a = .write || a = .atomic || a = .copyWrite || a = .rescue
/-- The access kind of a fault record (R237). -/
def Acc.code (a : Acc) : Nat := match a with | .fetch => 2 | .atomic => 3 | .write | .copyWrite | .rescue => 1 | _ => 0

/-- Who accesses: the core (512 and above: the dispatcher, which has no TLB here), the root of the address space, the task's key group, supervisor
mode, the task, and whether it is the core's copy engine, which translates through the cluster TLB (R233). -/
structure Ctx where
  core : Nat
  root : Nat
  key : Nat
  sup : Bool
  task : Nat := 0
  eng : Bool := false
  deriving DecidableEq, Repr

/-- A window address's fields (R225). -/
def winDie (pa : Nat) : Nat := nbits pa 42 2
def winCluster (pa : Nat) : Nat := nbits pa 42 2 * 32 + nbits pa 37 5
def winCore (pa : Nat) : Nat := winCluster pa * 4 + nbits pa 35 2
def winSpace (pa : Nat) : Nat := nbits pa 31 4
def winOff (pa : Nat) : Nat := nbits pa 0 31
/-- The byte of a core's scratchpad as a window address. -/
def scratchPa (core off : Nat) : Nat := 0xE000000000000 + (core / 128) * 2 ^ 42 + (core / 4 % 32) * 2 ^ 37 + (core % 4) * 2 ^ 35 + off

/-- Every granule that a page of `size` bytes touches agrees with its KIND (R219, R229). -/
def pageRange (s : State) (k : Kind) (e size : Nat) : Bool :=
  kindRange s k (ptePfn e) && ((List.range (max 1 (size / 0x10000000))).all fun i => kindRange s k (ptePfn e / size * size + min (size - 1) (0x10000000 * i))) &&
    kindRange s k (ptePfn e / size * size + size - 1)
/-- Checks 6 to 14 of R231 on a leaf, for `n` bytes at `va`; `kindOk` is the entry's own KIND limit (check 11). -/
def checkLeaf (s : State) (c : Ctx) (acc : Acc) (l : Leaf) (va n : Nat) : Except PageFault Unit :=
  let e := l.pte
  let bad := fun (cause sub : Nat) => (.error ⟨cause, sub, va, e, l.level⟩ : Except PageFault Unit)
  match kindOf (pteKind e) with
  | none => bad 0x05 5
  | some k =>
    let pa := ptePfn e / l.size * l.size + va % l.size
    if !pageRange s k e l.size then bad 0x05 5
    else if (pteW e && !pteR e) || ptePfn e % l.size != 0 then bad 0x05 3
    else if !pteT e && !c.sup then bad 0x06 4
    else if pteKey e != 0 && pteKey e != c.key then bad 0x06 5
    else if (acc = .fetch && !pteX e) then bad 0x06 3
    else if (acc != .fetch && acc != .write && acc != .copyWrite && acc != .rescue && !pteR e) then bad 0x06 1
    else if acc = .ldro && !(k = .loc || k = .coh || k = .ror) then bad 0x06 6
    else if acc = .atomic && (k = .mmio || (k = .window && !(winSpace pa = 0 && winCore pa = c.core))) then bad 0x06 6
    else if acc = .rescue && k != .loc then bad 0x06 6
    else if k = .mmio && acc = .fetch then bad 0x06 6
    else if k = .mmio && (acc = .copyRead || acc = .copyWrite) then bad 0x06 6
    else if k = .mmio && !((n = 4 || n = 8) && pa % n = 0) then bad 0x04 1
    else if acc.writes && k = .ror then bad 0x06 7
    else if acc.writes && pteCow e then bad 0x07 0
    else if acc.writes && !pteW e then bad 0x06 2
    else .ok ()

/-- What a translation gives for one piece of an access. -/
structure Xlat where
  va : Nat
  n : Nat
  pa : Nat
  kind : Kind
  sm : Bool
  tagged : Bool
  leaf : Leaf
  deriving DecidableEq, Repr

/-- The die whose walkers serve a context: its core's; a dispatcher has the walks of no die's cache. -/
def walkDie (c : Ctx) : Nat := dieOfCore c.core
/-- A fresh walk for a context (R228, R233). -/
def freshWalk (s : State) (c : Ctx) (va : Nat) : Except PageFault Leaf := walkFrom s.mem (walkCache s (walkDie c) c.root) va 4 c.root
/-- The TLB entries that a context looks in: a core's TLB, then its cluster's; a copy engine's cluster TLB only (R233). -/
def tlbView (s : State) (c : Ctx) : List TlbEnt :=
  if c.core ≥ 512 then [] else (if c.eng then [] else (coreOf s c.core).tlb) ++ (clusterOf s (clusterOfCore c.core)).tlb
/-- A cached translation, or a fresh walk (R233, R234). A write through an entry cached with D = 0, or a raw store through one with TSTALE = 0 on a TAGGED page, walks afresh
(R232). -/
def leafOf (s : State) (c : Ctx) (acc : Acc) (raw : Bool) (va : Nat) : Except PageFault Leaf :=
  if va ≥ 2 ^ 57 then .error ⟨0x05, 7, va, 0, 4⟩ else
  match (tlbView s c).find? (fun t => t.root = c.root && t.va ≤ va && va < t.va + t.size) with
  | some t =>
    let e := t.leaf.toNat
    if (acc.writes && !pteD e) || (raw && pteTagged e && !pteTstale e) then freshWalk s c va
    else .ok ⟨e, t.pte, t.size, if t.size = 2 ^ 30 then 2 else if t.size = 2 ^ 21 then 1 else 0⟩
  | none => freshWalk s c va

/-- Translates and checks one piece that lies in one 4 KiB page (R231). -/
def xlatPiece (s : State) (c : Ctx) (acc : Acc) (raw : Bool) (va n : Nat) : Except PageFault Xlat := do
  let l ← leafOf s c acc raw va
  checkLeaf s c acc l va n
  .ok { va := va, n := n, pa := ptePfn l.pte / l.size * l.size + va % l.size, kind := (kindOf (pteKind l.pte)).getD .loc,
        sm := pteSm l.pte, tagged := pteTagged l.pte, leaf := l }

/-! ## Pool regions (R282, R285) -/

/-- A PRT entry as a number. -/
def prtEntry (s : State) (i : Nat) : Nat := memRead s.mem (s.pool.prtbase.toNat + 32 * i) 32
def prtRmask (e : Nat) : Nat := nbits e 72 8
def prtLms (e : Nat) : Nat := nbits e 62 10
def prtKey (e : Nat) : Nat := nbits e 54 8
def prtState (e : Nat) : Nat := nbits e 51 3
def prtKind (e : Nat) : Nat := nbits e 49 2
def prtHead (e : Nat) : Nat := nbits e 46 3
def prtNgm1 (e : Nat) : Nat := nbits e 28 14
def prtGbase (e : Nat) : Nat := nbits e 14 14
/-- First address and length of the entry's region (R282). -/
def prtBase (e : Nat) : Nat := 0x8000000000000 + prtHead e * 0x100000000000 + prtGbase e * 0x10000000
def prtLen (e : Nat) : Nat := (prtNgm1 e + 1) * 0x10000000
/-- The entry that holds a pool address with STATE not 0: its index and value. -/
def regionOf (s : State) (pa : Nat) : Option (Nat × Nat) :=
  ((List.range 1024).map fun i => (i, prtEntry s i)).find? fun e =>
    prtState e.2 != 0 && prtBase e.2 ≤ pa && pa < prtBase e.2 + prtLen e.2
/-- R285 for a page's address on a pool aperture: PROT 9, or HOMELOST with the subcause of the region's STATE. -/
def regionCheck (s : State) (key : Nat) (x : Xlat) : Except PageFault Unit :=
  if !x.kind.pooled then .ok () else
  let bad := fun (cause sub : Nat) => (.error ⟨cause, sub, x.va, x.leaf.pte, x.leaf.level⟩ : Except PageFault Unit)
  match regionOf s x.pa with
  | none => bad 0x06 9
  | some (_, e) =>
    let kc := match x.kind with | .coh => 0 | .ror => 1 | _ => 2
    if prtKind e != kc || prtKey e != key then bad 0x06 9
    else if prtState e = 2 then bad 0x11 0
    else if prtState e = 3 then bad 0x11 2
    else if prtState e = 4 then bad 0x11 1
    else .ok ()

/-- Runs a check on each element, stopping at the first that fails. -/
def allOk {α β ε : Type} (f : α → Except ε β) : List α → Except ε (List β)
  | [] => .ok []
  | a :: l => do
    let b ← f a
    let r ← allOk f l
    .ok (b :: r)

/-- A check of every page that `n` bytes at `va` touch, in ascending order: R231, and then what is asked of the page beyond it. An access that crosses a page is no aligned one
(check 11). -/
def xlatEach (s : State) (c : Ctx) (acc : Acc) (raw : Bool) (va n : Nat) (more : Xlat → Except PageFault Unit) : Except PageFault (List Xlat) := do
  if va ≥ 2 ^ 57 then .error ⟨0x05, 7, va, 0, 4⟩ else
  allOk (fun p => do
    let x ← xlatPiece s c acc raw p.1 (if (pieces 4096 va n).length = 1 then n else 0)
    let x := { x with n := p.2 }
    more x
    .ok x) (pieces 4096 va n)
/-- R231 on every page that `n` bytes at `va` touch. -/
def xlatPages (s : State) (c : Ctx) (acc : Acc) (raw : Bool) (va n : Nat) : Except PageFault (List Xlat) := xlatEach s c acc raw va n fun _ => .ok ()

/-- R285 on every piece. -/
def regionsOk (s : State) (c : Ctx) (l : List Xlat) : Except PageFault Unit := do
  let _ ← allOk (regionCheck s c.key) l
  .ok ()

/-- Translates an access of `n` bytes at `va`: R231 on every page touched, and then R285 (R285, R419, R465). -/
def xlat (s : State) (c : Ctx) (acc : Acc) (raw : Bool) (va n : Nat) : Except PageFault (List Xlat) := do
  let l ← xlatPages s c acc raw va n
  regionsOk s c l
  .ok l
/-- Translates a vector access of `n` bytes at `va`: R231 and then R285 on each page touched, so that the first failing page decides (R478). -/
def xlatAscending (s : State) (c : Ctx) (acc : Acc) (raw : Bool) (va n : Nat) : Except PageFault (List Xlat) := xlatEach s c acc raw va n (regionCheck s c.key)

/-- A page fault of a strand access is a trap (R235). -/
def liftFault {α : Type} (r : Except PageFault α) : Except Stop α :=
  match r with
  | .ok a => .ok a
  | .error f => .error (.trap f.cause f.sub f.va)

/-- The context of a bank's accesses. -/
def ctxOf (s : State) (c b : Nat) : Ctx :=
  let k := bankOf s c b
  { core := c, root := k.root, key := k.key, sup := supervisor s c, task := k.task.getD 0 }
/-- The context of the word being executed. -/
def curCtx (s : State) : Ctx := ctxOf s s.curCore (curFg s)

/-! ## Cache lines (R217) -/

def allBytes : BitVec 128 := BitVec.allOnes 128
/-- The bytes of atom `a` of a line. -/
def atomMask (a : Nat) : BitVec 128 := BitVec.ofNat 128 ((2 ^ 32 - 1) <<< (32 * a))
/-- `n` bytes from offset `o` of a line. -/
def byteMask (o n : Nat) : BitVec 128 := BitVec.ofNat 128 ((2 ^ n - 1) <<< o)
/-- Spreads a byte mask to the bits of the data. -/
def spread (m : BitVec 128) : Nat → Nat → Nat
  | _, 0 => 0
  | i, n + 1 => (if m.getLsbD i then 255 <<< (8 * i) else 0) + spread m (i + 1) n
/-- Takes the bytes of `b` that the mask selects, the others of `a`. -/
def mixBytes (a b : BitVec 1024) (m : BitVec 128) : BitVec 1024 :=
  let k := BitVec.ofNat 1024 (spread m 0 128)
  (a &&& ~~~k) ||| (b &&& k)

def findLine (l : List Line) (ln : Nat) : Option Line := l.find? fun x => x.line = ln
/-- Inserts or replaces a line, keeping the line addresses rising. -/
def putLine : List Line → Line → List Line
  | [], x => [x]
  | y :: t, x => if x.line = y.line then x :: t else if x.line < y.line then x :: y :: t else y :: putLine t x
def dropLine (l : List Line) (ln : Nat) : List Line := l.filter fun x => x.line != ln

/-- The poison bits of a line's atoms at the homes. -/
def linePoison (m : Memory) (ln : Nat) : BitVec 4 :=
  BitVec.ofNat 4 ((List.range 4).foldl (fun acc a => if m.poison.contains (4 * ln + a) then acc + 2 ^ a else acc) 0)
/-- The 128 bytes of a line at the homes. -/
def homeLine (m : Memory) (ln : Nat) : BitVec 1024 := BitVec.ofNat 1024 (memRead m (128 * ln) 128)

/-- A write-back of selected bytes to the homes (R217, R221): poisoned atoms carry their mark; an atom written whole and clean loses it. -/
def homeMerge (m : Memory) (ln : Nat) (data : BitVec 1024) (mask : BitVec 128) (poison : BitVec 4) : Memory :=
  let m1 := (List.range 128).foldl (fun m i => if mask.getLsbD i then memSetByte m (128 * ln + i) (data.extractLsb' (8 * i) 8) else m) m
  (List.range 4).foldl (fun m a =>
    if mask &&& atomMask a = 0 then m
    else if poison.getLsbD a then setPoison m (4 * ln + a) true
    else if mask &&& atomMask a = atomMask a then setPoison m (4 * ln + a) false else m) m1

/-- Merges selected bytes into a cache line as a write of that cache does. -/
def lineMerge (x : Line) (data : BitVec 1024) (mask : BitVec 128) (poison : BitVec 4) (dirty : Bool) : Line :=
  let p := (List.range 4).foldl (fun acc a =>
    let full := mask &&& atomMask a = atomMask a
    let hit := mask &&& atomMask a ≠ 0
    let old := x.poison.getLsbD a
    let new := if hit then (poison.getLsbD a || (old && !full)) else old
    if new then acc + 2 ^ a else acc) 0
  { x with data := mixBytes x.data data mask, valid := x.valid ||| mask, dirty := if dirty then x.dirty ||| mask else x.dirty,
           poison := BitVec.ofNat 4 p }

/-- A line wholly valid, merged from the bytes beyond it under its dirty mask (R217): its dirty bytes are kept. -/
def lineFill (x : Line) (data : BitVec 1024) (poison : BitVec 4) : Line :=
  let p := (List.range 4).foldl (fun acc a =>
    let own := x.dirty &&& atomMask a
    if (x.poison.getLsbD a && own != 0) || (poison.getLsbD a && own != atomMask a) then acc + 2 ^ a else acc) 0
  { x with data := mixBytes data x.data x.dirty, valid := allBytes, poison := BitVec.ofNat 4 p }
/-- The line keeps only the bytes that the mask selects; an atom of which no byte is left has no mark of poison. -/
def lineKeep (x : Line) (m : BitVec 128) : Line :=
  let v := x.valid &&& m
  { x with valid := v, dirty := x.dirty &&& m,
           poison := BitVec.ofNat 4 ((List.range 4).foldl (fun acc a => if x.poison.getLsbD a && v &&& atomMask a != 0 then acc + 2 ^ a else acc) 0) }

/-! ## Points (R261) -/

/-- Where an access is performed. -/
inductive Point where
  | cache | home | north | south | unit
  deriving DecidableEq, Repr

/-- The pool agent of an address: north for HOST and heads 0-3, south for heads 4-7 (R280). -/
def agentOf (pa : Nat) : Point := if paPool pa && headOfPa pa ≥ 4 then .south else .north

/-- The point that a scope and a KIND give (R261). -/
def pointOf (scope : Nat) (k : Kind) (pa : Nat) : Point :=
  match k with
  | .window | .mmio => .unit
  | .loc => if scope ≤ 1 then .cache else .home
  | _ => if scope ≤ 1 then .cache else agentOf pa

/-- The head whose bytes serve an ROR address (R286): the lowest live replica on the reading agent's die, else the lowest on the other. -/
def rorHead (s : State) (e pa : Nat) : Nat :=
  let live := (List.range 8).filter fun h => nbit (prtRmask e) h && (headOf s h).state != 2
  let mine := live.filter fun h => (h ≥ 4) = (headOfPa pa ≥ 4)
  match mine ++ live with
  | h :: _ => h
  | [] => headOfPa pa
/-- The address at which a line's bytes lie: an ROR region's replica, else the address itself. -/
def replicaPa (s : State) (pa : Nat) : Nat :=
  if !paPool pa then pa else
  match regionOf s pa with
  | some (_, e) => if prtKind e = 1 then pa - headOfPa pa * 0x100000000000 + rorHead s e pa * 0x100000000000 else pa
  | none => pa

/-- A pool agent's cache. -/
def agentCache (s : State) (p : Point) : List Line := if p = .south then s.pool.south else s.pool.north
def setAgentCache (s : State) (p : Point) (l : List Line) : State :=
  if p = .south then { s with pool := { s.pool with south := l } } else { s with pool := { s.pool with north := l } }

/-! ## The lines of the pool agents (R284-R295, R362) -/

/-- The KIND of the pages beyond the caches that a line lies on. -/
def lineKind (s : State) (ln : Nat) : Kind :=
  if paHost (128 * ln) then .host
  else if !paPool (128 * ln) then .loc
  else match regionOf s (128 * ln) with
    | some (_, e) => if prtKind e = 0 then .coh else if prtKind e = 1 then .ror else .swf
    | none => .coh
/-- The key group of a pool line's region; 0 without one. -/
def lineKey (s : State) (ln : Nat) : Nat := match regionOf s (128 * ln) with | some (_, e) => prtKey e | none => 0
/-- The agent owns a COH line, or holds it at least shared (R288). -/
def owned (s : State) (ln : Nat) : Bool := s.pool.perms.contains (ln, true)
def permitted (s : State) (ln : Nat) : Bool := s.pool.perms.any fun e => e.1 = ln
/-- The permission on a COH line that the head grants on request, or that a snoop leaves; no directory stands for other lines (R286, R288). -/
def setPerm (s : State) (ln : Nat) (own : Option Bool) : State :=
  { s with pool := { s.pool with perms := (match own with | some o => [(ln, o)] | none => []) ++ s.pool.perms.filter fun e => e.1 != ln } }
/-- The line lies in a region that the device knows to have lapsed: the head refuses every request for it (R293). -/
def lapsedLine (s : State) (ln : Nat) : Bool := paPool (128 * ln) && (regionOf s (128 * ln)).any fun e => prtState e.2 = 3
def permit (s : State) (ln : Nat) (own : Bool) : State :=
  if lineKind s ln != .coh || owned s ln || (!own && permitted s ln) || lapsedLine s ln then s else setPerm s ln (some own)

/-- A pool agent waits to post a record (R236). -/
def agentWaits (s : State) (south : Bool) : Bool := (List.range 4).any fun d => postWaits s d (.agent south)
/-- The link of the head that serves the line is down (R300), or its pool agent waits to post a record (R236): what needs the head is held. A line of the host's memory needs the link of the
host port (R361). -/
def lineLinkDown (s : State) (ln : Nat) : Bool :=
  paHost (128 * ln) && !s.mgmt.hostLink || paPool (128 * ln) && ((headOf s (headOfPa (replicaPa s (128 * ln)))).downAt.isSome || agentWaits s (agentOf (128 * ln) = .south))
/-- The agent's dirty bytes of the line can go to the head: the link is up. -/
def canSend (s : State) (ln : Nat) : Bool := !lineLinkDown s ln
/-- Lines of a pool cache of 128 MiB (R20, R22). -/
def agentLines : Nat := 1048576
/-- The agent's cache has no room for the line: it is full of other lines, and links hold the dirty bytes of all of them (R22, R300). -/
def agentStuck (s : State) (ln : Nat) : Bool :=
  let l := agentCache s (agentOf (128 * ln))
  agentLines ≤ l.length && l.all fun x => x.line != ln && x.dirty != 0 && !canSend s x.line
/-- The agent may take dirty bytes of the line: it owns it, or the head can be asked (R288); and it has room for it, or sends it on. Bytes of the host's memory go over its link. -/
def canOwn (s : State) (ln : Nat) : Bool :=
  (!lineLinkDown s ln || (lineKind s ln != .coh && lineKind s ln != .host) || owned s ln) && (canSend s ln || !agentStuck s ln)

/-- A line as its head returns it (R295, R362): a line of a keyed region that was last written under another group fails its MAC, and its four atoms are poisoned. A region
with KEY 0 decrypts nothing: what a keyed region has written reads there as free values. -/
def headLine (s : State) (ln : Nat) : BitVec 1024 × BitVec 4 :=
  let src := replicaPa s (128 * ln) / 128
  let g := lineKey s ln
  match tfind s.pool.lineKeys src with
  | some k =>
    if k = g then (homeLine s.mem src, linePoison s.mem src)
    else if g != 0 then (homeLine s.mem src, 15)
    else (BitVec.ofNat 1024 (Config.freeNat (k * 2 ^ 64 + src)), linePoison s.mem src)
  | none => (homeLine s.mem src, linePoison s.mem src)
/-- Dirty bytes written at the head, the line under its region's key from then on; what stood there under another key is lost: in a keyed region the atoms not written whole are poisoned,
and with KEY 0, which has no MAC, their bytes are undefined (R362). -/
def headMerge (s : State) (ln : Nat) (data : BitVec 1024) (mask : BitVec 128) (poison : BitVec 4) : State :=
  let g := lineKey s ln
  let other := paPool (128 * ln) && (tfind s.pool.lineKeys ln).any (· != g)
  let m := homeMerge s.mem ln data mask poison
  let m := if !other then m
    else if g != 0 then (List.range 4).foldl (fun m a => if mask &&& atomMask a = atomMask a then m else setPoison m (4 * ln + a) true) m
    else (List.range 128).foldl (fun m i => if mask.getLsbD i then m else memUndef m (128 * ln + i) (128 * ln + i + 1) s.fresh) m
  let s := if other then useFresh s else s
  { s with mem := m, pool := if paPool (128 * ln) then { s.pool with lineKeys := tset s.pool.lineKeys ln g } else s.pool }

/-! ## Waking (R256, R257) -/

/-- A word as a wait on it finds it: beyond the caches, or for the scopes CORE and CLU in the core's cluster cache over that; its value, and whether it is poisoned. -/
def waitWord (s : State) (core scope pa : Nat) : Nat × Bool :=
  if paWindow pa then (memRead s.mem pa 8, memPoison s.mem pa 8) else
  let ln := pa / 128
  let head := headLine s ln
  let up := fun (d : BitVec 1024 × BitVec 4) (l : List Line) => match findLine l ln with
    | some x => (mixBytes d.1 x.data x.valid, d.2 ||| x.poison)
    | none => d
  let d := if paPool pa then up head (agentCache s (agentOf pa)) else (homeLine s.mem ln, linePoison s.mem ln)
  let d := if scope ≤ 1 then up d (clusterOf s (clusterOfCore core)).cache else d
  (nbits d.1.toNat (8 * (pa % 128)) 64, d.2.getLsbD (pa % 128 / 32))
/-- The condition of a wait on a word holds; a poisoned word ends every wait (R404, R499). -/
def condHolds (c : WaitCond) (w : Nat × Bool) : Bool :=
  w.2 || (match c with | .bit63 => nbit w.1 63 | .differs v => w.1 != v | .equals v => w.1 % 2 ^ 63 = v % 2 ^ 63 | .phaseNot _ | .any => true)

/-- The parked wait of a strand of a bank is woken; `sat`: what the satisfying write left, where the bank is not to go on (R324). -/
def wakeStrand (st : Strand) (sat : Option (Nat × Bool)) (b : Bank) : Bank :=
  let x := strandSel b st
  setStrand b st { x with park := x.park.map fun p => { p with woken := true, sat := sat } }
/-- What a wait entry finds satisfied: the word, when its condition holds. -/
def satisfied (s : State) (core scope : Nat) (key : WaitKey) (c : WaitCond) : Option (Nat × Bool) :=
  match key with
  | .word w => bif condHolds c (waitWord s core scope w) then some (waitWord s core scope w) else none
  | _ => none
/-- The strands of a bank go on in the foreground: no swap of the core is decided or under way. -/
def bankStays (s : State) (core bank : Nat) : Bool := let k := coreOf s core; k.fg = bank && !k.swapWant && k.swapAt.isNone
/-- A wait entry is woken: its strand goes on, or its task may be dispatched or selected again. -/
def wakeEnt (s : State) (e : WaitEnt) : State :=
  match e.st with
  | none => updTask s e.task fun t => match t.st with | .parked pa _ => { t with st := .parked pa true } | _ => t
  | some st =>
    if e.task = 0 then
      updStrand s e.core (coreOf s e.core).fg st fun x => { x with park := x.park.map fun p => { p with woken := true } }
    else
      let t := taskOf s e.task
      let v := satisfied s e.core e.scope e.key e.cond
      let s := updTask s e.task fun t => { t with runnable := true }
      match t.st with
      | .inBank => updBank s t.core t.bank (wakeStrand st (if bankStays s t.core t.bank then none else v))
      | _ => updTask s e.task fun t => { t with keep := t.keep.map (wakeStrand st v) }

/-- Wakes and frees every entry that the test selects. -/
def wakeWhere (s : State) (hit : WaitEnt → Bool) : State :=
  let inCl := s.clusters.flatMap fun k => k.2.waits.filter hit
  let inAg := (s.pool.waitsN ++ s.pool.waitsS).filter hit
  if inCl.isEmpty && inAg.isEmpty then s else
  let s' := (inCl ++ inAg).foldl wakeEnt s
  { s' with
    clusters := s'.clusters.map fun k => (k.1, { k.2 with waits := k.2.waits.filter fun e => !hit e })
    pool := { s'.pool with
      waitsN := s'.pool.waitsN.filter fun e => !hit e
      waitsS := s'.pool.waitsS.filter fun e => !hit e } }

/-- The wait's bytes are among those, its condition aside. -/
def waitsAt (hit : Nat → Nat → Bool) (e : WaitEnt) : Bool := match e.key with | .word w => hit w 8 | .tag w => hit w 2 | .bar _ _ => false
/-- A write has been performed on these bytes: it wakes the waits on words and tags among them whose condition now holds. -/
def wakeBytes (s : State) (a n : Nat) : State :=
  wakeWhere s fun e => waitsAt (fun w k => overlaps w k a n) e && (match e.key with | .word w => condHolds e.cond (waitWord s e.core e.scope w) | _ => true)
/-- A snoop of these bytes: the waits on them are woken, and check again (R256). -/
def wakeSnooped (s : State) (a n : Nat) : State := wakeWhere s (waitsAt fun w k => overlaps w k a n)

/-! ## Code that is stored to (R326) -/

/-- Bytes of a frame from which an unretired task has fetched are about to be stored to: what they held, `v`, is kept. -/
def keepCode (s : State) (pa n v : Nat) : State :=
  if s.codeOf.any fun e => e.1 = pa / 4096 then
    { s with codeOld := s.codeOld ++ (((List.range n).filter fun i => !(s.codeOld.any fun e => e.1 = pa + i)).map fun i => (pa + i, nbits v (8 * i) 8)) }
  else s
/-- The bytes at `pa` as they were before they were first stored to. -/
def oldCode (s : State) (pa n v : Nat) : Nat :=
  s.codeOld.foldl (fun v e => if pa ≤ e.1 && e.1 < pa + n then setBits v (8 * (e.1 - pa)) 8 e.2 else v) v
/-- A task has fetched from the frames of these addresses. -/
def noteFetch (s : State) (task : Nat) (pas : List Nat) : State :=
  let l := (pas.map fun pa => (pa / 4096, task)).filter fun e => !s.codeOf.contains e
  if task = 0 || l.isEmpty then s else { s with codeOf := s.codeOf ++ l }
/-- A task has retired: what no other unretired task has fetched from is no code that may be old. -/
def dropCode (s : State) (task : Nat) : State :=
  let l := s.codeOf.filter fun e => e.2 != task
  { s with codeOf := l, codeOld := s.codeOld.filter fun e => l.any fun f => f.1 = e.1 / 4096 }

/-! ## Writes at the homes -/

/-- The host gives up its copies of the lines that `n` bytes from `pa` touch; the bytes that it has modified are written back, and the waits
on them are woken (R257, R304). -/
def recallHost (s : State) (pa n : Nat) : State :=
  let hit := fun (ln : Nat) => overlaps (64 * ln) 64 pa n
  let put := fun (m : Memory) (h : HostCopy) => (List.range 64).foldl (fun m i => if h.mask.getLsbD i then homeWrite m (64 * h.line + i) 1 (nbits h.data.toNat (8 * i) 8) false else m) m
  let back := s.hostDirty.filter fun h => hit h.line
  let s := back.foldl (fun s h => keepCode s (64 * h.line) 64 (memRead s.mem (64 * h.line) 64)) s
  let s := { s with mem := back.foldl put s.mem, hostLines := s.hostLines.filter (fun l => !hit l), hostDirty := s.hostDirty.filter fun h => !hit h.line }
  back.foldl (fun s h => wakeBytes s (64 * h.line) 64) s
/-- A captured row that is accessed becomes the last used of its stack (R224). -/
def touchRow (s : State) (pa : Nat) : State :=
  if s.captured.contains (pa / 1024) then { s with captured := pa / 1024 :: s.captured.filter (· != pa / 1024) } else s
/-- A device's write at a home: the host's copies are invalidated first, its dirty data taking their place before it; the waits on the bytes are woken (R221, R257, R304). -/
def homeStore (s : State) (pa n v : Nat) (p : Bool) : State :=
  let s := touchRow (recallHost s pa n) pa
  wakeBytes { s with mem := homeWrite s.mem pa n v p } pa n

/-- The bit of a granule of 2 MiB of local HBM is set in the confidential map (R363). The host gives up its copies; bytes that it has modified are written before the bit is set, or are
discarded: which is a free choice. -/
def hideGranule (s : State) (g : Nat) : State :=
  if s.mgmt.confidential.contains g then s else
  let lo := g * 2 ^ 21
  let s := if nbit (freeAt s 661) 0 then recallHost s lo (2 ^ 21) else s
  useFresh { s with
    hostLines := s.hostLines.filter fun l => l * 64 / 2 ^ 21 != g
    hostDirty := s.hostDirty.filter fun h => h.line * 64 / 2 ^ 21 != g
    mgmt := { s.mgmt with confidential := insertAsc s.mgmt.confidential g } }
/-- Before the first write of a key group to a granule of local HBM is admitted, the granule's bit is set (R363). -/
def admitWrite (s : State) (c : Ctx) (acc : Acc) (x : Xlat) : State :=
  if acc.writes && c.key != 0 && paLocal x.pa then hideGranule s (x.pa / 2 ^ 21) else s

/-- Writes an entry's STATE, bits 53 to 51, the one field that the pool agent writes (R282). -/
def setPrtState (s : State) (i st : Nat) : State :=
  homeStore s (s.pool.prtbase.toNat + 32 * i + 6) 1 (setBits (nbits (prtEntry s i) 48 8) 3 3 st) false

/-- The access that a translation serves uses the leaf: those of A, D and TSTALE that it needs and that the leaf as walked or cached lacks are set in the entry by an atomic OR
before the access (R232); the TLBs and the walk cache hold what the walk has read (R233). A write is admitted to its granule first (R363). -/
def useXlat (s : State) (c : Ctx) (acc : Acc) (raw : Bool) (x : Xlat) : State :=
  let s := admitWrite s c acc x
  let bits := 32 + (if acc.writes then 64 else 0) + (if raw && x.tagged then 512 else 0)
  let ent : TlbEnt := { root := c.root, va := x.va / x.leaf.size * x.leaf.size, size := x.leaf.size,
                        leaf := BitVec.ofNat 64 (x.leaf.pte ||| bits), pte := x.leaf.addr }
  let keep := fun (l : List TlbEnt) (cap : Nat) => (ent :: l.filter (fun t => !(t.root == ent.root && t.va == ent.va && t.size == ent.size))).take cap
  let tables := walkTables s.mem (walkCache s (walkDie c) c.root) x.va x.leaf.level 4 c.root
  let hit := (tlbView s c).any fun t => t.root = ent.root && t.va = ent.va && t.size = ent.size
  let s := if x.leaf.pte ||| bits = x.leaf.pte then s else homeStore s x.leaf.addr 8 (memRead s.mem x.leaf.addr 8 ||| bits) false
  if c.core ≥ 512 then s else
  let s := if hit then s else updDie s (walkDie c) fun d =>
    { d with walks := (tables.filter fun e => !(d.walks.any fun w => w.root = c.root && w.addr = e.1)).map (fun e => ⟨c.root, e.1, e.2⟩) ++ d.walks }
  let s := if c.eng then s else updCore s c.core fun k => { k with tlb := keep k.tlb 256 }
  updCluster s (clusterOfCore c.core) fun k => { k with tlb := keep k.tlb 8192 }

/-- All pieces use their leaves. -/
def useXlats (s : State) (c : Ctx) (acc : Acc) (raw : Bool) (l : List Xlat) : State := l.foldl (fun s x => useXlat s c acc raw x) s

/-- A dirty line's bytes and the lines of a region without them, as an orphan (R292, R301). -/
def orphanOf (x : Line) (die cluster : Nat) (pool : Bool) (prt : Nat) (bad : Bool) : Orphan :=
  { line := x.line, data := x.data, dirty := x.dirty, poison := if bad then 15 else x.poison, die := die, cluster := cluster, pool := pool, prt := prt }
/-- A pool record (R303). -/
def poolRecord (task wid addr detail cursor idx code sub die head : Nat) : BitVec 512 :=
  record8 [code + sub * 2 ^ 8 + die * 2 ^ 16 + head * 2 ^ 18, 0, idx, cursor, detail, addr, wid, task]
/-- A record to a die's fault queue for a pool event without a task: D0 for the north agent, D2 for the south agent (R303). -/
def postPool (s : State) (head code sub addr detail idx : Nat) : State :=
  let die := if head < 4 then 0 else 2
  postRecord s die (poolRecord 0 0 addr detail 0 idx code sub die head) none (some (.agent (4 ≤ head)))

/-- Writes back the dirty bytes of a pool agent's line to the head; the line stays, clean. In a lapsed region the head refuses: the line is poisoned and orphaned, and a LEASE
record is posted (R293). A line whose link is down keeps its bytes. -/
def cleanAgentLine (s : State) (p : Point) (ln : Nat) : State :=
  match findLine (agentCache s p) ln with
  | none => s
  | some x =>
    if x.dirty = 0 || !canSend s ln then s else
    match regionOf s (128 * ln) with
    | some (i, e) =>
      if prtState e = 3 then
        let s := setAgentCache s p (dropLine (agentCache s p) ln)
        postPool { s with pool := { s.pool with orphans := s.pool.orphans ++ [orphanOf x 0 0 true i true] } } (headOfPa (128 * ln)) 0x12 0 (128 * ln) 0 i
      else setAgentCache (headMerge s ln x.data x.dirty x.poison) p (putLine (agentCache s p) { x with dirty := 0 })
    | none => setAgentCache (headMerge s ln x.data x.dirty x.poison) p (putLine (agentCache s p) { x with dirty := 0 })
/-- A line leaves a pool agent's cache, its dirty bytes written back; one that cannot be written back stays. -/
def evictAgent (s : State) (p : Point) (ln : Nat) : State :=
  let s := cleanAgentLine s p ln
  match findLine (agentCache s p) ln with
  | some x => if x.dirty = 0 then setAgentCache s p (dropLine (agentCache s p) ln) else s
  | none => s
/-- A line goes into a pool agent's cache; when that is full another, of a free choice, is evicted first. Where links hold every line of a full cache, the line is not kept: its dirty
bytes go on to the head. -/
def putAgent (s : State) (p : Point) (x : Line) : State :=
  let l := agentCache s p
  if agentStuck s x.line then (if x.dirty = 0 then s else headMerge s x.line x.data x.dirty x.poison) else
  let s := if (findLine l x.line).isSome || l.length < agentLines then s
    else
      let rest := l.filter fun y => y.dirty = 0 || canSend s y.line
      match rest[freeAt s 640 % rest.length]? with
      | some y => evictAgent (useFresh s) p y.line
      | none => s
  setAgentCache s p (putLine (agentCache s p) x)

/-! ## Writing back (R217, R262) -/

/-- Write-back of the selected dirty bytes of a line of cluster `k` to the point beyond the cluster caches. In a region that the device knows to have lapsed the head refuses the ownership
that it needs: the bytes are kept orphaned (R293). -/
def writeBeyond (s : State) (k ln : Nat) (data : BitVec 1024) (mask : BitVec 128) (poison : BitVec 4) : State :=
  if mask = 0 then s
  else if lapsedLine s ln then
    let o := orphanOf { line := ln, data := data, dirty := mask, poison := poison } (k / 32) (k % 32) false (((regionOf s (128 * ln)).map Prod.fst).getD 0) false
    { s with pool := { s.pool with orphans := s.pool.orphans ++ [o] } }
  else
  let s :=
    if !paPool (128 * ln) then
      let s := touchRow (recallHost s (128 * ln) 128) (128 * ln)
      { s with mem := homeMerge s.mem ln data mask poison }
    else
      let p := agentOf (128 * ln)
      let x := (findLine (agentCache s p) ln).getD { line := ln, kind := lineKind s ln }
      permit (putAgent s p (lineMerge x data mask poison true)) ln true
  wakeBytes s (128 * ln) 128

/-- Writes back the dirty bytes of a cluster's line; the line stays, clean. Dirty bytes that the agent cannot take stay (R288). -/
def cleanLine (s : State) (k ln : Nat) : State :=
  match findLine (clusterOf s k).cache ln with
  | none => s
  | some x =>
    if !canOwn s ln then s else
    let s := writeBeyond s k ln x.data x.dirty x.poison
    updCluster s k fun c => { c with cache := putLine c.cache { x with dirty := 0, wrote := [] } }
/-- A line leaves a cluster cache, its dirty bytes written back; one that cannot be written back stays. -/
def evictCluster (s : State) (k ln : Nat) : State :=
  let s := cleanLine s k ln
  match findLine (clusterOf s k).cache ln with
  | some x => if x.dirty = 0 then updCluster s k fun c => { c with cache := dropLine c.cache ln } else s
  | none => s
/-- A line that is to be admitted to a cluster cache of 4,096 sets of 16 ways (R22): in a full set another, of a free choice, is evicted first. -/
def clusterRoom (s : State) (k ln : Nat) : State :=
  let set := (clusterOf s k).cache.filter fun x => x.line % 4096 = ln % 4096
  if set.length < 16 || (findLine set ln).isSome then s else
  let rest := set.filter fun x => x.dirty = 0 || canOwn s x.line
  match rest[freeAt s 641 % rest.length]? with
  | some x => evictCluster (useFresh s) k x.line
  | none => s

/-- The cluster cache has no way for a line that it does not hold: links hold the dirty bytes of all 16 lines of the set (R22, R288). -/
def clusterStuck (s : State) (k ln : Nat) : Bool :=
  let set := (clusterOf s k).cache.filter fun x => x.line % 4096 = ln % 4096
  16 ≤ set.length && set.all fun x => x.line != ln && x.dirty != 0 && !canOwn s x.line

/-! ## The snoop filters (R20, R287) -/

/-- The clusters whose caches hold a line, as the snoop filter records it, and whether the pool cache holds it; neither for a line that read-only caches alone hold. -/
def filterEntry (s : State) (ln : Nat) : List Nat × Bool :=
  ((s.clusters.filter fun k => (findLine k.2.cache ln).isSome).map (·.1), (findLine (agentCache s (agentOf (128 * ln))) ln).isSome)
/-- The COH and HOST lines of the agent `p` that a cache of the device holds, in the set of a line: the filter has 262,144 sets of 16 ways. -/
def filterSet (s : State) (p : Point) (ln : Nat) : List Nat :=
  (((s.clusters.flatMap fun k => k.2.cache) ++ agentCache s p ++ s.cores.flatMap fun c => c.2.ro).filter fun x =>
    (x.kind = .coh || x.kind = .host) && agentOf (128 * x.line) = p && x.line % 262144 = ln % 262144).map Line.line |>.eraseDups
/-- A line is dropped from every cache of the device, its dirty bytes written back. -/
def recallLine (s : State) (ln : Nat) : State :=
  let s := s.clusters.foldl (fun s k => evictCluster s k.1 ln) s
  let s := evictAgent s (agentOf (128 * ln)) ln
  { s with cores := s.cores.map fun c => (c.1, { c.2 with ro := dropLine c.2.ro ln }) }
/-- A COH or HOST line that no cache holds is admitted to the filter: in a full set another, of a free choice, is recalled first. -/
def filterRoom (s : State) (kind : Kind) (ln : Nat) : State :=
  if kind != .coh && kind != .host then s else
  let p := agentOf (128 * ln)
  let set := filterSet s p ln
  if set.length < 16 || set.contains ln then s else
  let rest := set.filter fun x => canOwn s x && canSend s x
  match rest[freeAt s 642 % rest.length]? with
  | some x => recallLine (useFresh s) x
  | none => s

/-! ## Fills -/

/-- The atoms of a line that its head finds damaged when it is read: a media error may poison some, and a MAC failure of a line of a keyed region all four (R295, R362). Which it finds is a
free choice (log entry 195); the marks stay with the line at the head. -/
def damage (s : State) (ln : Nat) : BitVec 4 :=
  if !nbit (freeAt s 646) 0 then 0 else if lineKey s ln != 0 && nbit (freeAt s 646) 1 then 15 else BitVec.ofNat 4 (freeAt s 647)
def markDamage (s : State) (ln : Nat) (p : BitVec 4) : State :=
  let src := replicaPa s (128 * ln) / 128
  useFresh { s with mem := (List.range 4).foldl (fun m a => if p.getLsbD a then setPoison m (4 * src + a) true else m) s.mem }
/-- A line wholly valid in a pool agent's cache (R287): filled from the head, under at least a shared permission (R288). A head that knows the region to have lapsed refuses the fill: it
gives poisoned atoms, and the line is not kept (R293). -/
def agentFetch (s : State) (p : Point) (ln : Nat) : Line × State :=
  let kind := lineKind s ln
  let l := findLine (agentCache s p) ln
  match l.filter fun x => x.valid = allBytes with
  | some x => (x, s)
  | none =>
    let x := l.getD { line := ln, kind := kind }
    if lapsedLine s ln then (lineFill x (BitVec.ofNat 1024 (freeAt s 648)) 15, useFresh s) else
    let s := if l.isNone then filterRoom s kind ln else s
    let s := markDamage s ln (damage s ln)
    let y := lineFill x (headLine s ln).1 (headLine s ln).2
    (y, permit (putAgent s p y) ln false)
/-- A line's bytes as the point beyond the cluster caches gives them: the home for LOCAL, the host for HOST, else the pool agent's
cache, which holds pool lines only (R216). -/
def beyondFetch (s : State) (ln : Nat) : BitVec 1024 × BitVec 4 × State :=
  if !paPool (128 * ln) then (homeLine s.mem ln, linePoison s.mem ln, touchRow s (128 * ln))
  else
    let (y, s) := agentFetch s (agentOf (128 * ln)) ln
    (y.data, y.poison, s)

/-! ## Release and acquire actions (R262) -/

/-- The lines that `n` bytes from `a` touch. -/
def linesOf (a n : Nat) : List Nat := if n = 0 then [] else (List.range ((a + n - 1) / 128 - a / 128 + 1)).map (a / 128 + ·)

/-- Writes back what a core's strands and copy engine have written into its cluster's cache (R262): the bytes that the line records
under the core. -/
def releaseCore (s : State) (core : Nat) : State :=
  let k := clusterOfCore core
  (clusterOf s k).cache.foldl (fun s x =>
    let mask := tget x.wrote core 0 &&& x.dirty
    if mask = 0 || !canOwn s x.line then s else
    let s := writeBeyond s k x.line x.data mask x.poison
    updCluster s k fun c =>
      match findLine c.cache x.line with
      | none => c
      | some y => { c with cache := putLine c.cache { y with dirty := y.dirty &&& ~~~mask, wrote := y.wrote.map fun w => (w.1, w.2 &&& ~~~mask) } }) s

/-- The core's release action must wait: a line that it has to write back needs a permission that a link holds back (R288). -/
def releaseHeldBack (s : State) (core : Nat) : Bool :=
  (clusterOf s (clusterOfCore core)).cache.any fun x => tget x.wrote core 0 &&& x.dirty != 0 && !canOwn s x.line
/-- The release action of R262 at a scope: at DEV and SYS the core's dirty bytes are written back. -/
def releaseAction (s : State) (core scope : Nat) : State := if scope ≤ 1 then s else releaseCore s core

/-- A line without its clean bytes; a line without dirty bytes goes. -/
def dropCleanLine (x : Line) : Option Line := if x.dirty = 0 then none else some (lineKeep x x.dirty)

/-- Drops the clean bytes of the cluster's lines that the test selects; dirty bytes are kept (R262, R273). -/
def dropClean (s : State) (k : Nat) (pick : Line → Bool) : State :=
  updCluster s k fun c => { c with cache := c.cache.filterMap fun x => bif pick x then dropCleanLine x else some x }

/-- The acquire action of R262 at a scope: at DEV and SYS the clean bytes of SM pages are invalidated. -/
def acquireAction (s : State) (core scope : Nat) : State :=
  if scope ≤ 1 then s else dropClean s (clusterOfCore core) (fun x => x.sm)

/-- The acquire action before a task's first word (R273): SM and TAGGED pages, and the read-only cache. -/
def startAcquire (s : State) (core : Nat) : State :=
  let s := dropClean s (clusterOfCore core) (fun x => x.sm || x.tagged)
  updCore s core fun k => { k with ro := [] }

end Sys2Proof.Machine
end

