-- ==== Sys2Proof/Machine/Window.lean ====
section
/-! DEFINITION. Barriers (R248-R251, R378) and the on-chip windows (R137, R138, R202, R225, R226, R250). -/
namespace Sys2Proof.Machine

/-! ## Barriers -/

def barOf (c : Core) (n : Nat) : Bar := tget c.bars n {}

/-- The order in which changes of one cycle are applied (R378). -/
def BarKind.rank : BarKind → Nat
  | .initA => 0 | .initE => 1 | .expect => 2 | .arrive => 3 | .sub => 4

/-- One change applied to a barrier, and whether it is an arrival or a subtraction after which completion is decided (R248-R250). -/
def barApply (b : Bar) (x : BarChg) : Bar × Bool :=
  match x.kind with
  | .initA | .initE => ({ b with exp := BitVec.ofNat 12 x.n, arrv := BitVec.ofNat 12 x.n, err := x.err, undr := false }, false)
  | .expect => ({ b with pend := BitVec.ofNat 24 (b.pend.toNat + x.n), err := b.err || x.err }, false)
  | .arrive =>
    let under := b.arrv.toNat < x.n
    ({ b with arrv := BitVec.ofNat 12 (b.arrv.toNat - x.n), undr := b.undr || under, err := b.err || under || x.err },
      min x.n b.arrv.toNat != 0)
  | .sub =>
    let under := b.pend.toNat < x.n
    ({ b with pend := BitVec.ofNat 24 (b.pend.toNat - x.n), undr := b.undr || under, err := b.err || under || x.err }, true)

/-- The changes of a kind, in the order in which they reached the barrier. -/
def chgsOf (l : List BarChg) (r : Nat) : List BarChg := l.filter fun x => x.kind.rank = r

/-- A barrier after the changes of the cycle, with completion decided once (R249), and whether a phase completed. -/
def barSettle (b : Bar) (l : List BarChg) : Bar × Bool :=
  let ord := chgsOf l 0 ++ chgsOf l 1 ++ chgsOf l 2 ++ chgsOf l 3 ++ chgsOf l 4
  let r := ord.foldl (fun (a : Bar × Bool) x => let y := barApply a.1 x; (y.1, a.2 || y.2)) (b, false)
  if r.2 && r.1.arrv == 0 && r.1.pend == 0 then ({ r.1 with phase := r.1.phase + 1, arrv := r.1.exp }, true) else (r.1, false)

/-- Barrier `n` of a core as a read finds it: after the changes of the present cycle (R250, R383). -/
def barView (s : State) (core n : Nat) : Bar :=
  (barSettle (barOf (coreOf s core) n) (s.barChg.filter fun x => x.core = core && x.bar = n)).1
/-- A barrier is read: no further change reaches it in this cycle. -/
def noteBar (s : State) (core n : Nat) : State := { s with barRead := (core, n) :: s.barRead.filter (· != (core, n)) }

/-- PEND as an addition of this cycle finds it: additions come before the cycle's subtractions (R245, R378). -/
def barPend (s : State) (core n : Nat) : Nat :=
  (barOf (coreOf s core) n).pend.toNat +
    (((s.barChg ++ s.barLate).filter fun x => x.core = core && x.bar = n && x.kind = .expect).map BarChg.n).foldl (· + ·) 0

/-- A change reaches a barrier: in the present cycle, or, once it has been read in that, in the next (R250; log entry 142). -/
def barChange (s : State) (core n : Nat) (k : BarKind) (v : Nat) (err own : Bool := false) : State :=
  let x : BarChg := { core := core, bar := n, kind := k, n := v, err := err, own := own }
  if s.barRead.contains (core, n) then { s with barLate := s.barLate ++ [x] } else { s with barChg := s.barChg ++ [x] }

/-- Settles one barrier at the end of the cycle; a completed phase wakes its waiters. -/
def settleBar (s : State) (core n : Nat) : State :=
  let r := barSettle (barOf (coreOf s core) n) (s.barChg.filter fun x => x.core = core && x.bar = n)
  let s := updCore s core fun k => { k with bars := tset k.bars n r.1 }
  if r.2 then wakeWhere s (fun e => e.key = .bar core n) else s

/-- Settles every barrier that the cycle changed; the changes that wait for the next cycle reach their barriers then. -/
def settleBars (s : State) : State :=
  let keys := (s.barChg.map fun x => (x.core, x.bar)).eraseDups
  { keys.foldl (fun s k => settleBar s k.1 k.2) s with barChg := s.barLate, barLate := [], barRead := [] }

/-- The state of a barrier as one number (R248). -/
def barWord (b : Bar) : Nat :=
  b.pend.toNat + b.arrv.toNat * 2 ^ 24 + b.exp.toNat * 2 ^ 36 + b.err.toNat * 2 ^ 48 + b.undr.toNat * 2 ^ 49 + b.phase.toNat * 2 ^ 64

/-! ## Register banks in the windows (R137, R138) -/

/-- The status word of a vector register; a mask register's ET reads as 0 (R122, R127). -/
def statusWord (r : VReg) (mask : Bool) : Nat :=
  (if mask then 0 else r.et.toNat) + r.rc.toNat * 2 ^ 4 + r.ll.toNat * 2 ^ 14 + r.can.toNat * 2 ^ 38 + r.poi.toNat * 2 ^ 39 + r.stale.toNat * 2 ^ 40

/-- What an offset of spaces 1-4 holds. -/
inductive WinItem where
  | vpair (n : Nat) | vstat (n : Nat) | xreg (n : Nat) | sreg (n : Nat) | ireg (n : Nat) | poiMap (file : Nat)
  | kpair (n : Nat) | kstat (n : Nat) | slot (q e : Nat) | blockPair (q b : Nat) | blockStat (q b : Nat)
  | ctl (q : Nat) | slotPoi (q : Nat)
  deriving DecidableEq, Repr

/-- The item at an offset of the vector spaces (`vec`) or the others: its first offset, its size and what it is (R137). -/
def winItem (vec : Bool) (o : Nat) : Option (Nat × Nat × WinItem) :=
  if vec then
    if o < 0x8000 then some (o / 512 * 512, 512, .vpair (o / 512))
    else if o < 0x8200 then some (o / 8 * 8, 8, .vstat ((o - 0x8000) / 8))
    else none
  else
    if o < 0x100 then some (o / 8 * 8, 8, .xreg (o / 8))
    else if o < 0x300 then some (o / 8 * 8, 8, .sreg ((o - 0x100) / 8))
    else if o < 0x320 then some (o / 4 * 4, 4, .ireg ((o - 0x300) / 4))
    else if 0x380 ≤ o ∧ o < 0x398 then some (o / 8 * 8, 8, .poiMap ((o - 0x380) / 8))
    else if 0x600 ≤ o ∧ o < 0x2400 then some (o / 512 * 512, 512, .kpair ((o - 0x400) / 512))
    else if 0x2408 ≤ o ∧ o < 0x2480 then some (o / 8 * 8, 8, .kstat ((o - 0x2400) / 8))
    else if 0x3000 ≤ o ∧ o < 0x3800 then some (o / 8 * 8, 8, .slot ((o - 0x3000) / 256) (o % 256 / 8))
    else if 0x3800 ≤ o ∧ o < 0x3A00 then some (o / 8 * 8, 8, .slot (12 + (o - 0x3800) / 128) (o % 128 / 8))
    else if 0x4000 ≤ o ∧ o < 0x8000 then some (o / 512 * 512, 512, .blockPair (8 + (o - 0x4000) / 4096) (o % 4096 / 512))
    else if 0x8000 ≤ o ∧ o < 0x8100 then some (o / 8 * 8, 8, .blockStat (8 + (o - 0x8000) / 64) (o % 64 / 8))
    else if 0x9000 ≤ o ∧ o < 0x9080 then some (o / 8 * 8, 8, .ctl ((o - 0x9000) / 8))
    else if (0x9080 ≤ o ∧ o < 0x90C0) ∨ (0x90E0 ≤ o ∧ o < 0x9100) then some (o / 8 * 8, 8, .slotPoi ((o - 0x9080) / 8))
    else none

/-- The POI bits of a list of registers as a bitmap. -/
def poiBits (n : Nat) (f : Nat → Bool) : Nat := (List.range n).foldl (fun a i => if f i then a + 2 ^ i else a) 0

/-- A register as a window read finds it: the undefined value that it holds while a result to it is in flight (R3, R307). -/
def winVec (fl : List Flight) (d : Dest) (file n : Nat) (r : VReg) : VReg :=
  match pendingTo fl d with | some f => undefPhys f file n | none => r
/-- A scalar, address or index register as a window read finds it: its value and its poison. -/
def winReg (fl : List Flight) (d : Dest) (k : Nat) (r : Nat × Bool) : Nat × Bool :=
  match pendingTo fl d with | some f => (freeOf f.tag k, false) | none => r

/-- The value of an item, and whether it is poisoned. -/
def winGet (b : Bank) : WinItem → Nat × Bool
  | .vpair n => let r := winVec b.se.flight (.vec n) 0 n (tget b.v n {}); (r.pairs.toNat, r.poi)
  | .vstat n => (statusWord (winVec b.se.flight (.vec n) 0 n (tget b.v n {})) false, false)
  | .xreg n => if n = 0 then (0, false) else let r := tget b.x n {}; winReg b.sa.flight (.reg n) n (r.v.toNat, r.poi)
  | .sreg n => if n = 0 then (0, false) else let r := tget b.s n {}; winReg b.se.flight (.reg n) n (r.v.toNat, r.poi)
  | .ireg n => let r := tget b.i n {}; winReg b.sm.flight (.idx n) (100 + n) (r.v.toNat, r.poi)
  | .poiMap f =>
    (if f = 0 then poiBits 32 (fun n => (tget b.x n {}).poi) else if f = 1 then poiBits 64 (fun n => (tget b.s n {}).poi)
     else poiBits 8 (fun n => (tget b.i n {}).poi), false)
  | .kpair n => let r := winVec b.se.flight (.mask n) 1 n (tget b.k n {}); (r.pairs.toNat, r.poi)
  | .kstat n => (statusWord (winVec b.se.flight (.mask n) 1 n (tget b.k n {})) true, false)
  | .slot q e => let r := (tget (tget b.q q {}).slots e {}).r; (r.v.toNat, r.poi)
  | .blockPair q k => let r := tget (tget b.sq q {}).slots k {}; (r.pairs.toNat, r.poi)
  | .blockStat q k => (statusWord (tget (tget b.sq q {}).slots k {}) false, false)
  | .ctl q =>
    if 8 ≤ q ∧ q < 12 then
      let k := tget b.sq q {}; (k.head + k.tail * 2 ^ 8 + k.count * 2 ^ 16 + k.bound.isSome.toNat * 2 ^ 24, false)
    else let k := tget b.q q {}; (k.head + k.tail * 2 ^ 8 + k.count * 2 ^ 16, false)
  | .slotPoi q => (poiBits (queueDepth q) (fun e => (tget (tget b.q q {}).slots e {}).r.poi), false)

/-- A vector or mask register after a window write: its RC, LL and CAN become undefined values, kept until it is rebuilt (R122, R138). -/
def winStale (s : State) (r : VReg) (pairs : Nat) (et : BitVec 4) (p : Bool) : VReg :=
  { pairs := BitVec.ofNat 4096 pairs, et := et, rc := BitVec.ofNat 10 (freeAt s 411), ll := BitVec.ofNat 24 (freeAt s 412),
    can := nbit (freeAt s 413) 0, poi := r.poi || p, stale := true }

/-- A result in flight to a register that a window write reaches no longer lands in it (R138). -/
def killDest (x : StrandSt) (d : Dest) : StrandSt :=
  { x with flight := x.flight.map fun f => if !f.landed && f.dests.contains d then { f with killed := f.killed ++ [d] } else f }

/-- A vector register after a window write; undefined as a whole when a result to it was in flight. -/
def winVecWrite (s : State) (fl : List Flight) (d : Dest) (r : VReg) (pairs : Nat) (et : BitVec 4) (p : Bool) : VReg :=
  if (pendingTo fl d).isSome then winStale s r (freeAt s 414) (BitVec.ofNat 4 (freeAt s 416)) p else winStale s r pairs et p

/-- A scalar, address or index register's new value; undefined when a result to it was in flight. -/
def winRegWrite (s : State) (fl : List Flight) (d : Dest) (v : Nat) : Nat := if (pendingTo fl d).isSome then freeAt s 415 else v

/-- The register image that a status word written to a block slot gives: its fields are stored, and poisoned data sets POI (R137, R138; log entry 150). -/
def statusIn (r : VReg) (v : Nat) (p : Bool) : VReg :=
  { r with et := BitVec.ofNat 4 v, rc := BitVec.ofNat 10 (v / 2 ^ 4), ll := BitVec.ofNat 24 (v / 2 ^ 14), can := nbit v 38, poi := nbit v 39 || p, stale := nbit v 40 }

/-- Stores an item's new value (R138). `etIn`: the write reaches bits [3:0] of a status word. -/
def winPut (s : State) (b : Bank) (it : WinItem) (v : Nat) (etIn p : Bool) : Bank :=
  match it with
  | .vpair n =>
    let r := tget b.v n {}
    { b with v := tset b.v n (winVecWrite s b.se.flight (.vec n) r v r.et p), se := killDest b.se (.vec n) }
  | .vstat n =>
    let r := tget b.v n {}
    { b with v := tset b.v n (winVecWrite s b.se.flight (.vec n) r r.pairs.toNat (if etIn then BitVec.ofNat 4 v else r.et) p),
             se := killDest b.se (.vec n) }
  | .xreg n =>
    if n = 0 then b else
    { b with x := tset b.x n { v := BitVec.ofNat 64 (winRegWrite s b.sa.flight (.reg n) v), poi := p }, sa := killDest b.sa (.reg n) }
  | .sreg n =>
    if n = 0 then b else
    { b with s := tset b.s n { v := BitVec.ofNat 64 (winRegWrite s b.se.flight (.reg n) v), poi := p }, se := killDest b.se (.reg n) }
  | .ireg n =>
    { b with i := tset b.i n { v := BitVec.ofNat 32 (winRegWrite s b.sm.flight (.idx n) v), poi := p }, sm := killDest b.sm (.idx n) }
  | .kpair n =>
    let r := tget b.k n {}
    { b with k := tset b.k n (winVecWrite s b.se.flight (.mask n) r v r.et p), se := killDest b.se (.mask n) }
  | .kstat n =>
    let r := tget b.k n {}
    { b with k := tset b.k n (winVecWrite s b.se.flight (.mask n) r r.pairs.toNat r.et p), se := killDest b.se (.mask n) }
  | .slot q e =>
    let k := tget b.q q {}
    let o := tget k.slots e {}
    let st := if q < 8 then Strand.a else Strand.e
    let x := strandSel b st
    setStrand { b with q := tset b.q q { k with slots := tset k.slots e { o with r := { v := BitVec.ofNat 64 (winRegWrite s x.flight (.queue q e) v), poi := p } } } }
      st (killDest x (.queue q e))
  | .blockPair q e =>
    let k := tget b.sq q {}
    { b with sq := tset b.sq q { k with slots := tset k.slots e { tget k.slots e {} with pairs := BitVec.ofNat 4096 v, poi := p } } }
  | .blockStat q e =>
    let k := tget b.sq q {}
    { b with sq := tset b.sq q { k with slots := tset k.slots e (statusIn (tget k.slots e {}) v p) } }
  | .poiMap _ | .ctl _ | .slotPoi _ => b

/-- The vector register, mask register or block slot that an item belongs to: its file, its number and what it holds. -/
def winImage (b : Bank) : WinItem → Option (Nat × Nat × VReg)
  | .vpair n | .vstat n => some (0, n, tget b.v n {})
  | .kpair n | .kstat n => some (1, n, tget b.k n {})
  | .blockPair q e | .blockStat q e => some (2, 8 * q + e, tget (tget b.sq q {}).slots e {})
  | _ => none
/-- What an item's register held before the first window write of this cycle is kept for the words that issue in it (R118). -/
def keepOld (s : State) (core bank : Nat) (it : WinItem) : State :=
  match winImage (bankOf s core bank) it with
  | none => s
  | some (f, n, r) =>
    if s.winOld.any fun e => e.core = core && e.bank = bank && e.file = f && e.n = n then s
    else { s with winOld := s.winOld ++ [{ core := core, bank := bank, file := f, n := n, r := r }] }

/-! ## Accumulator memory and weight buffer (R197, R202, R225) -/

/-- Row `r` of a tile: rows that nothing has written since the tile was allocated hold undefined values (R57). -/
def accRow (t : AccTile) (r : Nat) : BitVec 12288 :=
  match tfind t.rows r with
  | some v => v
  | none => match t.undef with
    | some g => BitVec.ofNat 12288 (Config.freeNat (g + r))
    | none => 0

def accTile (k : Cluster) (t : Nat) : AccTile := tget k.acc t {}
def setTile (k : Cluster) (t : Nat) (x : AccTile) : Cluster := { k with acc := tset k.acc t x }
/-- The state word of a tile (R202). -/
def accWord (t : AccTile) : Nat := t.aft.toNat + 2 * t.sat.toNat + 4 * t.poi.toNat
/-- Is an atom of the bytes poisoned. -/
def accPoison (t : AccTile) (off n : Nat) : Bool := (atomsOf off n).any t.poison.contains
/-- The poisoned atoms after a write of `n` bytes at an offset of the tile (R136, R222). -/
def accMark (t : AccTile) (off n : Nat) (p : Bool) : AccTile :=
  { t with poison := (atomsOf off n).foldl (fun l a =>
      if p then insertAsc l a else if off ≤ 32 * a ∧ 32 * a + 32 ≤ off + n then l.filter (· != a) else l) t.poison }
/-- Bytes `o` to `o + n - 1` of a row. -/
def rowBytes (o n : Nat) : BitVec 1536 := BitVec.ofNat 1536 ((2 ^ n - 1) <<< o)
/-- A MOLA has corrected the bytes of a row (R204). -/
def molaMark (t : AccTile) (r o n : Nat) : AccTile := { t with mola := tset t.mola r (tget t.mola r 0 ||| rowBytes o n) }
/-- The bytes of a row have been replaced: no MOLA stands before what is added to them next (R204). -/
def molaClear (t : AccTile) (r o n : Nat) : AccTile :=
  let m := tget t.mola r 0 &&& ~~~ rowBytes o n
  { t with mola := if m = 0 then tdel t.mola r else tset t.mola r m }
/-- Writes `n` bytes at byte `o` of row `r`. -/
def accPut (t : AccTile) (r o n v : Nat) (p : Bool) : AccTile :=
  molaClear (accMark { t with rows := tset t.rows r (BitVec.ofNat 12288 (setBits (accRow t r).toNat (8 * o) (8 * n) v)) } (1536 * r + o) n p) r o n

def weightSlot (k : Cluster) (n : Nat) : Option WSlot := tfind k.slots n

/-! ## Reads and writes of a window (R226) -/

/-- One byte of a window, and whether it is poisoned. Reserved offsets read as 0. -/
def winByte (s : State) (pa : Nat) : Nat × Bool :=
  let o := winOff pa
  let sp := winSpace pa
  if nbits pa 44 4 != 0 then (0, false)
  else if sp = 0 then (if o < 0x200000 then ((memByte s.mem pa).toNat, memPoison s.mem pa 1) else (0, false))
  else if sp ≤ 4 then
    match winItem (sp ≤ 2) o with
    | none => (0, false)
    | some (base, _, it) =>
      let r := winGet (landBank (bankOf s (winCore pa) ((sp + 1) % 2)) (coreTime s (winCore pa))) it
      (nbits r.1 (8 * (o - base)) 8, r.2)
  else if sp = 5 then (if o < 0x8000 then (nbits (barWord (barView s (winCore pa) (o / 16))) (8 * (o % 16)) 8, false) else (0, false))
  else if nbits pa 35 2 != 0 then (0, false)
  else if sp = 6 then
    let k := clusterOf s (winCluster pa)
    if o < 0x600000 then
      let t := accTile k (o / 196608)
      let p := o % 196608
      (nbits (accRow t (p / 1536)).toNat (8 * (p % 1536)) 8, accPoison t p 1)
    else if o < 0x600100 then (nbits (accWord (accTile k ((o - 0x600000) / 8))) (8 * (o % 8)) 8, false)
    else (0, false)
  else if sp = 7 then
    match weightSlot (clusterOf s (winCluster pa)) (o / 0x10000) with
    | some w => (nbits w.bytes (8 * (o % 0x10000)) 8, w.marks.contains (o % 0x10000 / 32))
    | none => (0, false)
  else (0, false)

/-- `n` bytes of windows from `pa`, little-endian. -/
def winRead (s : State) (pa : Nat) : Nat → Nat × Bool
  | 0 => (0, false)
  | n + 1 => let b := winByte s pa; let r := winRead s (pa + 1) n; (b.1 + 256 * r.1, b.2 || r.2)

/-- The barriers that a window read of `n` bytes reads (R250). -/
def noteBars (s : State) (pa n : Nat) : State :=
  if winSpace pa = 5 && winOff pa < 0x8000 && nbits pa 44 4 = 0 then
    (List.range ((winOff pa + n + 15) / 16 - winOff pa / 16)).foldl (fun s i => noteBar s (winCore pa) (winOff pa / 16 + i)) s
  else s

/-- A bank is being swapped, or is the shadow bank of a spill or restore (R138). -/
def bankBusy (c : Core) (b : Nat) : Bool := c.swapAt.isSome || (c.spillAt.isSome && b == shadow c)

/-- A write of the bytes of one item or one byte range of a window (R138, R226, R250). `k` bytes at `pa`. -/
def winPiece (s : State) (pa k v : Nat) (p : Bool) : State :=
  let o := winOff pa
  let sp := winSpace pa
  if nbits pa 44 4 != 0 then s
  else if sp = 0 then (if o < 0x200000 then { s with mem := homeWrite s.mem pa k v p } else s)
  else if sp ≤ 4 then
    let core := winCore pa
    let bk := (sp + 1) % 2
    if bankBusy (coreOf s core) bk then updCore s core fun c => { c with held := c.held ++ [{ pa := pa, n := k, v := v, poison := p }] }
    else
      match winItem (sp ≤ 2) o with
      | none => s
      | some (base, _, it) =>
        let s := keepOld (landCore s core) core bk it
        let old := (winGet (bankOf s core bk) it).1
        useFresh (updBank s core bk fun b => winPut s b it (setBits old (8 * (o - base)) (8 * k) v) (o == base) p)
  else if sp = 6 && nbits pa 35 2 == 0 && o < 0x600000 then
    updCluster s (winCluster pa) fun c =>
      setTile c (o / 196608) (accPut (accTile c (o / 196608)) (o % 196608 / 1536) (o % 1536) k v p)
  else s

/-- Bytes from `pa` to the end of its item. -/
def winSpan (pa : Nat) : Nat :=
  let o := winOff pa
  let sp := winSpace pa
  if sp = 0 then 32 - o % 32
  else if sp ≤ 4 then (match winItem (sp ≤ 2) o with | some (base, n, _) => base + n - o | none => 4 - o % 4)
  else if sp = 6 then 1536 - o % 1536
  else 16 - o % 16

/-- Splits a write at the ends of items. -/
def winSplit (s : State) (p : Bool) : Nat → Nat → Nat → Nat → State
  | 0, _, _, _ => s
  | fuel + 1, pa, n, v =>
    if n = 0 then s else
    let k := min n (winSpan pa)
    winSplit (winPiece s pa k (v % 256 ^ k) p) p fuel (pa + k) (n - k) (v / 256 ^ k)

/-- A window write of `n` bytes performed at the target unit. In space 5 only an aligned 8-byte write acts, as one action (R250). -/
def winWrite (s : State) (pa n v : Nat) (p : Bool) : State :=
  if winSpace pa = 5 then
    if n = 8 ∧ pa % 8 = 0 ∧ winOff pa < 0x8000 ∧ nbits pa 44 4 = 0 then
      if pa % 16 = 0 then barChange s (winCore pa) (winOff pa / 16) .sub (v % 2 ^ 24) p
      else barChange s (winCore pa) (winOff pa / 16) .arrive (v % 2 ^ 12) p
    else s
  else winSplit s p n pa n v

/-- The held writes of a core are performed (R138). -/
def releaseHeld (s : State) (core : Nat) : State :=
  let l := (coreOf s core).held
  let s := updCore s core fun c => { c with held := [] }
  l.foldl (fun s h => winPiece s h.pa h.n h.v h.poison) s

end Sys2Proof.Machine
end

