-- ==== Sys2Proof/Machine/Point.lean ====
section
/-! DEFINITION. Reads, writes and atomics at the points of R261: cluster cache, home, pool agent, target unit. MMIO stands in Mmio.lean. -/
namespace Sys2Proof.Machine

/-- A store that the head refuses in a lapsed region is discarded, and what the agent holds dirty of its line is kept orphaned (R293). -/
def storeRefused (s : State) (ln : Nat) : State :=
  let p := agentOf (128 * ln)
  match findLine (agentCache s p) ln with
  | some x =>
    let o := if x.dirty = 0 then [] else [orphanOf x 0 0 true (((regionOf s (128 * ln)).map Prod.fst).getD 0) false]
    setAgentCache { s with pool := { s.pool with orphans := s.pool.orphans ++ o } } p (dropLine (agentCache s p) ln)
  | none => s
/-- A write of up to one line performed at the point beyond the cluster caches: home, host or pool agent; host copies are invalidated (R304) and
waiters woken (R257). -/
def storeBeyond (s : State) (pa n v : Nat) (p : Bool) : State :=
  if lapsedLine s (pa / 128) then storeRefused s (pa / 128)
  else if paPool pa then
    let ln := pa / 128
    let s := if (findLine (agentCache s (agentOf pa)) ln).isNone then filterRoom s (lineKind s ln) ln else s
    let x := (findLine (agentCache s (agentOf pa)) ln).getD { line := ln, kind := lineKind s ln }
    let o := pa % 128
    let mask := byteMask o n
    let pm : BitVec 4 := if p then 15 else 0
    let s := permit (putAgent s (agentOf pa) (lineMerge x (BitVec.ofNat 1024 ((v % 256 ^ n) <<< (8 * o))) mask pm true)) ln true
    wakeBytes s pa n
  else homeStore s pa n v p

/-- A read of up to one line at the point beyond the cluster caches. -/
def loadBeyond (s : State) (pa n : Nat) : (Nat × Bool) × State :=
  let (d, p, s) := beyondFetch s (pa / 128)
  let o := pa % 128
  ((nbits d.toNat (8 * o) (8 * n), (atomsOf o n).any fun a => p.getLsbD a), s)

/-- Writes `n` bytes that may cross lines, at the point beyond the caches, in ascending pieces of a line. -/
def storeRange (s : State) (pa n v : Nat) (p : Bool) : State :=
  ((pieces 128 pa n).foldl (fun (a : State × Nat) q => (storeBeyond a.1 q.1 q.2 (a.2 % 256 ^ q.2) p, a.2 / 256 ^ q.2)) (s, v)).1
/-- Reads `n` bytes that may cross lines, at the point beyond the caches. -/
def loadRange (s : State) (pa n : Nat) : (Nat × Bool) × State :=
  (pieces 128 pa n).foldl (fun (a : (Nat × Bool) × State) q =>
    let r := loadBeyond a.2 q.1 q.2
    ((a.1.1 + r.1.1 <<< (8 * (q.1 - pa)), a.1.2 || r.1.2), r.2)) ((0, false), s)

/-- Does the line hold the `n` bytes from offset `o` as valid bytes. -/
def lineHas (x : Line) (o n : Nat) : Bool := x.valid &&& byteMask o n = byteMask o n

/-- The line of a cluster cache that a read finds (R217): a line that does not hold the bytes, or has dirty bytes and is not wholly valid, is fetched and merged under its dirty mask. It
takes the marks of the page through which it is filled (R263). A fill for which there is no way, or which the head has refused, is not kept. -/
def readLine (s : State) (k : Nat) (q : Piece) : Line × State :=
  let ln := q.pa / 128
  let s := if (findLine (clusterOf s k).cache ln).isSome then s else clusterRoom (filterRoom s q.kind ln) k ln
  let x := (findLine (clusterOf s k).cache ln).getD { line := ln }
  if lineHas x (q.pa % 128) q.n && (x.dirty = 0 || x.valid = allBytes) then (x, s) else
  let (d, p, s) := beyondFetch s ln
  let x := { lineFill x d p with sm := q.sm, tagged := q.tagged, kind := q.kind }
  (x, if clusterStuck s k ln || lapsedLine s ln then s else updCluster s k fun c => { c with cache := putLine c.cache x })
/-- A read in the cluster cache. -/
def readCluster (s : State) (k : Nat) (q : Piece) : (Nat × Bool) × State :=
  let o := q.pa % 128
  let (x, s) := readLine s k q
  ((nbits x.data.toNat (8 * o) (8 * q.n), (atomsOf o q.n).any fun a => x.poison.getLsbD a), s)

/-- A write in the cluster cache (R217): it allocates its line without reading it; the bytes are dirty, and recorded under every core that has
written them since they were last clean (R262). Where there is no way for the line, the bytes go on at once. -/
def writeCluster (s : State) (k core : Nat) (q : Piece) (v : Nat) (p : Bool) : State :=
  let ln := q.pa / 128
  let o := q.pa % 128
  let mask := byteMask o q.n
  let s := if (findLine (clusterOf s k).cache ln).isSome then s else clusterRoom (filterRoom s q.kind ln) k ln
  let x := (findLine (clusterOf s k).cache ln).getD { line := ln, sm := q.sm, tagged := q.tagged, kind := q.kind }
  let y := lineMerge x (BitVec.ofNat 1024 ((v % 256 ^ q.n) <<< (8 * o))) mask (if p then 15 else 0) true
  let wrote := tset y.wrote core (tget y.wrote core 0 ||| mask)
  if clusterStuck s k ln then writeBeyond s k ln y.data y.dirty y.poison else
  let s := updCluster s k fun c => { c with cache := putLine c.cache { y with wrote := wrote } }
  wakeBytes s q.pa q.n

/-- Drops bytes from a cluster's cache: a store at a DEV or SYS point takes their place (R261). -/
def dropBytes (s : State) (k pa n : Nat) : State :=
  let ln := pa / 128
  match findLine (clusterOf s k).cache ln with
  | none => s
  | some x =>
    updCluster s k fun c => { c with cache := putLine c.cache (lineKeep x (~~~(byteMask (pa % 128) n))) }

/-- A read of one piece at the point of its scope and KIND (R261). The piece lies in one line; MMIO is no case of this. Of a page with SM = 1 the cluster's copy of the bytes goes, so that no
later load of the cluster returns an older value (R275; log entry 196). -/
def readPiece (s : State) (core scope : Nat) (q : Piece) : (Nat × Bool) × State :=
  if q.kind = .window then (winRead s q.pa q.n, noteBars s q.pa q.n)
  else if scope ≤ 1 then readCluster s (clusterOfCore core) q
  else
    let s := cleanLine s (clusterOfCore core) (q.pa / 128)
    let s := if q.sm then dropBytes s (clusterOfCore core) q.pa q.n else s
    let s := if scope = 3 && paLocal q.pa then recallHost s q.pa q.n else s
    loadBeyond s q.pa q.n

/-- The bytes at an address as a fetch finds them: the cluster cache's valid bytes over those beyond it, nothing filled (R326). -/
def peek (s : State) (core : Nat) (q : Piece) : Nat :=
  if q.kind = .window then (winRead s q.pa q.n).1 else
  let ln := q.pa / 128
  let d := (beyondFetch s ln).1
  let x := match findLine (clusterOf s (clusterOfCore core)).cache ln with
    | some y => mixBytes d y.data y.valid
    | none => d
  nbits x.toNat (8 * (q.pa % 128)) (8 * q.n)

/-- A write of one piece at the point of its scope and KIND (R261). -/
def writePiece (s : State) (core scope : Nat) (q : Piece) (v : Nat) (p : Bool) : State :=
  let s := if s.codeOf.isEmpty then s else keepCode s q.pa q.n (peek s core q)
  if q.kind = .window then wakeBytes (winWrite s q.pa q.n v p) q.pa q.n
  else if scope ≤ 1 then writeCluster s (clusterOfCore core) core q v p
  else storeBeyond (dropBytes s (clusterOfCore core) q.pa q.n) q.pa q.n v p

/-- Reads pieces in ascending order: the bytes as one number, and whether any atom was poisoned. -/
def readPieces (s : State) (core scope : Nat) : List Piece → (Nat × Bool) × State
  | [] => ((0, false), s)
  | q :: l =>
    let a := readPiece s core scope q
    let b := readPieces a.2 core scope l
    ((a.1.1 + 256 ^ q.n * b.1.1, a.1.2 || b.1.2), b.2)

/-- Writes pieces in ascending order. -/
def writePieces (s : State) (core scope : Nat) (p : Bool) : List Piece → Nat → State
  | [], _ => s
  | q :: l, v => writePieces (writePiece s core scope q (v % 256 ^ q.n) p) core scope p l (v / 256 ^ q.n)

/-- The pieces of a stretch read in ascending order: its bytes, and the spans, from its first byte, that poisoned atoms gave. -/
def readMarked (s : State) (core scope : Nat) : Nat → List Piece → (Nat × List (Nat × Nat)) × State
  | _, [] => ((0, []), s)
  | o, q :: l =>
    let a := readPieces s core scope [q]
    let b := readMarked a.2 core scope (o + q.n) l
    ((a.1.1 + 256 ^ q.n * b.1.1, (if a.1.2 then [(o, q.n)] else []) ++ b.1.2), b.2)
/-- Writes a stretch in ascending pieces, each poisoned when poisoned bytes reach it. -/
def writeMarked (s : State) (core scope v : Nat) (bad : List (Nat × Nat)) : Nat → List Piece → State
  | _, [] => s
  | o, q :: l => writeMarked (writePieces s core scope (bad.any fun e => overlaps e.1 e.2 o q.n) [q] (v / 256 ^ o % 256 ^ q.n)) core scope v bad (o + q.n) l

/-- The pieces of a translated access: one for a naturally aligned access of 1 to 32 bytes, else one for each 32-byte atom (R266). A window access that one atom does not hold is
performed byte by byte (R226). -/
def piecesOf (l : List Xlat) : List Piece :=
  l.flatMap fun x => (pieces (if x.kind = .window && (l.length != 1 || 32 < x.pa % 32 + x.n) then 1 else 32) x.pa x.n).map fun q =>
    { pa := q.1, n := q.2, kind := x.kind, sm := x.sm, tagged := x.tagged }

/-- A code fetch of `n` bytes (R326): every page needs X, and T in task mode. Of bytes that have been stored to while a task that has fetched from their frame is unretired, it finds the old
ones or the new ones: a free choice for each fetch (log entry 26). -/
def fetchCode (s : State) (c : Ctx) (va n : Nat) : Except PageFault (Nat × State) := do
  let l ← xlat s c .fetch false va n
  let ps := piecesOf l
  let v := ps.foldr (fun q a => peek s c.core q + 256 ^ q.n * a) 0
  let t := noteFetch (useXlats s c .fetch false l) c.task (ps.map Piece.pa)
  if s.codeOld.any fun e => ps.any fun q => q.pa ≤ e.1 && e.1 < q.pa + q.n then
    .ok (if nbit (freeAt s 659) 0 then ps.foldr (fun q a => oldCode s q.pa q.n (peek s c.core q) + 256 ^ q.n * a) 0 else v, useFresh t)
  else .ok (v, t)

end Sys2Proof.Machine
end

