-- ==== Sys2Proof/Machine/Mmio.lean ====
section
/-! DEFINITION. The MMIO range (R348-R350): what its registers read as, and what a write of one does at once (R8, R10). A write whose action reaches other state
is also noted in `State.todo`, and the action is made before the step ends. -/
namespace Sys2Proof.Machine

/-! ## Host launch queues (R83-R87) -/

def lqOf (s : State) (q : Nat) : LaunchQ := tget s.queues q {}
def updLq (s : State) (q : Nat) (f : LaunchQ → LaunchQ) : State := { s with queues := tset s.queues q (f (lqOf s q)) }
def lqEn (q : LaunchQ) : Bool := q.ctl.getLsbD 0
def lqLog (q : LaunchQ) : Nat := max 4 (q.ctl.extractLsb' 8 4).toNat
def lqPmax (q : LaunchQ) : Nat := (q.ctl.extractLsb' 12 2).toNat
def lqDsel (q : LaunchQ) : Nat := (q.ctl.extractLsb' 16 3).toNat
def lqKey (q : LaunchQ) : Nat := (q.ctl.extractLsb' 24 8).toNat
/-- The die that expands the queue's next launch. -/
def lqDie (q : LaunchQ) : Nat := if lqDsel q < 4 then lqDsel q else if lqDsel q = 4 then q.rot else 0

/-- A write of LQTAIL (R86). Any doorbell wakes the device from PS1 (R351). -/
def ringDoorbell (s : State) (n : Nat) (v : W64) : State :=
  let s := { s with mgmt := { s.mgmt with psCur := if s.mgmt.psCur = 1 then 0 else s.mgmt.psCur, doorAt := some s.cycle } }
  let t := v.setWidth 32
  if !lqEn (lqOf s n) || (t - (lqOf s n).head).toNat > 2 ^ lqLog (lqOf s n) then noteSet (updLq s n fun q => { q with ovf := true }) (0x40028 + 0x40 * n) 2
  else updLq s n fun q => { q with tail := t }
/-- A write of LQCTL (R84, R87): while EN is 1 only EN is written. -/
def writeLqctl (s : State) (n : Nat) (v : W64) : State :=
  updLq s n fun q => { q with rot := 0, ctl := if lqEn q then (q.ctl &&& ~~~1) ||| (v &&& 1) else v &&& 0xFF073F01 }
/-- LQSTAT (R85). -/
def lqStat (q : LaunchQ) : Nat := (q.head != q.tail).toNat + 2 * q.ovf.toNat + 4 * q.ref.toNat
/-- Register `r` of a launch queue. -/
def lqRead (q : LaunchQ) (r : Nat) : Nat :=
  if r = 0x00 then q.base.toNat else if r = 0x08 then q.ctl.toNat else if r = 0x10 then q.head.toNat else if r = 0x18 then q.tail.toNat
  else if r = 0x20 then q.root.toNat else if r = 0x28 then lqStat q else 0
/-- A write of register `r` of a launch queue: `v` the value, `ones` the ones written. -/
def lqWrite (s : State) (n r v ones : Nat) : State :=
  let w := BitVec.ofNat 64 v
  if r = 0x00 then updLq s n fun q => if lqEn q then q else { q with base := w &&& 0x000FFFFFFFFFFF80 }
  else if r = 0x08 then writeLqctl s n w
  else if r = 0x18 then ringDoorbell s n w
  else if r = 0x20 then updLq s n fun q => if lqEn q then q else { q with root := w &&& 0x000FFFFFFFFFF000 }
  else if r = 0x28 then updLq s n fun q => { q with ovf := q.ovf && !nbit ones 1, ref := q.ref && !nbit ones 2 }
  else s

/-! ## HOLDCTL, TRAPCTL and CPYRES (R82, R247, R317, R512) -/

/-- HOLDCTL after a write. -/
def holdctlWord (task action : Nat) (err : Bool) : W64 := BitVec.ofNat 64 (task % 2 ^ 32 + action * 2 ^ 32 + err.toNat * 2 ^ 34)
/-- HOLDCTL names a held task of the die, and no reserved action; action 2 also reaches a task that waits for a dispatch read (R82, R512). -/
def holdOk (s : State) (die task action : Nat) : Bool :=
  let t := taskOf s task
  let held := match t.st with | .held _ => true | _ => false
  (tfind s.tasks task).isSome && t.die = die && action != 3 && (held || (action = 2 && t.st = .waitRead))
/-- A write that is ignored still reads back with the TASKID and ACTION written, beside ERR (log entry 158). -/
def holdctlSet (s : State) (die task action : Nat) : State :=
  updDie s die fun d => { d with holdctl := holdctlWord task action (!holdOk s die task action) }
/-- TRAPCTL after a write. -/
def trapctlWord (task action : Nat) (err : Bool) : W64 := BitVec.ofNat 64 (task % 2 ^ 32 + action * 2 ^ 34 + err.toNat * 2 ^ 36)
/-- The bank of a trapped task: in a core's bank, or in its save area. -/
def trappedBank (s : State) (task : Nat) : Option Bank :=
  match tfind s.tasks task with
  | none => none
  | some t =>
    let b := match t.st with | .inBank => some (bankOf s t.core t.bank) | .spilled _ => t.keep | _ => none
    if t.failing.isSome then none else b.bind fun b => if b.trap.isSome then some b else none
/-- TRAPCTL names a trapped task of the die and an action. -/
def trapOk (s : State) (die task action : Nat) : Bool := (trappedBank s task).isSome && (taskOf s task).die = die && action != 0
def trapctlSet (s : State) (die task action : Nat) : State :=
  updDie s die fun d => { d with trapctl := trapctlWord task action (!trapOk s die task action) }
/-- The parked command that a write of CPYRES names. -/
def parkedCopy (s : State) (x : CopySel) : Option CopyCmd :=
  (tfind (coreOf s (x.die * 128 + x.cluster * 4 + x.core)).slots x.slot).bind fun c => if c.st = .parked && c.cq = x.cq then some c else none
/-- CPYRES after a write. -/
def cpyresWord (x : CopySel) (action : Nat) (err : Bool) : W64 :=
  BitVec.ofNat 64 (x.cq % 8 + (x.slot % 1024) * 2 ^ 3 + (x.core % 4) * 2 ^ 13 + (x.cluster % 32) * 2 ^ 15 + action * 2 ^ 20 + err.toNat * 2 ^ 22)
def cpyresSet (s : State) (x : CopySel) (action : Nat) : State :=
  updDie s x.die fun d => { d with cpyres := cpyresWord x action (!((parkedCopy s x).isSome && (action = 1 || action = 2))) }
/-- What a value of CPYRES names. -/
def cpySel (die v : Nat) : CopySel := { die := die, cluster := nbits v 15 5, core := nbits v 13 2, slot := nbits v 3 10, cq := nbits v 0 3 }

/-! ## A dispatcher's block (R82, R109, R110, R236, R247, R317, R323, R354) -/

/-- SHARE[1] to SHARE[15] sum to at most 256 (R109). -/
def sharesOk (v0 v1 : Nat) : Bool :=
  ((List.range 7).map fun i => nbits v0 (8 * (i + 1)) 8).foldl (· + ·) 0 + ((List.range 8).map fun i => nbits v1 (8 * i) 8).foldl (· + ·) 0 ≤ 256
/-- DVFSCTL (R354). -/
def dvfsWord (d : Die) : Nat := d.point.toNat + 2 ^ 8 * d.curPoint.toNat
/-- A point that software requests (R353, R354): 4 is taken as 3, and 5 to 7 as 2. -/
def pointReq (p : Nat) : Nat := if p = 4 then 3 else if p > 4 then 2 else p
def dieRead (d : Die) (r : Nat) : Nat :=
  if r = 0x400 then d.holdctl.toNat
  else if r = 0x408 then d.agectl.toNat
  else if r = 0x410 then d.encap.toNat
  else if r = 0x418 then d.eshare0.toNat
  else if r = 0x420 then d.eshare1.toNat
  else if r = 0x428 then d.estall.toNat
  else if r = 0x440 then d.dlybase.toNat
  else if r = 0x448 then d.dlyctl.toNat
  else if r = 0x450 then d.dlyhead.toNat
  else if r = 0x458 then d.dlytail.toNat
  else if r = 0x460 then d.dlydrop.toNat
  else if r = 0x480 then d.fqbase.toNat
  else if r = 0x488 then d.fqhead.toNat
  else if r = 0x490 then d.fqtail.toNat
  else if r = 0x498 then d.fullw.toNat + 2 ^ 32 * d.badb.toNat
  else if r = 0x4A0 then d.cpyres.toNat
  else if r = 0x4A8 then d.trapctl.toNat
  else if r = 0x4B0 then d.ctxbase.toNat
  else if r = 0x4B8 then d.ctxn.toNat
  else if r = 0x4C0 then d.sysmask0.toNat
  else if r = 0x4C8 then d.sysmask1.toNat
  else if r = 0x4D0 then dvfsWord d
  else if r = 0x4D8 then d.thcap.toNat
  else if 0x500 ≤ r ∧ r < 0x580 then wrapN 64 (d.eacc.getD ((r - 0x500) / 8) 0)
  else 0
/-- Before ENCTL or THCAP is written: what both held when the cycle began, for a refill of the same cycle (R354). -/
def keepCap (now : Nat) (d : Die) : Die := if d.capOld.any fun o => o.1 = now then d else { d with capOld := some (now, d.encap, d.thcap) }
/-- A die with the caps that stood before the writes of this cycle. -/
def beforeCaps (now : Nat) (d : Die) : Die :=
  match d.capOld with
  | some (t, e, h) => if t = now then { d with encap := e, thcap := h } else d
  | none => d
/-- The registers of a die that a write changes at once. -/
def dieSet (d : Die) (r v ones : Nat) : Die :=
  let w := BitVec.ofNat 64 v
  if r = 0x408 then { d with agectl := BitVec.ofNat 32 v }
  else if r = 0x410 then { d with encap := BitVec.ofNat 10 v }
  else if r = 0x418 then (if sharesOk v d.eshare1.toNat then { d with eshare0 := w &&& 0xFFFFFFFFFFFFFF00 } else d)
  else if r = 0x420 then (if sharesOk d.eshare0.toNat v then { d with eshare1 := w } else d)
  else if r = 0x428 then { d with estall := d.estall &&& ~~~(BitVec.ofNat 64 ones) }
  else if r = 0x440 then { d with dlybase := w &&& 0x000FFFFFFFFFFFC0 }
  else if r = 0x448 then { d with dlyctl := w &&& 0x10F }
  else if r = 0x458 then { d with dlytail := BitVec.ofNat 32 v }
  else if r = 0x460 then { d with dlydrop := d.dlydrop &&& ~~~(BitVec.ofNat 64 ones) }
  else if r = 0x480 then { d with fqbase := w &&& 0x000FFFFFFFFC0000 }
  else if r = 0x490 then { d with fqtail := BitVec.ofNat 32 v }
  else if r = 0x498 then { d with fullw := d.fullw &&& ~~~(BitVec.ofNat 32 ones), badb := d.badb && !nbit ones 32 }
  else if r = 0x4B0 then { d with ctxbase := w &&& 0x000FFFFFFFFE0000 }
  else if r = 0x4B8 then { d with ctxn := BitVec.ofNat 16 v }
  else if r = 0x4C0 then { d with sysmask0 := w }
  else if r = 0x4C8 then { d with sysmask1 := w }
  else if r = 0x4D0 then { d with point := BitVec.ofNat 3 (pointReq (v % 8)) }
  else d
def dieWrite (s : State) (die r v ones : Nat) : State :=
  let off := 0x10000 * die + r
  let s := if r = 0x410 then updDie s die (keepCap s.cycle) else s
  if r = 0x400 then addTodo (holdctlSet s die (nbits v 0 32) (nbits v 32 2)) off v
  else if r = 0x4A8 then addTodo (trapctlSet s die (nbits v 0 32) (nbits v 34 2)) off v
  else if r = 0x4A0 then addTodo (cpyresSet s (cpySel die v) (nbits v 20 2)) off v
  else
    let s := updDie s die fun d => dieSet d r v ones
    if r = 0x4C0 ∨ r = 0x4C8 then addTodo s off v else s

/-! ## The pool block (R283) and the management block (R350) -/

/-- PHSTAT of a head. -/
def phstat (h : Head) : Nat := h.state % 4 + 2 ^ 8 * h.decl.toNat + 2 ^ 16 * ((h.accepted.map (·.2)).foldl (· + ·) 0 % 2 ^ 16)
def poolRead (p : Pool) (r : Nat) : Nat :=
  if r = 0x00 then p.prtbase.toNat
  else if r = 0x08 then p.prtIdx.toNat + 2 ^ 12 * p.prtAct.toNat + 2 ^ 15 * p.prtBusy.toNat + 2 ^ 16 * p.prtErr.toNat
  else if r = 0x10 then p.dcacc.toNat + 2 ^ 35 * p.dcBusy.toNat + 2 ^ 36 * p.dcErr.toNat
  else if 0x40 ≤ r ∧ r < 0x80 then phstat (tget p.heads ((r - 0x40) / 8) {})
  else 0
/-- A write of PRTCMD: an action begins, and BUSY stands until it is complete; a write while BUSY = 1 is ignored. -/
def prtcmdSet (p : Pool) (idx act : Nat) : Pool :=
  if p.prtBusy then p else { p with prtIdx := BitVec.ofNat 10 idx, prtAct := BitVec.ofNat 2 act, prtBusy := act != 0 }
/-- A write of DCACC, in the same way. -/
def dcaccSet (p : Pool) (v : Nat) : Pool :=
  if p.dcBusy then p else { p with dcacc := BitVec.ofNat 34 v &&& 0x37FFFFFFF, dcBusy := nbits v 32 2 != 0 }
def poolWrite (s : State) (r v ones : Nat) : State :=
  if r = 0x00 then { s with pool := { s.pool with prtbase := BitVec.ofNat 64 v &&& 0x000FFFFFFFFF8000 } }
  else if r = 0x08 then { s with pool := prtcmdSet s.pool (nbits v 0 10) (nbits v 12 2) }
  else if r = 0x10 then { s with pool := dcaccSet s.pool v }
  else if 0x40 ≤ r ∧ r < 0x80 ∧ nbit ones 8 then
    let h := (r - 0x40) / 8
    addTodo { s with pool := { s.pool with heads := tset s.pool.heads h { tget s.pool.heads h {} with decl := true } } } (0x50000 + r) v
  else s
/-- DIETEMP: the junctions of D0-D3 and of the I/O dies, a byte each. -/
def tempWord (m : Mgmt) : Nat := ((List.range 6).map fun i => (tget m.temps i 0 % 256) * 2 ^ (8 * i)).foldl (· + ·) 0
def mgmtRead (m : Mgmt) (r : Nat) : Nat :=
  if r = 0x00 then 0x53474D5900010768
  else if r = 0x08 then m.stage % 16 + 2 ^ 4 * (m.fail % 256)
  else if r = 0x10 then m.psReq.toNat + 2 ^ 8 * m.psCur.toNat + 2 ^ 16 * m.psBusy.toNat
  else if r = 0x18 then tempWord m
  else if r = 0x20 then m.ecc.toNat
  else 0
/-- BUSY stands by a sideband write of this cycle, whose place a BAR0 write takes (R357). -/
def sideBusy (s : State) : Bool := s.mgmt.sideAt = some s.cycle
/-- A write of PSCTL over BAR0. While BUSY = 1 it is ignored (R351), unless a sideband write of the same cycle has set BUSY: that takes effect first, and the BAR0 value stands (R357). -/
def psctlBar (s : State) (v : Nat) : State :=
  if s.mgmt.psBusy && !sideBusy s then s
  else addTodo { s with mgmt := { s.mgmt with psReq := BitVec.ofNat 2 v, psBusy := false, barAt := some s.cycle } } 0x60010 (v % 4)
def mgmtWrite (s : State) (r v ones : Nat) : State :=
  if r = 0x10 then psctlBar s v
  else if r = 0x20 then { s with mgmt := { s.mgmt with ecc := s.mgmt.ecc &&& ~~~(BitVec.ofNat 64 ones) } }
  else s

/-! ## The range (R349) -/

/-- The 64-bit register at an offset, a multiple of 8; reserved offsets read as 0. The layout of the security mailbox is not given: it reads as a free value. -/
def mmioReg (s : State) (o : Nat) : Nat :=
  if o < 0x40000 then dieRead (dieOf s (o / 0x10000)) (o % 0x10000)
  else if o < 0x41000 then lqRead (lqOf s ((o - 0x40000) / 0x40)) ((o - 0x40000) % 0x40)
  else if 0x50000 ≤ o ∧ o < 0x51000 then poolRead s.pool (o - 0x50000)
  else if 0x60000 ≤ o ∧ o < 0x61000 then mgmtRead s.mgmt (o - 0x60000)
  else if 0x70000 ≤ o ∧ o < 0x80000 then freeAt s (40000 + (o - 0x70000) / 8) % 2 ^ 64
  else 0
/-- A write of the register at an offset; writes of reserved offsets are discarded. A bit that hardware has set in the same cycle stays set (R10). -/
def mmioSet (s : State) (o v written : Nat) : State :=
  let ones := clears s o written
  if o < 0x40000 then dieWrite s (o / 0x10000) (o % 0x10000) v ones
  else if o < 0x41000 then lqWrite s ((o - 0x40000) / 0x40) ((o - 0x40000) % 0x40) v ones
  else if 0x50000 ≤ o ∧ o < 0x51000 then poolWrite s (o - 0x50000) v ones
  else if 0x60000 ≤ o ∧ o < 0x61000 then mgmtWrite s (o - 0x60000) v ones
  else s
/-- A read of `n` bytes, 4 or 8, at an aligned MMIO offset. -/
def mmioRead (s : State) (off n : Nat) : Nat := nbits (mmioReg s (off / 8 * 8)) (8 * (off % 8)) (8 * n)
/-- A write of `n` bytes, 4 or 8, at an aligned MMIO offset: fields that the write does not reach keep their values. -/
def mmioWrite (s : State) (off n v : Nat) : State :=
  let o := off / 8 * 8
  let k := 8 * (off % 8)
  let w := v % 2 ^ (8 * n)
  mmioSet s o (setBits (mmioReg s o) k (8 * n) w) (w * 2 ^ k)

end Sys2Proof.Machine
end

