-- ==== Sys2Proof/Machine/Pairs.lean ====
section
/-! DEFINITION. Runs and their pairs (R119, R121, R127), the canonical register image (R125), and what the bytes of a vector load make of its destination group
(R182-R185, R485, R487, R488, R490, R491). -/
namespace Sys2Proof.Machine

/-- A run: the value's bits and its count. -/
abbrev Run := Nat × Nat

/-! ## Pairs (R119, R127) -/

/-- The used slots of a string of pairs with values of `vw` bits and counts of `cw` bits, up to the first empty slot. -/
def pairsOf (vw cw : Nat) : Nat → Nat → List Run
  | 0, _ => []
  | n + 1, x =>
    let c := nbits x vw cw
    if c = 0 then [] else (nbits x 0 vw, c) :: pairsOf vw cw n (x / 2 ^ (vw + cw))
/-- The string of a list of pairs. -/
def packPairs (vw cw : Nat) (l : List Run) : BitVec 4096 :=
  BitVec.ofNat 4096 (l.foldr (fun r a => r.1 % 2 ^ vw + 2 ^ vw * (r.2 % 2 ^ cw) + 2 ^ (vw + cw) * a) 0)
/-- The runs of a vector register under an element type. -/
def vecRuns (et : Nat) (r : VReg) : List Run := pairsOf (etWidth et) (etWidth et) (etCap et) r.pairs.toNat
/-- The runs of a mask register (R127). -/
def maskRuns (r : VReg) : List Run := pairsOf 1 15 256 r.pairs.toNat

/-! ## Canonical form (R121) -/

/-- Joins equal neighbours into logical runs. -/
def joinRuns : List Run → List Run
  | [] => []
  | (v, c) :: l =>
    match joinRuns l with
    | (u, d) :: t => if u = v then (v, c + d) :: t else (v, c) :: (u, d) :: t
    | [] => [(v, c)]
/-- Cuts one logical run from its front into runs of at most `m`. -/
def cutRun (m v c : Nat) : List Run :=
  List.replicate (c / m) (v, m) ++ (if c % m = 0 then [] else [(v, c % m)])
/-- The canonical pairs of logical runs. -/
def canonRuns (m : Nat) (l : List Run) : List Run := (joinRuns (l.filter fun r => r.2 != 0)).flatMap fun r => cutRun m r.1 r.2
/-- The largest count of an element type. -/
def etMaxCount (et : Nat) : Nat := 2 ^ etWidth et - 1
def runsTotal (l : List Run) : Nat := l.foldl (fun a r => a + r.2) 0

/-! ## Register images (R125) -/

/-- The members' parts of a list of pairs. -/
def chunks (n : Nat) : Nat → List Run → List (List Run)
  | 0, _ => []
  | g + 1, l => l.take n :: chunks n g (l.drop n)

/-- The canonical register image of a result's runs that fit one register (R121, R122, R125). -/
def canonReg (et : Nat) (p : List Run) (poi : Bool) : VReg :=
  { pairs := packPairs (etWidth et) (etWidth et) p, et := BitVec.ofNat 4 et, rc := BitVec.ofNat 10 p.length, ll := BitVec.ofNat 24 (runsTotal p),
    can := true, poi := poi, stale := false }

/-! ## Vector loads -/

/-- `n` elements of `wd` bits as runs. -/
def unpackElems (wd n v : Nat) : List Run := (List.range n).map fun i => (nbits v (wd * i) wd, 1)

/-- The runs of a load that takes an element where `none` stands, and the given value elsewhere, each with its count. -/
def pickRuns (wd : Nat) : List (Option Nat × Nat) → Nat → List Run
  | [], _ => []
  | (none, n) :: l, v => (v % 2 ^ wd, n) :: pickRuns wd l (v / 2 ^ wd)
  | (some x, n) :: l, v => (x, n) :: pickRuns wd l v
/-- The runs that the bytes of a vector load hold, for elements of `wd` bits. -/
def VForm.runs (f : VForm) (wd v : Nat) : List Run :=
  match f with
  | .dense rows => (rows.foldl (fun (a : Nat × List Run) k => (a.1 / 256 ^ ((k * wd + 7) / 8), a.2 ++ unpackElems wd k (a.1 % 256 ^ ((k * wd + 7) / 8)))) (v, [])).2
  | .pairs n => pairsOf wd wd n v
  | .picks l => pickRuns wd l v
  | .raw => []

/-- A write of a vector load whose bytes have been read later: member `j` of the group from the parts, the mask with the poison of the bytes. -/
def VLoad.write (x : VLoad) (v : Nat) (poi : Bool) (parts : List (List Run)) (j : Nat) : Write → Write
  | .vec n r => if x.form = .raw then .vec n { r with pairs := BitVec.ofNat 4096 (v / 2 ^ (4096 * j)), poi := poi } else .vec n (canonReg x.et (parts.getD j []) poi)
  | .mask n r => .mask n { r with poi := poi }
  | w => w
/-- The writes of a vector load once its bytes `v` have been read, `p` if an atom was poisoned: those of its issue stand where the bytes no longer fit the group. -/
def VLoad.fill (x : VLoad) (ws : List Write) (v : Nat) (p : Bool) : List Write :=
  let l := canonRuns (etMaxCount x.et) ((x.form.runs (etWidth x.et) v).map fun r => (r.1 % 2 ^ x.wd, r.2))
  let parts := chunks (etCap x.et) x.g l
  if l.length ≤ x.g * etCap x.et && parts.all fun c => runsTotal c ≤ 16777215 then
    (List.zip (List.range ws.length) ws).map fun e => x.write v (p || x.poi) parts e.1 e.2
  else ws

end Sys2Proof.Machine
end

