-- ==== Sys2Proof/Machine/Float.lean ====
section
/-! DEFINITION. Number formats and exact arithmetic (R143-R170): every value is exact until one rounding. -/
namespace Sys2Proof.Machine

/-! ## Exact values -/

/-- An exact value: a NaN (signalling or quiet), an infinity, or (-1)^neg * m * 2^e; a zero keeps its sign. -/
inductive Val where
  | nan (sig : Bool)
  | inf (neg : Bool)
  | num (neg : Bool) (m : Nat) (e : Int)
  deriving DecidableEq, Repr

/-- A signalling NaN source raises IO (R147). -/
def Val.signalling : Val → Bool | .nan s => s | _ => false
def Val.isNan : Val → Bool | .nan _ => true | _ => false
def Val.isZero : Val → Bool | .num _ m _ => m == 0 | _ => false
def Val.isInf : Val → Bool | .inf _ => true | _ => false
def Val.neg : Val → Val | .nan s => .nan s | .inf n => .inf (!n) | .num n m e => .num (!n) m e
def Val.sign : Val → Bool | .nan _ => false | .inf n => n | .num n _ _ => n
/-- The exact integer as a value; 0 is +0. -/
def Val.ofInt (x : Int) : Val := .num (x < 0) x.natAbs 0

/-- A signed mantissa scaled to exponent `q` (q at most the value's exponent). -/
def scaled (neg : Bool) (m : Nat) (e q : Int) : Int := (if neg then -1 else 1) * (m * 2 ^ (e - q).toNat : Nat)

/-- The exact sum, and whether it is invalid (inf - inf or a signalling NaN). An exact zero of addends of opposite sign is +0, or -0 under RDN
(R401). -/
def vAdd (rdn : Bool) (a b : Val) : Val × Bool :=
  match a, b with
  | .nan x, b => (.nan false, x || b.signalling)
  | _, .nan y => (.nan false, y)
  | .inf x, .inf y => if x = y then (.inf x, false) else (.nan false, true)
  | .inf x, _ => (.inf x, false)
  | _, .inf y => (.inf y, false)
  | .num x m e, .num y n f =>
    let q := min e f
    let t := scaled x m e q + scaled y n f q
    if t = 0 then (.num (if m = 0 ∧ n = 0 ∧ x = y then x else rdn) 0 0, false) else (.num (t < 0) t.natAbs q, false)

/-- The exact product, and whether it is invalid. -/
def vMul (a b : Val) : Val × Bool :=
  match a, b with
  | .nan x, b => (.nan false, x || b.signalling)
  | _, .nan y => (.nan false, y)
  | .inf x, .inf y => (.inf (x != y), false)
  | .inf x, .num y n _ => if n = 0 then (.nan false, true) else (.inf (x != y), false)
  | .num x m _, .inf y => if m = 0 then (.nan false, true) else (.inf (x != y), false)
  | .num x m e, .num y n f => (.num (x != y) (m * n) (e + f), false)

/-- a * b + c, exact; 0 * inf is invalid even when c is a quiet NaN (R409). -/
def vFma (rdn : Bool) (a b c : Val) : Val × Bool :=
  let p := vMul a b
  let r := vAdd rdn p.1 c
  (r.1, p.2 || r.2 || c.signalling)

/-- The quotient with its remainder folded into a sticky bit below 130 exact bits; whether it is invalid; whether it divides a finite non-zero value by
zero (R401). -/
def vDiv (a b : Val) : Val × Bool × Bool :=
  match a, b with
  | .nan x, b => (.nan false, x || b.signalling, false)
  | _, .nan y => (.nan false, y, false)
  | .inf _, .inf _ => (.nan false, true, false)
  | .inf x, .num y _ _ => (.inf (x != y), false, false)
  | .num x _ _, .inf y => (.num (x != y) 0 0, false, false)
  | .num x m e, .num y n f =>
    if n = 0 then (if m = 0 then (.nan false, true, false) else (.inf (x != y), false, true))
    else
      let k := 130 + Nat.log2 n
      let q := (m <<< k) / n
      let r := (m <<< k) % n
      (.num (x != y) (2 * q + (if r = 0 then 0 else 1)) (e - f - k - 1), false, false)

/-- The integer square root, bit by bit from bit `i - 1` down. -/
def isqrtFrom (n : Nat) : Nat → Nat → Nat
  | 0, r => r
  | i + 1, r => let c := r + 2 ^ i; isqrtFrom n i (if c * c ≤ n then c else r)
def isqrt (n : Nat) : Nat := isqrtFrom n (Nat.log2 n / 2 + 1) 0

/-- The square root with its remainder folded into a sticky bit; whether it is invalid (R410). -/
def vSqrt (a : Val) : Val × Bool :=
  match a with
  | .nan s => (.nan false, s)
  | .inf n => if n then (.nan false, true) else (.inf false, false)
  | .num n m e =>
    if m = 0 then (.num n 0 0, false)
    else if n then (.nan false, true)
    else
      let odd := if e % 2 = 0 then 0 else 1
      let x := m <<< (140 + odd)
      let r := isqrt x
      (.num false (2 * r + (if r * r = x then 0 else 1)) ((e - odd) / 2 - 70 - 1), false)

/-- Exact comparison of two values that are no NaN: a < b, with -0 equal to +0. -/
def vLt (a b : Val) : Bool :=
  match a, b with
  | .nan _, _ => false
  | _, .nan _ => false
  | .inf x, .inf y => x && !y
  | .inf x, _ => x
  | _, .inf y => !y
  | .num x m e, .num y n f => let q := min e f; scaled x m e q < scaled y n f q
def vEq (a b : Val) : Bool := !a.isNan && !b.isNan && !vLt a b && !vLt b a

/-- A comparison condition 0-6 of R340 (.eq, .ne, .lt, .le, .un, .gt, .ge); with a NaN only .ne and .un hold. -/
def vCond (c : Nat) (a b : Val) : Bool :=
  let un := a.isNan || b.isNan
  if c = 0 then vEq a b
  else if c = 1 then un || !vEq a b
  else if c = 2 then vLt a b
  else if c = 3 then !un && !vLt b a
  else if c = 4 then un
  else if c = 5 then vLt b a
  else !un && !vLt a b

/-- Does the order put `a` below `b`, with -0 below +0 (R401, R167). -/
def vBelow (a b : Val) : Bool := vLt a b || (vEq a b && a.isZero && a.sign && !b.sign)

/-! ## Rounding (R149, R150) -/

/-- m / 2^k rounded to an integer in mode `rm` for the given sign, and whether it is inexact. -/
def roundNat (rm : Nat) (neg : Bool) (m k : Nat) : Nat × Bool :=
  let q := m / 2 ^ k
  let r := m % 2 ^ k
  if r = 0 then (q, false) else
  let up :=
    if rm = 0 then 2 * r > 2 ^ k ∨ (2 * r = 2 ^ k ∧ q % 2 = 1)
    else if rm = 1 then False
    else if rm = 2 then neg = false
    else if rm = 3 then neg = true
    else 2 * r ≥ 2 ^ k
  if up then (q + 1, true) else (q, true)

/-- m * 2^e rounded to a multiple of 2^q: the multiple, and whether it is inexact. -/
def roundAt (rm : Nat) (neg : Bool) (m : Nat) (e q : Int) : Nat × Bool :=
  if e ≥ q then (m * 2 ^ (e - q).toNat, false) else roundNat rm neg m (q - e).toNat

/-- An IEEE layout: exponent bits, fraction bits. -/
structure FFmt where
  eb : Nat
  mb : Nat
  deriving DecidableEq, Repr

def FFmt.bias (f : FFmt) : Nat := 2 ^ (f.eb - 1) - 1
def FFmt.width (f : FFmt) : Nat := 1 + f.eb + f.mb
def fmtH : FFmt := ⟨5, 10⟩
def fmtBF : FFmt := ⟨8, 7⟩
def fmtS : FFmt := ⟨8, 23⟩
def fmtD : FFmt := ⟨11, 52⟩
/-- ACF48 (R159). -/
def fmtACF : FFmt := ⟨9, 38⟩

/-- The canonical quiet NaN (R146, R159). -/
def FFmt.nan (f : FFmt) : Nat := (2 ^ f.eb - 1) * 2 ^ f.mb + 2 ^ (f.mb - 1)
def FFmt.infBits (f : FFmt) (neg : Bool) : Nat := (if neg then 2 ^ (f.eb + f.mb) else 0) + (2 ^ f.eb - 1) * 2 ^ f.mb
def FFmt.maxBits (f : FFmt) (neg : Bool) : Nat := f.infBits neg - 1
def FFmt.zeroBits (f : FFmt) (neg : Bool) : Nat := if neg then 2 ^ (f.eb + f.mb) else 0

/-- The value of a code; under FTZ a subnormal reads as zero of its sign (R148). -/
def FFmt.decode (f : FFmt) (ftz : Bool) (c : Nat) : Val :=
  let neg := c.testBit (f.eb + f.mb)
  let e := (c / 2 ^ f.mb) % 2 ^ f.eb
  let m := c % 2 ^ f.mb
  if e = 2 ^ f.eb - 1 then (if m = 0 then .inf neg else .nan (m < 2 ^ (f.mb - 1)))
  else if e = 0 then .num neg (if ftz then 0 else m) (1 - (f.bias : Int) - f.mb)
  else .num neg (2 ^ f.mb + m) ((e : Int) - f.bias - f.mb)

/-- Rounding to a format in mode 0-4, with flags (R148, R149): the code. -/
def FFmt.round (f : FFmt) (rm : Nat) (ftz : Bool) (v : Val) : Nat × Flags :=
  match v with
  | .nan _ => (f.nan, 0)
  | .inf n => (f.infBits n, 0)
  | .num n m e =>
    if m = 0 then (f.zeroBits n, 0) else
    let emin : Int := 1 - f.bias
    let top : Int := Nat.log2 m + e
    let q := max (top - f.mb) (emin - f.mb)
    let r := roundAt rm n m e q
    let u := roundAt rm n m e (top - f.mb)
    let tiny : Bool := top - f.mb < emin - f.mb && !(top = emin - 1 && u.1 = 2 ^ (f.mb + 1))
    let code := (q - (emin - f.mb)).toNat * 2 ^ f.mb + r.1
    let sgn := f.zeroBits n
    if code ≥ (2 ^ f.eb - 1) * 2 ^ f.mb then
      let big := rm = 0 || rm = 4 || (rm = 2 && !n) || (rm = 3 && n)
      (if big then f.infBits n else f.maxBits n, flagOF ||| flagIX)
    else if ftz && r.1 != 0 && code < 2 ^ f.mb then (sgn, flagUF ||| flagIX)
    else (sgn + code, flagIf r.2 flagIX ||| flagIf (r.2 && tiny) flagUF)

/-- round_acf48 (R160). -/
def roundACF (v : Val) : Nat := (fmtACF.round 0 false v).1
/-- The value of an ACF48 element (R159), which has no signalling NaN (log entry 149). -/
def acfVal (c : Nat) : Val := match fmtACF.decode false c with | .nan _ => .nan false | v => v

/-! ## Narrow formats (R154-R157) -/

/-- A narrow descriptor (R154). -/
structure NDesc where
  e : Nat
  m : Nat
  s : Bool
  spv : Nat
  bias : Nat
  ovs : Bool
  deriving DecidableEq, Repr

def ndesc (d : BitVec 16) : NDesc :=
  { e := (d.extractLsb' 0 3).toNat, m := (d.extractLsb' 3 3).toNat, s := d.getLsbD 6, spv := (d.extractLsb' 7 2).toNat,
    bias := (d.extractLsb' 9 6).toNat, ovs := d.getLsbD 15 }
/-- Bits of a code: S + E + M. -/
def NDesc.width (d : NDesc) : Nat := d.s.toNat + d.e + d.m
/-- R155. -/
def NDesc.legal (d : NDesc) : Bool :=
  2 ≤ d.width && d.width ≤ 8 && d.spv != 3 && (d.spv != 1 || d.s) && (d.spv != 2 || (1 ≤ d.e && 1 ≤ d.m))

/-- The value of a code (R156). -/
def NDesc.decode (d : NDesc) (c0 : Nat) : Val :=
  let c := c0 % 2 ^ d.width
  let neg := d.s && c.testBit (d.e + d.m)
  let e := (c / 2 ^ d.m) % 2 ^ d.e
  let m := c % 2 ^ d.m
  if d.spv = 1 ∧ c = 2 ^ (d.e + d.m) then .nan false
  else if d.spv = 2 ∧ e = 2 ^ d.e - 1 then (if m = 0 then .inf neg else .nan false)
  else if d.e = 0 then .num neg m (-(d.bias : Int))
  else if e = 0 then .num neg m (1 - (d.bias : Int) - d.m)
  else .num neg (2 ^ d.m + m) ((e : Int) - d.bias - d.m)

/-- The largest finite magnitude's code, without the sign (R156). -/
def NDesc.maxCode (d : NDesc) : Nat :=
  if d.spv = 2 then (2 ^ d.e - 2) * 2 ^ d.m + (2 ^ d.m - 1) else 2 ^ (d.e + d.m) - 1
/-- The canonical NaN code; SPV 00 has none. -/
def NDesc.nanCode (d : NDesc) : Nat :=
  if d.spv = 1 then 2 ^ (d.e + d.m) else if d.spv = 2 then (2 ^ d.e - 1) * 2 ^ d.m + 2 ^ (d.m - 1) else 0
/-- The sign bit of a code. -/
def NDesc.signBit (d : NDesc) (neg : Bool) : Nat := if neg && d.s then 2 ^ (d.e + d.m) else 0

/-- Conversion to a narrow format in mode 0-4 (R157). -/
def NDesc.round (d : NDesc) (rm : Nat) (v : Val) : Nat × Flags :=
  match v with
  | .nan _ => if d.spv = 0 then (0, flagIO) else (d.nanCode, 0)
  | .inf n =>
    if !d.s && n then (0, flagIO)
    else if d.ovs && d.spv = 2 then (d.signBit n + (2 ^ d.e - 1) * 2 ^ d.m, 0)
    else (d.signBit n + d.maxCode, flagOF ||| flagIX)
  | .num n m e =>
    let nil := if d.spv = 1 then 0 else d.signBit n
    if m = 0 then (nil, 0) else
    -- the grid: multiples of 2^q, q of the binade of the value but not below the subnormal grid
    let emin : Int := 1 - d.bias
    let lo : Int := if d.e = 0 then -(d.bias : Int) else emin - d.m
    let top : Int := Nat.log2 m + e
    let q := if d.e = 0 then lo else max (top - d.m) lo
    let r := roundAt rm n m e q
    let u := roundAt rm n m e (top - d.m)
    let tiny : Bool :=
      if d.e = 0 then top < lo else top < emin && !(top = emin - 1 && u.1 = 2 ^ (d.m + 1))
    let code := (q - lo).toNat * 2 ^ d.m + r.1
    if !d.s && n && r.1 != 0 then (0, flagIO)
    else if r.1 = 0 then (nil, flagIX ||| flagIf tiny flagUF)
    else if code > d.maxCode then
      let big := rm = 0 || rm = 4 || (rm = 2 && !n) || (rm = 3 && n)
      (d.signBit n + (if d.ovs && d.spv = 2 && big then (2 ^ d.e - 1) * 2 ^ d.m else d.maxCode), flagOF ||| flagIX)
    else (d.signBit n + code, flagIf r.2 flagIX ||| flagIf (r.2 && tiny) flagUF)

/-! ## Element types -/

/-- The layout of a float element type; FP32 for the others. -/
def etFmt (et : Nat) : FFmt := if et = 10 then fmtH else if et = 11 then fmtBF else fmtS
/-- An integer element's value. -/
def etIntVal (et c : Nat) : Int :=
  let w := etWidth et
  if etSigned et then (if c % 2 ^ w < 2 ^ (w - 1) then ((c % 2 ^ w : Nat) : Int) else (c % 2 ^ w : Nat) - (2 ^ w : Nat)) else (c % 2 ^ w : Nat)
def etMin (et : Nat) : Int := if etSigned et then -(2 ^ (etWidth et - 1) : Nat) else 0
def etMax (et : Nat) : Int := if etSigned et then (2 ^ (etWidth et - 1) : Nat) - 1 else (2 ^ etWidth et : Nat) - 1
/-- The exact value of an element of any type; `nd` is the narrow descriptor. -/
def etVal (et : Nat) (nd : NDesc) (ftz : Bool) (c : Nat) : Val :=
  if etInt et then Val.ofInt (etIntVal et c) else if etNarrow et then nd.decode c else (etFmt et).decode ftz c
/-- One rounding to a float or narrow element type. -/
def etRound (et : Nat) (nd : NDesc) (rm : Nat) (ftz : Bool) (v : Val) : Nat × Flags :=
  if etNarrow et then nd.round rm v else (etFmt et).round rm ftz v
/-- The canonical NaN of an element type; +0 with IO under SPV 00 (R157). -/
def etNan (et : Nat) (nd : NDesc) : Nat × Flags := if etNarrow et then nd.round 0 (.nan false) else ((etFmt et).nan, 0)

/-- An exact integer to an integer type: wrapped, or clamped under SAT with SATF (R144). -/
def etWrap (et : Nat) (sat : Bool) (x : Int) : Nat × Flags :=
  if sat then
    let y := if x < etMin et then etMin et else if x > etMax et then etMax et else x
    ((y % (2 ^ etWidth et : Nat)).toNat, flagIf (y != x) flagSATF)
  else ((x % (2 ^ etWidth et : Nat)).toNat, 0)

/-- A value rounded to an integer within [lo, hi] (R158): NaN gives 0 with IO, out of range clamps with IO. -/
def toIntRange (rm : Nat) (lo hi : Int) (v : Val) : Int × Flags :=
  match v with
  | .nan _ => (0, flagIO)
  | .inf n => (if n then lo else hi, flagIO)
  | .num n m e =>
    let r := roundAt rm n m e 0
    let x : Int := if n then -(r.1 : Int) else r.1
    if x < lo then (lo, flagIO) else if x > hi then (hi, flagIO) else (x, flagIf r.2 flagIX)

/-- FMIN, FMAX, VMIN and VMAX on floats (R401): -0 below +0; one NaN gives the other operand; two give a NaN; a signalling NaN raises IO. The answer
is the operand taken, or none for the canonical NaN. -/
def fMinMax (max : Bool) (a b : Val) : Option Bool × Flags :=
  let io := flagIf (a.signalling || b.signalling) flagIO
  if a.isNan && b.isNan then (none, io)
  else if a.isNan then (some true, io)
  else if b.isNan then (some false, io)
  else if max then (some (vBelow a b), io)
  else (some (vBelow b a), io)

/-! ## Matrix sums and drains (R161-R166) -/

/-- One exact product of a block: none for a NaN; its infinity; or a number. -/
def blockNan (l : List Val) : Bool := l.any Val.isNan || (l.any (· = .inf false) && l.any (· = .inf true))

/-- block_sum (R163). -/
def blockSum (l : List Val) : Val :=
  if blockNan l then .nan false
  else if l.any (· = .inf false) then .inf false
  else if l.any (· = .inf true) then .inf true
  else if l.all Val.isZero then .num false 0 0
  else
    let emax : Int := l.foldl (fun a v => match v with
      | .num _ m e => if m = 0 then a else match a with
        | none => some ((Nat.log2 m : Int) + e)
        | some x => some (max x ((Nat.log2 m : Int) + e))
      | _ => a) (none : Option Int) |>.getD 0
    let q := emax - 119
    let s : Int := l.foldl (fun a v => match v with
      | .num n m e =>
        let t : Nat := if e ≥ q then m * 2 ^ (e - q).toNat else m / 2 ^ (q - e).toNat
        if n then a - t else a + t
      | _ => a) 0
    if s = 0 then .num false 0 0 else .num (s < 0) s.natAbs q

/-- acc := round_acf48(acc + bs x sA x sB) (R163). -/
def accumulate (acc : Nat) (bs sA sB : Val) : Nat :=
  roundACF (vAdd false (acfVal acc) (vMul (vMul bs sA).1 sB).1).1

/-- round_shift (R166). -/
def roundShift (x : Int) (n : Nat) : Int :=
  if n = 0 then x
  else if x ≥ 0 then (x + (2 ^ (n - 1) : Nat)) / (2 ^ n : Nat)
  else -((-x + (2 ^ (n - 1) : Nat)) / (2 ^ n : Nat))

def clampInt (x lo hi : Int) : Int := if x < lo then lo else if x > hi then hi else x

/-- The integer requantising drain of one element (R166). -/
def requant (acc za zb zo m0 csb rsa lo hi : Int) (ksum : Nat) (sh : Int) : Int :=
  let a1 := clampInt (acc - za * csb - zb * rsa + ksum * za * zb) (-(2 ^ 47 : Nat)) ((2 ^ 47 : Nat) - 1)
  clampInt (zo + roundShift (a1 * m0) (31 + sh).toNat) lo hi

/-! ## Random fractions (R169) -/

/-- hashr (R169). -/
def hashr (seed ctr : W64) : W64 :=
  let x := seed + ctr * 0xA7E13F59C2D86B4D
  let x := x ^^^ (x >>> 31)
  let x := x * 0x8F3A5C6ED21749B5
  let x := x ^^^ (x >>> 29)
  let x := x * 0xB36C0E9147A2D5F7
  x ^^^ (x >>> 32)

end Sys2Proof.Machine
end

