-- ==== Sys2Proof/Machine/Tensor.lean ====
section
/-! DEFINITION. Launch records, tensor descriptors, tiles and tags as the device reads them (R31, R59-R73, R200, R201, R512). -/
namespace Sys2Proof.Machine

/-! ## Launch records (R31) -/

def lrOpid (r : Nat) : Nat := nbits r 0 12
def lrPrio (r : Nat) : Nat := nbits r 12 2
def lrEcls (r : Nat) : Nat := nbits r 14 4
def lrWidth (r j : Nat) : Nat := nbits r (24 + 6 * j) 6
def lrBind (r j : Nat) : Nat := nbits r (64 + 3 * j) 3
def lrArtid (r : Nat) : Nat := nbits r 82 10
def lrArv (r : Nat) : Bool := nbit r 92
def lrFscope (r : Nat) : Nat := nbits r 93 2
def lrTdtva (r : Nat) : Nat := nbits r 128 57
def lrTdtn (r : Nat) : Nat := nbits r 192 11
def lrFutva (r : Nat) : Nat := nbits r 256 57
def lrLim (r j : Nat) : Nat := nbits r (320 + 64 * j) 64
def lrOpd (r n : Nat) : Nat := nbits r (704 + 48 * n) 48
def lrNops (r : Nat) : Nat := nbits r 992 3

/-- TID and tile index of an operand reference (R39). -/
def refTid (r : Nat) : Nat := nbits r 22 10
def refIdx (r : Nat) : Nat := nbits r 0 22

/-- A launch by number; a number without a launch has an empty record. -/
def launchOf (s : State) (l : Nat) : Launch := tget s.launches l { img := 0, root := 0, key := 0, die := 0, src := 0, prio := 0 }
/-- The launch record of a task. -/
def taskLr (s : State) (t : Nat) : Nat := (launchOf s (taskOf s t).launch).img.toNat

/-! ## Descriptor entries (R60) -/

def tdBase (e : Nat) : Nat := nbits e 0 57
def tdRank (e : Nat) : Nat := nbits e 57 2
def tdDimRaw (e d : Nat) : Nat := if d = 0 then nbits e 64 24 else if d = 1 then nbits e 88 24 else if d = 2 then nbits e 128 24 else nbits e 152 24
def tdDtag (e : Nat) : Nat := nbits e 112 16
def tdTrl (e : Nat) : Nat := nbits e 176 8
def tdTcl (e : Nat) : Nat := nbits e 184 8
def tdSdim1 (e : Nat) : Nat := nbits e 192 32
def tdSdim2 (e : Nat) : Nat := nbits e 224 32
def tdNda (e : Nat) : BitVec 16 := BitVec.ofNat 16 (nbits e 256 16)
def tdNdb (e : Nat) : BitVec 16 := BitVec.ofNat 16 (nbits e 272 16)
def tdSfmt (e : Nat) : Nat := nbits e 288 3
def tdSrole (e : Nat) : Bool := nbit e 291
def tdSgran (e : Nat) : Nat := nbits e 292 4
def tdSord (e : Nat) : Bool := nbit e 296
def tdScva (e : Nat) : Nat := nbits e 320 57
def tdTmap (e : Nat) : Nat := nbits e 384 57
def tdSdva (e : Nat) : Nat := nbits e 448 57
def tdSdv (e : Nat) : Bool := nbit e 505
def tdRdonly (e : Nat) : Bool := nbit e 506
def tdSdsz (e : Nat) : Nat := nbits e 507 5

/-- Extent of a dimension: 1 beyond the rank (R62). -/
def tdDim (e d : Nat) : Nat := if d ≤ tdRank e then tdDimRaw e d else 1
def tdTr (e : Nat) : Nat := 2 ^ tdTrl e
def tdTc (e : Nat) : Nat := 2 ^ tdTcl e
def ceilDiv (a b : Nat) : Nat := (a + b - 1) / b
def tdNtc (e : Nat) : Nat := ceilDiv (tdDim e 0) (tdTc e)
def tdNtr (e : Nat) : Nat := ceilDiv (tdDim e 1) (tdTr e)
/-- Tiles of the tensor (R62). -/
def tdTiles (e : Nat) : Nat := tdNtc e * tdNtr e * tdDim e 2 * tdDim e 3

/-! ## Formats (R66) and tags (R65) -/

/-- Width in bits of a tile format code. -/
def fmtWidth (f : Nat) : Nat :=
  if f = 1 ∨ f = 2 then 4 else if f = 5 ∨ f = 6 ∨ f = 9 ∨ f = 10 then 16 else if f = 7 ∨ f = 8 ∨ f = 11 then 32
  else if f = 14 then 1 else if f = 15 ∨ f = 16 then 48 else 8
/-- K-block of a format (R161): 64 bytes of a row or column. -/
def fmtKb (f : Nat) : Nat := 512 / fmtWidth f
/-- Integer formats (codes 1-8). -/
def fmtInt (f : Nat) : Bool := 1 ≤ f && f ≤ 8
/-- The element type of VEC words that a format code stands for (R119); narrow codes have the descriptors A and B. -/
def fmtEt (f : Nat) : Nat :=
  match f with
  | 1 => 0 | 2 => 1 | 3 => 2 | 4 => 3 | 5 => 8 | 6 => 9 | 7 => 12 | 8 => 13 | 9 => 10 | 10 => 11 | 11 => 14 | 12 => 4 | _ => 5

def tagFmt (t : Nat) : Nat := nbits t 0 5
def tagSpc (t : Nat) : Nat := nbits t 5 4
def tagLay (t : Nat) : Nat := nbits t 9 4
def tagRdy (t : Nat) : Bool := nbit t 13
def tagPoi (t : Nat) : Bool := nbit t 14
def tagUnk (t : Nat) : Bool := nbit t 15
/-- A tag with RDY, POI and UNK as given, above the fields of another. -/
def tagWith (t : Nat) (rdy poi unk : Bool) : Nat := t % 2 ^ 13 + rdy.toNat * 2 ^ 13 + poi.toNat * 2 ^ 14 + unk.toNat * 2 ^ 15
/-- A reserved code stands in the tag (R66, R67). -/
def tagReserved (t : Nat) : Bool := tagFmt t > 16 || tagSpc t > 4 || tagLay t > 4

/-! ## Tiles (R62, R63) -/

/-- Column block, row block and outer index of a tile. -/
def tileTc (e i : Nat) : Nat := i % tdNtc e
def tileTr (e i : Nat) : Nat := i / tdNtc e % tdNtr e
def tileOuter (e i : Nat) : Nat := i / tdNtc e / tdNtr e
/-- Footprint base of a tile for elements of `w` bits. -/
def tileBase (e i w : Nat) : Nat :=
  tdBase e + tileOuter e i / tdDim e 2 * (tdSdim2 e * tdDim e 2) + tileOuter e i % tdDim e 2 * tdSdim2 e + tileTr e i * tdTr e * tdSdim1 e +
    tileTc e i * tdTc e * w / 8
/-- Rows and columns of a tile that lie inside the tensor. -/
def tileRows (e i : Nat) : Nat := min (tdTr e) (tdDim e 1 - tileTr e i * tdTr e)
def tileCols (e i : Nat) : Nat := min (tdTc e) (tdDim e 0 - tileTc e i * tdTc e)
/-- An edge tile is clipped. -/
def tileClipped (e i : Nat) : Bool := tileRows e i != tdTr e || tileCols e i != tdTc e
/-- The byte spans of a tile's clipped footprint, row by row. -/
def tileSpans (e i w : Nat) : List (Nat × Nat) :=
  (List.range (tileRows e i)).map fun r => (tileBase e i w + r * tdSdim1 e, ceilDiv (tileCols e i * w) 8)

/-- Address and bit shift of the element at row-major position `k` of a tile. -/
def tileElem (e i w k : Nat) : Nat × Nat :=
  let r := k / tdTc e
  let c := k % tdTc e
  (tileBase e i w + r * tdSdim1 e + c * w / 8, c * w % 8)

/-- The place of element (r, c) of a TR x TC tile in a layout's order (R63, R200). The last K-block of a packed tile (R201) may have fewer than KB rows: its columns
follow one another all the same (log entry 153). -/
def layPos (lay tr tc kb r c : Nat) : Nat :=
  if lay = 1 then c * tr + r
  else if lay = 2 then ((r / 32) * (tc / 32) + c / 32) * 1024 + r % 32 * 32 + c % 32
  else if lay = 4 then r / kb * tc * kb + c * min kb (tr - r / kb * kb) + r % kb
  else r * tc + c

/-- The tile's shape fits its layout (R63, R200). -/
def layOk (e i t : Nat) : Bool :=
  tagLay t = 0 ||
  (!tileClipped e i && (tagLay t != 2 || (tdTr e ≥ 32 && tdTc e ≥ 32)) && (tagLay t != 3 || tdTr e = 32) &&
    (tagLay t != 4 || tdTr e % fmtKb (tagFmt t) = 0))

/-- Bytes of the side record that the sparsity class needs (R201); the list of class 3 grows with its count. -/
def sideBytes (e t count : Nat) : Nat :=
  if tagSpc t = 1 then ceilDiv (tdTr e / 4 * tdTc e) 2
  else if tagSpc t = 2 then ceilDiv (tdTr e / 16 * (tdTc e / 16)) 8
  else if tagSpc t = 3 then 8 + 8 * count
  else 0

/-! ## Reads by the device -/

/-- The dispatcher's context in a task's address space (R512). -/
def agentCtx (root key task : Nat) : Ctx := { core := 512, root := root, key := key, sup := true, task := task }

/-- Reads `n` bytes at a point beyond the caches, with every check (R231, R285); what it read, whether it is poisoned, and the pages. -/
def readAt (s : State) (c : Ctx) (scope va n : Nat) : Except PageFault ((Nat × Bool) × List Xlat × State) := do
  let l ← xlat s c .read false va n
  let r := readPieces (useXlats s c .read false l) c.core scope (piecesOf l)
  .ok (r.1, l, r.2)

/-- The values of a table entry that clusters hold and memory no longer has (R59). -/
def tdOlds (s : State) (root va v : Nat) : List Nat :=
  (s.clusters.flatMap fun k => (k.2.tdt.filter fun e => e.root = root && e.va = va && e.e.toNat != v).map fun e => e.e.toNat).eraseDups
/-- A cluster keeps a table entry; it has room for 256 (R59). -/
def keepTd (e : TdEnt) (k : Cluster) : Cluster :=
  { k with tdt := (e :: k.tdt.filter fun x => !(x.root = e.root && x.va = e.va)).take 256 }
/-- The cluster that keeps the entries which a context reads: a core's own, and the first of the die for a dispatcher's reads (log entry 160). -/
def tdCluster (s : State) (c : Ctx) : Nat := if c.core < 512 then clusterOfCore c.core else 32 * (taskOf s c.task).die
/-- Entry `tid` of the tensor descriptor table at a VA: the entry and whether a word of it is poisoned (R59, R512). When software has changed the entry
while its launch runs, the use has the old one or the new one: a free choice. -/
def readTd (s : State) (c : Ctx) (tdt tid : Nat) : Except PageFault (Nat × Bool × State) := do
  let va := tdt + 64 * tid
  let r ← readAt s c 2 va 64
  let s := r.2.2
  match tdOlds s c.root va r.1.1 with
  | [] => .ok (r.1.1, r.1.2, if r.1.2 then s else updCluster s (tdCluster s c) (keepTd ⟨c.root, va, BitVec.ofNat 512 r.1.1⟩))
  | l =>
    match l[freeAt s 670 % (l.length + 1)]? with
    | some v => .ok (v, false, useFresh (updCluster s (tdCluster s c) (keepTd ⟨c.root, va, BitVec.ofNat 512 v⟩)))
    | none => .ok (r.1.1, r.1.2, useFresh s)
/-- The values of word `k` of a table entry that clusters hold and memory no longer has. -/
def tdWordOlds (s : State) (root va k v : Nat) : List Nat :=
  (s.clusters.flatMap fun e => (e.2.tdt.filter fun x => x.root = root && x.va = va).map fun x => nbits x.e.toNat (64 * k) 64).eraseDups.filter (· != v)
/-- Word `k` of entry `tid`, from a kept entry or from memory (R468): a free choice when they differ (R59). -/
def readTdWord (s : State) (c : Ctx) (tdt tid k : Nat) : Except PageFault ((Nat × Bool) × State) := do
  let r ← readAt s c 2 (tdt + 64 * tid + 8 * k) 8
  match tdWordOlds r.2.2 c.root (tdt + 64 * tid) k r.1.1 with
  | [] => .ok (r.1, r.2.2)
  | l => .ok ((l[freeAt r.2.2 670 % (l.length + 1)]?).elim r.1 (fun v => (v, false)), useFresh r.2.2)
/-- No cluster keeps an entry of a table once its launch is over. -/
def dropTds (s : State) (root tdt n : Nat) : State :=
  { s with clusters := s.clusters.map fun k => (k.1, { k.2 with tdt := k.2.tdt.filter fun e => !(e.root = root && tdt ≤ e.va && e.va < tdt + 64 * n) }) }

/-- The KINDs that a tag map may have (R68). -/
def tagKindOk (e : Nat) (k : Kind) : Bool := k = .loc || k = .coh || (k = .ror && tdRdonly e)
/-- The scope of a tag access (R68). -/
def tagScope (k : Kind) : Nat := if k = .loc then 2 else 3
/-- A tensor without a tag map (R65). -/
def noMapTag (e : Nat) : Nat := tagWith (tdDtag e) true false false

/-- What a read of a tag gives: its value, whether its atom is poisoned, its address, and whether its KIND is one of R68. -/
structure TagRead where
  tag : Nat
  poi : Bool := false
  pa : Nat := 0
  kind : Kind := .loc
  kindOk : Bool := true
  deriving DecidableEq, Repr

/-- Reads the tag of a tile at its home (R65, R68). -/
def readTag (s : State) (c : Ctx) (e i : Nat) : Except PageFault (TagRead × State) := do
  if tdTmap e = 0 then .ok ({ tag := noMapTag e }, s) else
  let l ← xlat s c .read false (tdTmap e + 2 * i) 2
  let x := l.headD { va := 0, n := 0, pa := 0, kind := .loc, sm := false, tagged := false, leaf := ⟨0, 0, 0, 0⟩ }
  if !tagKindOk e x.kind then .ok ({ tag := 0, pa := x.pa, kind := x.kind, kindOk := false }, s) else
  let r := readPieces (useXlats s c .read false l) c.core (tagScope x.kind) (piecesOf l)
  .ok ({ tag := r.1.1, poi := r.1.2, pa := x.pa, kind := x.kind }, r.2)

/-- Writes a tag at its home; the waiters on it are woken (R73). -/
def writeTag (s : State) (pa t : Nat) : State := storeRange s pa 2 t false
/-- The tag at a physical address. -/
def tagAt (s : State) (pa : Nat) : Nat := (loadRange s pa 2).1.1

/-- A page of the address range has TSTALE set (R71). -/
def staleRange (s : State) (root va n : Nat) : Bool :=
  (pieces 4096 va n).any fun p => match walkFrom s.mem (fun _ => none) p.1 4 root with | .ok l => pteTstale l.pte | .error _ => false
/-- A page of the tile's clipped footprint has TSTALE set (R71). -/
def tileStale (s : State) (root e i w : Nat) : Bool :=
  ((tileSpans e i w).map fun p => (p.1 / 4096, (p.1 + p.2 - 1) / 4096)).eraseDups.any fun p => staleRange s root (4096 * p.1) (4096 * (p.2 - p.1 + 1))

/-- The count in the header of an outlier list, where it can be read (R201). -/
def outlierCount (s : State) (c : Ctx) (e i : Nat) : Nat :=
  match readAt s c 2 (tdSdva e + i * 2 ^ tdSdsz e) 8 with
  | .ok r => nbits r.1.1 0 16
  | .error _ => 0
/-- The side record does not fit, or there is none (R201). -/
def sideMisfit (s : State) (c : Ctx) (e i t : Nat) : Bool :=
  (tagSpc t = 1 || tagSpc t = 2 || tagSpc t = 3) &&
    (!tdSdv e || sideBytes e t (if tagSpc t = 3 then outlierCount s c e i else 0) > 2 ^ tdSdsz e)

/-- A run-length tile's other fields fit (R184). -/
def rleOk (e i t : Nat) : Bool := tagSpc t != 4 || (1 ≤ tagFmt t && tagFmt t ≤ 13 && tagLay t = 0 && tdTcl e ≥ 1 && !tileClipped e i)

/-- Dispatch treats the tile as unknown (R63, R67, R71, R184, R200, R201). -/
def treatedUnk (s : State) (c : Ctx) (e i t : Nat) : Bool :=
  tagUnk t || tagReserved t || (tagFmt t = 0 && tagRdy t) || !layOk e i t || !rleOk e i t || sideMisfit s c e i t || tileStale s c.root e i (fmtWidth (tagFmt t))

/-! ## Claimed tiles: typed stores and poison (R70, R72) -/

/-- The footprint of a claimed tile for elements of `w` bits (R62). -/
def claimSpans (w : Nat) (c : Claim) : List (Nat × Nat) := tileSpans c.td.toNat (refIdx c.ref) w
/-- The footprint of a claimed tile, under the format that its tag names. -/
def claimNow (s : State) (c : Claim) : List (Nat × Nat) := claimSpans (fmtWidth (tagFmt (tagAt s c.pa))) c
/-- Some of `n` bytes at `va` lie in the spans. -/
def meets (l : List (Nat × Nat)) (va n : Nat) : Bool := l.any fun p => overlaps p.1 p.2 va n
/-- Takes a span out of a list of spans. -/
def cutFrom (l : List (Nat × Nat)) (p : Nat × Nat) : List (Nat × Nat) :=
  l.flatMap fun q =>
    if overlaps q.1 q.2 p.1 p.2 then
      (if q.1 < p.1 then [(q.1, p.1 - q.1)] else []) ++ (if p.1 + p.2 < q.1 + q.2 then [(p.1 + p.2, q.1 + q.2 - (p.1 + p.2))] else [])
    else [q]

/-- Some of the bytes of a typed store of elements of `w` bits lie outside every tile that the task has claimed: that part of it is raw (R70, R71). The footprints are those of the format
that it stores, whatever the tags hold (R488). -/
def rawPart (s : State) (task w va n : Nat) : Bool :=
  let spans := ((taskOf s task).claims.flatMap (claimSpans w)).filter fun p => overlaps p.1 p.2 va n
  !(spans.foldl cutFrom [(va, n)]).isEmpty

/-- The pages that a typed store writes: the pieces with a raw part set TSTALE (R70, R71). -/
def useTyped (s : State) (c : Ctx) (task w : Nat) (l : List Xlat) : State := l.foldl (fun s x => useXlat s c .write (rawPart s task w x.va x.n) x) s

/-- A typed store of `n` bytes at `va` writes its FMT, SPC and LAY into the tags of the claimed tiles that it falls in (R70). -/
def typedStore (s : State) (task va n fmt spc lay : Nat) : State :=
  (taskOf s task).claims.foldl (fun s c =>
    if meets (claimSpans (fmtWidth fmt) c) va n then writeTag s c.pa (tagAt s c.pa / 2 ^ 13 * 2 ^ 13 + fmt + spc * 2 ^ 5 + lay * 2 ^ 9) else s) s

/-- A write for the task carries poison into the atoms of `n` bytes at `va`: the claimed tiles whose footprint they meet are noted (R72). -/
def notePoison (s : State) (task va n : Nat) : State :=
  let lo := va / 32 * 32
  let hi := (va + n + 31) / 32 * 32
  updTask s task fun t => { t with poisoned := (t.claims.filter fun c => meets (claimNow s c) lo (hi - lo)).foldl (fun l c => insertAsc l c.ref) t.poisoned }

/-! ## Records of faults that no strand takes (R237, R303) -/

/-- A translation fault record (R237). `src` is its source, `unit` its SRC word. -/
def xlatRecord (s : State) (c : Ctx) (acc : Acc) (die src unit cursor : Nat) (f : PageFault) : BitVec 512 :=
  record8 [f.cause + f.sub * 2 ^ 8 + die * 2 ^ 16 + src * 2 ^ 18, acc.code + f.level * 2 ^ 2 + (c.sup && c.core < 512).toNat * 2 ^ 5, unit, cursor, f.pte, f.va % 2 ^ 57,
    if c.task = 0 then 0 else (taskOf s c.task).wid.toNat, c.task]

/-- The record of a failed translation of an engine or of the array: a pool record for the causes of R285, else a translation fault record (R237). -/
def faultRecord (s : State) (c : Ctx) (acc : Acc) (die src unit cursor : Nat) (f : PageFault) : BitVec 512 :=
  if f.cause = 0x11 || (f.cause = 0x06 && f.sub = 9) then
    let pa := match xlatPages s c acc false f.va 1 with | .ok l => (l.map Xlat.pa).headD 0 | .error _ => 0
    let idx := match regionOf s pa with | some r => r.1 | none => 0
    poolRecord c.task (if c.task = 0 then 0 else (taskOf s c.task).wid.toNat) (pa / 128 * 128) 0 cursor idx f.cause f.sub die (headOfPa pa)
  else xlatRecord s c acc die src unit cursor f

end Sys2Proof.Machine
end

