-- ==== Sys2Proof/Machine/Access.lean ====
section
/-! DEFINITION. Memory operations of the strands: the order in which they may be performed (R268, R269), and performing them (R261, R264, R266,
R277, R369). -/
namespace Sys2Proof.Machine

/-! ## Order within a strand -/

def MemOp.isLoad (o : MemOp) : Bool := match o.kind with | .load | .vload _ | .ldro _ | .amo _ | .cas => true | _ => false
def MemOp.isStore (o : MemOp) : Bool := match o.kind with | .store | .amo _ | .cas => true | _ => false
def MemOp.acq (o : MemOp) : Bool := o.ord = 1 || o.ord = 3
def MemOp.rel (o : MemOp) : Bool := o.ord = 2 || o.ord = 3

/-- Two accesses touch one atom. -/
def sameAtom (a b : MemOp) : Bool :=
  a.pieces.any fun p => b.pieces.any fun q => (atomsOf p.pa p.n).any (atomsOf q.pa q.n).contains

/-- The points of an access: a home agent is told by its stack, a target unit by its window. -/
def pointsOf (o : MemOp) : List (Point × Nat) := o.pieces.map fun p =>
  let k := pointOf o.scope p.kind p.pa
  (k, if p.kind = .window then p.pa / 2 ^ 31 else if k = .home then homeStack p.pa else 0)
/-- Two accesses are performed at one point. -/
def samePoint (a b : MemOp) : Bool := (pointsOf a).any (pointsOf b).contains

/-- The changes of barriers that two operations make reach one barrier. -/
def sameBar (p o : MemOp) : Bool :=
  let bar := fun (x : MemOp) => match x.kind with | .arrive c n | .change c n _ _ => some (c, n) | _ => none
  (bar p).isSome && bar p == bar o
/-- The earlier access `p` of a strand must be performed before the later one `o` (R268, R269). LDRO is ordered by no fence or acquire (R420), and TLBINV before every later memory word
(R469); the changes of a barrier stand in program order (R378). -/
def mustPrecede (p o : MemOp) : Bool :=
  match p.kind, o.kind with
  | .reply, _ | .swap _ _, _ | .spill _, _ => false
  | _, .reply | _, .swap _ _ | _, .spill _ | _, .tlbinv => false
  | .change _ _ _ _, _ | _, .change _ _ _ _ => sameBar p o
  | .tlbinv, _ => true
  | _, .ldro _ => false
  | .ldro _, .fence | .ldro _, .qmark => false
  | .qmark, _ => true
  | _, .qmark => true
  | .fence, .fence => true
  | .fence, _ => p.acq || o.rel || (p.rel && o.isStore)
  | _, .fence => o.rel || p.isLoad
  | _, _ => sameAtom p o || p.acq || o.rel || (o.isStore && p.isLoad) || (samePoint p o && !(o.isLoad && !o.isStore && p.isStore && !p.isLoad))

/-- An MLDW has completed: the slot that it mapped is filled (R198), or is no longer what it mapped. -/
def mldwDone (s : State) (core : Nat) (e : Mldw) : Bool :=
  match e.took with
  | some (n, src) => (match tfind (clusterOf s (clusterOfCore core)).slots n with | some w => w.src != src || w.filled | none => true)
  | none => false
/-- BARR on M waits until every matrix command that M issued before it in its bank has completed, an MLDW among them (R374). -/
def matrixBehind (s : State) (core bank : Nat) (st : Strand) (id : Nat) : Bool :=
  let k := clusterOf s (clusterOfCore core)
  let b := bankOf s core bank
  st = .m &&
    (((k.running.toList ++ k.behind.toList).any fun m => m.core = core && m.bank = bank && m.seq ≤ id) ||
      ((b.cut.toList ++ b.saved.toList).any fun m => m.seq ≤ id) || b.mldws.any fun e => e.seq ≤ id && !mldwDone s core e)

/-- No earlier outstanding access of the strand must be performed first. The pieces of one vector store are in no order but on an atom (R266). -/
def canPerform (x : StrandSt) (id : Nat) : Bool :=
  match x.flight.find? (fun f => f.id = id) with
  | none => false
  | some f =>
    match f.op with
    | none => false
    | some o => x.flight.all fun g => g.id ≥ id || g.landed || (match g.op with
      | some p => !mustPrecede p o || (f.grp != 0 && g.grp = f.grp && !sameAtom p o)
      | none => true)

/-! ## Links that are down (R300, R302) -/

/-- Bytes of the pool that the agent does not hold whole, while the link of the head that serves them is down, or bytes of the host's memory while its link is: a fill of them is held. -/
def linkDown (s : State) (pa : Nat) : Bool :=
  lineLinkDown s (pa / 128) && !((findLine (agentCache s (agentOf pa)) (pa / 128)).any fun x => x.valid = allBytes)
/-- The cluster cache serves a read of the piece without a fill (R217). -/
def clusterHas (s : State) (core : Nat) (q : Piece) : Bool :=
  (findLine (clusterOf s (clusterOfCore core)).cache (q.pa / 128)).any fun x => lineHas x (q.pa % 128) q.n && (x.dirty = 0 || x.valid = allBytes)
/-- An access that a link holds: a fill that no cache it reads makes needless, a store or atomic at the agent without ownership (R288), or a release that has lines to write
back to an agent that does not own them. A store in a cluster cache that has no way for its line goes on to the agent too. -/
def opHeld (s : State) (core : Nat) (o : MemOp) : Bool :=
  (o.rel && 2 ≤ o.scope && releaseHeldBack s core) || o.pieces.any fun q =>
    (q.kind.pooled || q.kind = .host) && (match o.kind with
      | .ldro _ => (findLine (coreOf s core).ro (q.pa / 128)).isNone && !clusterHas s core q && linkDown s q.pa
      | .store => (o.scope ≥ 2 || clusterStuck s (clusterOfCore core) (q.pa / 128)) && !canOwn s (q.pa / 128)
      | .amo _ | .cas => if o.scope ≥ 2 then linkDown s q.pa || !canOwn s (q.pa / 128) else !clusterHas s core q && linkDown s q.pa
      | _ => if o.scope ≥ 2 then linkDown s q.pa else !clusterHas s core q && linkDown s q.pa)
/-- A strand of a bank has an access outstanding that a link holds. -/
def strandHeld (s : State) (core bank : Nat) (st : Strand) : Bool :=
  (strandOf s core bank st).flight.any fun f => !f.landed && (match f.op with | some o => opHeld s core o | none => false)

/-! ## Performing -/

/-- A strong access: an atomic, or a load or store with an order (R267). -/
def MemOp.strong (o : MemOp) : Bool := match o.kind with
  | .amo _ | .cas => true
  | .load | .vload _ | .store => o.ord != 0
  | _ => false
/-- The entry is of this strand. -/
def Strong.isBy (e : Strong) (core : Nat) (st : Strand) (task : Option Nat) : Bool := e.core = core && e.st = st && e.task = task
/-- A strong access is kept (R267). While MIXCHK is set, a strong access at a home point within 4,096 cycles of one of another size from another core to bytes it
overlaps posts a MIXSIZE record for the atom. -/
def noteStrong (s : State) (core bank : Nat) (st : Strand) (o : MemOp) : State :=
  if !o.strong then s else
  let b := bankOf s core bank
  let kind := match o.kind with | .amo _ | .cas => 3 | .store => 1 | _ => 0
  o.pieces.foldl (fun s q =>
    if q.kind = .mmio then s else
    let watch := (coreOf s core).mixchk
    let place := if o.scope ≤ 1 && q.kind != .window then 1 + clusterOfCore core else 0
    let hit := watch && s.strong.any fun e => e.chk && e.place = place && s.cycle - e.cycle < 4096 && overlaps e.pa e.n q.pa q.n && e.size != o.n && e.core != core
    let s := if hit then
        postRecord s (dieOfCore core) (record8 [0x0F + (dieOfCore core) * 2 ^ 16, kind + (supervisor s core).toNat * 2 ^ 5, (core % 4) * 2 ^ 13 + (core / 4 % 32) * 2 ^ 15,
          0, 0, q.pa / 32 * 32, b.wid.toNat, b.taskid.toNat]) none (some (.strand core st))
      else s
    let old := s.strong.filter fun e => !(e.pa = q.pa && e.n = q.n && e.size = o.n && e.isBy core st b.task)
    let old := if watch then old.map fun e => if e.pa / 32 = q.pa / 32 && e.place = place then { e with chk := false } else e else old
    { s with strong := old ++ [{ pa := q.pa, n := q.n, size := o.n, core := core, st := st, task := b.task, cycle := s.cycle, chk := watch, place := place }] }) s

/-- The bytes of a strong access that an earlier strong access of another size, by another strand, overlaps, with their offsets in the access (R267). -/
def mixedSpans (s : State) (core bank : Nat) (st : Strand) (o : MemOp) : List (Nat × Piece) :=
  if !o.strong then [] else
  let other := s.strong.filter fun e => e.size != o.n && !e.isBy core st (bankOf s core bank).task
  (o.pieces.foldl (fun (a : Nat × List (Nat × Piece)) q =>
    (a.1 + q.n, a.2 ++ (if q.kind = .mmio then [] else (other.filter fun e => overlaps e.pa e.n q.pa q.n).map fun e =>
      (a.1 + (e.pa - q.pa), { q with pa := max e.pa q.pa, n := min (e.pa + e.n) (q.pa + q.n) - max e.pa q.pa })))) (0, [])).2
/-- What such an overlap makes of an access's result: whether the two are unordered is a free choice, and if they are, the bytes hold undefined values, in the result
and in memory (R267; log entry 22). -/
def mixUp (s : State) (core : Nat) (o : MemOp) (spans : List (Nat × Piece)) (r : (Nat × Bool) × State) : (Nat × Bool) × State :=
  if spans.isEmpty then r
  else if !nbit (freeAt s 650) 0 then (r.1, useFresh r.2)
  else
    let l := List.zip (List.range spans.length) spans
    let v := l.foldl (fun v e => setBits v (8 * e.2.1) (8 * e.2.2.n) (freeAt s (50000 + 2 * e.1))) r.1.1
    let t := l.foldl (fun t e =>
      if e.2.2.kind = .ror then t else
      let p := readPieces t core o.scope [e.2.2]
      writePieces p.2 core o.scope p.1.2 [e.2.2] (freeAt s (50001 + 2 * e.1) % 256 ^ e.2.2.n)) r.2
    ((v, r.1.2), useFresh t)
/-- A strong read of its pieces. -/
def strongRead (s : State) (core bank : Nat) (st : Strand) (o : MemOp) : (Nat × Bool) × State :=
  mixUp s core o (mixedSpans s core bank st o) (readPieces s core o.scope o.pieces)

/-- Reads in ascending order the pieces that have not been read, from place `i` on: the bytes of all as one number, and whether any atom was poisoned. -/
def readRest (rd : State → Piece → (Nat × Bool) × State) (did : Tbl (Nat × Bool)) : State → Nat → List Piece → (Nat × Bool) × State
  | s, _, [] => ((0, false), s)
  | s, i, q :: l =>
    let a := match tfind did i with | some r => (r, s) | none => rd s q
    let b := readRest rd did a.2 (i + 1) l
    ((a.1.1 + 256 ^ q.n * b.1.1, a.1.2 || b.1.2), b.2)
/-- Writes in ascending order the pieces that have not been written. -/
def writeRest (s : State) (core scope : Nat) (p : Bool) (did : Tbl (Nat × Bool)) : Nat → List Piece → Nat → State
  | _, [], _ => s
  | i, q :: l, v =>
    writeRest (if (tfind did i).isSome then s else writePiece s core scope q (v % 256 ^ q.n) p) core scope p did (i + 1) l (v / 256 ^ q.n)
/-- Reads the pieces of an access: an MMIO access at its register, others at their points. -/
def readOp (s : State) (core : Nat) (o : MemOp) : (Nat × Bool) × State :=
  match o.pieces with
  | q :: _ => if q.kind = .mmio then ((mmioRead s (q.pa % 2 ^ 48) o.n, false), useFresh s) else readRest (fun s q => readPiece s core o.scope q) o.did s 0 o.pieces
  | [] => ((0, false), s)
def writeOp (s : State) (core : Nat) (o : MemOp) (v : Nat) (p : Bool) : State :=
  match o.pieces with
  | q :: _ => if q.kind = .mmio then mmioWrite s (q.pa % 2 ^ 48) o.n v else writeRest s core o.scope p o.did 0 o.pieces v
  | [] => s

/-- What `n` bytes give in registers: one register, sign- or zero-extended, or a tuple (R331, R418). -/
def loadWrites (dests : List Dest) (n v : Nat) (sx p : Bool) : List Write :=
  let one := fun (d : Dest) (x : Nat) => match d with
    | .reg r => Write.reg r { v := BitVec.ofNat 64 x, poi := p }
    | .idx r => .idx r { v := BitVec.ofNat 32 x, poi := p }
    | .queue q k => .queue q k { v := BitVec.ofNat 64 x, poi := p }
    | .vec r => .vec r {}
    | .mask r => .mask r {}
  let ext := if n < 8 && sx then wrapN 64 (sintN (8 * n) v) else v
  (List.zip (List.range dests.length) dests).map fun e => one e.2 (if n ≤ 8 then ext else nbits v (64 * e.1) 64)

/-- The new value of an atomic (R369); `w` is its width in bits. -/
def amoValue (op w old b : Nat) : Nat :=
  let lt := sintN w old < sintN w b
  if op = 0 then b
  else if op = 1 then (old + b) % 2 ^ w
  else if op = 2 then old &&& b
  else if op = 3 then old ||| b
  else if op = 4 then old ^^^ b
  else if op = 5 then (if lt then old else b)
  else if op = 6 then (if lt then b else old)
  else if op = 7 then (if old < b then old else b)
  else if op = 8 then (if old < b then b else old)
  else
    let f := if w = 32 then fmtS else fmtD
    (f.round 0 false (vAdd false (f.decode false old) (f.decode false b)).1).1

/-- Lines of a read-only cache of 256 KiB (R22). -/
def roLines : Nat := 2048
/-- A line goes into a read-only cache; when that is full another, of a free choice, leaves it. -/
def putRo (s : State) (core : Nat) (x : Line) : State :=
  let l := (coreOf s core).ro
  let l := if l.length < roLines then l else match l[freeAt s 643 % l.length]? with | some y => dropLine l y.line | none => l
  useFresh (updCore s core fun k => { k with ro := putLine l { x with dirty := 0, wrote := [] } })
/-- A read through the core's read-only cache (R227): a miss fills the line from the cluster cache, or from beyond it. -/
def readRo (s : State) (core : Nat) (q : Piece) : (Nat × Bool) × State :=
  let ln := q.pa / 128
  let o := q.pa % 128
  match findLine (coreOf s core).ro ln with
  | some x => ((nbits x.data.toNat (8 * o) (8 * q.n), (atomsOf o q.n).any fun a => x.poison.getLsbD a), s)
  | none =>
    let (x, s) := readLine s (clusterOfCore core) { q with pa := 128 * ln, n := 128 }
    ((nbits x.data.toNat (8 * o) (8 * q.n), (atomsOf o q.n).any fun a => x.poison.getLsbD a), if lapsedLine s ln then s else putRo s core x)
/-- The same, where the line that a miss fills is not installed unless `fills` (R460). -/
def readRoAs (fills : Bool) (core : Nat) (s : State) (q : Piece) : (Nat × Bool) × State :=
  let r := readRo s core q
  if fills then r else (r.1, updCore r.2 core fun k => { k with ro := (coreOf s core).ro })

/-- A store of `n` bytes at `va` is performed for the task in the bank: a typed one records its format in the tags of the claimed tiles (R70), and one that carries poison is noted in them
(R72). -/
def noteStore (s : State) (core bank : Nat) (o : MemOp) (va n : Nat) (p : Bool) : State :=
  match (bankOf s core bank).task with
  | none => s
  | some t =>
    let k := o.typed - 1
    let s := if o.typed = 0 then s else typedStore s t va n (nbits k 0 5) (nbits k 5 4) (nbits k 9 4)
    if p then notePoison s t va n else s
/-- The write of an access, which leaves its atoms poisoned if `p`, and what it notes: `carried` says that its own data is poisoned (R72). An atomic on a poisoned atom
leaves it poisoned, and that does not count. -/
def writeNoted (s : State) (core bank : Nat) (o : MemOp) (v : Nat) (p carried : Bool) : State :=
  noteStore (writeOp s core o v p) core bank o o.va o.n carried

/-- Performs an access: what it returns, whether that is poisoned, and the state after it. The release action stands before it and the acquire action after it
(R262). -/
def performOp (s : State) (core bank : Nat) (st : Strand) (o : MemOp) : (Nat × Bool) × State :=
  let s := if o.rel then releaseAction s core o.scope else s
  let spans := mixedSpans s core bank st o
  let s := noteStrong s core bank st o
  let r : (Nat × Bool) × State :=
    match o.kind with
    | .load | .vload _ => readOp s core o
    | .ldro fills => readRest (readRoAs fills core) o.did s 0 o.pieces
    | .store => ((0, false), writeNoted s core bank o o.data o.pdata o.pdata)
    | .amo op =>
      let r := readOp s core o
      (r.1, writeNoted r.2 core bank o (amoValue op (8 * o.n) r.1.1 o.data) (r.1.2 || o.pdata) o.pdata)
    | .cas =>
      let r := readOp s core o
      if r.1.1 = o.data then (r.1, writeNoted r.2 core bank o o.data2 (r.1.2 || o.pdata || o.pdata2) (o.pdata || o.pdata2)) else r
    | .fence | .qmark | .reply | .swap _ _ | .spill _ | .tlbinv => ((0, false), s)
    | .arrive c n => ((0, false), barChange s c n .arrive 1)
    | .change c n k v => ((0, false), barChange s c n k v)
  let r := mixUp s core o spans r
  (r.1, if o.acq then acquireAction r.2 core o.scope else r.2)

/-- Performs the memory operation of a flight and lands its result. -/
def performFlight (s : State) (core bank : Nat) (st : Strand) (id : Nat) : State :=
  match (strandOf s core bank st).flight.find? (fun f => f.id = id && !f.landed) with
  | none => s
  | some f =>
    let was := freezeTime s core
    let now := coreTime s core
    match f.op with
    | none => updBank s core bank fun b => landFlight b st id now
    | some o =>
      let r := performOp s core bank st o
      let ws := match o.kind with
        | .vload x => x.fill f.writes r.1.1 r.1.2
        | _ => if f.writes.isEmpty then loadWrites f.dests o.n r.1.1 o.sx r.1.2 else f.writes
      let s := updStrand r.2 core bank st fun x => { x with flight := x.flight.map fun g => if g.id = id then { g with writes := ws } else g }
      thaw (updBank s core bank fun b => landFlight b st id now) core was

/-- The pieces of an access that have not been performed: their places, their offsets in bytes, and the pieces. -/
def MemOp.left (o : MemOp) : List (Nat × Nat × Piece) :=
  ((o.pieces.foldl (fun (a : Nat × Nat × List (Nat × Nat × Piece)) q => (a.1 + 1, a.2.1 + q.n, a.2.2 ++ [(a.1, a.2.1, q)])) (0, 0, [])).2.2).filter
    fun e => (tfind o.did e.1).isNone
/-- One piece of a plain access is performed. -/
def performPiece (s : State) (core bank : Nat) (o : MemOp) (e : Nat × Nat × Piece) : (Nat × Bool) × State :=
  match o.kind with
  | .load | .vload _ => readPiece s core o.scope e.2.2
  | .ldro fills => readRoAs fills core s e.2.2
  | _ =>
    let s := writePiece s core o.scope e.2.2 (o.data / 256 ^ e.2.1 % 256 ^ e.2.2.n) o.pdata
    ((0, false), noteStore s core bank o (o.va + e.2.1) e.2.2.n o.pdata)
/-- A plain access, whose pieces are in no order to other agents (R266). -/
def MemOp.torn (o : MemOp) : Bool := match o.kind with | .load | .vload _ | .ldro _ | .store => true | _ => false
/-- Performs the memory operation of a flight; or, of a plain load or store in several pieces, one piece alone, of a free choice, since its pieces are in no order to other
agents (R266). -/
def performNext (s : State) (core bank : Nat) (st : Strand) (id : Nat) : State :=
  match ((strandOf s core bank st).flight.find? (fun f => f.id = id && !f.landed)).bind Flight.op with
  | none => performFlight s core bank st id
  | some o =>
    if o.torn && 2 ≤ o.left.length then
      match nbit (freeAt s 656) 0, o.left[freeAt s 655 % o.left.length]? with
      | true, some e =>
        let r := performPiece (useFresh s) core bank o e
        updStrand r.2 core bank st fun x => { x with flight := x.flight.map fun g => if g.id = id then { g with op := some { o with did := tset o.did e.1 r.1 } } else g }
      | _, _ => performFlight (useFresh s) core bank st id
    else performFlight s core bank st id

/-- The outstanding accesses of a strand that the test selects, earliest first. -/
def outstanding (x : StrandSt) (pick : Flight → Bool) : List Nat :=
  (x.flight.filter fun f => f.op.any (fun o => match o.kind with | .reply | .swap _ _ | .spill _ | .tlbinv => false | _ => true) && !f.landed && pick f).map Flight.id

/-- Performs the selected outstanding accesses of a strand in program order, which R268 always allows. -/
def drain (s : State) (core bank : Nat) (st : Strand) (pick : Flight → Bool := fun _ => true) : State :=
  (outstanding (strandOf s core bank st) pick).foldl (fun s id => performFlight s core bank st id) s
/-- Performs every outstanding access of the strand whose word is executing. -/
def drainCur (s : State) : State := drain s s.curCore (curFg s) s.curSt

end Sys2Proof.Machine
end

