-- ==== Sys2Proof/Machine/Array.lean ====
section
/-! DEFINITION. The shared matrix array: leases (R187-R191), the commands' arithmetic and time (R161-R166, R192-R196, R202-R206, R208-R210), the weight buffer
(R197-R201) and cutting (R213, R214). -/
namespace Sys2Proof.Machine

/-! ## Fields of a command -/

/-- The MAT word of a matrix command. -/
def matOf : Instr → Option MAT
  | .macq w | .mrel w | .mcfg w | .mset w | .mma w | .mmas w | .mola w | .mldw w | .mrowsum w | .mdrain w | .mldacc w | .midx w => some w
  | _ => none
def MCmd.mat (m : MCmd) : MAT := (matOf m.w).getD ⟨⟨0, 0, false⟩, 0, 0, 0, 0, 0, 0, 0, 0, 0, 0, 0⟩

def mcAfmt (m : W64) : Nat := (m.extractLsb' 0 5).toNat
def mcAsgn (m : W64) : Bool := m.getLsbD 6
def mcBsgn (m : W64) : Bool := m.getLsbD 7
def mcAmode (m : W64) : Nat := (m.extractLsb' 32 2).toNat
def mcAsf (m : W64) : Nat := (m.extractLsb' 34 3).toNat
def mcAsgran (m : W64) : Nat := (m.extractLsb' 37 4).toNat
def mcAdesc (m : W64) : NDesc := ndesc (m.extractLsb' 48 16)
/-- R195: the values that MCFG refuses. -/
def mconfOk (m : W64) : Bool :=
  mcAmode m != 3 && mcAsf m ≤ 4 && mcAsgran m ≤ 6 && m.extractLsb' 41 7 == 0 && m.extractLsb' 8 24 == 0 && !m.getLsbD 5

/-! ## Elements and scales -/

/-- The integer that a code of an integer format gives under a signedness bit (R162, R196). -/
def matInt (fmt : Nat) (signed : Bool) (c : Nat) : Int := if signed then sintN (fmtWidth fmt) c else (c % 2 ^ fmtWidth fmt : Nat)
/-- The exact value of a code (R163, R196). -/
def matVal (fmt : Nat) (nd : NDesc) (signed : Bool) (c : Nat) : Val :=
  if fmtInt fmt then Val.ofInt (matInt fmt signed c)
  else if fmt = 12 ∨ fmt = 13 then nd.decode c
  else (etFmt (fmtEt fmt)).decode false c

/-- Bytes of a scale (R60). -/
def scaleSize (f : Nat) : Nat := if f = 4 then 1 else if f = 3 then 4 else 2
/-- The value of a scale code (R64). -/
def scaleVal (f c : Nat) : Val :=
  if f = 1 then fmtH.decode false c
  else if f = 2 then fmtBF.decode false c
  else if f = 3 then fmtS.decode false c
  else if f = 4 then (if c = 255 then .nan false else .num false 1 ((c : Int) - 127))
  else Val.ofInt 1

/-- Significant width of a format (R24, R161). -/
def sigWidth (fmt : Nat) (nd : NDesc) : Nat := if fmt = 12 ∨ fmt = 13 then nd.width else fmtWidth fmt
/-- Multiply-accumulates per cycle (R24). -/
def macRate (w : Nat) : Nat := if w ≤ 4 then 131072 else if w ≤ 8 then 65536 else if w ≤ 16 then 32768 else 4096

/-! ## Weight slots -/

def slotNd (w : WSlot) : NDesc := ndesc w.nd
/-- The stored code of element (r, c) of a slot, its row along K; none where the sparse class stores nothing (R200, R201). -/
def slotCode (w : WSlot) (r c : Nat) : Option Nat :=
  let wd := fmtWidth w.fmt
  let kb := fmtKb w.fmt
  let at_ := fun (k : Nat) => nbits w.bytes (k * wd) wd
  if w.spc = 0 then some (at_ (layPos 4 w.rows w.cols kb r c))
  else if w.spc = 1 then
    let p := layPos 4 (w.rows / 2) w.cols kb (r / 4 * 2) c
    let n := nbits w.side (p / 2 * 4) 4
    if n % 4 = r % 4 then some (at_ p) else if n / 4 = r % 4 then some (at_ (p + 1)) else none
  else
    let b := r / 16 * (w.cols / 16) + c / 16
    if nbit w.side b then
      let before := ((List.range b).filter fun i => nbit w.side i).length
      some (at_ (before * 256 + layPos 4 16 16 kb (r % 16) (c % 16)))
    else none
def slotInt (w : WSlot) (signed : Bool) (r c : Nat) : Int := match slotCode w r c with | some x => matInt w.fmt signed x | none => 0
def slotVal (w : WSlot) (signed : Bool) (r c : Nat) : Val :=
  match slotCode w r c with | some x => matVal w.fmt (slotNd w) signed x | none => .num false 0 0
/-- The B scale of row `k`, column `c` of a slot (R64): 1 without scales. -/
def slotScale (w : WSlot) (k c : Nat) : Val :=
  if w.sfmt = 0 then Val.ofInt 1 else scaleVal w.sfmt (w.scales.getD (k / fmtKb w.fmt * w.cols + c) 0)

/-! ## The scratchpad side -/

/-- Physical address of an offset of the task's region. -/
def scrPa (s : State) (m : MCmd) (off : Nat) : Nat := scratchPa m.core ((bankOf s m.core m.bank).scrbase.toNat + off)
def scrRead (s : State) (m : MCmd) (off n : Nat) : Nat := memRead s.mem (scrPa s m off) n
def scrPoison (s : State) (m : MCmd) (off n : Nat) : Bool := memPoison s.mem (scrPa s m off) n
/-- A write to the scratchpad by the array. -/
def scrWrite (s : State) (m : MCmd) (off n v : Nat) (p : Bool) : State :=
  let pa := scrPa s m off
  wakeBytes { s with mem := homeWrite s.mem pa n v p } pa n

/-- Offset of row `r` of A (R194, R434). -/
def aRow (m : MCmd) (r : Nat) : Nat := 32 * m.mat.offa.toNat + m.ia.toNat + r * (32 * m.mat.str.toNat)
/-- Code `k` of row `r` of A. -/
def aCode (s : State) (m : MCmd) (r k : Nat) : Nat :=
  let wd := fmtWidth (mcAfmt m.mconf)
  nbits (scrRead s m (aRow m r + k * wd / 8) ((wd + 7) / 8)) (k * wd % 8) wd
/-- K-blocks of the formats of a command (R193). -/
def cmdKb (m : MCmd) (fmt : Nat) : Nat := min (fmtKb (mcAfmt m.mconf)) (fmtKb fmt)
/-- A scales of one row (R196). -/
def aScales (mconf : W64) (k : Nat) : Nat := ceilDiv k (fmtKb (mcAfmt mconf) * 2 ^ mcAsgran mconf)
/-- The A scale of row `r` for element `k` of `kt` (R196): 1 without scales. -/
def aScale (s : State) (m : MCmd) (r k kt : Nat) : Val :=
  let f := mcAsf m.mconf
  if f = 0 then Val.ofInt 1 else
  let g := k / (fmtKb (mcAfmt m.mconf) * 2 ^ mcAsgran m.mconf)
  scaleVal f (scrRead s m (m.ib.toNat + (r * aScales m.mconf kt + g) * scaleSize f) (scaleSize f))

/-! ## Accumulator elements -/

/-- Element (r, c) of a tile. -/
def accElem (t : AccTile) (r c : Nat) : Nat := nbits (accRow t r).toNat (48 * c) 48
/-- Replaces elements 0 to n - 1 of a row. -/
def accSetRow (t : AccTile) (r : Nat) (l : List Nat) : AccTile :=
  { t with rows := tset t.rows r (BitVec.ofNat 12288 (setBits (accRow t r).toNat 0 (48 * l.length) (l.foldr (fun x a => x % 2 ^ 48 + 2 ^ 48 * a) 0))) }
/-- Poisons the atoms of elements 0 to n - 1 of a row, and the tile (R202). -/
def accPoisonRow (t : AccTile) (r n : Nat) : AccTile := { accMark t (1536 * r) (6 * n) true with poi := true }

/-- One K-block of the integer path (R162): the new element, and whether SAT32 clamped. -/
def intBlock (mode acc : Nat) (blk : Int) : Nat × Bool :=
  let t := sintN 48 acc + blk
  if mode = 0 then (wrapN 48 t, false)
  else if mode = 1 then (wrapN 48 (clampInt t (-(2 ^ 47 : Nat)) ((2 ^ 47 : Nat) - 1)), false)
  else
    let u := clampInt t (-(2 ^ 31 : Nat)) ((2 ^ 31 : Nat) - 1)
    (wrapN 48 u, u != t)

/-- The integer path (R161). -/
def intPath (m : MCmd) (w : WSlot) : Bool := fmtInt (mcAfmt m.mconf) && fmtInt w.fmt && mcAsf m.mconf = 0 && w.sfmt = 0

/-- One K-block of MMA or MMAS for one element (R162, R163). -/
def mmaElem (s : State) (m : MCmd) (w : WSlot) (r c kb kt u : Nat) (acc : Nat) : Nat × Bool :=
  let ks := (List.range kb).map (u * kb + ·)
  if intPath m w then
    intBlock (mcAmode m.mconf) acc (ks.foldl (fun a k =>
      a + matInt (mcAfmt m.mconf) (mcAsgn m.mconf) (aCode s m r k) * slotInt w (mcBsgn m.mconf) k c) 0)
  else
    let bs := blockSum (ks.map fun k => (vMul (matVal (mcAfmt m.mconf) (mcAdesc m.mconf) (mcAsgn m.mconf) (aCode s m r k)) (slotVal w (mcBsgn m.mconf) k c)).1)
    (accumulate acc bs (aScale s m r (u * kb) kt) (slotScale w (u * kb) c), false)

def mmaRows (m : MCmd) : Nat := m.mat.mm1.toNat + 1
def mmaCols (m : MCmd) : Nat := m.mat.nm1.toNat + 1
def mmaBlocks (m : MCmd) : Nat := m.mat.kbm1.toNat + 1

/-- The command's slot. -/
def cmdSlot (s : State) (m : MCmd) : WSlot :=
  match m.slot with
  | some n => (weightSlot (clusterOf s (clusterOfCore m.core)) n).getD { src := ⟨0, 0, 0, 0, 0, 0⟩ }
  | none => { src := ⟨0, 0, 0, 0, 0, 0⟩ }
/-- The command's tile, updated. -/
def updTile (s : State) (m : MCmd) (f : AccTile → AccTile) : State :=
  updCluster s (clusterOfCore m.core) fun k => setTile k m.tile (f (accTile k m.tile))
def cmdTile (s : State) (m : MCmd) : AccTile := accTile (clusterOf s (clusterOfCore m.core)) m.tile

/-- A poisoned A row or A scale that K-block `u` reads, or a poisoned slot (R194, R198). -/
def mmaPoison (s : State) (m : MCmd) (w : WSlot) (kb kt u : Nat) : Bool :=
  w.poison || (List.range (mmaRows m)).any fun r =>
    let wd := fmtWidth (mcAfmt m.mconf)
    scrPoison s m (aRow m r + u * kb * wd / 8) (kb * wd / 8) ||
      (mcAsf m.mconf != 0 &&
        scrPoison s m (m.ib.toNat + (r * aScales m.mconf kt + u * kb / (fmtKb (mcAfmt m.mconf) * 2 ^ mcAsgran m.mconf)) * scaleSize (mcAsf m.mconf))
          (scaleSize (mcAsf m.mconf)))

/-- K-block `u` of MMA or MMAS (R434); `bad`: both takes mismatched (R206). -/
def mmaUnit (s : State) (m : MCmd) (u : Nat) (bad : Bool) : State :=
  let w := cmdSlot s m
  let kb := cmdKb m w.fmt
  let kt := mmaBlocks m * kb
  let p := bad || mmaPoison s m w kb kt u
  (List.range (mmaRows m)).foldl (fun s r =>
    updTile s m fun t =>
      let row := m.mat.row0.toNat + r
      let l := (List.range (mmaCols m)).map fun c => mmaElem s m w r c kb kt u (accElem t row c)
      let t := accSetRow t row (l.map (·.1))
      let t := { t with sat := t.sat || l.any (·.2) }
      if p then accPoisonRow t row (mmaCols m) else t) s

/-- Entry `u` of MOLA's list (R164, R204, R435). -/
def molaUnit (s : State) (m : MCmd) (u : Nat) : State :=
  let w := cmdSlot s m
  let off := m.ib.toNat + 8 + 8 * u
  let e := scrRead s m off 8
  let row := nbits e 0 16
  let k := nbits e 16 16
  let o := fmtBF.decode false (nbits e 32 16)
  if row < mmaRows m && k < mmaBlocks m * fmtKb w.fmt then
    -- an element of B that the slot's tile does not hold leaves a free value (log entry 192)
    let out := fun (c : Nat) => w.rows ≤ k || w.cols ≤ c
    updTile (if (List.range (mmaCols m)).any out then useFresh s else s) m fun t =>
      let r := m.mat.row0.toNat + row
      let t' := molaMark (accSetRow t r ((List.range (mmaCols m)).map fun c =>
        if out c then freeAt s (3000000 + 256 * u + c)
        else accumulate (accElem t r c) (vMul o (slotVal w (mcBsgn m.mconf) k c)).1 (Val.ofInt 1) (slotScale w k c))) r 0 (6 * mmaCols m)
      if w.poison || scrPoison s m off 8 then accPoisonRow t' r (mmaCols m) else t'
  else s

/-- MSET's value (R437). -/
def msetValue (m : MCmd) : Nat := if m.mat.sub = 0 then wrapN 48 m.ia.toInt else roundACF (fmtS.decode false m.ia.toNat)
/-- Row `u` of MSET. The tile's state is set with the first row (R202). -/
def msetUnit (s : State) (m : MCmd) (u : Nat) : State :=
  updTile s m fun t =>
    let t := if u = 0 then { t with aft := m.mat.sub = 1, poi := m.poi, sat := false } else t
    accPut t (m.mat.row0.toNat + u) 0 1536 ((List.replicate 256 (msetValue m)).foldr (fun x a => x + 2 ^ 48 * a) 0) m.poi

/-- Row `u` of MLDACC (R432). -/
def mldaccUnit (s : State) (m : MCmd) (u : Nat) : State :=
  let base := 32 * m.mat.offa.toNat + m.ia.toNat
  let off := base + 1536 * u
  updTile s m fun t =>
    let t := if u = 0 then { t with aft := m.mat.sub = 1, sat := false } else t
    let r := m.mat.row0.toNat + u
    (List.range 48).foldl (fun t a =>
      let p := scrPoison s m (off + 32 * a) 32
      let t := accPut t r (32 * a) 32 (scrRead s m (off + 32 * a) 32) p
      { t with poi := t.poi || p }) t

/-- Row `u` of MROWSUM.row, or the whole of MROWSUM.col (R436). -/
def mrowsumUnit (s : State) (m : MCmd) (u : Nat) : State :=
  if m.mat.sub = 0 then
    let f := mcAfmt m.mconf
    let k := mmaBlocks m * fmtKb f
    let x := (List.range k).foldl (fun a i => a + matInt f (mcAsgn m.mconf) (aCode s m u i)) 0
    scrWrite s m (m.ib.toNat + 4 * u) 4 (wrapN 32 x) (scrPoison s m (aRow m u) (k * fmtWidth f / 8))
  else
    let w := cmdSlot s m
    let k := mmaBlocks m * fmtKb w.fmt
    -- a sum over elements that the slot's tile does not hold is a free value (log entry 192)
    (List.range (mmaCols m)).foldl (fun s c =>
      let out := w.rows < k || w.cols ≤ c
      scrWrite (if out then useFresh s else s) m (m.ib.toNat + 4 * c) 4
        (if out then freeAt s 604 else wrapN 32 ((List.range k).foldl (fun a i => a + slotInt w (mcBsgn m.mconf) i c) 0)) w.poison) s

/-! ## Drains (R165, R166, R208-R210) -/

def dpBias (p : BitVec 512) : Nat := (p.extractLsb' 480 32).toNat
def dpCs (p : BitVec 512) : Nat := (p.extractLsb' 448 32).toNat
def dpRsa (p : BitVec 512) : Nat := (p.extractLsb' 416 32).toNat
def dpCsb (p : BitVec 512) : Nat := (p.extractLsb' 384 32).toNat
def dpSh (p : BitVec 512) : Nat := (p.extractLsb' 352 32).toNat
def dpM0 (p : BitVec 512) : Nat := (p.extractLsb' 320 32).toNat
def dpHi (p : BitVec 512) : Int := (p.extractLsb' 288 32).toInt
def dpLo (p : BitVec 512) : Int := (p.extractLsb' 256 32).toInt
def dpZo (p : BitVec 512) : Int := (p.extractLsb' 224 32).toInt
def dpZb (p : BitVec 512) : Int := (p.extractLsb' 208 16).toInt
def dpZa (p : BitVec 512) : Int := (p.extractLsb' 192 16).toInt
def dpKsum (p : BitVec 512) : Nat := (p.extractLsb' 160 32).toNat
def dpTfmt (p : BitVec 512) : Nat := (p.extractLsb' 131 5).toNat
def dpRm (p : BitVec 512) : BitVec 3 := p.extractLsb' 128 3
/-- The mark of an absent array (R209). -/
def absent : Nat := 0xFFFFFFFF

/-- Variant of MDRAIN: 0 .raw, 1 .int, 2 .f, 3 .q; and whether it is the tensor form (R430). -/
def drainVar (w : MAT) : Nat := w.sub.toNat % 4
def drainTensor (w : MAT) : Bool := w.sub.toNat / 4 = 1
/-- Width in bits of a drained element. -/
def drainWidth (w : MAT) (p : BitVec 512) : Nat := if drainVar w = 0 then 48 else fmtWidth (dpTfmt p)
/-- The narrow descriptor of a drain's target (R430). -/
def drainNd (m : MCmd) : NDesc :=
  ndesc (if drainTensor m.mat then (if dpTfmt m.blk = 12 then tdNda m.td.toNat else tdNdb m.td.toNat) else if dpTfmt m.blk = 12 then m.fd0 else m.fd1)

/-- The result of one element (R208): its code and flags. -/
def drainElem (s : State) (m : MCmd) (t : AccTile) (j c : Nat) : Nat × Flags :=
  let p := m.blk
  let w := m.mat
  let acc := accElem t (w.row0.toNat + j) c
  let et := fmtEt (dpTfmt p)
  let word := fun (off n i : Nat) => scrRead s m (off + n * i) n
  if drainVar w = 0 then (acc, 0)
  else if drainVar w = 1 then etWrap et true (sintN 48 acc)
  else if drainVar w = 2 then
    let v := if t.aft then acfVal acc else Val.ofInt (sintN 48 acc)
    let cs := if dpCs p = absent then Val.ofInt 1 else fmtS.decode false (word (dpCs p) 4 c)
    let bias := if dpBias p = absent then Val.num false 0 0 else fmtS.decode false (word (dpBias p) 4 c)
    let rm := if dpRm p = 7 then m.rm else (dpRm p).toNat
    let r := vFma (rm = 3) v cs bias
    let o := etRound et (drainNd m) rm false r.1
    (o.1, o.2 ||| flagIf r.2 flagIO)
  else
    let y := requant (sintN 48 acc) (dpZa p) (dpZb p) (dpZo p) (sintN 32 (word (dpM0 p) 4 c)) (sintN 32 (word (dpCsb p) 4 c)) (sintN 32 (word (dpRsa p) 4 j))
      (dpLo p) (dpHi p) (dpKsum p) (sintN 8 (word (dpSh p) 1 c))
    (wrapN (fmtWidth (dpTfmt p)) y, 0)

/-- Row `u` of MDRAIN. -/
def mdrainUnit (s : State) (m : MCmd) (u : Nat) : State :=
  let t := cmdTile s m
  let w := m.mat
  let wd := drainWidth w m.blk
  let n := mmaCols m
  let l := (List.range n).map fun c => drainElem s m t u c
  let v := l.foldr (fun x a => x.1 % 2 ^ wd + 2 ^ wd * a) 0
  let fl := flagsOr (l.map (·.2)) ||| flagIf t.sat flagSATF
  let s := updBank s m.core m.bank fun b => landFlags b fl (coreTime s m.core)
  let s :=
    if drainTensor w then
      let s := typedStore s m.task (tileBase m.td.toNat (refIdx m.ref) wd + u * tdSdim1 m.td.toNat) (n * wd / 8)
        (if drainVar w = 0 then (if t.aft then 16 else 15) else dpTfmt m.blk) 0 0
      writePieces s m.core 1 t.poi (m.rows.getD u []) v
    else
      -- sub-byte columns do not occur: every target format is a whole number of bytes
      scrWrite s m (32 * w.offa.toNat + m.ia.toNat + u * (n * wd / 8)) (n * wd / 8) v t.poi
  if t.poi && drainTensor w then notePoison s m.task (tileBase m.td.toNat (refIdx m.ref) wd + u * tdSdim1 m.td.toNat) (n * wd / 8) else s

/-! ## Units and time (R192, R213) -/

/-- The list's count that MOLA reads (R204). -/
def molaCount (s : State) (m : MCmd) : Nat := nbits (scrRead s m m.ib.toNat 8) 0 16
/-- Units of a command (R213). -/
def cmdUnits (s : State) (m : MCmd) : Nat :=
  match m.w with
  | .mma _ | .mmas _ => mmaBlocks m
  | .mola _ => molaCount s m
  | .mrowsum w => if w.sub = 0 then mmaRows m else 1
  | _ => mmaRows m
/-- Cycles of one unit (R192). -/
def unitTime (s : State) (m : MCmd) : Nat :=
  let w := cmdSlot s m
  let r := macRate (max (sigWidth (mcAfmt m.mconf) (mcAdesc m.mconf)) (sigWidth w.fmt (slotNd w)))
  let macs := mmaRows m * mmaCols m * cmdKb m w.fmt
  match m.w with
  | .mma _ => ceilDiv macs r
  | .mmas _ => ceilDiv macs (2 * r)
  | .mrowsum x => if x.sub = 0 then 1 else mmaCols m
  | .mdrain x => if drainVar x = 0 then 1 else 2
  | _ => 1

/-- Performs unit `u`; `bad`: its K-block is added poisoned (R206). -/
def runUnit (s : State) (m : MCmd) (u : Nat) (bad : Bool) : State :=
  match m.w with
  | .mma _ | .mmas _ => mmaUnit s m u bad
  | .mola _ => molaUnit s m u
  | .mset _ => msetUnit s m u
  | .mldacc _ => mldaccUnit s m u
  | .mrowsum _ => mrowsumUnit s m u
  | .mdrain _ => mdrainUnit s m u
  | _ => s

/-! ## The continuity check (R205-R207) -/

/-- Opcode of a command for a record (R338). -/
def matOpcode : Instr → Nat
  | .mma _ => 0xB4 | .mmas _ => 0xB5 | _ => 0
/-- The MCHK record (R206). -/
def mchkRecord (s : State) (m : MCmd) (x : Mismatch) : BitVec 512 :=
  record8 [0x14 + 2 ^ 8, m.core / 128 + (m.core / 4 % 32) * 2 ^ 2 + (m.core % 4) * 2 ^ 7, x.syn1.toNat, x.syn2.toNat,
    matOpcode m.w + m.tile * 2 ^ 8 + x.block * 2 ^ 13, (taskOf s m.task).launch, (taskOf s m.task).wid.toNat, m.task]

/-- The command is checked block by block. -/
def MCmd.checked (m : MCmd) : Bool := match m.w with | .mma _ | .mmas _ => true | _ => false
/-- The mismatch of K-block `u` of a command (R205-R207): the one that MCTL.CCINJ makes of the core's next block; else the one of the list that is given; else, where none is
given, whether the block mismatches is a free choice (log entry 154). The differences of the two takes are free values where no list gives them. -/
def missAt (s : State) (m : MCmd) (given : Option (List Mismatch)) (u : Nat) : List Mismatch :=
  let free := fun (i : Nat) => freeAt s (1000000 + 4 * u + i)
  let miss := fun (twice : Bool) => [({ block := u, twice := twice, syn1 := BitVec.ofNat 64 (free 0), syn2 := BitVec.ofNat 64 (free 1) } : Mismatch)]
  let inj := (coreOf s m.core).ccinj.toNat
  if !m.checked then []
  else if u = m.unit ∧ inj != 0 then miss (inj = 2)
  else match given with
    | some l => (l.filter fun x => x.block = u).take 1
    | none => if nbit (free 2) 0 then miss (nbit (free 3) 0) else []
/-- Cycles of unit `u`, a retake included (R192, R205). -/
def unitSpan (s : State) (m : MCmd) (given : Option (List Mismatch)) (u : Nat) : Nat :=
  unitTime s m + (if (missAt s m given u).isEmpty then 0 else unitTime s m + 8)
/-- The first of `n` units from `u`, each of its span and the first beginning at `t`, that has not begun before `limit`, and the end of the one before it. -/
def unitWalk (span : Nat → Nat) (limit : Nat) : Nat → Nat → Nat → Nat × Nat
  | 0, u, t => (u, t)
  | n + 1, u, t => if limit ≤ t then (u, t) else unitWalk span limit n (u + 1) (t + span u)

/-- The rows of a tile that a command covers. -/
def MCmd.covers (m : MCmd) : List Nat := (List.range (mmaRows m)).map (m.mat.row0.toNat + ·)
/-- A row holds undefined values. -/
def accBlur (t : AccTile) (r v : Nat) : AccTile := { t with rows := tset t.rows r (BitVec.ofNat 12288 v) }
/-- Columns 0 to n - 1 of a row hold undefined values. -/
def accBlurCols (t : AccTile) (r n v : Nat) : AccTile := { t with rows := tset t.rows r (BitVec.ofNat 12288 (setBits (accRow t r).toNat 0 (48 * n) v)) }
/-- What a command leaves of its rows: those that E has reached meanwhile hold undefined values (R212), and so do the columns that a dense command names of a row that a
MOLA has corrected (R1, R204). -/
def settleRows (s : State) (m : MCmd) : State :=
  match m.w with
  | .mma _ | .mmas _ | .mola _ | .mset _ | .mldacc _ =>
    let after := if m.checked then m.covers.filter fun r => (tfind (cmdTile s m).mola r).isSome else []
    if m.clash.isEmpty && after.isEmpty then s else
    updTile (useFresh s) m fun t =>
      m.clash.foldl (fun t r => accBlur t r (freeAt s (2000000 + r))) (after.foldl (fun t r => accBlurCols t r (mmaCols m) (freeAt s (2000000 + r))) t)
  | _ => s

/-- Units `m.unit` up to `upTo` of a command, with the mismatches that its K-blocks meet. -/
def runUnits (s : State) (m : MCmd) (upTo : Nat) (given : Option (List Mismatch)) : State :=
  let us := (List.range (upTo - m.unit)).map (m.unit + ·)
  if us.isEmpty then s else
  let miss := us.flatMap (missAt s m given)
  let s := if m.checked then useFresh (updCore s m.core fun k => { k with ccinj := 0, rtk := BitVec.ofNat 16 (min 65535 (k.rtk.toNat + miss.length)) }) else s
  let s := (miss.filter (·.twice)).foldl (fun s x => postRecord s (dieOfCore m.core) (mchkRecord s m x) none (some (.array (clusterOfCore m.core)))) s
  settleRows (us.foldl (fun s u => runUnit s m u (miss.any fun x => x.twice && x.block = u)) s) m

/-- The die's clock of a cluster. -/
def arrayClock (s : State) (cl : Nat) : Nat := dieClock s (cl / 32)
/-- A running command brought to the boundary behind the unit that has begun last: the state, the command, and when it stands there (R213). MROWSUM .col has one unit, which
runs to its end. -/
def advance (s : State) (cl : Nat) (m : MCmd) : State × MCmd × Nat :=
  let now := match m.w with | .mrowsum x => if x.sub = 0 then arrayClock s cl else max (arrayClock s cl) (m.start + 9) | _ => arrayClock s cl
  let e := unitWalk (unitSpan s m none) now (cmdUnits s m - m.unit) m.unit (m.start + 8)
  if e.1 = m.unit then (s, m, arrayClock s cl)
  else (runUnits s m e.1 none, { m with unit := e.1, start := e.2 - 8 }, max e.2 (arrayClock s cl))
/-- The K-blocks of the core's running command that have begun are settled, so that an access to MCTL finds their retakes counted and CCINJ acts on the next one (R205,
R207). -/
def syncMatrix (s : State) (core : Nat) : State :=
  match (clusterOf s (clusterOfCore core)).running with
  | some m =>
    if m.core = core && m.checked then
      let r := advance s (clusterOfCore core) m
      updCluster r.1 (clusterOfCore core) fun k => { k with running := some r.2.1 }
    else s
  | none => s

/-! ## Leases (R187-R191) -/

def setHolder (k : Cluster) (h : Option Nat) (now clk : Nat) : Cluster :=
  { k with holder := h, grantAt := now, grantClk := clk, cmds := 0, releasing := false, want := k.want.filter fun c => some c != h }
/-- The lease is released (R190). -/
def releaseLease (s : State) (cl : Nat) : State :=
  updCluster s cl fun k => match k.holder with
    | some h => { setHolder k none s.cycle (dieClock s (cl / 32)) with lastHolder := h }
    | none => k
/-- The core holds its cluster's lease. -/
def holdsLease (s : State) (core : Nat) : Bool := (clusterOf s (clusterOfCore core)).holder = some (core % 4)
/-- The core asks for the lease. -/
def wantLease (s : State) (core : Nat) : State :=
  updCluster s (clusterOfCore core) fun k => if k.want.contains (core % 4) then k else { k with want := k.want ++ [core % 4] }
/-- The first requesting core after the given one (R188). -/
def nextWant (k : Cluster) (after : Nat) : Option Nat :=
  ((List.range 4).map fun i => (after + 1 + i) % 4).find? k.want.contains
/-- The grant's budget is spent (R188); its cycles are enabled ones (R353). -/
def budgetSpent (s : State) (cl : Nat) : Bool := let k := clusterOf s cl; k.cmds ≥ 64 || dieClock s (cl / 32) - k.grantClk ≥ 65536

/-- CSR LEASE (R191). -/
def leaseWord (s : State) (core : Nat) : Nat :=
  let k := clusterOf s (clusterOfCore core)
  let me := core % 4
  (if k.holder = some me then 1 else 0) + k.holder.isSome.toNat * 2 + (k.holder.getD 0) * 4 + (if k.want.contains me then 16 else 0) + k.cmds * 2 ^ 8 +
    (if k.holder.isSome then min 131071 (s.cycle - k.grantAt) else 0) * 2 ^ 15

/-- The commands of a core that the array has accepted are taken from it (R213, R214): the running one is cut at its next unit boundary, the one behind it is saved whole,
and the lease that the core holds is released; it can be granted again once the cut is reached. -/
def cutMatrix (s : State) (core : Nat) : State :=
  let cl := clusterOfCore core
  let fg := (coreOf s core).fg
  let s := updCluster s cl fun k => { k with want := k.want.filter (· != core % 4) }
  let k := clusterOf s cl
  let run := k.running.filter fun m => m.core = core
  let beh := k.behind.filter fun m => m.core = core
  if run.isNone && beh.isNone then s else
  let r := match run with
    | some m => let a := advance s cl m; (a.1, (if a.2.1.unit < cmdUnits s m then some a.2.1 else none), a.2.2)
    | none => (s, none, arrayClock s cl)
  let s := updBank r.1 core fg fun b => { b with
    cut := r.2.1, saved := beh <|> b.saved, cursor := BitVec.ofNat 64 (((r.2.1.map MCmd.unit).getD 0) + (if (beh <|> b.saved).isSome then 2 ^ 32 else 0)) }
  let s := updCluster s cl fun k =>
    let other := k.behind.filter fun m => m.core != core
    if run.isSome then { k with running := other.map fun m => { m with start := r.2.2 - 8 }, behind := none, freeAt := r.2.2 } else { k with behind := none }
  if holdsLease s core then releaseLease s cl else s

/-- A command writes a tile. -/
def MCmd.writesTile (m : MCmd) : Bool := match m.w with | .mset _ | .mma _ | .mmas _ | .mola _ | .mldacc _ => true | _ => false
/-- The commands of a bank's task that have not completed: those that the array runs, those that a cut saved, and the one that waits. -/
def openCmds (s : State) (core bank : Nat) : List MCmd :=
  let k := clusterOf s (clusterOfCore core)
  let b := bankOf s core bank
  (k.running.toList ++ k.behind.toList).filter (fun m => m.core = core && m.bank = bank) ++ b.cut.toList ++ b.saved.toList ++ b.mwait.toList
/-- A tile is the destination of a matrix command of the bank's task that has not completed (R211). -/
def tileBusy (s : State) (core bank tile : Nat) : Bool := (openCmds s core bank).any fun m => m.writesTile && m.tile = tile

/-- The command writes row `r` of the tile, or is a drain that reads it (R212). -/
def MCmd.usesRow (m : MCmd) (tile r : Nat) : Bool :=
  (m.writesTile || (match m.w with | .mdrain _ => true | _ => false)) && m.tile = tile && m.covers.contains r
/-- A command that has not completed still writes or reads the row (R212). -/
def rowBusy (s : State) (core bank tile r : Nat) : Bool := (openCmds s core bank).any fun m => m.usesRow tile r
/-- E has reached a row that a command still writes or reads: the row holds undefined values, now and when the command has completed (R136, R212). -/
def clashRow (s : State) (core bank tile r : Nat) : State :=
  let mark := fun (m : MCmd) => if m.core = core && m.bank = bank && m.usesRow tile r then { m with clash := r :: m.clash } else m
  let v := freeAt s (2000000 + r)
  let s := updCluster s (clusterOfCore core) fun k =>
    { setTile k tile (accBlur (accTile k tile) r v) with running := k.running.map mark, behind := k.behind.map mark }
  useFresh (updBank s core bank fun b => { b with cut := b.cut.map mark, saved := b.saved.map mark, mwait := b.mwait.map mark })

/-! ## Filling a weight slot (R197-R199) -/

/-- Tasks that map a slot of a cluster. -/
def slotUsers (s : State) (cl n : Nat) : List Nat :=
  (s.tasks.filter fun t => t.2.cluster = cl && t.2.wmap.any fun e => e.2 = some n).map (·.1)
/-- The task's bank is in the foreground of its core. -/
def inFront (s : State) (t : Nat) : Bool :=
  let x := taskOf s t
  x.st = .inBank && (fgBank (coreOf s x.core)).task = some t

/-- The name `wn` of a task is mapped to a slot, or is absent; `h` is the slot before its filling. -/
def mapName (s : State) (task wn : Nat) (slot : Option Nat) (h : WSlot) : State :=
  updTask s task fun t => { t with wmap := tset t.wmap wn slot, wsrc := tset t.wsrc wn h }
/-- The name is released. -/
def dropName (s : State) (task wn : Nat) : State := updTask s task fun t => { t with wmap := tdel t.wmap wn, wsrc := tdel t.wsrc wn }

/-- The slot for a tile (R197, R199): one that holds it, a free one, or the least recently used one that no foreground task maps, whose names become
absent. -/
def takeSlot (s : State) (cl : Nat) (h : WSlot) : Nat × State :=
  let k := clusterOf s cl
  match k.slots.find? (fun e => e.2.src = h.src && !(slotUsers s cl e.1).isEmpty) with
  | some e => (e.1, updCluster s cl fun k => { k with slots := tset k.slots e.1 { e.2 with poison := e.2.poison || h.poison } })
  | none =>
    let fresh := fun (s : State) (n : Nat) => updCluster s cl fun k => { k with slots := tset k.slots n { h with used := s.cycle } }
    match (List.range 128).find? (fun n => (slotUsers s cl n).isEmpty) with
    | some n => (n, fresh s n)
    | none =>
      let c := (List.range 128).filter fun n => (slotUsers s cl n).all fun t => !inFront s t
      let age := fun n => ((weightSlot k n).map WSlot.used).getD 0
      let n := c.foldl (fun (a : Option Nat) n => match a with | none => some n | some b => if age n < age b then some n else some b) none |>.getD 0
      let s := { s with tasks := s.tasks.map fun t =>
        (t.1, bif t.2.cluster == cl then { t.2 with wmap := t.2.wmap.map fun e => (e.1, bif e.2 == some n then none else e.2) } else t.2) }
      (n, fresh s n)

/-- The context of the task that owns a slot. -/
def slotCtx (s : State) (w : WSlot) : Ctx :=
  { core := (taskOf s w.owner).core, root := w.src.root, key := w.src.key, sup := false, task := w.owner }
/-- Reads pieces for the array: at DEV scope on LOCAL pages and at SYS scope on pool pages (R272). -/
def readFeed (s : State) (core : Nat) : List Piece → (Nat × Bool) × State
  | [] => ((0, false), s)
  | q :: l =>
    let a := readPieces s core (if q.kind.pooled then 3 else 2) [q]
    let b := readFeed a.2 core l
    ((a.1.1 + 256 ^ q.n * b.1.1, a.1.2 || b.1.2), b.2)
def readTile (s : State) (c : Ctx) (va n : Nat) : Except PageFault ((Nat × Bool) × State) := do
  let l ← xlat s c .read false va n
  .ok (readFeed (useXlats s c .read false l) c.core (piecesOf l))
/-- Reads several spans one after the other, the bytes joined. -/
def readSpans (s : State) (c : Ctx) : List (Nat × Nat) → Except PageFault ((Nat × Bool) × State)
  | [] => .ok ((0, false), s)
  | p :: l => do
    let a ← readTile s c p.1 p.2
    let b ← readSpans a.2 c l
    .ok ((a.1.1 + 256 ^ p.2 * b.1.1, a.1.2 || b.1.2), b.2)
/-- The atoms of a slot that poisoned atoms of its footprint poison, span after span from offset `o` of the slot (R198, R216). -/
def spanMarks (s : State) (c : Ctx) : Nat → List (Nat × Nat) → List Nat
  | _, [] => []
  | o, p :: l =>
    ((pieces 32 p.1 p.2).flatMap fun q => match readTile s c q.1 q.2 with
      | .ok r => if r.1.2 then atomsOf (o + (q.1 - p.1)) q.2 else []
      | .error _ => []) ++ spanMarks s c (o + p.2) l

/-- VA of the scale of column `j`, own K-block `q` of the tensor (R64), for a B operand in outer index `b`. -/
def scaleVa (e b j q : Nat) (fmt : Nat) : Nat :=
  let nkg := ceilDiv (tdDim e 1) (fmtKb fmt * 2 ^ tdSgran e)
  let g := q / 2 ^ tdSgran e
  tdScva e + (if tdSord e then (b * nkg + g) * tdDim e 0 + j else (b * tdDim e 0 + j) * nkg + g) * scaleSize (tdSfmt e)

/-- A 2:4 nibble's indices ascend strictly (R198). -/
def nibblesOk (side n : Nat) : Bool := (List.range n).all fun i => nbits side (4 * i) 2 < nbits side (4 * i + 2) 2
/-- Bytes of a tile's stored form (R198, R201). -/
def storedBytes (e tag side : Nat) : Nat :=
  let w := fmtWidth (tagFmt tag)
  if tagSpc tag = 1 then tdTr e * tdTc e * w / 16
  else if tagSpc tag = 2 then ((List.range (tdTr e / 16 * (tdTc e / 16))).filter fun i => nbit side i).length * 256 * w / 8
  else tdTr e * tdTc e * w / 8

/-- A slot before its filling, as the tile's tag and TDT entry describe it (R197). -/
def slotHeader (src : SlotSrc) (e task : Nat) (poison : Bool) : WSlot :=
  let t := src.tag.toNat
  { src := src, rows := tdTr e, cols := tdTc e, fmt := tagFmt t, spc := tagSpc t, nd := if tagFmt t = 12 then tdNda e else tdNdb e, sfmt := tdSfmt e,
    poison := poison || tagPoi t, owner := task }
/-- The content of a slot, read from memory (R197, R199). -/
def slotContent (s : State) (w : WSlot) : Except PageFault (WSlot × State) := do
  let c := slotCtx s w
  let r ← readTd s c w.src.tdt (refTid w.src.ref)
  let e := r.1
  let s := r.2.2
  let i := refIdx w.src.ref
  let t := w.src.tag.toNat
  let spans := tileSpans e i (fmtWidth w.fmt)
  let (foot, s) ← readSpans s c spans
  let marks := if foot.2 then spanMarks s c 0 spans else []
  let (side, s) ← if w.spc = 0 then .ok ((0, false), s) else readTile s c (tdSdva e + i * 2 ^ tdSdsz e) (sideBytes e t 0)
  let q0 := tileTr e i * tdTr e / fmtKb w.fmt
  let (sc, s) ←
    if w.sfmt = 0 then .ok ((0, false), s)
    else readSpans s c ((List.range (tdTr e / fmtKb w.fmt)).flatMap fun q =>
      (List.range (tdTc e)).map fun j => (scaleVa e (tileOuter e i) (tileTc e i * tdTc e + j) (q0 + q) w.fmt, scaleSize w.sfmt))
  let sz := scaleSize w.sfmt
  let whole := w.poison || side.2 || sc.2 || (w.spc = 1 && !nibblesOk side.1 (tdTr e / 4 * tdTc e))
  .ok ({ w with
      bytes := foot.1 % 256 ^ storedBytes e t side.1, side := side.1
      scales := if w.sfmt = 0 then [] else (List.range (tdTr e / fmtKb w.fmt * tdTc e)).map fun k => nbits sc.1 (8 * sz * k) (8 * sz)
      poison := whole || foot.2, marks := if whole then List.range 2048 else marks, filled := true, waiting := false }, s)

/-- A record of the array: a read of the task of context `c` has failed its translation (R237, R433). -/
def postFeed (s : State) (c : Ctx) (f : PageFault) : State :=
  let cl := clusterOfCore c.core
  postRecord s (cl / 32) (faultRecord s c .read (cl / 32) 3 ((c.core % 4) * 2 ^ 13 + (cl % 32) * 2 ^ 15) 0 f) none (some (.array cl))

/-! ## MLDW's checks (R198, R433) -/

/-- R198 on a tile and its tag, but for the size of its stored form. -/
def mldwTagOk (e i : Nat) (t : TagRead) : Bool :=
  t.kindOk && tagRdy t.tag && !tagUnk t.tag && 1 ≤ tagFmt t.tag && tagFmt t.tag ≤ 13 && !tileClipped e i && tagSpc t.tag ≤ 2 && tagLay t.tag = 4 &&
    layOk e i t.tag && !(tdSfmt e != 0 && !tdSrole e) && (tagSpc t.tag = 0 || (tdSdv e && sideBytes e t.tag 0 ≤ 2 ^ tdSdsz e))

/-- The reads of MLDW and of a refill before the slot is taken, with the checks of R198 on them: the TDT entry, the tag, and, once the tag has passed, the bitmap of a
block-sparse tile. What they read, and whether the tile passes. -/
def mldwReads (s : State) (c : Ctx) (tdt ref : Nat) : Except PageFault (Nat × TagRead × Bool × State) := do
  let (e, _, s) ← readTd s c tdt (refTid ref)
  if refIdx ref ≥ tdTiles e then .ok (e, { tag := 0, kindOk := false }, false, s) else
  let (t, s) ← readTag s c e (refIdx ref)
  if !mldwTagOk e (refIdx ref) t then .ok (e, t, false, s)
  else if tagSpc t.tag = 2 then
    let r ← readTile s c (tdSdva e + refIdx ref * 2 ^ tdSdsz e) (sideBytes e t.tag 0)
    .ok (e, t, storedBytes e t.tag r.1.1 ≤ 65536, r.2)
  else .ok (e, t, storedBytes e t.tag 0 ≤ 65536, s)

/-- The context of the task in a bank, for reads of the array. -/
def bankCtx (core : Nat) (b : Bank) : Ctx := { core := core, root := b.root, key := b.key, sup := false, task := b.task.getD 0 }
/-- A weight-slot name of a task: unmapped, absent (R199), or a slot. -/
def slotName (s : State) (task n : Nat) : Option (Option Nat) := tfind (taskOf s task).wmap n
/-- The command names a weight slot. -/
def MCmd.usesSlot (m : MCmd) : Bool := match m.w with | .mma _ | .mmas _ | .mola _ => true | .mrowsum w => w.sub != 0 | _ => false

/-- Where the slot of a command stands: there is none, or it is filled; it is being filled, or waits to translate again; or the checks of its refill have failed (R199). -/
inductive SlotSt where
  | ready (m : MCmd)
  | waits
  | refused
  deriving DecidableEq, Repr
/-- The slot that a command's name stands for now, the bank being in the foreground. An absent name is mapped again, with the checks of R198 and poison from the tag as it stands; its
slot is then filled from the recorded footprint (R199). A change of the tile's memory since its first filling shows whole in the refill, and in a shared slot not at all (log entry
155). A refill whose reads fail waits (R433). -/
def slotFor (s : State) (m : MCmd) : SlotSt × State :=
  if !m.usesSlot then (.ready m, s) else
  let cl := clusterOfCore m.core
  let b := fgBank (coreOf s m.core)
  match (slotName s m.task m.mat.ws.toNat).getD none, tfind (taskOf s m.task).wsrc m.mat.ws.toNat with
  | some n, _ => if (weightSlot (clusterOf s cl) n).any WSlot.filled then (.ready { m with slot := some n }, s) else (.waits, s)
  | none, none => (.ready m, s)
  | none, some h =>
    if b.mldwPosted then (.waits, s) else
    match mldwReads s (bankCtx m.core b) b.tdtbase.toNat h.src.ref with
    | .error f => (.waits, updBank (postFeed s (bankCtx m.core b) f) m.core (coreOf s m.core).fg fun b => { b with mldwPosted := true })
    | .ok (_, tag, ok, s) =>
      if !ok then (.refused, s) else
      let (n, s) := takeSlot s cl { h with poison := tag.poi || tagPoi tag.tag }
      (.waits, mapName s m.task m.mat.ws.toNat (some n) h)

/-! ## Commands that a cut left (R214) -/

/-- The commands that a cut left in the foreground bank, each with its bank: the one that was cut, then the one that was saved. -/
def leftCmds (s : State) (core : Nat) : List MCmd :=
  let k := coreOf s core
  ((fgBank k).cut.toList ++ (fgBank k).saved.toList).map fun m => { m with bank := k.fg }
/-- A check of R198 has failed for a word of M that has issued: M traps at the boundary where it stands, and what it has running is cut (R213; log entries 193 and 194). -/
def trapTile (s : State) (core : Nat) : State :=
  let fg := (coreOf s core).fg
  let s := updBank (cutMatrix s core) core fg fun b => { b with mwait := none }
  takeTrap s core .m 0x06 0 0x300 (fgBank (coreOf s core)).cursor.toNat (leaseWord s core)
/-- The first of them goes to the array, once its slot is filled. A refill that fails its checks traps on M, at a boundary (R198, R199; log entry 194). -/
def loadNext (s : State) (core : Nat) : State :=
  let cl := clusterOfCore core
  let k := clusterOf s cl
  let fg := (coreOf s core).fg
  let b := fgBank (coreOf s core)
  if k.holder != some (core % 4) || k.behind.isSome || b.trap.isSome then s else
  match leftCmds s core with
  | [] => s
  | m :: _ =>
    match slotFor s m with
    | (.waits, s) => s
    | (.refused, s) => if passesIn s core then s else trapTile s core
    | (.ready m, s) =>
      let s := updBank s core fg fun b => if b.cut.isSome then { b with cut := none, cursor := if b.saved.isSome then 2 ^ 32 else 0 } else { b with saved := none, cursor := 0 }
      updCluster s cl fun k =>
        let k := { k with cmds := k.cmds + 1 }
        if k.running.isNone then { k with running := some { m with start := max k.freeAt (arrayClock s cl) } } else { k with behind := some m }
/-- What a cut left runs again once its core holds the lease (R214). -/
def loadCut (s : State) (core : Nat) : State := loadNext (loadNext s core) core
/-- At resume M requests the lease for what was cut (R214). -/
def resumeMatrix (s : State) (core : Nat) : State :=
  if (leftCmds s core).isEmpty then s
  else if holdsLease s core then loadCut s core
  else wantLease s core

/-! ## Filling and translating again (R198, R433) -/

/-- Fills a slot, or posts the record of the read that fails and waits (R433). What a cut left of the lease's holder may wait for it. -/
def fillSlot (s : State) (cl n : Nat) : State :=
  match weightSlot (clusterOf s cl) n with
  | none => s
  | some w =>
    if w.filled then s else
    match slotContent s w with
    | .ok (w, s) =>
      let s := updCluster s cl fun k => { k with slots := tset k.slots n w }
      match (clusterOf s cl).holder with | some h => loadCut s (4 * cl + h) | none => s
    | .error f =>
      updCluster (postFeed s (slotCtx s w) f) cl fun k => { k with slots := tset k.slots n { w with waiting := true } }

/-- The name of an MLDW whose tag has passed: the slot is taken, and the old one released (R197). -/
def mldwMap (s : State) (core : Nat) (b : Bank) (wn ref e : Nat) (tag : TagRead) : (Nat × SlotSrc) × State :=
  let task := b.task.getD 0
  let s := acquireAction s core (tagScope tag.kind)
  let src : SlotSrc := { root := b.root, key := b.key, tdt := b.tdtbase.toNat, ref := ref, fbase := tileBase e (refIdx ref) (fmtWidth (tagFmt tag.tag)),
                         tag := BitVec.ofNat 16 tag.tag }
  let h := slotHeader src e task tag.poi
  let (n, s) := takeSlot (dropName s task wn) (clusterOfCore core) h
  ((n, src), mapName s task wn (some n) h)
/-- An MLDW of the foreground bank that waits translates again (R433): it maps its name, or waits on, or traps on M (log entry 193). -/
def mldwAgain (s : State) (core : Nat) (x : Mldw) : State :=
  let fg := (coreOf s core).fg
  let b := fgBank (coreOf s core)
  if b.trap.isSome || !b.mldws.contains x then s else
  match mldwReads s (bankCtx core b) b.tdtbase.toNat x.ref with
  | .error f => postFeed s (bankCtx core b) f
  | .ok (e, tag, ok, s) =>
    if ok then
      let r := mldwMap s core b x.wn x.ref e tag
      updBank r.2 core fg fun b => { b with mldws := b.mldws.map fun y => bif y == x then { y with took := some r.1 } else y }
    else if passesIn s core then s
    else trapTile (updBank s core fg fun b => { b with mldws := b.mldws.filter (· != x) }) core
/-- What waits on a core after a failed read translates again: its MLDWs, and the refill of its command. -/
def translateCore (s : State) (core : Nat) : State :=
  let fg := (coreOf s core).fg
  let s := updBank s core fg fun b => { b with mldwPosted := false }
  let s := ((fgBank (coreOf s core)).mldws.filter fun x => x.took.isNone).foldl (fun s x => mldwAgain s core x) s
  loadCut s core
/-- The slots of a cluster that wait after a failed read, and what waits on its cores, translate again (R433). -/
def translateArray (s : State) (cl : Nat) : State :=
  if postWaits s (cl / 32) (.array cl) then s else
  let s := ((clusterOf s cl).slots.filter fun e => e.2.waiting).foldl (fun s e => fillSlot s cl e.1) s
  (List.range 4).foldl (fun s c => translateCore s (4 * cl + c)) s

end Sys2Proof.Machine
end

