-- ==== Sys2Proof/Decode.lean ====
section
/-! DEFINITION. The encoding of the 96-bit words (R325, R327-R338): the decoder, total on any bytes, and the encoder. -/
namespace Sys2Proof

/-- Why bytes are no instruction: a code of R338's reserved list, or fewer than 12 bytes. -/
inductive DecodeError where
  | reservedOpcode (op : BitVec 8)
  | shortWord
  deriving DecidableEq, Repr

/-- Bits [lo + n - 1 : lo] of a word. -/
abbrev bits (w : Word96) (lo n : Nat) : BitVec n := w.extractLsb' lo n
/-- Bit `i` of a word. -/
abbrev bit (w : Word96) (i : Nat) : Bool := w.getLsbD i

/-- The opcode (R327). -/
abbrev opcode (w : Word96) : BitVec 8 := bits w 88 8

/-- The header's STL, PR and PN (R327). -/
def decHdr (w : Word96) : Hdr := { stl := bits w 82 6, pr := bits w 78 4, pn := bit w 77 }

/-- RR format: register operations (R329). -/
def decRR (w : Word96) : RR :=
  { hdr := decHdr w, d := bits w 70 7, a := bits w 63 7, b := bits w 56 7, c := bits w 49 7,
    sub := bits w 41 8, imm := bits w 25 16, bi := bit w 24, rm := bits w 21 3, ft := bits w 18 3,
    ft2 := bits w 15 3, z := bits w 0 15 }

/-- RI format: immediates and control transfers (R330). -/
def decRI (w : Word96) : RI :=
  { hdr := decHdr w, d := bits w 70 7, a := bits w 63 7, b := bits w 56 7, sub := bits w 48 8,
    imm := bits w 0 48 }

/-- MEM format: strand memory accesses, atomics, fences and futures (R331). -/
def decMEM (w : Word96) : MEM :=
  { hdr := decHdr w, d := bits w 70 7, a := bits w 63 7, b := bits w 56 7, c := bits w 49 7,
    sub := bits w 41 8, sz := bits w 38 3, scope := bits w 36 2, ord := bits w 34 2, dc := bits w 32 2,
    sx := bit w 31, z := bits w 24 7, off := bits w 0 24 }

/-- VEC format: vector, mask and DACC words (R332). -/
def decVEC (w : Word96) : VEC :=
  { hdr := decHdr w, d := bits w 70 7, a := bits w 63 7, b := bits w 56 7, c := bits w 49 7,
    et := bits w 45 4, g := bits w 43 2, z := bit w 42, sat := bit w 41, rm := bits w 38 3,
    bsel := bits w 36 2, sub := bits w 32 4, imm := bits w 0 32 }

/-- MAT format: matrix words (R333). -/
def decMAT (w : Word96) : MAT :=
  { hdr := decHdr w, acc := bits w 74 3, ws := bits w 69 5, ia := bits w 66 3, ib := bits w 63 3,
    sub := bits w 57 6, mm1 := bits w 50 7, nm1 := bits w 42 8, kbm1 := bits w 33 9, row0 := bits w 26 7,
    offa := bits w 10 16, str := bits w 0 10 }

/-- CPY format: the copy family, PFLUSH and PINV (R334). -/
def decCPY (w : Word96) : CPY :=
  { hdr := decHdr w, dst := bits w 70 7, src := bits w 63 7, len := bits w 56 7, aux := bits w 49 7,
    nrg := bits w 42 7, bar := bits w 31 11, cq := bits w 28 3, scope := bits w 26 2, note := bit w 25,
    errstop := bit w 24, tag := bit w 23, rtype := bits w 21 2, tagv := bits w 8 13, z := bits w 0 8 }

/-- SYS format: CSR, barrier and system words (R335). -/
def decSYS (w : Word96) : SYS :=
  { hdr := decHdr w, d := bits w 70 7, a := bits w 63 7, b := bits w 56 7, sub := bits w 48 8,
    csr := bits w 36 12, imm := bits w 0 36 }

/-- REP format: repetition (R336). -/
def decREP (w : Word96) : REP :=
  { hdr := decHdr w, count := bits w 71 6, sd := bits w 67 4, sa := bits w 63 4, sb := bits w 59 4,
    sc := bits w 55 4, z := bits w 0 55 }

/-- The instruction of an opcode (R338); none for a reserved code. -/
def decodeOp (op : Nat) (w : Word96) : Option Instr :=
  match op with
  | 0x00 => some (.illegal (bits w 0 88))
  | 0x01 => some (.add (decRR w))
  | 0x02 => some (.sub (decRR w))
  | 0x03 => some (.mul (decRR w))
  | 0x04 => some (.mulh (decRR w))
  | 0x05 => some (.div (decRR w))
  | 0x06 => some (.rem (decRR w))
  | 0x07 => some (.and (decRR w))
  | 0x08 => some (.or (decRR w))
  | 0x09 => some (.xor (decRR w))
  | 0x0A => some (.andn (decRR w))
  | 0x0B => some (.shl (decRR w))
  | 0x0C => some (.shr (decRR w))
  | 0x0D => some (.sra (decRR w))
  | 0x0E => some (.rotr (decRR w))
  | 0x0F => some (.min (decRR w))
  | 0x10 => some (.max (decRR w))
  | 0x11 => some (.cmp (decRR w))
  | 0x12 => some (.sel (decRR w))
  | 0x13 => some (.clz (decRR w))
  | 0x14 => some (.ctz (decRR w))
  | 0x15 => some (.popc (decRR w))
  | 0x16 => some (.bfx (decRR w))
  | 0x17 => some (.bfi (decRR w))
  | 0x18 => some (.addi (decRI w))
  | 0x19 => some (.li (decRI w))
  | 0x1A => some (.lih (decRI w))
  | 0x20 => some (.fadd (decRR w))
  | 0x21 => some (.fsub (decRR w))
  | 0x22 => some (.fmul (decRR w))
  | 0x23 => some (.ffma (decRR w))
  | 0x24 => some (.fdiv (decRR w))
  | 0x25 => some (.fsqrt (decRR w))
  | 0x26 => some (.fmin (decRR w))
  | 0x27 => some (.fmax (decRR w))
  | 0x28 => some (.fcmp (decRR w))
  | 0x29 => some (.fcvt (decRR w))
  | 0x2A => some (.fclass (decRR w))
  | 0x30 => some (.br (decRI w))
  | 0x31 => some (.jmp (decRI w))
  | 0x32 => some (.jmpr (decRI w))
  | 0x33 => some (.call (decRI w))
  | 0x34 => some (.ret (decRI w))
  | 0x35 => some (.loop (decRI w))
  | 0x36 => some (.brq (decRI w))
  | 0x37 => some (.syncv (decSYS w))
  | 0x3F => some (.nop (decSYS w))
  | 0x40 => some (.ld (decMEM w))
  | 0x41 => some (.st (decMEM w))
  | 0x42 => some (.ldro (decMEM w))
  | 0x43 => some (.roinv (decMEM w))
  | 0x44 => some (.amo (decMEM w))
  | 0x45 => some (.cas (decMEM w))
  | 0x46 => some (.fence (decMEM w))
  | 0x47 => some (.qmark (decMEM w))
  | 0x48 => some (.qfence (decMEM w))
  | 0x49 => some (.pref (decMEM w))
  | 0x50 => some (.fget (decMEM w))
  | 0x51 => some (.fset (decMEM w))
  | 0x52 => some (.fclr (decMEM w))
  | 0x53 => some (.waita (decMEM w))
  | 0x54 => some (.binit (decSYS w))
  | 0x55 => some (.barr (decSYS w))
  | 0x56 => some (.bwait (decSYS w))
  | 0x57 => some (.btest (decSYS w))
  | 0x58 => some (.bexp (decSYS w))
  | 0x60 => some (.qpush (decRR w))
  | 0x61 => some (.qbind (decRR w))
  | 0x62 => some (.qunb (decRR w))
  | 0x63 => some (.qstat (decRR w))
  | 0x70 => some (.vadd (decVEC w))
  | 0x71 => some (.vsub (decVEC w))
  | 0x72 => some (.vmul (decVEC w))
  | 0x73 => some (.vfma (decVEC w))
  | 0x74 => some (.vmin (decVEC w))
  | 0x75 => some (.vmax (decVEC w))
  | 0x76 => some (.vabs (decVEC w))
  | 0x77 => some (.vneg (decVEC w))
  | 0x78 => some (.vand (decVEC w))
  | 0x79 => some (.vor (decVEC w))
  | 0x7A => some (.vxor (decVEC w))
  | 0x7B => some (.vshl (decVEC w))
  | 0x7C => some (.vshr (decVEC w))
  | 0x7D => some (.vcmp (decVEC w))
  | 0x7E => some (.vsel (decVEC w))
  | 0x7F => some (.vclamp (decVEC w))
  | 0x80 => some (.vcvt (decVEC w))
  | 0x81 => some (.vsfu (decVEC w))
  | 0x82 => some (.vsplat (decVEC w))
  | 0x83 => some (.viota (decVEC w))
  | 0x84 => some (.vrco (decVEC w))
  | 0x85 => some (.vslice (decVEC w))
  | 0x86 => some (.vcat (decVEC w))
  | 0x87 => some (.vrev (decVEC w))
  | 0x88 => some (.vlen (decVEC w))
  | 0x89 => some (.vsetl (decVEC w))
  | 0x8A => some (.vins (decVEC w))
  | 0x8B => some (.vext (decVEC w))
  | 0x90 => some (.vld (decVEC w))
  | 0x91 => some (.vst (decVEC w))
  | 0x92 => some (.vldp (decVEC w))
  | 0x93 => some (.vstp (decVEC w))
  | 0x94 => some (.vldrg (decVEC w))
  | 0x95 => some (.vgath (decVEC w))
  | 0x96 => some (.vscat (decVEC w))
  | 0x97 => some (.vlda (decVEC w))
  | 0x98 => some (.vsta (decVEC w))
  | 0x99 => some (.vpark (decVEC w))
  | 0x9A => some (.vunpk (decVEC w))
  | 0xA0 => some (.vrsum (decVEC w))
  | 0xA1 => some (.vrmax (decVEC w))
  | 0xA2 => some (.vrmin (decVEC w))
  | 0xA3 => some (.vrdot (decVEC w))
  | 0xA4 => some (.vsegsum (decVEC w))
  | 0xA5 => some (.vsegmax (decVEC w))
  | 0xA6 => some (.vscan (decVEC w))
  | 0xA8 => some (.kand (decVEC w))
  | 0xA9 => some (.kor (decVEC w))
  | 0xAA => some (.kxor (decVEC w))
  | 0xAB => some (.knot (decVEC w))
  | 0xAC => some (.kcnt (decVEC w))
  | 0xAD => some (.kfirst (decVEC w))
  | 0xAE => some (.kmov (decVEC w))
  | 0xB0 => some (.macq (decMAT w))
  | 0xB1 => some (.mrel (decMAT w))
  | 0xB2 => some (.mcfg (decMAT w))
  | 0xB3 => some (.mset (decMAT w))
  | 0xB4 => some (.mma (decMAT w))
  | 0xB5 => some (.mmas (decMAT w))
  | 0xB6 => some (.mola (decMAT w))
  | 0xB7 => some (.mldw (decMAT w))
  | 0xB8 => some (.mrowsum (decMAT w))
  | 0xB9 => some (.mdrain (decMAT w))
  | 0xBA => some (.mldacc (decMAT w))
  | 0xBB => some (.midx (decMAT w))
  | 0xC0 => some (.cpy (decCPY w))
  | 0xC1 => some (.cpys (decCPY w))
  | 0xC2 => some (.cpyg (decCPY w))
  | 0xC3 => some (.cpysc (decCPY w))
  | 0xC4 => some (.cpyr (decCPY w))
  | 0xC5 => some (.cpyf (decCPY w))
  | 0xC6 => some (.cpyn (decCPY w))
  | 0xC8 => some (.reelapp (decRR w))
  | 0xC9 => some (.reellnk (decRR w))
  | 0xCA => some (.reelkick (decRR w))
  | 0xCB => some (.reelstat (decRR w))
  | 0xD0 => some (.tspawn (decRR w))
  | 0xD1 => some (.lnch (decRR w))
  | 0xD2 => some (.tret (decRR w))
  | 0xD3 => some (.tyield (decRR w))
  | 0xD4 => some (.ttagr (decRR w))
  | 0xD5 => some (.ttagw (decRR w))
  | 0xD6 => some (.tdesc (decRR w))
  | 0xD7 => some (.tqry (decRR w))
  | 0xD8 => some (.widf (decRR w))
  | 0xD9 => some (.mtins (decRR w))
  | 0xDA => some (.mtdel (decRR w))
  | 0xE0 => some (.pflush (decCPY w))
  | 0xE1 => some (.pinv (decCPY w))
  | 0xE2 => some (.lrenew (decRR w))
  | 0xE3 => some (.nqpost (decRR w))
  | 0xE4 => some (.nqtake (decRR w))
  | 0xE5 => some (.orphx (decRR w))
  | 0xE6 => some (.dacc (decVEC w))
  | 0xE7 => some (.hashr (decRR w))
  | 0xF0 => some (.csrr (decSYS w))
  | 0xF1 => some (.csrw (decSYS w))
  | 0xF2 => some (.csrs (decSYS w))
  | 0xF3 => some (.csrc (decSYS w))
  | 0xF4 => some (.trap (decSYS w))
  | 0xF5 => some (.eret (decSYS w))
  | 0xF6 => some (.tlbinv (decSYS w))
  | 0xF7 => some (.idle (decSYS w))
  | 0xF8 => some (.halt (decSYS w))
  | 0xF9 => some (.bkpt (decSYS w))
  | 0xFA => some (.swapb (decSYS w))
  | 0xFB => some (.spill (decSYS w))
  | 0xFE => some (.rep (decREP w))
  | _ => none

/-- The instruction of a 96-bit word. -/
def decodeWord (w : Word96) : Option Instr := decodeOp (opcode w).toNat w

/-- The number of 12 bytes, the first the lowest (R325). -/
def bytesToNat : List Byte → Nat
  | [] => 0
  | b :: l => b.toNat + 256 * bytesToNat l

/-- The decoder: the instruction that the first 12 bytes hold (R325), or why they hold none. -/
def decode (l : List Byte) : Except DecodeError Instr :=
  if l.length < 12 then .error .shortWord
  else
    let w := BitVec.ofNat 96 (bytesToNat (l.take 12))
    match decodeWord w with
    | some i => .ok i
    | none => .error (.reservedOpcode (opcode w))

/-! ## The encoder -/

/-- One bit. -/
abbrev oneBit (b : Bool) : BitVec 1 := BitVec.ofBool b
/-- The bits [95:77] (R327). -/
def encHdr (op : BitVec 8) (h : Hdr) : BitVec 19 := op ++ h.stl ++ h.pr ++ oneBit h.pn

/-- RR format: register operations (R329). -/
def encRR (op : BitVec 8) (w : RR) : Word96 :=
  encHdr op w.hdr ++ w.d ++ w.a ++ w.b ++ w.c ++ w.sub ++ w.imm ++ oneBit w.bi ++ w.rm ++ w.ft ++ w.ft2 ++ w.z

/-- RI format: immediates and control transfers (R330). -/
def encRI (op : BitVec 8) (w : RI) : Word96 :=
  encHdr op w.hdr ++ w.d ++ w.a ++ w.b ++ w.sub ++ w.imm

/-- MEM format: strand memory accesses, atomics, fences and futures (R331). -/
def encMEM (op : BitVec 8) (w : MEM) : Word96 :=
  encHdr op w.hdr ++ w.d ++ w.a ++ w.b ++ w.c ++ w.sub ++ w.sz ++ w.scope ++ w.ord ++ w.dc ++ oneBit w.sx ++ w.z ++ w.off

/-- VEC format: vector, mask and DACC words (R332). -/
def encVEC (op : BitVec 8) (w : VEC) : Word96 :=
  encHdr op w.hdr ++ w.d ++ w.a ++ w.b ++ w.c ++ w.et ++ w.g ++ oneBit w.z ++ oneBit w.sat ++ w.rm ++ w.bsel ++ w.sub ++ w.imm

/-- MAT format: matrix words (R333). -/
def encMAT (op : BitVec 8) (w : MAT) : Word96 :=
  encHdr op w.hdr ++ w.acc ++ w.ws ++ w.ia ++ w.ib ++ w.sub ++ w.mm1 ++ w.nm1 ++ w.kbm1 ++ w.row0 ++ w.offa ++ w.str

/-- CPY format: the copy family, PFLUSH and PINV (R334). -/
def encCPY (op : BitVec 8) (w : CPY) : Word96 :=
  encHdr op w.hdr ++ w.dst ++ w.src ++ w.len ++ w.aux ++ w.nrg ++ w.bar ++ w.cq ++ w.scope ++ oneBit w.note ++ oneBit w.errstop ++ oneBit w.tag ++ w.rtype ++ w.tagv ++ w.z

/-- SYS format: CSR, barrier and system words (R335). -/
def encSYS (op : BitVec 8) (w : SYS) : Word96 :=
  encHdr op w.hdr ++ w.d ++ w.a ++ w.b ++ w.sub ++ w.csr ++ w.imm

/-- REP format: repetition (R336). -/
def encREP (op : BitVec 8) (w : REP) : Word96 :=
  encHdr op w.hdr ++ w.count ++ w.sd ++ w.sa ++ w.sb ++ w.sc ++ w.z

/-- The word of an instruction, from the same tables; an event has none. -/
def encode : Instr → Option Word96
  | .illegal b => some ((0x00#8) ++ b)
  | .add w => some (encRR 0x01 w)
  | .sub w => some (encRR 0x02 w)
  | .mul w => some (encRR 0x03 w)
  | .mulh w => some (encRR 0x04 w)
  | .div w => some (encRR 0x05 w)
  | .rem w => some (encRR 0x06 w)
  | .and w => some (encRR 0x07 w)
  | .or w => some (encRR 0x08 w)
  | .xor w => some (encRR 0x09 w)
  | .andn w => some (encRR 0x0A w)
  | .shl w => some (encRR 0x0B w)
  | .shr w => some (encRR 0x0C w)
  | .sra w => some (encRR 0x0D w)
  | .rotr w => some (encRR 0x0E w)
  | .min w => some (encRR 0x0F w)
  | .max w => some (encRR 0x10 w)
  | .cmp w => some (encRR 0x11 w)
  | .sel w => some (encRR 0x12 w)
  | .clz w => some (encRR 0x13 w)
  | .ctz w => some (encRR 0x14 w)
  | .popc w => some (encRR 0x15 w)
  | .bfx w => some (encRR 0x16 w)
  | .bfi w => some (encRR 0x17 w)
  | .addi w => some (encRI 0x18 w)
  | .li w => some (encRI 0x19 w)
  | .lih w => some (encRI 0x1A w)
  | .fadd w => some (encRR 0x20 w)
  | .fsub w => some (encRR 0x21 w)
  | .fmul w => some (encRR 0x22 w)
  | .ffma w => some (encRR 0x23 w)
  | .fdiv w => some (encRR 0x24 w)
  | .fsqrt w => some (encRR 0x25 w)
  | .fmin w => some (encRR 0x26 w)
  | .fmax w => some (encRR 0x27 w)
  | .fcmp w => some (encRR 0x28 w)
  | .fcvt w => some (encRR 0x29 w)
  | .fclass w => some (encRR 0x2A w)
  | .br w => some (encRI 0x30 w)
  | .jmp w => some (encRI 0x31 w)
  | .jmpr w => some (encRI 0x32 w)
  | .call w => some (encRI 0x33 w)
  | .ret w => some (encRI 0x34 w)
  | .loop w => some (encRI 0x35 w)
  | .brq w => some (encRI 0x36 w)
  | .syncv w => some (encSYS 0x37 w)
  | .nop w => some (encSYS 0x3F w)
  | .ld w => some (encMEM 0x40 w)
  | .st w => some (encMEM 0x41 w)
  | .ldro w => some (encMEM 0x42 w)
  | .roinv w => some (encMEM 0x43 w)
  | .amo w => some (encMEM 0x44 w)
  | .cas w => some (encMEM 0x45 w)
  | .fence w => some (encMEM 0x46 w)
  | .qmark w => some (encMEM 0x47 w)
  | .qfence w => some (encMEM 0x48 w)
  | .pref w => some (encMEM 0x49 w)
  | .fget w => some (encMEM 0x50 w)
  | .fset w => some (encMEM 0x51 w)
  | .fclr w => some (encMEM 0x52 w)
  | .waita w => some (encMEM 0x53 w)
  | .binit w => some (encSYS 0x54 w)
  | .barr w => some (encSYS 0x55 w)
  | .bwait w => some (encSYS 0x56 w)
  | .btest w => some (encSYS 0x57 w)
  | .bexp w => some (encSYS 0x58 w)
  | .qpush w => some (encRR 0x60 w)
  | .qbind w => some (encRR 0x61 w)
  | .qunb w => some (encRR 0x62 w)
  | .qstat w => some (encRR 0x63 w)
  | .vadd w => some (encVEC 0x70 w)
  | .vsub w => some (encVEC 0x71 w)
  | .vmul w => some (encVEC 0x72 w)
  | .vfma w => some (encVEC 0x73 w)
  | .vmin w => some (encVEC 0x74 w)
  | .vmax w => some (encVEC 0x75 w)
  | .vabs w => some (encVEC 0x76 w)
  | .vneg w => some (encVEC 0x77 w)
  | .vand w => some (encVEC 0x78 w)
  | .vor w => some (encVEC 0x79 w)
  | .vxor w => some (encVEC 0x7A w)
  | .vshl w => some (encVEC 0x7B w)
  | .vshr w => some (encVEC 0x7C w)
  | .vcmp w => some (encVEC 0x7D w)
  | .vsel w => some (encVEC 0x7E w)
  | .vclamp w => some (encVEC 0x7F w)
  | .vcvt w => some (encVEC 0x80 w)
  | .vsfu w => some (encVEC 0x81 w)
  | .vsplat w => some (encVEC 0x82 w)
  | .viota w => some (encVEC 0x83 w)
  | .vrco w => some (encVEC 0x84 w)
  | .vslice w => some (encVEC 0x85 w)
  | .vcat w => some (encVEC 0x86 w)
  | .vrev w => some (encVEC 0x87 w)
  | .vlen w => some (encVEC 0x88 w)
  | .vsetl w => some (encVEC 0x89 w)
  | .vins w => some (encVEC 0x8A w)
  | .vext w => some (encVEC 0x8B w)
  | .vld w => some (encVEC 0x90 w)
  | .vst w => some (encVEC 0x91 w)
  | .vldp w => some (encVEC 0x92 w)
  | .vstp w => some (encVEC 0x93 w)
  | .vldrg w => some (encVEC 0x94 w)
  | .vgath w => some (encVEC 0x95 w)
  | .vscat w => some (encVEC 0x96 w)
  | .vlda w => some (encVEC 0x97 w)
  | .vsta w => some (encVEC 0x98 w)
  | .vpark w => some (encVEC 0x99 w)
  | .vunpk w => some (encVEC 0x9A w)
  | .vrsum w => some (encVEC 0xA0 w)
  | .vrmax w => some (encVEC 0xA1 w)
  | .vrmin w => some (encVEC 0xA2 w)
  | .vrdot w => some (encVEC 0xA3 w)
  | .vsegsum w => some (encVEC 0xA4 w)
  | .vsegmax w => some (encVEC 0xA5 w)
  | .vscan w => some (encVEC 0xA6 w)
  | .kand w => some (encVEC 0xA8 w)
  | .kor w => some (encVEC 0xA9 w)
  | .kxor w => some (encVEC 0xAA w)
  | .knot w => some (encVEC 0xAB w)
  | .kcnt w => some (encVEC 0xAC w)
  | .kfirst w => some (encVEC 0xAD w)
  | .kmov w => some (encVEC 0xAE w)
  | .macq w => some (encMAT 0xB0 w)
  | .mrel w => some (encMAT 0xB1 w)
  | .mcfg w => some (encMAT 0xB2 w)
  | .mset w => some (encMAT 0xB3 w)
  | .mma w => some (encMAT 0xB4 w)
  | .mmas w => some (encMAT 0xB5 w)
  | .mola w => some (encMAT 0xB6 w)
  | .mldw w => some (encMAT 0xB7 w)
  | .mrowsum w => some (encMAT 0xB8 w)
  | .mdrain w => some (encMAT 0xB9 w)
  | .mldacc w => some (encMAT 0xBA w)
  | .midx w => some (encMAT 0xBB w)
  | .cpy w => some (encCPY 0xC0 w)
  | .cpys w => some (encCPY 0xC1 w)
  | .cpyg w => some (encCPY 0xC2 w)
  | .cpysc w => some (encCPY 0xC3 w)
  | .cpyr w => some (encCPY 0xC4 w)
  | .cpyf w => some (encCPY 0xC5 w)
  | .cpyn w => some (encCPY 0xC6 w)
  | .reelapp w => some (encRR 0xC8 w)
  | .reellnk w => some (encRR 0xC9 w)
  | .reelkick w => some (encRR 0xCA w)
  | .reelstat w => some (encRR 0xCB w)
  | .tspawn w => some (encRR 0xD0 w)
  | .lnch w => some (encRR 0xD1 w)
  | .tret w => some (encRR 0xD2 w)
  | .tyield w => some (encRR 0xD3 w)
  | .ttagr w => some (encRR 0xD4 w)
  | .ttagw w => some (encRR 0xD5 w)
  | .tdesc w => some (encRR 0xD6 w)
  | .tqry w => some (encRR 0xD7 w)
  | .widf w => some (encRR 0xD8 w)
  | .mtins w => some (encRR 0xD9 w)
  | .mtdel w => some (encRR 0xDA w)
  | .pflush w => some (encCPY 0xE0 w)
  | .pinv w => some (encCPY 0xE1 w)
  | .lrenew w => some (encRR 0xE2 w)
  | .nqpost w => some (encRR 0xE3 w)
  | .nqtake w => some (encRR 0xE4 w)
  | .orphx w => some (encRR 0xE5 w)
  | .dacc w => some (encVEC 0xE6 w)
  | .hashr w => some (encRR 0xE7 w)
  | .csrr w => some (encSYS 0xF0 w)
  | .csrw w => some (encSYS 0xF1 w)
  | .csrs w => some (encSYS 0xF2 w)
  | .csrc w => some (encSYS 0xF3 w)
  | .trap w => some (encSYS 0xF4 w)
  | .eret w => some (encSYS 0xF5 w)
  | .tlbinv w => some (encSYS 0xF6 w)
  | .idle w => some (encSYS 0xF7 w)
  | .halt w => some (encSYS 0xF8 w)
  | .bkpt w => some (encSYS 0xF9 w)
  | .swapb w => some (encSYS 0xFA w)
  | .spill w => some (encSYS 0xFB w)
  | .rep w => some (encREP 0xFE w)
  | _ => none

/-- The 12 bytes of a word, the lowest first (R325). -/
def wordBytes (w : Word96) : List Byte := (List.range 12).map fun k => w.extractLsb' (8 * k) 8

/-- The instruction that this decoder reads from an instruction whose bits are `w`: the table's rows give no bits, and a word of the
machine is 96 bits, so the bits above `nbits` are 0. -/
def decodeTableWord (nbits w : Nat) : Option Instr :=
  (decode (wordBytes (BitVec.ofNat 96 (w % 2 ^ nbits)))).toOption

end Sys2Proof
end

