-- ==== Sys2Proof/WellFormed.lean ====
section
/-! DEFINITION. Well-formed instructions: what R339 asks of a word before its entry's own checks, as far as the word and the strand
decide it. The meaning of a word makes the same checks, in R339's order, and takes the ILLEGAL trap where one fails. -/
namespace Sys2Proof

/-- The word is a word of the opcode map, not an event. -/
def Instr.isWord (i : Instr) : Bool := (Machine.hdrOf i).isSome

/-- A word that strand `st` may execute and whose fields R339 step 4 accepts. Opcode 0x00 never is (R338). -/
def Instr.wellFormed (st : Strand) (i : Instr) : Bool :=
  i.isWord && Machine.strandOk st i && Machine.wordOk st i

end Sys2Proof
end

