-- ==== Sys2Proof/Machine/Turn.lean ====
section
/-! DEFINITION. A strand's turn before its word executes: time, what holds a strand back, the fetch of the word, and REP's stepping. -/
namespace Sys2Proof.Machine

/-- What a step does: it only changes the state, or it also executes an instruction; or it asks whether the instruction traps (`probe`), since a swap or an interrupt waits at the
boundary before it; `bad`: the agenda holds no event where one must
stand. -/
inductive Plan where
  | done (s : State)
  | run (s : State) (i : Instr)
  | probe (s : State) (i : Instr)
  | bad
  deriving DecidableEq, Repr

/-- Time passes: at the end of a cycle the barriers settle (R249), and its window writes are seen by the words that follow (R118). -/
def tick (s : State) (dt : Nat) : State :=
  if dt = 0 then s else
  let s := settleBars s
  let s := if dt = 1 then s else settleBars s
  { s with cycle := s.cycle + dt, winOld := [], hwSet := [] }

/-- The clock enable of the core's die is asserted in this cycle (R353). -/
def enabledNow (s : State) (d : Nat) : Bool :=
  let k := dieOf s d
  let t := s.cycle - k.clkAt
  (t + 1) * duty k.curPoint.toNat / 16 != t * duty k.curPoint.toNat / 16

/-- The strand does not issue, for a reason; how long it has stood for that reason is kept (R104). -/
def stallAs (s : State) (why : StallWhy) : State :=
  if why = .held then s else modStrand s fun x => { x with stall := match x.stall with
    | some (w, t) => if w = why then some (w, t) else some (why, s.cycle)
    | none => some (why, s.cycle) }

/-- The task of a bank is being failed: no further word of it issues (R511). -/
def failingBank (s : State) (b : Bank) : Bool := match b.task with | some t => (taskOf s t).failing.isSome | none => false

/-- What holds the current strand back at its turn, before it reads a word or a slate: power (R351), clock (R353), freeze (R311), swap (R321),
HALT, a system trap (R319), TYIELD (R476), a task trap (R314), a failure (R511), a record of its own that waits on a full fault queue (R236), the end, STL (R308), a parked wait, which is not resumed once a swap is decided (R324), a blocking word (R308), SYNCV (R467),
TRET (R53). -/
def heldBack (s : State) : Option StallWhy :=
  let k := coreOf s s.curCore
  let b := fgBank k
  let x := strandSel b s.curSt
  let t := coreTime s s.curCore
  if s.mgmt.psCur != 0 || !enabledNow s (dieOfCore s.curCore) || frozenNow s s.curCore || k.swapAt.isSome || k.halted ||
     (k.amStopped && s.curSt != .e) || b.yielded || b.trap.isSome || failingBank s b || postWaits s (dieOfCore s.curCore) (.strand s.curCore s.curSt) then some .held
  else if x.phase = .absent || x.phase = .ended || x.phase = .stopped then some .other
  else if t < x.ready then some .other
  else if (match x.park with | some p => !p.woken || k.swapWant | none => false) then some .wait
  else if x.flight.any (fun f => !f.landed && (f.blocks || (f.id < x.sync && !f.dests.isEmpty))) then some .other
  else if b.tretIssued && s.curSt = .e then some .tret
  else none

/-- Adds a step to a field of a word. -/
def stepField (w : Word96) (lo n : Nat) (d : Int) : Word96 :=
  let f := (w >>> lo).toNat % 2 ^ n
  BitVec.ofNat 96 (setBits w.toNat lo n (wrapN n (f + d)))

/-- The repeated word as issue `j` of REP sees it: each stepped field holds its number plus j times the step (R336). -/
def stepWord (w : Word96) (r : RepSt) : Word96 :=
  let j : Int := r.j
  if 0xB0 ≤ (w >>> 88).toNat ∧ (w >>> 88).toNat ≤ 0xBB then
    stepField (stepField (stepField (stepField w 74 3 (j * r.sd)) 66 3 (j * r.sa)) 63 3 (j * r.sb)) 69 5 (j * r.sc)
  else stepField (stepField (stepField (stepField w 70 7 (j * r.sd)) 63 7 (j * r.sa)) 56 7 (j * r.sb)) 49 7 (j * r.sc)

/-- The word at the strand's PC as it will be issued: fetched through translation (R326), stepped by REP (R336), decoded (R339 step 1). -/
def fetchWord (s : State) : Except PageFault (Option Instr × State) := do
  let x := curStrand s
  let (v, s) ← fetchCode s (curCtx s) x.pc.toNat 12
  let w := BitVec.ofNat 96 v
  let w := match x.rep with | some r => stepWord w r | none => w
  .ok (decodeWord w, s)

end Sys2Proof.Machine
end

