-- ==== Sys2Proof/Machine/Issue.lean ====
section
/-! DEFINITION. Issuing a word: the checks of R339 in order, the predicate (R328), early reads (R309), queues (R128-R131), and what an issued word
leaves (R307, R308, R336). Every word's meaning is `issue` of its body. -/
namespace Sys2Proof.Machine

/-! ## CSRs: presence and mode (R139, R140) -/

/-- Mode of a CSR: 0 T, 1 S-w, 2 S; none for a number absent from R139. -/
def csrMode (n : Nat) : Option Nat :=
  if n ≤ 5 then some 2
  else if 0x10 ≤ n ∧ n ≤ 0x13 then some 0
  else if n = 0x20 ∨ n = 0x21 then some 0
  else if 0x30 ≤ n ∧ n ≤ 0x33 then some 0
  else if n = 0x40 ∨ n = 0x41 ∨ n = 0x50 ∨ n = 0x51 ∨ n = 0x60 ∨ n = 0x61 ∨ n = 0x70 then some 0
  else if n = 0x71 then some 1
  else if n = 0x80 ∨ n = 0x81 ∨ n = 0x90 ∨ n = 0x91 then some 0
  else if n = 0xA0 then some 1
  else if n = 0xB0 ∨ n = 0xB1 ∨ n = 0xC0 then some 0
  else none

/-- The CSR that a word names, and whether it writes it. -/
def csrOf : Instr → Option (Nat × Bool)
  | .csrr w => some (w.csr.toNat, false)
  | .csrw w | .csrs w | .csrc w => some (w.csr.toNat, true)
  | _ => none

/-- R339 step 3. -/
def privilege (sup : Bool) (i : Instr) : Option Stop :=
  match csrOf i with
  | some (n, wr) =>
    match csrMode n with
    | none => some (.trap 0x01 0 0)
    | some m => if sup || m = 0 || (m = 1 && !wr) then none else some (.trap 0x03 1 0)
  | none => if supervisorOnly i && !sup then some (.trap 0x03 0 0) else none

/-! ## Narrow descriptors (R155) -/

/-- The VEC word of an instruction. -/
def vecOf : Instr → Option VEC
  | .vadd w | .vsub w | .vmul w | .vfma w | .vmin w | .vmax w | .vabs w | .vneg w | .vand w | .vor w | .vxor w | .vshl w
  | .vshr w | .vcmp w | .vsel w | .vclamp w | .vcvt w | .vsfu w | .vsplat w | .viota w | .vrco w | .vslice w | .vcat w
  | .vrev w | .vlen w | .vsetl w | .vins w | .vext w | .vld w | .vst w | .vldp w | .vstp w | .vldrg w | .vgath w
  | .vscat w | .vlda w | .vsta w | .vpark w | .vunpk w | .vrsum w | .vrmax w | .vrmin w | .vrdot w | .vsegsum w
  | .vsegmax w | .vscan w | .kand w | .kor w | .kxor w | .knot w | .kmov w | .kcnt w | .kfirst w | .dacc w => some w
  | _ => none

/-- The descriptor CSR of an element type 4-7. -/
def fdOf (b : Bank) (et : Nat) : NDesc :=
  ndesc (if et = 4 then b.fd0 else if et = 5 then b.fd1 else if et = 6 then b.fd2 else b.fd3)
/-- The element type's descriptor, if it is narrow, is legal. -/
def etLegal (b : Bank) (et : Nat) : Bool := !etNarrow et || (fdOf b et).legal
/-- Every narrow element type that the word names has a legal descriptor (R155); VCVT names a second in SUB. -/
def narrowOk (b : Bank) (i : Instr) : Bool :=
  match i with
  | .vcvt w => etLegal b w.et.toNat && etLegal b w.sub.toNat
  | _ => match vecOf i with | some w => etLegal b w.et.toNat | none => true

/-! ## Early reads (R309) -/

/-- The word merges with its destination's old content: masked, without zeroing (R173). -/
def mergesOld (i : Instr) : Bool :=
  match vecOf i with | some w => w.hdr.pr != 0 && !w.z | none => false

/-- The registers that an operand reads: each with its LATV subcause and specifier. -/
def readsOf (b : Bank) (st : Strand) (merge : Bool) (o : Operand) : List (Dest × Nat × Nat) :=
  match o.role with
  | .src | .srcDst =>
    if o.code < 64 then (List.range o.n).filterMap fun j => if o.code + j = 0 then none else some (.reg (o.code + j), 0, o.code + j) else []
  | .idxSrc => [(.idx o.code, 0, o.code)]
  | .vsrc | .vreg => if o.code < 64 then (List.range o.n).map fun j => (.vec (physV b.vrb (o.code + j)), 1, o.code + j) else []
  | .msrc => if o.code = 0 then [] else [(.mask (physK b.krb o.code), 2, o.code)]
  | .vdst => if merge && st = .e then (List.range o.n).map fun j => (.vec (physV b.vrb (o.code + j)), 1, o.code + j) else []
  | .mdst => if merge && o.code != 0 then [(.mask (physK b.krb o.code), 2, o.code)] else []
  | _ => []

/-- The word reads the index register that its IB names: MMA and MMAS when ASF is not 0, MDRAIN in every form but the raw one (R333, R430, R434). -/
def readsIb (b : Bank) (i : Instr) : Bool :=
  match i with
  | .mma _ | .mmas _ => mcAsf b.mconf != 0
  | .mdrain w => w.sub.extractLsb' 0 2 != 0
  | _ => true
/-- The registers that a word's operands read. -/
def readsAll (b : Bank) (st : Strand) (i : Instr) : List (Dest × Nat × Nat) :=
  ((operands st i).filter fun o => o.role != .idxSrc || o.fld != 2 || readsIb b i).flatMap (readsOf b st (mergesOld i))
/-- The predicate register that a word reads. -/
def predReads (b : Bank) (i : Instr) : List (Dest × Nat × Nat) :=
  match hdrOf i with
  | some h => if h.pr = 0 then [] else
    if maskPredicated i then [(.mask (physK b.krb h.pr.toNat), 2, h.pr.toNat)] else [(.reg h.pr.toNat, 0, h.pr.toNat)]
  | none => []
/-- The first register of the list that is read before its bound has elapsed. -/
def firstEarly (now : Nat) (x : StrandSt) (l : List (Dest × Nat × Nat)) : Option (Nat × Nat) :=
  (l.find? fun e => (earlyTo now x.flight e.1).isSome).map (·.2)
/-- Some register of the list awaits a late reply: the word waits for it, and the freeze follows (R311; log entry 151). -/
def anyLate (now : Nat) (x : StrandSt) (l : List (Dest × Nat × Nat)) : Bool := l.any fun e => lateTo now x.flight e.1

/-! ## The gate -/

/-- What stands before a word's own effect: it runs; it is predicated off; or it stops. `early`: it reads a register too early, its predicate among them. -/
inductive Gate where
  | run (early : Bool)
  | off (early : Bool)
  | halt (x : Stop)
  deriving DecidableEq, Repr

/-- The stream queues hold the blocks that the word pops (R130, R448). -/
def streamGate (b : Bank) : List (Nat × Nat) → Option Stop
  | [] => none
  | (q, g) :: l =>
    let k := tget b.sq q {}
    if g ≤ k.count then streamGate b l
    else match k.bound with
      | none => if k.count = 0 then some (.trap 0x0B 1 0) else some (.stall .queue)
      | some t => match t.failed with
        | some (c, sub, va) => some (.trap c sub va)
        | none => some (.stall .queue)

/-- The queues allow the word to issue: each popped scalar queue has a landed entry, each pushed one has room (R130, R365). -/
def queueGate (b : Bank) (st : Strand) (i : Instr) : Option Stop :=
  if (popsOf st i).any (fun q => let k := tget b.q q {}; k.count = 0 || !(queueHead k).landed) then some (.stall .queue)
  else if (pushesOf st i).any (fun q => (tget b.q q {}).count ≥ queueDepth q) then some (.stall .other)
  else streamGate b (streamPopsOf st i)

/-- The MEM and CPY words and the vector words that access memory. -/
def memWord : Instr → Bool
  | .ld _ | .st _ | .ldro _ | .roinv _ | .amo _ | .cas _ | .fence _ | .qmark _ | .qfence _ | .pref _ | .fget _ | .fset _ | .fclr _ | .waita _
  | .vld _ | .vst _ | .vldp _ | .vstp _ | .vldrg _ | .vgath _ | .vscat _
  | .cpy _ | .cpys _ | .cpyg _ | .cpysc _ | .cpyr _ | .cpyf _ | .cpyn _ | .pflush _ | .pinv _ => true
  | _ => false
/-- An earlier TLBINV of the strand has not completed: its memory words and copy words do not issue (R469). -/
def tlbWaits (x : StrandSt) (i : Instr) : Bool := memWord i && x.flight.any fun f => !f.landed && f.op.any fun o => o.kind = .tlbinv

/-- The value of a scalar predicate (R328): 0 poisoned, 1 holds, 2 does not hold; 1 for an unpredicated word and for a mask predicate. -/
def predValue (s : State) (b : Bank) (i : Instr) : Nat :=
  match hdrOf i with
  | none => 1
  | some h =>
    if h.pr = 0 || maskPredicated i then 1 else
    let r := readReg (coreTime s s.curCore) b s.curSt h.pr.toNat
    if r.poi then 0 else if (r.v != 0) != h.pn then 1 else 2

/-- The checks of R339 and what stands between them and the word's own effect. -/
def gate (i : Instr) (s : State) : Gate :=
  let b := curBank s
  let st := s.curSt
  let x := strandSel b st
  let now := coreTime s s.curCore
  let lat := (coreOf s s.curCore).latchk
  if !strandOk st i then .halt (.trap 0x01 2 0) else
  match privilege (supervisor s s.curCore) i with
  | some e => .halt e
  | none =>
    if !(wordOk st i && narrowOk b i) then .halt (.trap 0x01 1 0) else
    if anyLate now x (predReads b i ++ readsAll b st i) then .halt (.stall .other) else
    let pe := firstEarly now x (predReads b i)
    match lat, pe with
    | true, some (sub, r) => .halt (.trap 0x0E sub r)
    | _, _ =>
      let pv := predValue s b i
      if pv = 0 then .halt (.trap causePoison 1 0)
      else if pv = 2 then .off pe.isSome
      else
        let oe := firstEarly now x (readsAll b st i)
        match lat, oe with
        | true, some (sub, r) => .halt (.trap 0x0E sub r)
        | _, _ =>
          match queueGate b st i with
          | some e => .halt e
          | none => if tlbWaits x i then .halt (.stall .other) else .run (oe.isSome || pe.isSome)

/-! ## Stopping -/

/-- The vector loads of the current strand read their bytes. -/
def readVloads (s : State) : State :=
  drain s s.curCore (curFg s) s.curSt fun f => f.op.any fun o => (match o.kind with | .vload _ => true | _ => false) && !opHeld s s.curCore o
/-- The bank once every earlier word of the strand has completed and its result has landed, as R314 has it before the trap. -/
def completedBank (b : Bank) (st : Strand) : Bank :=
  ((strandSel b st).flight.filter fun f => !f.landed && f.op.all (fun o => o.kind = .reply)).foldl (fun b f => landFlight b st f.id f.bound) b
/-- The status word of the word's vector destination (R315 ESTAT). -/
def destStatus (b : Bank) (st : Strand) (i : Instr) : Nat :=
  match (operands st i).find? (fun o => o.role = .vdst || o.role = .vreg || o.role = .mdst) with
  | some o => if o.role = .mdst then statusWord (tget b.k (physK b.krb o.code) {}) true
    else statusWord (tget b.v (physV b.vrb o.code) {}) false
  | none => 0

/-- Passes of E's word are still to enter after this cycle: a trap of A or M waits for them (R176, R314). -/
def midPass (s : State) : Bool := s.curSt != .e && passesIn s s.curCore
/-- A trap of the current strand (R314): when it is M's, the core's running command is cut first (R213). `stat` is the record's word 4 for the other strands. -/
def trapStrand (s : State) (c sub tval : Nat) (stat : Nat := 0) : State :=
  if midPass s then stallAs s .other else
  let s := if s.curSt = .m then modBank (cutMatrix s s.curCore) fun b => { b with mwait := none } else s
  let k := curBank s
  let cursor := if s.curSt = .m then k.cursor.toNat else match (strandSel k s.curSt).claimed with | some n => 2 ^ 63 + n | none => 0
  takeTrap s s.curCore s.curSt c sub tval cursor (if s.curSt = .m then leaseWord s s.curCore else stat)
/-- A word that does not complete: it traps (R314), or it stays unissued this cycle. -/
def stopWord (i : Instr) (x : Stop) (s : State) : State :=
  match x with
  | .stall why => stallAs s why
  | .trap c sub tval =>
    if c = 0x08 ∨ c = 0x09 ∨ c = 0x0A then
      let s := readVloads s
      trapStrand s c sub tval (destStatus (completedBank (curBank s) s.curSt) s.curSt i)
    else trapStrand s c sub tval

/-! ## Completing -/

/-- The control word of a queue (R137). -/
def queueWord (b : Bank) (q : Nat) : Nat :=
  if 8 ≤ q ∧ q < 12 then
    let k := tget b.sq q {}
    k.head + k.tail * 2 ^ 8 + k.count * 2 ^ 16 + k.bound.isSome.toNat * 2 ^ 24
  else
    let k := tget b.q q {}
    k.head + k.tail * 2 ^ 8 + k.count * 2 ^ 16
/-- The control word of a queue as a word of the cycle finds it: the pushes and pops of the same cycle are not included (R451). -/
def queueSeen (cycle : Nat) (b : Bank) (q : Nat) : Nat :=
  match if 8 ≤ q ∧ q < 12 then (tget b.sq q {}).was else (tget b.q q {}).was with
  | some (c, v) => if c = cycle then v else queueWord b q
  | none => queueWord b q
/-- Notes in a queue of `b` its control word at the beginning of the cycle, where `old` is the bank before the change. -/
def noteQueue (cycle : Nat) (old b : Bank) (q : Nat) : Bank :=
  let v := some (cycle, queueSeen cycle old q)
  if 8 ≤ q ∧ q < 12 then { b with sq := tset b.sq q { tget b.sq q {} with was := v } } else { b with q := tset b.q q { tget b.q q {} with was := v } }

/-- Pops the entries and blocks that the word consumes (R130). -/
def popAll (b : Bank) (st : Strand) (i : Instr) : Bank :=
  let b := (popsOf st i).foldl (fun b q =>
    let k := tget b.q q {}
    { b with q := tset b.q q { k with head := (k.head + 1) % queueDepth q, count := k.count - 1 } }) b
  (streamPopsOf st i).foldl (fun b e =>
    let k := tget b.sq e.1 {}
    { b with sq := tset b.sq e.1 { k with head := (k.head + e.2) % 8, count := k.count - e.2 } }) b

/-- Reserves the slot that the word pushes into (R365): it holds an undefined value until the pushed one lands (R3, R307). -/
def pushSlot (tag : Nat) (b : Bank) (q : Nat) : Nat × Bank :=
  let k := tget b.q q {}
  (k.tail, { b with q := tset b.q q { k with slots := tset k.slots k.tail { r := { v := BitVec.ofNat 64 (freeOf tag (200 + q)) }, landed := false }, tail := (k.tail + 1) % queueDepth q, count := k.count + 1 } })

def Write.atSlot (w : Write) (q k : Nat) : Write := match w with | .queue a _ r => if a = q then .queue a k r else w | w => w
def Dest.atSlot (d : Dest) (q k : Nat) : Dest := match d with | .queue a _ => if a = q then .queue a k else d | d => d

/-- A result that an early read makes undefined (R309): free values in place of what the word computed. -/
def freeWrite (s : State) (k : Nat) : Write → Write
  | .reg n _ => .reg n { v := BitVec.ofNat 64 (freeAt s (1000 + 8 * k)), poi := nbit (freeAt s (1001 + 8 * k)) 0 }
  | .idx n _ => .idx n { v := BitVec.ofNat 32 (freeAt s (1000 + 8 * k)), poi := nbit (freeAt s (1001 + 8 * k)) 0 }
  | .queue q sl _ => .queue q sl { v := BitVec.ofNat 64 (freeAt s (1000 + 8 * k)), poi := nbit (freeAt s (1001 + 8 * k)) 0 }
  | .vec n _ => .vec n { undefVec s.fresh (1000 + 8 * k) with poi := nbit (freeAt s (1005 + 8 * k)) 0, stale := nbit (freeAt s (1006 + 8 * k)) 0 }
  | .mask n _ => .mask n { undefVec s.fresh (1000 + 8 * k) with poi := nbit (freeAt s (1005 + 8 * k)) 0, stale := nbit (freeAt s (1006 + 8 * k)) 0 }
def freeWrites (s : State) (l : List Write) : List Write := (List.zip (List.range l.length) l).map fun e => freeWrite s e.1 e.2

/-- An empty write to a destination. -/
def Dest.blank : Dest → Write
  | .reg n => .reg n {}
  | .idx n => .idx n {}
  | .vec n => .vec n {}
  | .mask n => .mask n {}
  | .queue q sl => .queue q sl {}

/-- A result for every destination of a word, to be made undefined. -/
def blankWrites (b : Bank) (st : Strand) (i : Instr) : List Write :=
  (operands st i).flatMap fun o => match o.role with
    | .dst | .srcDst => wrS (BitVec.ofNat 7 o.code) 0 false
    | .idxDst => [.idx o.code {}]
    | .vdst | .vreg => (List.range o.n).map fun j => .vec (physV b.vrb (o.code + j)) {}
    | .mdst => [.mask (physK b.krb o.code) {}]
    | _ => []

/-- The words that raise flags (R152): after an early read their flags are undefined. -/
def raisesFlags (i : Instr) : Bool :=
  match i with
  | .div _ | .rem _ | .fadd _ | .fsub _ | .fmul _ | .ffma _ | .fdiv _ | .fsqrt _ | .fmin _ | .fmax _ | .fcmp _ | .fcvt _ => true
  | i => maskPredicated i

/-- STL holds the strand's next word back, and no strand issues two words in one cycle (R105, R308). -/
def stlOf (i : Instr) : Nat := match hdrOf i with | some h => max 1 h.stl.toNat | none => 1

/-- Where control goes once the word has issued. -/
def goOn (x : StrandSt) (target : Option W64) : StrandSt := match target with | some t => jumpTo x t | none => stepPc x

/-- The stores of a vector word on their way to their points, numbered from `next` on. -/
def storeFlights (s : State) (ent : BitVec 32) (next now : Nat) (o : Out) : List Flight :=
  (List.zip (List.range o.stores.length) o.stores).map fun e =>
    { id := next + e.1, sent := s.cycle, ent := ent, op := some e.2, bound := now, tag := s.fresh, grp := if o.loose then next + 1 else 0 }
/-- The access of a word whose destinations are to hold undefined values: a vector load's bytes no longer matter. -/
def MemOp.blind (o : MemOp) : MemOp := match o.kind with | .vload _ => { o with kind := .load } | _ => o
/-- The word has issued: queues are popped and pushed, its result is on its way, and the strand goes on (R130, R307, R308). -/
def complete (i : Instr) (early : Bool) (o : Out) (s0 : State) : State :=
  if !o.issued then
    match o.traps with | some (c, sub, tval) => stopWord i (.trap c sub tval) o.s | none => o.s
  else
  let s := o.s
  let st := s.curSt
  let now := coreTime s s.curCore
  -- after an early read every destination is to hold an undefined value, whatever a reply brings (R309)
  let ws := if early then freeWrites s0 (if o.writes.isEmpty then o.dests.map Dest.blank else o.writes) else o.writes
  let fl := if early && raisesFlags i then BitVec.ofNat 9 (freeAt s0 999) &&& 0x17F else o.flags
  let ds := if o.dests.isEmpty then ws.map Write.dest else o.dests
  let s := modBank s fun b =>
    let b := popAll b st i
    let r := (pushesOf st i).foldl (fun (a : Bank × List Write × List Dest) q =>
      let p := pushSlot s.fresh a.1 q
      (p.2, a.2.1.map (·.atSlot q p.1), a.2.2.map (·.atSlot q p.1))) (b, ws, ds)
    let c := (popsOf st i ++ (streamPopsOf st i).map Prod.fst ++ pushesOf st i).foldl (noteQueue s.cycle (curBank s)) r.1
    let x := strandSel c st
    let pops := !(popsOf st i).isEmpty || !(streamPopsOf st i).isEmpty
    let f : Flight := { id := x.nextId, sent := s.cycle, ent := x.ent, dests := r.2.2, writes := r.2.1, flags := fl, op := if early then o.op.map MemOp.blind else o.op,
                        bound := if o.atOnce then now else now + (o.passes - 1) + o.bound, blocks := pops || blocking i, tag := s.fresh }
    let quiet := r.2.2.isEmpty && fl == 0 && o.op.isNone
    let next := if quiet then x.nextId else x.nextId + 1
    let x := { x with
      flight := (if quiet then x.flight else x.flight ++ [f]) ++ storeFlights s x.ent next now o, nextId := next + o.stores.length,
      busy := now + o.passes, ready := now + (o.passes - 1) + stlOf i, stall := none, park := none }
    let b := setStrand c st (goOn x o.target)
    if o.atOnce && !quiet then landFlight b st f.id now else b
  if early || !ds.isEmpty then useFresh s else s

/-- A word whose predicate does not hold: no effect but its STL (R328). When the predicate was read too early, its registers and flags hold undefined values all
the same (R309). -/
def completeOff (i : Instr) (early : Bool) (s : State) : State :=
  let now := coreTime s s.curCore
  let s0 := modStrand s fun x => stepPc { x with busy := now + 1, ready := now + stlOf i, stall := none, park := none }
  if !early then s0 else
  let ws := freeWrites s ((blankWrites (curBank s) s.curSt i).filter fun w => match w with | .queue _ _ _ => false | _ => true)
  let fl := if raisesFlags i then BitVec.ofNat 9 (freeAt s 999) &&& 0x17F else 0
  useFresh (modBank s0 fun b =>
    let x := strandSel b s.curSt
    landFlight (setStrand b s.curSt { x with
      flight := x.flight ++ [{ id := x.nextId, sent := s.cycle, ent := (curStrand s).ent, dests := ws.map Write.dest, writes := ws, flags := fl, bound := now, tag := s.fresh }],
      nextId := x.nextId + 1 }) s.curSt x.nextId now)

/-- The members of a vector source that no early read makes undefined; none if one does. -/
def timelyMembers (b : Bank) (now : Nat) (o : Operand) : List VReg :=
  if 64 ≤ o.code then
    let k := tget b.sq (o.code - 64) {}
    (List.range o.n).map fun j => tget k.slots ((k.head + j) % 8) {}
  else
    let ps := (List.range o.n).map fun j => physV b.vrb (o.code + j)
    if ps.any fun p => (earlyTo now b.se.flight (.vec p)).isSome then [] else ps.map fun p => tget b.v p {}
/-- The lengths of the operands that no early read makes undefined: vector sources, mask sources and the predicate. -/
def timelyLens (b : Bank) (now : Nat) (i : Instr) : List Nat :=
  let mask := fun p => if (earlyTo now b.se.flight (.mask p)).isSome then [] else [(tget b.k p {}).ll.toNat]
  ((operands .e i).flatMap fun o => match o.role with
    | .vsrc => (match timelyMembers b now o with | [] => [] | l => [(l.map fun r => r.ll.toNat).foldl (· + ·) 0])
    | .msrc => if o.code = 0 then [] else mask (physK b.krb o.code)
    | _ => []) ++
  (match hdrOf i with | some h => if h.pr = 0 || !maskPredicated i then [] else mask (physK b.krb h.pr.toNat) | none => [])
/-- A trap of R123 or R172 that the operands cause which no early read makes undefined: a stale register, sources of unequal lengths or of another element type. -/
def timelyTrap (s : State) (i : Instr) (x : Stop) : Bool :=
  let b := curBank s
  let now := coreTime s s.curCore
  match x with
  | .trap c sub _ =>
    if c = 0x0A then true
    else if c = 0x09 && (sub = 0 || sub = 2) then (match timelyLens b now i with | [] => false | n :: l => l.any (· != n))
    else if c = 0x09 && sub = 4 then
      (operands .e i).any fun o => o.role = .vsrc && (timelyMembers b now o).any fun r => r.ll != 0 && (vecOf i).any fun w => r.et != w.et
    else false
  | _ => false
/-- A trap that only the undefined content of an early-read register could cause: the word completes instead, with undefined results (R309). -/
def undefTrap (s : State) (i : Instr) (x : Stop) : Bool :=
  (match x with | .trap c _ _ => c = 0x08 || c = 0x09 || c = 0x0A | _ => false) && !timelyTrap s i x

/-- A CSR whose new value acts later takes a value: VRB and KRB (R133), FD0-FD3, FPCTL and DBGCTL (R142). -/
def setLateCsr (s : State) (e : Nat × W64) : State :=
  if e.1 = 0xA0 then updCore s s.curCore fun k => { k with latchk := e.2.getLsbD 0, mixchk := e.2.getLsbD 1 }
  else modBank s fun b =>
    if e.1 = 0x20 then { b with vrb := e.2.setWidth 5 } else if e.1 = 0x21 then { b with krb := e.2.setWidth 3 }
    else if e.1 = 0x30 then { b with fd0 := e.2.setWidth 16 } else if e.1 = 0x31 then { b with fd1 := e.2.setWidth 16 }
    else if e.1 = 0x32 then { b with fd2 := e.2.setWidth 16 } else if e.1 = 0x33 then { b with fd3 := e.2.setWidth 16 }
    else { b with fpctl := e.2.setWidth 4 }

/-- A word that acts on VRB and KRB itself: a CSR word, or LOOP (R134). -/
def movesBases : Instr → Bool
  | .csrr _ | .csrw _ | .csrs _ | .csrc _ | .loop _ => true
  | _ => false
def isBase (n : Nat) : Bool := n = 0x20 || n = 0x21

/-- A word that issues in the cycle of a CSR write of VRB or KRB uses the old value (R133). One that issues before the bound of another CSR write of R142
has elapsed uses either the old values or the new ones, chosen once for the word: a free choice. A CSR word finds the CSR that it names as it stands (R395). -/
def withCsrs (i : Instr) (f : State → State) (s : State) : State :=
  let now := coreTime s s.curCore
  let live := (curBank s).csrOld.filter fun e => now < e.2.2.2
  let s := if (curBank s).csrOld.isEmpty then s else modBank s fun b => { b with csrOld := live }
  let base := live.filter fun e => isBase e.1 && !movesBases i
  let late := live.filter fun e => !isBase e.1 && (csrOf i).all fun c => c.1 != e.1
  let old := if late.isEmpty then base else if nbit (freeAt s 998) 0 then base ++ late else base
  let go := fun (s : State) => if late.isEmpty then s else useFresh s
  if old.isEmpty then go (f s)
  else
    let r := f (old.foldr (fun e s => setLateCsr s (e.1, e.2.1)) s)
    go (((curBank r).csrOld.filter fun e => old.any fun o => o.1 = e.1).foldl (fun s e => setLateCsr s (e.1, e.2.2.1)) r)

/-- The bound of a distance class (R307). -/
def classBound (dc : Nat) : Nat := if dc = 0 then 32 else if dc = 1 then 200 else if dc = 2 then 1500 else 6000

/-- The latency bound of a vector or mask word, which stands when its early-read lengths say nothing of its result (R307, R309). -/
def vecBound (i : Instr) : Nat :=
  match i, vecOf i with
  | .vrsum _, _ | .vrmax _, _ | .vrmin _, _ | .vrdot _, _ | .kcnt _, _ | .kfirst _, _ | .dacc _, _ | .vlda _, _ | .vunpk _, _ => 32
  | .vsegsum _, _ | .vsegmax _, _ | .vscan _, _ => 48
  | .vrco _, _ => 40
  | .vsfu _, _ => 64
  | .vcvt w, _ => if etWidth w.et.toNat > etWidth w.sub.toNat then 40 else 28
  | .vadd w, _ | .vsub w, _ | .vmul w, _ | .vfma w, _ | .vmin w, _ | .vmax w, _ | .vabs w, _ | .vneg w, _ | .vclamp w, _ => if etInt w.et.toNat then 20 else 28
  | .vld w, _ | .vldp w, _ | .vldrg w, _ | .vgath w, _ => classBound (w.imm.extractLsb' 26 2).toNat
  | _, _ => 20

/-- The state after a word with the given body. -/
def issueState (i : Instr) (body : State → Except Stop Out) (s : State) : State :=
  match gate i s with
  | .halt x => stopWord i x s
  | .off early => completeOff i early s
  | .run early =>
    match body s with
    | .error x => if early && undefTrap s i x then complete i true { s := s, writes := blankWrites (curBank s) s.curSt i, bound := vecBound i } s else stopWord i x s
    | .ok o => complete i early o s

/-- The meaning of a word: its body behind the gate. Every outcome is a next state. -/
def issue (i : Instr) (body : State → Except Stop Out) (s : State) : Host.Outcome State Fault Refusal :=
  .next (withCsrs i (issueState i body) s)

end Sys2Proof.Machine
end

