-- ==== Sys2Proof/Machine/Scalar.lean ====
section
/-! DEFINITION. The scalar integer words of A and E (0x01-0x1A, HASHR): R366, R367, R372, R376, R388, R389, R398, R412, R421, R426, R439, R442, R457,
R461, R462, R466, R501, and ILLEGAL (R338). -/
namespace Sys2Proof.Machine

/-! ## Shared operations -/

/-- The B operand of an RR word: its immediate under BI, else a scalar source (R329). -/
def rdB (s : State) (w : RR) : Reg := if w.bi then { v := w.imm.signExtend 64, poi := false } else rdS s w.b

/-- A word of two sources and one result. -/
def alu2 (w : RR) (bound : Nat) (f : W64 → W64 → W64) (s : State) : Except Stop Out :=
  let a := rdS s w.a
  let b := rdB s w
  .ok { s := s, writes := wrS w.d (f a.v b.v) (a.poi || b.poi), bound := bound }

/-- A word of one source and one result. -/
def alu1 (w : RR) (f : W64 → W64) (s : State) : Except Stop Out :=
  let a := rdS s w.a
  .ok { s := s, writes := wrS w.d (f a.v) a.poi, bound := 2 }

/-- The comparison conditions of CMP and BR (R340). -/
def cmpCond (c : Nat) (a b : W64) : Bool :=
  if c = 0 then a = b
  else if c = 1 then a ≠ b
  else if c = 2 then a.slt b
  else if c = 3 then !a.slt b
  else if c = 4 then a.ult b
  else if c = 5 then !a.ult b
  else if c = 6 then !b.slt a
  else if c = 7 then b.slt a
  else if c = 8 then !b.ult a
  else b.ult a

/-- Quotient (R145, R398): all ones for a zero divisor; the most negative value by -1 is itself; else toward zero. -/
def divide (u : Bool) (a b : W64) : W64 :=
  if b = 0 then BitVec.allOnes 64 else if u then a / b else a.sdiv b
/-- Remainder (R145, R457): the dividend for a zero divisor; it has the sign of the dividend. -/
def remainder (u : Bool) (a b : W64) : W64 :=
  if b = 0 then a else if u then a % b else a.srem b
/-- DIV and REM, with the flag of a division by zero (R145). -/
def divWord (w : RR) (f : Bool → W64 → W64 → W64) (s : State) : Except Stop Out :=
  let a := rdS s w.a
  let b := rdB s w
  .ok { s := s, writes := wrS w.d (f (w.sub != 0) a.v b.v) (a.poi || b.poi), flags := divFlag s.curSt (b.v == 0), bound := 24 }

/-- Bits [127:64] of the exact product (R439). -/
def mulHigh (u : Bool) (a b : W64) : W64 :=
  if u then BitVec.ofNat 64 (a.toNat * b.toNat / 2 ^ 64) else BitVec.ofInt 64 (a.toInt * b.toInt / 2 ^ 64)

/-- Zeros above the highest set bit, and below the lowest; 64 for 0 (R388). -/
def countLead (a : W64) : Nat := if a = 0 then 64 else 63 - Nat.log2 a.toNat
def countTrail (a : W64) : Nat := ((List.range 64).find? fun i => a.getLsbD i).getD 64
/-- Set bits (R442). -/
def countOnes (a : W64) : Nat := ((List.range 64).filter fun i => a.getLsbD i).length

/-- Position and length of BFX and BFI (R376). -/
def bfPos (w : RR) : Nat := (w.imm.extractLsb' 10 6).toNat
def bfLen (w : RR) : Nat := (w.imm.extractLsb' 4 6).toNat + 1
/-- The field's mask in place: bits beyond 63 are dropped. -/
def bfMask (pos len : Nat) : W64 := BitVec.ofNat 64 ((2 ^ len - 1) <<< pos)
def bfExtract (pos len : Nat) (a : W64) : W64 := (a >>> pos) &&& BitVec.ofNat 64 (2 ^ len - 1)
def bfInsert (pos len : Nat) (a c : W64) : W64 := (a &&& ~~~(bfMask pos len)) ||| ((c <<< pos) &&& bfMask pos len)

/-! ## Meanings -/

/-- ILLEGAL always raises ILLEGAL with subcause 0 (R338). -/
def execIllegal (body : BitVec 88) (s : State) : Host.Outcome State Fault Refusal :=
  .next (stopWord (.illegal body) (.trap 0x01 0 0) s)
def execAdd (w : RR) (s : State) : Host.Outcome State Fault Refusal := issue (.add w) (alu2 w 2 fun a b => a + b) s
def execSub (w : RR) (s : State) : Host.Outcome State Fault Refusal := issue (.sub w) (alu2 w 2 fun a b => a - b) s
def execMul (w : RR) (s : State) : Host.Outcome State Fault Refusal := issue (.mul w) (alu2 w 4 fun a b => a * b) s
def execMulh (w : RR) (s : State) : Host.Outcome State Fault Refusal := issue (.mulh w) (alu2 w 4 (mulHigh (w.sub != 0))) s
def execDiv (w : RR) (s : State) : Host.Outcome State Fault Refusal := issue (.div w) (divWord w divide) s
def execRem (w : RR) (s : State) : Host.Outcome State Fault Refusal := issue (.rem w) (divWord w remainder) s
def execAnd (w : RR) (s : State) : Host.Outcome State Fault Refusal := issue (.and w) (alu2 w 2 fun a b => a &&& b) s
def execOr (w : RR) (s : State) : Host.Outcome State Fault Refusal := issue (.or w) (alu2 w 2 fun a b => a ||| b) s
def execXor (w : RR) (s : State) : Host.Outcome State Fault Refusal := issue (.xor w) (alu2 w 2 fun a b => a ^^^ b) s
def execAndn (w : RR) (s : State) : Host.Outcome State Fault Refusal := issue (.andn w) (alu2 w 2 fun a b => a &&& ~~~b) s
def execShl (w : RR) (s : State) : Host.Outcome State Fault Refusal := issue (.shl w) (alu2 w 2 fun a b => a <<< (b.toNat % 64)) s
def execShr (w : RR) (s : State) : Host.Outcome State Fault Refusal := issue (.shr w) (alu2 w 2 fun a b => a >>> (b.toNat % 64)) s
def execSra (w : RR) (s : State) : Host.Outcome State Fault Refusal := issue (.sra w) (alu2 w 2 fun a b => a.sshiftRight (b.toNat % 64)) s
def execRotr (w : RR) (s : State) : Host.Outcome State Fault Refusal := issue (.rotr w) (alu2 w 2 fun a b => a.rotateRight (b.toNat % 64)) s
def execMin (w : RR) (s : State) : Host.Outcome State Fault Refusal :=
  issue (.min w) (alu2 w 2 fun a b => if (if w.sub = 0 then b.slt a else b.ult a) then b else a) s
def execMax (w : RR) (s : State) : Host.Outcome State Fault Refusal :=
  issue (.max w) (alu2 w 2 fun a b => if (if w.sub = 0 then a.slt b else a.ult b) then b else a) s
def execCmp (w : RR) (s : State) : Host.Outcome State Fault Refusal :=
  issue (.cmp w) (alu2 w 2 fun a b => if cmpCond w.sub.toNat a b then 1 else 0) s

/-- SEL's body (R462): the chosen value, poisoned by it or by C. -/
def selBody (w : RR) (s : State) : Except Stop Out :=
  let c := rdS s w.c
  let a := rdS s w.a
  let b := rdB s w
  let r := if c.v != 0 then a else b
  .ok { s := s, writes := wrS w.d r.v (c.poi || r.poi), bound := 2 }
def execSel (w : RR) (s : State) : Host.Outcome State Fault Refusal := issue (.sel w) (selBody w) s

def execClz (w : RR) (s : State) : Host.Outcome State Fault Refusal := issue (.clz w) (alu1 w fun a => BitVec.ofNat 64 (countLead a)) s
def execCtz (w : RR) (s : State) : Host.Outcome State Fault Refusal := issue (.ctz w) (alu1 w fun a => BitVec.ofNat 64 (countTrail a)) s
def execPopc (w : RR) (s : State) : Host.Outcome State Fault Refusal := issue (.popc w) (alu1 w fun a => BitVec.ofNat 64 (countOnes a)) s
def execBfx (w : RR) (s : State) : Host.Outcome State Fault Refusal := issue (.bfx w) (alu1 w (bfExtract (bfPos w) (bfLen w))) s

/-- BFI's body (R376). -/
def bfiBody (w : RR) (s : State) : Except Stop Out :=
  let a := rdS s w.a
  let c := rdS s w.c
  .ok { s := s, writes := wrS w.d (bfInsert (bfPos w) (bfLen w) a.v c.v) (a.poi || c.poi), bound := 2 }
def execBfi (w : RR) (s : State) : Host.Outcome State Fault Refusal := issue (.bfi w) (bfiBody w) s

/-- ADDI's body (R367). -/
def addiBody (w : RI) (s : State) : Except Stop Out :=
  let a := rdS s w.a
  .ok { s := s, writes := wrS w.d (a.v + w.imm.signExtend 64) a.poi, bound := 2 }
def execAddi (w : RI) (s : State) : Host.Outcome State Fault Refusal := issue (.addi w) (addiBody w) s
/-- LI's body (R421). -/
def liBody (w : RI) (s : State) : Except Stop Out := .ok { s := s, writes := wrS w.d (w.imm.signExtend 64) false, bound := 2 }
def execLi (w : RI) (s : State) : Host.Outcome State Fault Refusal := issue (.li w) (liBody w) s
/-- LIH's body (R421). -/
def lihBody (w : RI) (s : State) : Except Stop Out :=
  let a := rdS s w.a
  .ok { s := s, writes := wrS w.d (((w.imm.extractLsb' 0 16) ++ (a.v.extractLsb' 0 48)).setWidth 64) a.poi, bound := 2 }
def execLih (w : RI) (s : State) : Host.Outcome State Fault Refusal := issue (.lih w) (lihBody w) s
def execHashr (w : RR) (s : State) : Host.Outcome State Fault Refusal := issue (.hashr w) (alu2 w 2 hashr) s

end Sys2Proof.Machine
end

