-- ==== Sys2Proof/Machine/Control.lean ====
section
/-! DEFINITION. Control words (0x30-0x37, 0x3F) and REP: R336, R380-R382, R385, R413, R423, R440, R458, R459, R467. -/
namespace Sys2Proof.Machine

/-- A target relative to the word's address (R330). -/
def relTarget (s : State) (imm : BitVec 48) : W64 := (curStrand s).pc + imm.signExtend 64

/-- BR's body (R380): a poisoned comparand ends the task. -/
def brBody (w : RI) (s : State) : Except Stop Out := do
  let a := rdS s w.a
  let b := rdS s w.b
  check (!(a.poi || b.poi)) causePoison 1 0
  .ok { s := s, target := if cmpCond w.sub.toNat a.v b.v then some (relTarget s w.imm) else none }
def execBr (w : RI) (s : State) : Host.Outcome State Fault Refusal := issue (.br w) (brBody w) s

/-- JMP's body (R413). -/
def jmpBody (w : RI) (s : State) : Except Stop Out := .ok { s := s, target := some (relTarget s w.imm) }
def execJmp (w : RI) (s : State) : Host.Outcome State Fault Refusal := issue (.jmp w) (jmpBody w) s

/-- The body of JMPR and RET (R413, R459): a poisoned register traps before any effect. -/
def jmprBody (w : RI) (s : State) : Except Stop Out := do
  let a := rdS s w.a
  check (!a.poi) causePoison 0 0
  .ok { s := s, target := some (a.v + w.imm.signExtend 64) }
def execJmpr (w : RI) (s : State) : Host.Outcome State Fault Refusal := issue (.jmpr w) (jmprBody w) s
def execRet (w : RI) (s : State) : Host.Outcome State Fault Refusal := issue (.ret w) (jmprBody w) s

/-- CALL's body (R385). -/
def callBody (w : RI) (s : State) : Except Stop Out :=
  .ok { s := s, writes := wrS w.d (afterWord (curStrand s)) false, bound := 2, target := some (relTarget s w.imm) }
def execCall (w : RI) (s : State) : Host.Outcome State Fault Refusal := issue (.call w) (callBody w) s

/-- LOOP's body (R423, R134): counter, rotation and branch in one step. -/
def loopBody (w : RI) (s : State) : Except Stop Out := do
  let d := rdS s w.d
  check (!d.poi) causePoison 1 0
  let c := d.v - 1
  .ok { s := modBank s fun b => { b with vrb := b.vrb - 1, krb := b.krb - 1 },
        writes := wrS w.d c false, bound := 2, target := if c != 0 then some (relTarget s w.imm) else none }
def execLoop (w : RI) (s : State) : Host.Outcome State Fault Refusal := issue (.loop w) (loopBody w) s

/-- BRQ's body (R382). -/
def brqBody (w : RI) (s : State) : Except Stop Out := do
  let v := rdS s w.a
  check (!v.poi) causePoison 1 0
  .ok { s := s, target := if v.v != 0 then some (relTarget s w.imm) else none }
def execBrq (w : RI) (s : State) : Host.Outcome State Fault Refusal := issue (.brq w) (brqBody w) s

/-- SYNCV's body (R467): no later word of the strand issues while a register result of an earlier one has not landed; once the watchdog has abandoned what it waits for, it is complete. -/
def syncvBody (s : State) : Except Stop Out := .ok { s := modStrand s fun x => { x with sync := x.nextId } }
def execSyncv (w : SYS) (s : State) : Host.Outcome State Fault Refusal := issue (.syncv w) syncvBody s

/-- NOP has no effect (R440). -/
def execNop (w : SYS) (s : State) : Host.Outcome State Fault Refusal := issue (.nop w) (fun s => .ok { s := s }) s

/-! ## REP (R336, R458) -/

/-- The step of a field letter: 0 D, 1 A, 2 B, 3 C, 4 none. -/
def repStep (w : REP) (f : Nat) : Int :=
  if f = 0 then w.sd.toInt else if f = 1 then w.sa.toInt else if f = 2 then w.sb.toInt else if f = 3 then w.sc.toInt else 0

/-- Registers in the file that an operand names (R336). -/
def fileSize (st : Strand) (r : Role) : Nat :=
  match r with
  | .src | .dst | .srcDst => scalarFile st
  | .vsrc | .vdst | .vreg => 64
  | .msrc | .mdst => 16
  | .idxSrc | .idxDst | .accum => 8
  | .wslot => 32

/-- A stepped number stays in its file and keeps the group alignment of R126 on every issue; a queue specifier admits only step 0. A tuple that a step misaligns
is found when its issue is decoded (R331, R336). -/
def stepOk (st : Strand) (w : REP) (o : Operand) : Bool :=
  let d := repStep w o.fld
  if d = 0 then true
  else if (o.role = .src || o.role = .dst || o.role = .vsrc) && o.code ≥ 64 then false
  else (List.range (w.count.toNat + 1)).all fun j =>
    let v : Int := o.code + j * d
    0 ≤ v && v < fileSize st o.role && (v % o.n = 0 || !(o.role = .vsrc || o.role = .vdst || o.role = .vreg))

/-- The format of a word whose C step must be 0 (R336). -/
def noStepC : Instr → Bool
  | .addi _ | .li _ | .lih _ | .br _ | .jmp _ | .jmpr _ | .call _ | .ret _ | .loop _ | .brq _ => true
  | .syncv _ | .nop _ | .binit _ | .barr _ | .bwait _ | .btest _ | .bexp _ | .csrr _ | .csrw _ | .csrs _ | .csrc _ | .trap _ | .eret _
  | .tlbinv _ | .idle _ | .halt _ | .bkpt _ | .swapb _ | .spill _ => true
  | _ => false

def isRep : Instr → Bool | .rep _ => true | _ => false

/-- The word after the one at PC, if it lies in the section and can be fetched and decoded. -/
def nextWord (s : State) : Option Instr :=
  let x := curStrand s
  match fetchCode s (curCtx s) (x.pc.toNat + 12) 12 with
  | .ok (v, _) => decodeWord (BitVec.ofNat 96 v)
  | .error _ => none

/-- REP's body: the checks of every issue, before any of them; then the next word issues under REP (R336, R458). What only the next word's own fetch or
decoding can refuse is left to that word. -/
def repBody (w : REP) (s : State) : Except Stop Out := do
  let x := curStrand s
  let inside := x.pc.toNat + 12 < sectionEnd x.base x.slate
  let i := if inside then nextWord s else none
  let c := match i with | some i => noStepC i && w.sc != 0 | none => false
  check (!c) 0x01 1 0
  check (inside && (match i with | some i => !isBranch i && !isRep i | none => true)) 0x0C 0 0
  check (match i with | some i => (operands s.curSt i).all (stepOk s.curSt w) | none => true) 0x0C 1 0
  let r : RepSt := { count := w.count.toNat, sd := w.sd.toInt, sa := w.sa.toInt, sb := w.sb.toInt, sc := w.sc.toInt }
  .ok { s := modStrand s fun x => { advancePc x with rep := some r, ready := coreTime s s.curCore + 1, stall := none }, issued := false }
def execRep (w : REP) (s : State) : Host.Outcome State Fault Refusal := issue (.rep w) (repBody w) s

end Sys2Proof.Machine
end

