-- ==== Sys2Proof/Machine/FloatScalar.lean ====
section
/-! DEFINITION. The scalar floating-point words of E (0x20-0x2A): R400-R402, R406, R407, R409, R410. -/
namespace Sys2Proof.Machine

/-- The layout of a scalar type code: .h, .bf, .s, .d (R341). -/
def ftFmt (c : Nat) : FFmt := if c = 0 then fmtH else if c = 1 then fmtBF else if c = 2 then fmtS else fmtD

/-- The rounding mode of a word: code 7 is FPCTL.RM (R150). -/
def roundMode (b : Bank) (rm : BitVec 3) : Nat := if rm = 7 then (b.fpctl.extractLsb' 0 3).toNat else rm.toNat
/-- FPCTL.FTZ (R151). -/
def ftzOn (b : Bank) : Bool := b.fpctl.getLsbD 3

/-- A float operand: the low bits of its register, under FTZ (R114, R148). -/
def fsrc (s : State) (w : RR) (f : BitVec 7) : Val × Bool :=
  let r := rdS s f
  ((ftFmt w.ft.toNat).decode (ftzOn (curBank s)) (r.v.toNat % 2 ^ (ftFmt w.ft.toNat).width), r.poi)

/-- The result of an exact value: one rounding to FT, with IO when it is invalid (R149, R153, R400). -/
def fround (s : State) (w : RR) (v : Val) (invalid : Bool) (extra : Flags) (p : Bool) : Out :=
  let b := curBank s
  let r := (ftFmt w.ft.toNat).round (roundMode b w.rm) (ftzOn b) v
  { s := s, writes := wrS w.d (BitVec.ofNat 64 r.1) p, flags := r.2 ||| flagIf invalid flagIO ||| extra, bound := 6 }

/-- A word of two float sources rounded once. -/
def fop2 (w : RR) (f : Bool → Val → Val → Val × Bool × Bool) (s : State) : Except Stop Out :=
  let a := fsrc s w w.a
  let b := fsrc s w w.b
  let r := f (roundMode (curBank s) w.rm = 3) a.1 b.1
  .ok (fround s w r.1 r.2.1 (flagIf r.2.2 flagDZ) (a.2 || b.2))

def execFadd (w : RR) (s : State) : Host.Outcome State Fault Refusal :=
  issue (.fadd w) (fop2 w fun d a b => let r := vAdd d a b; (r.1, r.2, false)) s
def execFsub (w : RR) (s : State) : Host.Outcome State Fault Refusal :=
  issue (.fsub w) (fop2 w fun d a b => let r := vAdd d a b.neg; (r.1, r.2, false)) s
def execFmul (w : RR) (s : State) : Host.Outcome State Fault Refusal :=
  issue (.fmul w) (fop2 w fun _ a b => let r := vMul a b; (r.1, r.2, false)) s
def execFdiv (w : RR) (s : State) : Host.Outcome State Fault Refusal := issue (.fdiv w) (fop2 w fun _ a b => vDiv a b) s

/-- FFMA's body (R409). -/
def ffmaBody (w : RR) (s : State) : Except Stop Out :=
  let a := fsrc s w w.a
  let b := fsrc s w w.b
  let c := fsrc s w w.c
  let r := vFma (roundMode (curBank s) w.rm = 3) a.1 b.1 c.1
  .ok (fround s w r.1 r.2 0 (a.2 || b.2 || c.2))
def execFfma (w : RR) (s : State) : Host.Outcome State Fault Refusal := issue (.ffma w) (ffmaBody w) s

/-- FSQRT's body (R410). -/
def fsqrtBody (w : RR) (s : State) : Except Stop Out :=
  let a := fsrc s w w.a
  let r := vSqrt a.1
  .ok (fround s w r.1 r.2 0 a.2)
def execFsqrt (w : RR) (s : State) : Host.Outcome State Fault Refusal := issue (.fsqrt w) (fsqrtBody w) s

/-- FMIN's and FMAX's body (R401): the operand taken, exactly; the canonical NaN for two NaNs. -/
def fminmaxBody (max : Bool) (w : RR) (s : State) : Except Stop Out :=
  let a := fsrc s w w.a
  let b := fsrc s w w.b
  let r := fMinMax max a.1 b.1
  let v := match r.1 with | none => Val.nan false | some t => if t then b.1 else a.1
  .ok { s := s, writes := wrS w.d (BitVec.ofNat 64 ((ftFmt w.ft.toNat).round 0 false v).1) (a.2 || b.2), flags := r.2, bound := 6 }
def execFmin (w : RR) (s : State) : Host.Outcome State Fault Refusal := issue (.fmin w) (fminmaxBody false w) s
def execFmax (w : RR) (s : State) : Host.Outcome State Fault Refusal := issue (.fmax w) (fminmaxBody true w) s

/-- The IO flag of a comparison (R406): .lt, .le, .gt and .ge on any NaN; the others on a signalling NaN. -/
def cmpFlags (c : Nat) (a b : Val) : Flags :=
  if c = 2 || c = 3 || c = 5 || c = 6 then flagIf (a.isNan || b.isNan) flagIO else flagIf (a.signalling || b.signalling) flagIO

/-- FCMP's body (R406). -/
def fcmpBody (w : RR) (s : State) : Except Stop Out :=
  let a := fsrc s w w.a
  let b := fsrc s w w.b
  .ok { s := s, writes := wrS w.d (if vCond w.sub.toNat a.1 b.1 then 1 else 0) (a.2 || b.2), flags := cmpFlags w.sub.toNat a.1 b.1, bound := 6 }
def execFcmp (w : RR) (s : State) : Host.Outcome State Fault Refusal := issue (.fcmp w) (fcmpBody w) s

/-- A conversion between the types of R341 (R158, R407). -/
def fcvtValue (b : Bank) (ft ft2 rm : Nat) (x : W64) : Nat × Flags :=
  let src : Val := if ft2 = 4 then Val.ofInt x.toInt else if ft2 = 5 then Val.ofInt x.toNat
    else (ftFmt ft2).decode (ftzOn b) (x.toNat % 2 ^ (ftFmt ft2).width)
  if ft = 4 then let r := toIntRange rm (-(2 ^ 63 : Nat)) ((2 ^ 63 : Nat) - 1) src; (wrapN 64 r.1, r.2)
  else if ft = 5 then let r := toIntRange rm 0 ((2 ^ 64 : Nat) - 1) src; (wrapN 64 r.1, r.2)
  else let r := (ftFmt ft).round rm (ftzOn b) src; (r.1, r.2 ||| flagIf src.signalling flagIO)

/-- FCVT's body (R407). -/
def fcvtBody (w : RR) (s : State) : Except Stop Out :=
  let a := rdS s w.a
  let b := curBank s
  let r := fcvtValue b w.ft.toNat w.ft2.toNat (roundMode b w.rm) a.v
  .ok { s := s, writes := wrS w.d (BitVec.ofNat 64 r.1) a.poi, flags := r.2, bound := 6 }
def execFcvt (w : RR) (s : State) : Host.Outcome State Fault Refusal := issue (.fcvt w) (fcvtBody w) s

/-- The class bit of a code (R402). -/
def classBit (f : FFmt) (c : Nat) : Nat :=
  let neg := c.testBit (f.eb + f.mb)
  let e := (c / 2 ^ f.mb) % 2 ^ f.eb
  let m := c % 2 ^ f.mb
  if e = 2 ^ f.eb - 1 then (if m = 0 then (if neg then 0 else 7) else if m < 2 ^ (f.mb - 1) then 8 else 9)
  else if e = 0 then (if m = 0 then (if neg then 3 else 4) else if neg then 2 else 5)
  else if neg then 1 else 6

/-- FCLASS's body (R402): FTZ does not act. -/
def fclassBody (w : RR) (s : State) : Except Stop Out :=
  let a := rdS s w.a
  let f := ftFmt w.ft.toNat
  .ok { s := s, writes := wrS w.d (BitVec.ofNat 64 (2 ^ classBit f (a.v.toNat % 2 ^ f.width))) a.poi, bound := 6 }
def execFclass (w : RR) (s : State) : Host.Outcome State Fault Refusal := issue (.fclass w) (fclassBody w) s

end Sys2Proof.Machine
end

