-- ==== Sys2Proof/Machine/MemWords.lean ====
section
/-! DEFINITION. Memory words (0x40-0x49): R368-R371, R386, R387, R408, R417-R420, R445, R449, R460, R464, R465. -/
namespace Sys2Proof.Machine

/-- Bytes of a size code (R331). -/
def sizeOf (sz : BitVec 3) : Nat := 2 ^ sz.toNat
def memAddr (w : MEM) (a : W64) : Nat := (a + w.off.signExtend 64).toNat

/-- The base register of an access: a poisoned one traps before memory is accessed (R115). -/
def baseAddr (s : State) (w : MEM) : Except Stop Nat := do
  let a := rdS s w.a
  check (!a.poi) causePoison 0 0
  .ok (memAddr w a.v)

/-- A naturally aligned address (R266). -/
def aligned (va n : Nat) : Except Stop Unit := check (va % n == 0) 0x04 0 va

/-- The scopes that an atomic, a future or an awaited word may have on a KIND (R255): PROT 8 otherwise. -/
def scopeOk (core scope : Nat) (x : Xlat) : Bool :=
  match x.kind with
  | .loc => true
  | .window => scope = 0 && winSpace x.pa = 0 && winCore x.pa = core
  | .coh | .host => scope = 3
  | _ => false

/-- Translation of an atomic, or of a future or an awaited word: R231, then the scope, then R285 (R370, R405). -/
def xlatScoped (s : State) (acc : Acc) (scope va n : Nat) : Except Stop (List Xlat) := do
  let l ← liftFault (xlatPages s (curCtx s) acc acc.writes va n)
  check (l.all (scopeOk s.curCore scope)) 0x06 8 va
  liftFault (regionsOk s (curCtx s) l)
  .ok l

/-- A fence that orders the access has not been performed, or a TLBINV is not complete: the word does not issue (R408, R469). -/
def fenced (s : State) (o : MemOp) : Bool :=
  (curStrand s).flight.any fun f => !f.landed && (match f.op with
    | some p => (match p.kind with | .fence | .qmark | .tlbinv => mustPrecede p o | _ => false)
    | none => false)
/-- An access that is performed at its word's issue, with the strand's earlier ones, waits behind a fence and while a link holds any of them. -/
def waitsBehind (s : State) (o : MemOp) : Bool := fenced s o || opHeld s s.curCore o || strandHeld s s.curCore (curFg s) s.curSt

/-- The data of a store or atomic: a register, or a tuple with the lowest bytes first (R331). -/
def tupleData (s : State) (f : BitVec 7) (n : Nat) : Nat × Bool :=
  if n ≤ 8 then let r := rdS s f; (r.v.toNat % 256 ^ n, r.poi)
  else (List.range (n / 8)).foldr (fun j a =>
    let r := rdS s (f + BitVec.ofNat 7 j)
    (r.v.toNat + 2 ^ 64 * a.1, r.poi || a.2)) (0, false)

/-- The destinations of a load: a register, a tuple, or a queue slot. -/
def loadDests (f : BitVec 7) (n : Nat) : List Dest :=
  if f.toNat < 64 then (List.range (max 1 (n / 8))).map fun j => .reg (f.toNat + j) else [.queue (f.toNat - 0x40) 0]

/-- An access that will be performed later (R261): it issues once no fence holds it back. -/
def memOut (s : State) (o : MemOp) (dests : List Dest) : Except Stop Out :=
  if fenced s o then .error (.stall .other) else .ok { s := s, op := some o, dests := dests, bound := classBound o.dc }

/-! ## Loads and stores -/

/-- The body of LD and LDRO (R418, R420); LDRO's scope is ignored. -/
def loadBody (w : MEM) (kind : MemKind) (acc : Acc) (s : State) : Except Stop Out := do
  let n := sizeOf w.sz
  let va ← baseAddr s w
  if w.ord = 1 then aligned va n else .ok ()
  let l ← liftFault (xlat s (curCtx s) acc false va n)
  let o : MemOp := { kind := kind, va := va, n := n, pieces := piecesOf l, scope := if acc = .ldro then 0 else w.scope.toNat, ord := w.ord.toNat, sx := w.sx, dc := w.dc.toNat }
  memOut (useXlats s (curCtx s) acc false l) o (loadDests w.d n)
def execLd (w : MEM) (s : State) : Host.Outcome State Fault Refusal := issue (.ld w) (loadBody w .load .read) s
def execLdro (w : MEM) (s : State) : Host.Outcome State Fault Refusal := issue (.ldro w) (loadBody w (.ldro true) .ldro) s

/-- ST's body (R464): every page is checked before anything is written; TSTALE is set before any byte is performed. -/
def stBody (w : MEM) (s : State) : Except Stop Out := do
  let n := sizeOf w.sz
  let va ← baseAddr s w
  if w.ord = 2 then aligned va n else .ok ()
  let l ← liftFault (xlat s (curCtx s) .write true va n)
  let d := tupleData s w.d n
  let o : MemOp := { kind := .store, va := va, n := n, pieces := piecesOf l, scope := w.scope.toNat, ord := w.ord.toNat, data := d.1, pdata := d.2,
                     dc := w.dc.toNat }
  memOut (useXlats s (curCtx s) .write true l) o []
def execSt (w : MEM) (s : State) : Host.Outcome State Fault Refusal := issue (.st w) (stBody w) s

/-! ## Atomics -/

/-- The address and translation of an atomic (R368, R370). -/
def atomicAddr (w : MEM) (s : State) : Except Stop (Nat × List Xlat) := do
  let va ← baseAddr s w
  aligned va (sizeOf w.sz)
  let l ← xlatScoped s .atomic w.scope.toNat va (sizeOf w.sz)
  .ok (va, l)

/-- AMO's body (R368). -/
def amoBody (w : MEM) (s : State) : Except Stop Out := do
  let n := sizeOf w.sz
  let (va, l) ← atomicAddr w s
  let b := tupleData s w.b n
  let o : MemOp := { kind := .amo w.sub.toNat, va := va, n := n, pieces := piecesOf l, scope := w.scope.toNat, ord := w.ord.toNat, sx := w.sx,
                     data := b.1, pdata := b.2, dc := w.dc.toNat }
  memOut (useXlats s (curCtx s) .atomic true l) o (loadDests w.d n)
def execAmo (w : MEM) (s : State) : Host.Outcome State Fault Refusal := issue (.amo w) (amoBody w) s

/-- CAS's body (R386). -/
def casBody (w : MEM) (s : State) : Except Stop Out := do
  let n := sizeOf w.sz
  let (va, l) ← atomicAddr w s
  let e := tupleData s w.b n
  let v := tupleData s w.c n
  let o : MemOp := { kind := .cas, va := va, n := n, pieces := piecesOf l, scope := w.scope.toNat, ord := w.ord.toNat, sx := w.sx,
                     data := e.1, pdata := e.2, data2 := v.1, pdata2 := v.2, dc := w.dc.toNat }
  memOut (useXlats s (curCtx s) .atomic true l) o (loadDests w.d n)
def execCas (w : MEM) (s : State) : Host.Outcome State Fault Refusal := issue (.cas w) (casBody w) s

/-! ## Ordering and caches -/

/-- FENCE's body (R269, R408): it is performed once what it orders has been, and holds back what it orders. -/
def execFence (w : MEM) (s : State) : Host.Outcome State Fault Refusal :=
  issue (.fence w) (fun s => .ok { s := s, op := some { kind := .fence, scope := w.scope.toNat, ord := w.ord.toNat } }) s
/-- QMARK's body (R269, R449). -/
def execQmark (w : MEM) (s : State) : Host.Outcome State Fault Refusal :=
  issue (.qmark w) (fun s => .ok { s := s, op := some { kind := .qmark } }) s

/-- The copy queues of a mask. -/
def queuesOf (m : BitVec 8) : List Nat := (List.range 8).filter fun i => m.getLsbD i
/-- QFENCE's body (R271, R449): commands issued later to the named queues stand behind those issued to them before. -/
def qfenceBody (w : MEM) (s : State) : Except Stop Out :=
  let qs := queuesOf w.sub
  let l := (coreOf s s.curCore).slots
  let before := (l.filter fun e => qs.contains e.2.cq).map fun e => e.2.seq
  .ok { s := if before.isEmpty then s else updCore s s.curCore fun k =>
    { k with fences := (k.fences.filter fun f => f.2.any fun n => l.any fun e => e.2.seq = n) ++ [(qs, before)] } }
def execQfence (w : MEM) (s : State) : Host.Outcome State Fault Refusal := issue (.qfence w) (qfenceBody w) s

/-- The line fills of a strand that are in flight are not installed (R460). -/
def fillsPast (x : StrandSt) : StrandSt :=
  { x with flight := x.flight.map fun f => { f with op := f.op.map fun o => match o.kind with | .ldro _ => { o with kind := .ldro false } | _ => o } }
def bankFillsPast (b : Bank) : Bank := { b with sa := fillsPast b.sa, se := fillsPast b.se, sm := fillsPast b.sm }
/-- An earlier fence or acquire of the strand is outstanding: what it orders has not yet happened before the word. -/
def acquirePending (x : StrandSt) : Bool :=
  x.flight.any fun f => !f.landed && (match f.op with | some o => o.acq || (match o.kind with | .fence | .qmark => true | _ => false) | none => false)
/-- ROINV's body (R227, R277, R460). -/
def roinvBody (s : State) : Except Stop Out :=
  if acquirePending (curStrand s) then .error (.stall .other)
  else .ok { s := updCore s s.curCore fun k => { k with ro := [], b0 := bankFillsPast k.b0, b1 := bankFillsPast k.b1 } }
def execRoinv (w : MEM) (s : State) : Host.Outcome State Fault Refusal := issue (.roinv w) roinvBody s

/-- PREF's body (R445): the line is fetched when the base is clean, the checks pass and the KIND allows it; it never traps. -/
def prefBody (w : MEM) (s : State) : Except Stop Out :=
  let a := rdS s w.a
  let acc := if w.sub = 0 then Acc.read else Acc.ldro
  if a.poi then .ok { s := s } else
  match xlat s (curCtx s) acc false (memAddr w a.v) 1 with
  | .error _ => .ok { s := s }
  | .ok l =>
    .ok { s := l.foldl (fun s x =>
      if x.kind = .window || x.kind = .mmio then s else
      let s := useXlat s (curCtx s) acc false x
      let q : Piece := { pa := x.pa, n := 1, kind := x.kind, sm := x.sm, tagged := x.tagged }
      if w.sub = 0 then (readCluster s (clusterOfCore s.curCore) { q with pa := x.pa / 128 * 128, n := 128 }).2 else (readRo s s.curCore q).2) s }
def execPref (w : MEM) (s : State) : Host.Outcome State Fault Refusal := issue (.pref w) (prefBody w) s

end Sys2Proof.Machine
end

