-- ==== Sys2Proof/Machine/Sync.lean ====
section
/-! DEFINITION. Futures, awaited words and barriers (0x50-0x58): R255-R258, R373-R378, R383, R384, R403-R405, R499. -/
namespace Sys2Proof.Machine

/-! ## Parking (R256-R258) -/

/-- Entries of a wait table in use. -/
def waitsIn (s : State) (t : WaitTable) : List WaitEnt :=
  match t with
  | .cluster c => (clusterOf s c).waits
  | .agent south => if south then s.pool.waitsS else s.pool.waitsN
  | .none_ => []
/-- Entries of a wait table (R20, R21). -/
def waitRoom (t : WaitTable) : Nat := match t with | .cluster _ => 4096 | .agent _ => 16384 | .none_ => 0
/-- Adds an entry to a wait table. -/
def addWait (s : State) (t : WaitTable) (e : WaitEnt) : State :=
  match t with
  | .cluster c => updCluster s c fun k => { k with waits := k.waits ++ [e] }
  | .agent south =>
    if south then { s with pool := { s.pool with waitsS := s.pool.waitsS ++ [e] } } else { s with pool := { s.pool with waitsN := s.pool.waitsN ++ [e] } }
  | .none_ => s

/-- The strand parks with an entry in the table, or polls when the table is full (R258). The word has not issued: it executes again when the
strand is woken. -/
def parkCur (s : State) (key : WaitKey) (t : WaitTable) (cond : WaitCond) (scope : Nat) : State :=
  let full := (waitsIn s t).length ≥ waitRoom t
  let s := if full then s else addWait s t { key := key, task := (curBank s).task.getD 0, st := some s.curSt, core := s.curCore, cond := cond, scope := scope }
  modStrand (stallAs s .wait) fun x => { x with park := some { key := key, table := if full then .none_ else t, cond := cond, scope := scope, since := s.cycle } }

/-- The wait table of a wait on a word at a scope (R256). -/
def waitTable (core scope pa : Nat) : WaitTable := if scope = 3 then .agent (agentOf pa = .south) else .cluster (clusterOfCore core)

/-! ## Order before a word that is performed at its issue -/

/-- Performs the earlier accesses of the strand that must precede an access, with those before them (R268, R269). -/
def drainFor (s : State) (o : MemOp) : State :=
  let last := (curStrand s).flight.foldl (fun m f => match f.op with
    | some p => bif !f.landed && mustPrecede p o then f.id + 1 else m
    | none => m) 0
  drain s s.curCore (curFg s) s.curSt (fun f => f.id < last)

/-! ## Futures (R403-R405, R499) -/

/-- The address of a future or awaited word (R404): the checks of R370 with R255 as the sixth. -/
def futureAddr (w : MEM) (acc : Acc) (s : State) : Except Stop (Nat × List Xlat) := do
  let va ← baseAddr s w
  aligned va 8
  let l ← liftFault (xlatPages s (curCtx s) acc acc.writes va 8)
  check (l.all fun x => x.kind != .mmio && (x.kind != .window || (winSpace x.pa = 0 && winCore x.pa = s.curCore))) 0x06 6 va
  check (l.all (scopeOk s.curCore w.scope.toNat)) 0x06 8 va
  liftFault (regionsOk s (curCtx s) l)
  .ok (va, l)

/-- The access of FGET and WAITA at the home point. -/
def futureOp (w : MEM) (va : Nat) (l : List Xlat) : MemOp :=
  { kind := .load, va := va, n := 8, pieces := piecesOf l, scope := w.scope.toNat, ord := 1, dc := w.dc.toNat }

/-- Reads the word at the home point and either parks on it or returns it, in one action (R257); a return is an acquire. -/
def awaitWord (w : MEM) (s : State) (cond : WaitCond) (value : Nat → Nat) (pe : Bool) : Except Stop Out := do
  let (va, l) ← futureAddr w .read s
  let o := futureOp w va l
  if waitsBehind s o then .error (.stall .other) else
  let s := drainFor (useXlats s (curCtx s) .read false l) o
  let sat := (curStrand s).park.bind Park.sat
  let r := match sat with | some v => (v, s) | none => strongRead s s.curCore (curFg s) s.curSt o
  if sat.isNone && !(condHolds cond r.1 || pe) then
    let pa := (l.map Xlat.pa).headD 0
    .ok { s := parkCur r.2 (.word pa) (waitTable s.curCore w.scope.toNat pa) cond w.scope.toNat, issued := false }
  else
    .ok { s := acquireAction (noteStrong r.2 s.curCore (curFg s) s.curSt o) s.curCore w.scope.toNat,
          writes := wrS w.d (BitVec.ofNat 64 (value r.1.1)) (r.1.2 || pe), atOnce := true }

/-- FGET's body (R404). -/
def fgetBody (w : MEM) (s : State) : Except Stop Out := awaitWord w s .bit63 (fun v => v % 2 ^ 63) false
def execFget (w : MEM) (s : State) : Host.Outcome State Fault Refusal := issue (.fget w) (fgetBody w) s

/-- WAITA's body (R499). -/
def waitaBody (w : MEM) (s : State) : Except Stop Out :=
  let e := rdS s w.b
  awaitWord w s (.differs e.v.toNat) (fun v => v) e.poi
def execWaita (w : MEM) (s : State) : Host.Outcome State Fault Refusal := issue (.waita w) (waitaBody w) s

/-- The release write of FSET and FCLR (R404). -/
def futureWrite (w : MEM) (v : Nat) (p : Bool) (s : State) : Except Stop Out := do
  let (va, l) ← futureAddr w .write s
  let o : MemOp := { kind := .store, va := va, n := 8, pieces := piecesOf l, scope := w.scope.toNat, ord := 2, data := v, pdata := p, dc := w.dc.toNat }
  memOut (useXlats s (curCtx s) .write true l) o []
def execFset (w : MEM) (s : State) : Host.Outcome State Fault Refusal :=
  issue (.fset w) (fun s => let v := rdS s w.d; futureWrite w (2 ^ 63 + v.v.toNat % 2 ^ 63) v.poi s) s
def execFclr (w : MEM) (s : State) : Host.Outcome State Fault Refusal := issue (.fclr w) (futureWrite w 0 false) s

/-! ## Barriers -/

/-- The barrier that a SYS word names, as a physical barrier of the core (R248). -/
def ownBarrier (s : State) (n : Nat) : Except Stop Nat := do
  check (n < (curBank s).bcnt.toNat) 0x1C 0 0
  .ok ((curBank s).bbase.toNat + n)

/-- A change that a word makes to a barrier of its core: it reaches the barrier at once, or, behind an arrival or change of the strand that has not, after that (R378). -/
def barWord1 (s : State) (n : Nat) (k : BarKind) (v : Nat) : Out :=
  let o : MemOp := { kind := .change s.curCore n k v }
  if (curStrand s).flight.any fun f => !f.landed && f.op.any fun p => mustPrecede p o then { s := s, op := some o } else { s := barChange s s.curCore n k v }

/-- BINIT's body (R377). -/
def binitBody (w : SYS) (s : State) : Except Stop Out := do
  let n ← ownBarrier s (w.imm.extractLsb' 0 11).toNat
  let a := rdS s w.a
  check (!a.poi) causePoison 0 0
  let e := a.v.toNat + (w.imm.extractLsb' 11 12).toNat
  check (e ≤ 4095) 0x01 1 0
  .ok (barWord1 s n (if s.curSt = .a then .initA else .initE) e)
def execBinit (w : SYS) (s : State) : Host.Outcome State Fault Refusal := issue (.binit w) (binitBody w) s

/-- Some copy command of the core in flight names the physical barrier, or one has that ends in this cycle (R245). -/
def copyNames (s : State) (core n : Nat) : Bool :=
  ((coreOf s core).slots.any fun e => e.2.bar = n) || (s.barChg ++ s.barLate).any fun x => x.core = core && x.bar = n && x.own

/-- BEXP's body (R375). -/
def bexpBody (w : SYS) (s : State) : Except Stop Out := do
  let b ← ownBarrier s (w.imm.extractLsb' 0 11).toNat
  let a := rdS s w.a
  check (!a.poi) causePoison 0 0
  let n := a.v.toNat + (w.imm.extractLsb' 11 24).toNat
  check (n < 2 ^ 24) 0x1C 1 0
  if barPend s s.curCore b + n < 2 ^ 24 then .ok (if n = 0 then { s := s } else barWord1 s b .expect n)
  else do
    check (copyNames s s.curCore b) 0x1C 1 0
    .error (.stall .other)
def execBexp (w : SYS) (s : State) : Host.Outcome State Fault Refusal := issue (.bexp w) (bexpBody w) s

/-- The barrier that BARR arrives at (R373). -/
def barrTarget (w : SYS) (s : State) : Except Stop (Nat × Nat × State) := do
  if w.sub = 0 then
    let n ← ownBarrier s (w.imm.extractLsb' 0 11).toNat
    .ok (s.curCore, n, s)
  else
    let b := rdS s w.b
    check (!b.poi) causePoison 0 0
    let va := b.v.toNat
    check (va % 16 == 0) 0x04 0 va
    let l ← liftFault (xlatPages s (curCtx s) .write false va 8)
    let pa := (l.map Xlat.pa).headD 0
    check (l.all (fun x => x.kind = .window) && winSpace pa = 5 && winOff pa < 0x8000 && nbits pa 44 4 = 0) 0x06 6 va
    .ok (winCore pa, winOff pa / 16, useXlats s (curCtx s) .write false l)

/-- BARR's body (R373, R374): the arrival stands in flight behind the release, and is made when that has been performed. -/
def barrBody (w : SYS) (s : State) : Except Stop Out := do
  let (c, n, s) ← barrTarget w s
  let o : MemOp := { kind := .arrive c n, scope := (w.imm.extractLsb' 11 2).toNat, ord := 2 }
  memOut s o []
def execBarr (w : SYS) (s : State) : Host.Outcome State Fault Refusal := issue (.barr w) (barrBody w) s

/-- The phase operand of BTEST and BWAIT: a scalar operand, or an index register on M (R383). -/
def phaseArg (w : SYS) (s : State) : BitVec 32 × Bool :=
  if s.curSt = .m then let r := readIdx (coreTime s s.curCore) (curBank s) w.a.toNat; (r.v, r.poi)
  else let r := rdS s w.a; (r.v.setWidth 32, r.poi)

/-- BTEST's and BWAIT's body (R383, R384, R251): a return of 1 or more is an acquire. -/
def phaseBody (w : SYS) (parks : Bool) (s : State) : Except Stop Out := do
  let n ← ownBarrier s (w.imm.extractLsb' 0 11).toNat
  let a := phaseArg w s
  check (!a.2) causePoison 0 0
  let b := barView s s.curCore n
  let s := noteBar s s.curCore n
  if parks && b.phase = a.1 then
    .ok { s := parkCur s (.bar s.curCore n) (.cluster (clusterOfCore s.curCore)) (.phaseNot a.1) 0, issued := false }
  else
    let k := b.phase - a.1
    let v := k.toNat + b.err.toNat * 2 ^ 32 + b.undr.toNat * 2 ^ 33
    .ok { s := if k = 0 then s else acquireAction s s.curCore 3,
          writes := if s.curSt = .m then [.idx w.d.toNat { v := k }] else wrS w.d (BitVec.ofNat 64 v) false, atOnce := true }
def execBtest (w : SYS) (s : State) : Host.Outcome State Fault Refusal := issue (.btest w) (phaseBody w false) s
def execBwait (w : SYS) (s : State) : Host.Outcome State Fault Refusal := issue (.bwait w) (phaseBody w true) s

end Sys2Proof.Machine
end

