-- ==== Sys2Proof/Machine/Queue.lean ====
section
/-! DEFINITION. The queue words of A and E (0x60-0x63): R128-R130, R446-R448, R450, R451. -/
namespace Sys2Proof.Machine

/-- QPUSH's body (R450). -/
def qpushBody (w : RR) (s : State) : Except Stop Out :=
  let a := rdS s w.a
  .ok { s := s, writes := wrS w.d (if w.bi then a.v + w.imm.signExtend 64 else a.v) a.poi, bound := 2 }
def execQpush (w : RR) (s : State) : Host.Outcome State Fault Refusal := issue (.qpush w) (qpushBody w) s

/-- QSTAT's body (R451). -/
def qstatBody (w : RR) (s : State) : Except Stop Out :=
  .ok { s := s, writes := wrS w.d (BitVec.ofNat 64 (queueSeen s.cycle (curBank s) (w.imm.toNat % 16))) false, bound := 2 }
def execQstat (w : RR) (s : State) : Host.Outcome State Fault Refusal := issue (.qstat w) (qstatBody w) s

/-! ## Streams -/

/-- Fields of a stream descriptor (R446). -/
def sdN1 (d : BitVec 256) : Nat := max 1 (d.extractLsb' 224 32).toNat
def sdN0 (d : BitVec 256) : Nat := (d.extractLsb' 192 32).toNat
def sdS1 (d : BitVec 256) : Int := (d.extractLsb' 160 32).toInt
def sdS0 (d : BitVec 256) : Int := (d.extractLsb' 128 32).toInt
def sdScope (d : BitVec 256) : Nat := (d.extractLsb' 77 2).toNat
def sdLen (d : BitVec 256) : Nat := (d.extractLsb' 68 9).toNat + 1
def sdEt (d : BitVec 256) : Nat := (d.extractLsb' 64 4).toNat
def sdBase (d : BitVec 256) : Nat := (d.extractLsb' 0 57).toNat

/-- R447: the descriptors that are not refused. -/
def sdOk (d : BitVec 256) : Bool :=
  (d.extractLsb' 79 49).toNat = 0 && (d.extractLsb' 57 7).toNat = 0 && sdEt d != 15 && sdN0 d != 0 && sdLen d ≤ etCap (sdEt d) &&
  (etWidth (sdEt d) != 4 || sdLen d % 2 = 0)
/-- VA of block `k` (R447). -/
def sdBlockVa (d : BitVec 256) (k : Nat) : Nat :=
  wrapN 64 ((sdBase d : Int) + (k / sdN0 d : Nat) * sdS1 d + (k % sdN0 d : Nat) * sdS0 d)
/-- Bytes of a block. -/
def sdBytes (d : BitVec 256) : Nat := sdLen d * etWidth (sdEt d) / 8

/-- Unbinds a stream queue: the blocks in it stay (R448). -/
def unbind (b : Bank) (q : Nat) : Bank :=
  let k := tget b.sq q {}
  if k.bound.isSome then { b with sq := tset b.sq q { k with bound := none } } else b

/-- QBIND's body (R446, R447): the descriptor's read is ordered after A's earlier accesses. -/
def qbindBody (w : RR) (s : State) : Except Stop Out := do
  let a := rdS s w.a
  check (!a.poi) causePoison 0 0
  let va := a.v.toNat
  aligned va 32
  let l ← liftFault (xlat s (curCtx s) .read false va 32)
  let o : MemOp := { kind := .load, va := va, n := 32, pieces := piecesOf l, ord := 2 }
  if waitsBehind s o then .error (.stall .other) else
  let s := drainFor (useXlats s (curCtx s) .read false l) o
  let r := readPieces s s.curCore 0 o.pieces
  check (!r.1.2) causePoison 0 0
  let d := BitVec.ofNat 256 r.1.1
  check (sdOk d) 0x01 1 0
  let q := 8 + w.imm.toNat % 4
  .ok { s := modBank r.2 fun b => { b with sq := tset b.sq q { tget b.sq q {} with bound := some { descVa := va, desc := d } } } }
def execQbind (w : RR) (s : State) : Host.Outcome State Fault Refusal := issue (.qbind w) (qbindBody w) s

/-- QUNB's body (R448). -/
def execQunb (w : RR) (s : State) : Host.Outcome State Fault Refusal :=
  issue (.qunb w) (fun s => .ok { s := modBank s fun b => unbind b (8 + w.imm.toNat % 4) }) s

end Sys2Proof.Machine
end

