-- ==== Sys2Proof/Machine/Matrix.lean ====
section
/-! DEFINITION. The matrix words of M (0xB0-0xBB): R187-R190, R197-R200, R425, R427-R437. -/
namespace Sys2Proof.Machine

/-! ## What a command names -/

/-- An index register read as an offset or reference: a poisoned one traps (R428). -/
def offReg (s : State) (n : BitVec 3) : Except Stop (BitVec 32) := do
  let r := readIdx (coreTime s s.curCore) (curBank s) n.toNat
  check (!r.poi) causePoison 0 0
  .ok r.v
/-- The cluster tile of accn (R135). -/
def accTileOf (b : Bank) (n : BitVec 3) : Except Stop Nat := do
  let e := nbits b.accmap.toNat (6 * n.toNat) 6
  check (nbit e 5) 0x06 0 n.toNat
  .ok (e % 32)
/-- Traps with PROT and a TVAL of R215. -/
def matFault {α : Type} (tval : Nat) : Except Stop α := trap 0x06 0 tval
def matCheck (c : Bool) (tval : Nat) : Except Stop Unit := check c 0x06 0 tval

/-- AFMT is a format of the array with a legal descriptor (R215). -/
def afmtOk (m : W64) : Bool := let f := mcAfmt m; 1 ≤ f && f ≤ 13 && ((f != 12 && f != 13) || (mcAdesc m).legal)

/-- Bytes of a scratchpad range lie in the task's region (R428). -/
def inRegion (b : Bank) (off n : Nat) : Bool := off + n ≤ b.scrsize.toNat

/-- A command of the word at its issue, with what it latches (R142, R195). -/
def newCmd (s : State) (i : Instr) : MCmd :=
  let b := curBank s
  { w := i, core := s.curCore, task := b.task.getD 0, bank := curFg s, ent := b.sm.ent, mconf := b.mconf, seq := b.sm.nextId, fd0 := b.fd0, fd1 := b.fd1
    rm := (b.fpctl.extractLsb' 0 3).toNat }

/-! ## Acceptance (R187-R189, R428) -/

/-- M stays at the word; the command stands issued (R211, R212). -/
def waitMatrix (s : State) (m : MCmd) : Out := { s := modBank (stallAs s .other) fun b => { b with mwait := some m }, issued := false }

/-- A command that has passed its checks: its slot is mapped again if it is absent, and filled; then it waits for the lease, and is accepted (R189, R199, R428). -/
def acceptCmd (s : State) (m : MCmd) : Except Stop Out :=
  let cl := clusterOfCore s.curCore
  match slotFor s { m with bank := curFg s } with
  | (.refused, _) => matFault 0x300
  | (.waits, s) => .ok (waitMatrix s m)
  | (.ready m, s) =>
    let k := clusterOf s cl
    let b := curBank s
    if k.holder != some (s.curCore % 4) then .ok (waitMatrix (wantLease s s.curCore) m)
    else if k.releasing || budgetSpent s cl || k.behind.isSome || b.cut.isSome || b.saved.isSome then .ok (waitMatrix s m)
    else
      let s := modBank s fun b => { b with mwait := none }
      let s := updCluster s cl fun k =>
        let k := { k with cmds := k.cmds + 1, slots := match m.slot with
          | some n => (match tfind k.slots n with | some w => tset k.slots n { w with used := s.cycle } | none => k.slots)
          | none => k.slots }
        if k.running.isNone then { k with running := some { m with start := max k.freeAt (arrayClock s cl) } } else { k with behind := some m }
      .ok { s := s }
/-- A command that stands issued goes on with what it latched at its issue (R142, R195, R208); any other is checked first (R428). -/
def issued (i : Instr) (s : State) (checks : Except Stop Out) : Except Stop Out :=
  match (curBank s).mwait with
  | some m => if m.w = i then acceptCmd s m else checks
  | none => checks

/-- The slot that a command names, or what its tile was when its name became absent (R199, R428 step 4). While an MLDW of the name has not read its tag, the command waits for
it unissued (R433; log entry 193). -/
def withSlot (s : State) (w : MAT) (m : MCmd) (go : MCmd → WSlot → Except Stop Out) : Except Stop Out := do
  if (curBank s).mldws.any fun x => x.wn = w.ws.toNat && x.took.isNone then .ok { s := stallAs s .other, issued := false } else
  match slotName s m.task w.ws.toNat, tfind (taskOf s m.task).wsrc w.ws.toNat with
  | none, _ | some none, none => matFault (0x600 + w.ws.toNat)
  | some none, some h => go { m with slot := none } h
  | some (some n), _ => go { m with slot := some n } ((weightSlot (clusterOf s (clusterOfCore s.curCore)) n).getD { src := ⟨0, 0, 0, 0, 0, 0⟩ })

/-- What a command sets AFT of its tile to (R202). -/
def setsAft (m : MCmd) : Option Bool := match m.w with | .mset w | .mldacc w => some (w.sub = 1) | _ => none
/-- AFT of a command's tile as the commands before it leave it. -/
def aftAhead (s : State) (m : MCmd) : Bool :=
  let k := clusterOf s (clusterOfCore m.core)
  let b := curBank s
  let l := (k.running.toList ++ k.behind.toList ++ b.cut.toList ++ b.saved.toList).filter fun x => x.tile = m.tile
  ((l.filterMap setsAft).getLast?).getD (cmdTile s m).aft

/-- K within the array's limit (R428 step 6). -/
def kOk (k : Nat) : Except Stop Unit := check (k ≤ 4096) 0x01 1 0
/-- The row range lies in the tile (R428 step 8). -/
def rowsOk (w : MAT) : Except Stop Unit := matCheck (w.row0.toNat + w.mm1.toNat < 128) 0x400

/-- Every row of A lies in the region, from an offset that is a multiple of 32 (R434). -/
def aRowsOk (s : State) (m : MCmd) (k : Nat) : Except Stop Unit :=
  matCheck (aRow m 0 % 32 = 0 && (List.range (mmaRows m)).all fun r => inRegion (curBank s) (aRow m r) (k * fmtWidth (mcAfmt m.mconf) / 8)) 0x400

/-- MMA's and MMAS's body (R434). -/
def mmaBody (i : Instr) (w : MAT) (sparse : Bool) (s : State) : Except Stop Out := issued i s do
  let m := newCmd s i
  let asf := mcAsf m.mconf
  check (asf != 0 || w.ib = 0) 0x01 1 0
  let ia ← offReg s w.ia
  let ib ← if asf = 0 then .ok 0 else offReg s w.ib
  let tile ← accTileOf (curBank s) w.acc
  withSlot s w { m with ia := ia, ib := ib, tile := tile } fun m x => do
    let kb := cmdKb m x.fmt
    let k := mmaBlocks m * kb
    matCheck (afmtOk m.mconf && ((x.spc = 1) == sparse) && k ≤ x.rows && mmaCols m ≤ x.cols) 0x500
    kOk k
    matCheck (aftAhead s m == !intPath m x) (0x100 + w.acc.toNat)
    rowsOk w
    aRowsOk s m k
    matCheck (asf = 0 || inRegion (curBank s) m.ib.toNat (mmaRows m * aScales m.mconf k * scaleSize asf)) 0x400
    acceptCmd s m
def execMma (w : MAT) (s : State) : Host.Outcome State Fault Refusal := issue (.mma w) (mmaBody (.mma w) w false) s
def execMmas (w : MAT) (s : State) : Host.Outcome State Fault Refusal := issue (.mmas w) (mmaBody (.mmas w) w true) s

/-- MOLA's body (R204, R435). -/
def molaBody (w : MAT) (s : State) : Except Stop Out := issued (.mola w) s do
  let ib ← offReg s w.ib
  let tile ← accTileOf (curBank s) w.acc
  withSlot s w { newCmd s (.mola w) with ib := ib, tile := tile } fun m x => do
    kOk (mmaBlocks m * fmtKb x.fmt)
    matCheck (aftAhead s m) (0x100 + w.acc.toNat)
    rowsOk w
    matCheck (m.ib.toNat % 8 = 0 && inRegion (curBank s) m.ib.toNat 8) 0x400
    matCheck (inRegion (curBank s) m.ib.toNat (8 + 8 * molaCount s m)) 0x400
    acceptCmd s m
def execMola (w : MAT) (s : State) : Host.Outcome State Fault Refusal := issue (.mola w) (molaBody w) s

/-- MROWSUM's body (R436). -/
def mrowsumBody (w : MAT) (s : State) : Except Stop Out := issued (.mrowsum w) s do
  if w.sub = 0 then
    let ia ← offReg s w.ia
    let ib ← offReg s w.ib
    let m := { newCmd s (.mrowsum w) with ia := ia, ib := ib }
    matCheck (fmtInt (mcAfmt m.mconf)) 0x500
    let k := mmaBlocks m * fmtKb (mcAfmt m.mconf)
    kOk k
    aRowsOk s m k
    matCheck (ib.toNat % 4 = 0 && inRegion (curBank s) ib.toNat (4 * mmaRows m)) 0x400
    acceptCmd s m
  else
    let ib ← offReg s w.ib
    withSlot s w { newCmd s (.mrowsum w) with ib := ib } fun m x => do
      matCheck (fmtInt x.fmt) 0x500
      kOk (mmaBlocks m * fmtKb x.fmt)
      matCheck (m.ib.toNat % 4 = 0 && inRegion (curBank s) m.ib.toNat (4 * mmaCols m)) 0x400
      acceptCmd s m
def execMrowsum (w : MAT) (s : State) : Host.Outcome State Fault Refusal := issue (.mrowsum w) (mrowsumBody w) s

/-- MSET's body (R437). -/
def msetBody (w : MAT) (s : State) : Except Stop Out := issued (.mset w) s do
  let r := readIdx (coreTime s s.curCore) (curBank s) w.ia.toNat
  let tile ← accTileOf (curBank s) w.acc
  rowsOk w
  acceptCmd s { newCmd s (.mset w) with ia := r.v, poi := r.poi, tile := tile }
def execMset (w : MAT) (s : State) : Host.Outcome State Fault Refusal := issue (.mset w) (msetBody w) s

/-- MLDACC's body (R432). -/
def mldaccBody (w : MAT) (s : State) : Except Stop Out := issued (.mldacc w) s do
  let ia ← offReg s w.ia
  let tile ← accTileOf (curBank s) w.acc
  let m := { newCmd s (.mldacc w) with ia := ia, tile := tile }
  rowsOk w
  let off := 32 * w.offa.toNat + ia.toNat
  matCheck (off % 32 = 0 && inRegion (curBank s) off (1536 * mmaRows m)) 0x400
  acceptCmd s m
def execMldacc (w : MAT) (s : State) : Host.Outcome State Fault Refusal := issue (.mldacc w) (mldaccBody w) s

/-! ## MDRAIN (R208-R210, R430) -/

/-- The variant's target formats (R208) and rounding mode (R210). -/
def drainTarget (w : MAT) (p : BitVec 512) : Bool :=
  let f := dpTfmt p
  (if drainVar w = 2 then 9 ≤ f && f ≤ 13 else 3 ≤ f && f ≤ 8) && rmOk (dpRm p)
/-- A vector of a parameter block lies in the region; `opt`: it may be absent. -/
def drainVec (b : Bank) (opt : Bool) (off n : Nat) : Bool := if off = absent then opt else inRegion b off n
/-- R210 on the block's contents. -/
def drainBlockOk (s : State) (m : MCmd) : Bool :=
  let w := m.mat
  let p := m.blk
  let b := curBank s
  let n := mmaCols m
  drainTarget w p &&
    (drainVar w != 2 || (drainVec b true (dpBias p) (4 * n) && drainVec b true (dpCs p) (4 * n))) &&
    (drainVar w != 3 ||
      (drainVec b false (dpRsa p) (4 * mmaRows m) && drainVec b false (dpCsb p) (4 * n) && drainVec b false (dpSh p) n && drainVec b false (dpM0 p) (4 * n) &&
        decide (dpLo p ≤ dpHi p) && decide (etMin (fmtEt (dpTfmt p)) ≤ dpLo p) && decide (dpHi p ≤ etMax (fmtEt (dpTfmt p))) &&
        (List.range n).all fun c => let h := sintN 8 (scrRead s m (dpSh p + c) 1); decide (-31 ≤ h) && decide (h ≤ 32)))

/-- The operand tile of the tensor form: its entry, and the checks of step 5 (R430). -/
def drainTile (s : State) (m : MCmd) : Except Stop (MCmd × State) := do
  let ref := m.ia.toNat
  matCheck (refTid ref < lrTdtn (taskLr s m.task)) 0x500
  let r ← liftFault (readTd s (curCtx s) (curBank s).tdtbase.toNat (refTid ref))
  let e := r.1
  matCheck (refIdx ref < tdTiles e && mmaRows m ≤ tdTr e && mmaCols m ≤ tdTc e) 0x500
  .ok ({ m with ref := ref, td := BitVec.ofNat 512 e }, r.2.2)

/-- The pages of every row of a drain to a tensor, checked before any row is written (R430). -/
def drainPages (s : State) (m : MCmd) : Except Stop (MCmd × State) := do
  let wd := drainWidth m.mat m.blk
  let n := mmaCols m * wd / 8
  let va := fun (j : Nat) => tileBase m.td.toNat (refIdx m.ref) wd + j * tdSdim1 m.td.toNat
  let l ← liftFault (allOk (fun j => xlat s (curCtx s) .write (rawPart s m.task wd (va j) n) (va j) n) (List.range (mmaRows m)))
  let s := l.foldl (fun s e => useTyped s (curCtx s) m.task wd e) s
  .ok ({ m with rows := l.map piecesOf }, s)

/-- MDRAIN's body (R430). -/
def mdrainBody (w : MAT) (s : State) : Except Stop Out := issued (.mdrain w) s do
  let raw := drainVar w = 0
  let ia ← offReg s w.ia
  let ib ← if raw then .ok 0 else offReg s w.ib
  let tile ← accTileOf (curBank s) w.acc
  let m := { newCmd s (.mdrain w) with ia := ia, ib := ib, tile := tile }
  let (m, s) ← if drainTensor w then drainTile s m else .ok (m, s)
  -- the block's place is checked at step 8; what step 5 asks of its descriptor is checked where the block can be read
  let placed := raw || (ib.toNat % 64 = 0 && inRegion (curBank s) ib.toNat 64)
  let m := if raw then m else { m with blk := BitVec.ofNat 512 (scrRead s m ib.toNat 64) }
  let narrow := !raw && placed && drainVar w = 2 && (dpTfmt m.blk = 12 || dpTfmt m.blk = 13)
  matCheck (!narrow || (drainNd m).legal) 0x500
  matCheck (!((drainVar w = 1 || drainVar w = 3) && aftAhead s m)) (0x100 + w.acc.toNat)
  rowsOk w
  matCheck placed 0x400
  let dst := 32 * w.offa.toNat + ia.toNat
  matCheck (drainTensor w || (dst % 32 = 0 && inRegion (curBank s) dst (mmaRows m * mmaCols m * drainWidth w m.blk / 8))) 0x400
  matCheck (raw || drainBlockOk s m) 0x500
  let (m, s) ← if drainTensor w then drainPages s m else .ok (m, s)
  acceptCmd s m
def execMdrain (w : MAT) (s : State) : Host.Outcome State Fault Refusal := issue (.mdrain w) (mdrainBody w) s

/-! ## Words without the lease -/

/-- MACQ's body (R187). -/
def macqBody (s : State) : Except Stop Out :=
  if holdsLease s s.curCore then .ok { s := s }
  else .ok { s := stallAs (wantLease s s.curCore) .other, issued := false }
def execMacq (w : MAT) (s : State) : Host.Outcome State Fault Refusal := issue (.macq w) macqBody s

/-- MREL's body (R190, R425). -/
def mrelBody (s : State) : Except Stop Out :=
  if !holdsLease s s.curCore then .ok { s := s } else
  let cl := clusterOfCore s.curCore
  let k := clusterOf s cl
  .ok { s := if (k.running.toList ++ k.behind.toList).all (fun m => m.core != s.curCore) then releaseLease s cl else updCluster s cl fun k => { k with releasing := true } }
def execMrel (w : MAT) (s : State) : Host.Outcome State Fault Refusal := issue (.mrel w) mrelBody s

/-- MCFG's body (R429). -/
def mcfgBody (w : MAT) (s : State) : Except Stop Out := do
  let a ← offReg s w.ia
  let b ← offReg s w.ib
  let m : W64 := a ++ b
  check (mconfOk m) 0x01 1 0
  .ok { s := modBank s fun k => { k with mconf := m } }
def execMcfg (w : MAT) (s : State) : Host.Outcome State Fault Refusal := issue (.mcfg w) (mcfgBody w) s

/-- IMM32 of MIDX: the low 32 bits of the word (R333). -/
def midxImm (w : MAT) : BitVec 32 := BitVec.ofNat 32 (w.str.toNat + w.offa.toNat * 2 ^ 10 + w.row0.toNat * 2 ^ 26)
/-- MIDX's body (R431). -/
def midxBody (w : MAT) (s : State) : Except Stop Out :=
  let a := readIdx (coreTime s s.curCore) (curBank s) w.ia.toNat
  let b := readIdx (coreTime s s.curCore) (curBank s) w.ib.toNat
  let r : IReg := if w.sub = 0 then { v := midxImm w } else if w.sub = 1 then { v := a.v + midxImm w, poi := a.poi } else { v := a.v + b.v, poi := a.poi || b.poi }
  .ok { s := s, writes := [.idx w.ia.toNat r], bound := 2 }
def execMidx (w : MAT) (s : State) : Host.Outcome State Fault Refusal := issue (.midx w) (midxBody w) s

/-! ## MLDW (R197-R199, R433) -/

/-- MLDW's body (R433): the tag is read with acquire, the name is mapped, and the slot is filled later; it does not stall M. When a read of its descriptor or tag fails, it waits to translate
again. An earlier MLDW of the name that still waits maps nothing (log entry 193). -/
def mldwBody (w : MAT) (s : State) : Except Stop Out := do
  let ref ← (·.toNat) <$> offReg s w.ia
  let b := curBank s
  let c := s.curCore
  matCheck (b.task.isSome && refTid ref < lrTdtn (taskLr s (b.task.getD 0))) 0x300
  let x : Mldw := { ent := b.sm.ent, seq := b.sm.nextId, wn := w.ws.toNat, ref := ref }
  let note := fun (s : State) (x : Mldw) => modBank s fun b => { b with mldws := b.mldws.filter (fun y => y.wn != x.wn || y.took.isSome) ++ [x] }
  match mldwReads s (bankCtx c b) b.tdtbase.toNat ref with
  | .error f => .ok { s := note (postFeed s (bankCtx c b) f) x }
  | .ok (e, tag, ok, s) =>
    matCheck ok 0x300
    let r := mldwMap s c b x.wn ref e tag
    .ok { s := note r.2 { x with took := some r.1 } }
def execMldw (w : MAT) (s : State) : Host.Outcome State Fault Refusal := issue (.mldw w) (mldwBody w) s

end Sys2Proof.Machine
end

