-- ==== Sys2Proof/Machine/Runs.lean ====
section
/-! DEFINITION. Vector and mask registers as lists of runs: reading and writing them (R119-R127), alignment, masking and the checks of an
elementwise word (R171-R175, R477). -/
namespace Sys2Proof.Machine

/-! ## Source groups -/

/-- A vector source group as a word reads it (R118, R126, R130). -/
structure Grp where
  code : Nat
  regs : List VReg
  deriving DecidableEq, Repr

def Grp.ll (g : Grp) : Nat := g.regs.foldl (fun a r => a + r.ll.toNat) 0
def Grp.rc (g : Grp) : Nat := g.regs.foldl (fun a r => a + r.rc.toNat) 0
def Grp.poi (g : Grp) : Bool := g.regs.any (·.poi)
def Grp.stale (g : Grp) : Bool := g.regs.any (·.stale)
/-- Every member that holds an element has the element type (R172). -/
def Grp.etOk (g : Grp) (et : Nat) : Bool := g.regs.all fun r => r.ll == 0 || r.et.toNat = et
/-- The logical content: the members' contents one after the other. -/
def Grp.runs (g : Grp) (et : Nat) : List Run := g.regs.flatMap (vecRuns et)

/-- The group of size `n` that a vector specifier names: registers, or the blocks at the head of a stream queue. -/
def readGroup (s : State) (f : BitVec 7) (n : Nat) : Grp :=
  let b := curBank s
  if f.toNat < 64 then
    { code := f.toNat, regs := (List.range n).map fun j => readVec s (coreTime s s.curCore) b (physV b.vrb (f.toNat + j)) }
  else
    let q := f.toNat - 0x40
    let k := tget b.sq q {}
    { code := f.toNat, regs := (List.range n).map fun j => let e := (k.head + j) % 8; (winBefore s 2 (8 * q + e)).getD (tget k.slots e {}) }
/-- A mask that a word names; k0 has no storage (R127). -/
def readMask (s : State) (n : Nat) : Option Grp :=
  let b := curBank s
  if n = 0 then none else some { code := n, regs := [readMaskReg s (coreTime s s.curCore) b (physK b.krb n)] }
/-- A mask group's runs. -/
def Grp.bits (g : Grp) : List Run := g.regs.flatMap maskRuns
/-- The predicate mask of a VEC word. -/
def predMask (s : State) (w : VEC) : Option Grp := readMask s w.hdr.pr.toNat

/-- STALE on the first stale group (R123, R477); TVAL is its specifier. -/
def staleCheck : List Grp → Except Stop Unit
  | [] => .ok ()
  | g :: l => if g.stale then trap 0x0A 0 g.code else staleCheck l

/-- A scalar used as a count, index or length (R477). -/
def countArg (s : State) (f : BitVec 7) : Except Stop Nat := do
  let r := rdS s f
  check (!r.poi) causePoison 0 0
  .ok r.v.toNat

/-! ## Results (R125) -/

/-- Width in bits of an element's value: of its code, for a narrow type (R120). -/
def valWidth (b : Bank) (et : Nat) : Nat := if etNarrow et then (fdOf b et).width else etWidth et
/-- A result's values: zeros stand above a narrow code (R120). -/
def clean (b : Bank) (et : Nat) (l : List Run) : List Run := l.map fun r => (r.1 % 2 ^ valWidth b et, r.2)
/-- The result group `d` of size `g` (R120, R125). -/
def writeGroup (s : State) (d g et : Nat) (l : List Run) (poi : Bool) : Except Stop (List Write) := do
  let b := curBank s
  let p := canonRuns (etMaxCount et) (clean b et l)
  check (p.length ≤ g * etCap et) 0x08 0 0
  let parts := chunks (etCap et) g p
  check (parts.all fun c => runsTotal c ≤ 16777215) 0x09 1 0
  .ok ((List.zip (List.range g) parts).map fun e => .vec (physV b.vrb (d + e.1)) (canonReg et e.2 poi))

/-- The mask result `d`; k0 discards it unchecked (R127). -/
def writeMask (s : State) (d : Nat) (l : List Run) (poi : Bool) : Except Stop (List Write) := do
  if d = 0 then .ok [] else
  let p := canonRuns 32767 l
  check (p.length ≤ 256) 0x08 0 0
  check (runsTotal p ≤ 16777215) 0x09 1 0
  .ok [.mask (physK (curBank s).krb d)
    { pairs := packPairs 1 15 p, et := 0, rc := BitVec.ofNat 10 p.length, ll := BitVec.ofNat 24 (runsTotal p), can := true, poi := poi, stale := false }]

/-! ## Alignment (R173) -/

/-- Takes `n` elements off the front of a list whose first run has at least `n`. -/
def takeOff (n : Nat) : List Run → List Run
  | [] => []
  | (v, c) :: l => if c ≤ n then l else (v, c - n) :: l
/-- The smallest count among the heads. -/
def headMin (ls : List (List Run)) : Nat :=
  (ls.foldl (fun (a : Option Nat) l => match l with
    | (_, c) :: _ => (match a with | none => some c | some m => some (min m c))
    | [] => a) none).getD 0
/-- The pieces of several lists of equal length: the values and the count of each. -/
def align : Nat → List (List Run) → List (List Nat × Nat)
  | 0, _ => []
  | k + 1, ls =>
    if ls.isEmpty || ls.any List.isEmpty then [] else
    let n := headMin ls
    (ls.map (fun l => ((l.head?).map Prod.fst).getD 0), n) :: align k (ls.map (takeOff n))
/-- The pieces of several lists of runs. -/
def piecesAligned (ls : List (List Run)) : List (List Nat × Nat) := align (ls.foldl (fun a l => a + l.length) 0 + 1) ls
/-- Passes of `p` units of work in groups of `k` (R175). -/
def passesOf (p k : Nat) : Nat := max 1 (ceilDiv p k)

/-! ## Elementwise words (R171-R173) -/

/-- What an elementwise word brings: its vector groups with the ET that each must have, its length-bearing masks, the POI of its scalars, and the value of an
enabled piece from those of the groups and masks. -/
structure ElemArgs where
  groups : List (Grp × Nat)
  masks : List Grp := []
  poi : Bool := false
  op : List Nat → Nat × Flags

/-- The pieces' values, the flags, the number of pieces and the poison of an elementwise word. `old`: the old destination's runs and group, when it is
length-bearing; `vecOld`: check 2 applies to it with this ET. `len`: the length when the word gives it (R482, R486); `same`: check 3 applies. -/
def elementwise (s : State) (w : VEC) (a : ElemArgs) (old : Option (Grp × List Run)) (vecOld : Option Nat) : Except Stop (List Run × Flags × Nat × Bool) := do
  let pred := predMask s w
  staleCheck ((old.toList.map Prod.fst) ++ a.groups.map Prod.fst ++ a.masks ++ pred.toList)
  check (a.groups.all fun g => g.1.etOk g.2) 0x09 4 0
  check (match old, vecOld with | some o, some et => o.1.etOk et | _, _ => true) 0x09 4 0
  -- a mask word's sources stand to check 3 as vector sources do (R415)
  let lls := if a.groups.isEmpty then a.masks.map Grp.ll else a.groups.map (·.1.ll)
  check (lls.all fun n => some n == lls.head?) 0x09 0 0
  let others := (a.masks ++ pred.toList ++ old.toList.map Prod.fst).map Grp.ll
  let n ← match (lls ++ others).head? with | some n => .ok n | none => illegalField
  check (others.all (· = n)) 0x09 2 0
  let k := a.groups.length + a.masks.length
  let ps := piecesAligned (a.groups.map (fun g => g.1.runs g.2) ++ a.masks.map Grp.bits ++ pred.toList.map Grp.bits ++ old.toList.map Prod.snd)
  let r := ps.map fun p =>
    let on := match pred with | none => true | some _ => (p.1.getD k 0 != 0) != w.hdr.pn
    if on then (let v := a.op (p.1.take k); ((v.1, p.2), v.2))
    else ((if old.isSome then p.1.getLastD 0 else 0, p.2), 0)
  .ok (r.map Prod.fst, flagsOr (r.map Prod.snd), ps.length,
    a.poi || a.groups.any (·.1.poi) || a.masks.any Grp.poi || pred.any Grp.poi || old.any (·.1.poi))

/-- The old destination group of a merging word, when it is length-bearing (R171). -/
def oldGroup (s : State) (w : VEC) (g et : Nat) : Option (Grp × List Run) :=
  if w.hdr.pr = 0 || w.z then none else
  let o := readGroup s w.d g
  some (o, o.runs et)
/-- The old destination mask of a merging word. -/
def oldMask (s : State) (w : VEC) : Option (Grp × List Run) :=
  if w.hdr.pr = 0 || w.z then none else (readMask s w.d.toNat).map fun o => (o, o.bits)

/-- An elementwise word with a vector destination of `g` registers and element type `et`. -/
def elemVec (s : State) (w : VEC) (g et bound : Nat) (a : ElemArgs) : Except Stop Out := do
  let (l, fl, n, p) ← elementwise s w a (oldGroup s w g et) (some et)
  let ws ← writeGroup s w.d.toNat g et l p
  .ok { s := s, writes := ws, flags := fl, bound := bound, passes := passesOf n 32 }
/-- An elementwise word with a mask destination. -/
def elemMask (s : State) (w : VEC) (bound : Nat) (a : ElemArgs) : Except Stop Out := do
  let (l, fl, n, p) ← elementwise s w a (oldMask s w) none
  let ws ← writeMask s w.d.toNat l p
  .ok { s := s, writes := ws, flags := fl, bound := bound, passes := passesOf n 32 }

/-- The canonical runs of a result. -/
def canonCount (b : Bank) (et : Nat) (l : List Run) : Nat := (canonRuns (etMaxCount et) (clean b et l)).length

/-- A logical content under a predicate and the old destination (R482, R486): their length must be the content's (VLEN, subcause 2). Disabled elements merge or
become zero. `k` is the work of R175; none: the result's RC (R486). -/
def contentVec (s : State) (w : VEC) (g et bound : Nat) (l : List Run) (k : Option Nat) (poi : Bool) : Except Stop Out := do
  let pred := predMask s w
  let old := oldGroup s w g et
  check (match old with | some o => o.1.etOk et | none => true) 0x09 4 0
  let n := runsTotal l
  check ((pred.toList ++ old.toList.map Prod.fst).all fun o => o.ll = n) 0x09 2 0
  let ps := piecesAligned ([l] ++ pred.toList.map Grp.bits ++ old.toList.map Prod.snd)
  let r := ps.map fun p =>
    let on := match pred with | none => true | some _ => (p.1.getD 1 0 != 0) != w.hdr.pn
    (if on then p.1.getD 0 0 else if old.isSome then p.1.getLastD 0 else 0, p.2)
  let ws ← writeGroup s w.d.toNat g et r (poi || pred.any Grp.poi || old.any (·.1.poi))
  .ok { s := s, writes := ws, bound := bound, passes := passesOf (k.getD (canonCount (curBank s) et r)) 32 }

/-- The stale check of such a word: D when it merges, then its sources, then the predicate (R477). -/
def contentStale (s : State) (w : VEC) (g et : Nat) (l : List Grp) : Except Stop Unit :=
  staleCheck ((oldGroup s w g et).toList.map Prod.fst ++ l ++ (predMask s w).toList)

/-- Group size of a VEC word. -/
def vg (w : VEC) : Nat := groupSize w.g.toNat
def vet (w : VEC) : Nat := w.et.toNat
/-- An element value from a scalar operand (R477), with its POI. -/
def scalarElem (s : State) (et : Nat) (f : BitVec 7) : Nat × Bool :=
  let r := rdS s f
  (r.v.toNat % 2 ^ valWidth (curBank s) et, r.poi)
/-- Elements `a` up to `a + n` of a list of runs. -/
def sliceRuns (l : List Run) (a n : Nat) : List Run :=
  let drop := l.foldl (fun (acc : Nat × List Run) r =>
    if acc.1 ≥ r.2 then (acc.1 - r.2, acc.2) else (0, acc.2 ++ [(r.1, r.2 - acc.1)])) (a, [])
  (drop.2.foldl (fun (acc : Nat × List Run) r => if acc.1 = 0 then acc else (acc.1 - min acc.1 r.2, acc.2 ++ [(r.1, min acc.1 r.2)])) (n, [])).2
/-- The value of element `i`. -/
def elemAt (l : List Run) (i : Nat) : Nat := ((sliceRuns l i 1).map Prod.fst).headD 0

end Sys2Proof.Machine
end

