-- ==== Sys2Proof/Machine/Special.lean ====
section
/-! DEFINITION. The bounds of the special functions (R168): for each function and input the FP32 codes that the table allows, by exact integer arithmetic on
fixed-point numbers of 256 fraction bits, and the device's fixed choice among them (log entry 6). -/
namespace Sys2Proof.Machine

/-! ## Fixed-point numbers: an integer `a` stands for a / 2^256. Each function below errs by less than 2^64 units. -/

def fxOne : Int := 2 ^ 256
def fxMul (a b : Int) : Int := a * b / fxOne
/-- A finite value of FP32: exact, since no exponent is below -149. -/
def fxOf (v : Val) : Int :=
  match v with
  | .num n m e => let a : Int := if 0 ≤ e + 256 then (m * 2 ^ (e + 256).toNat : Nat) else (m / 2 ^ (-(e + 256)).toNat : Nat)
                  if n then -a else a
  | _ => 0
/-- The sum of r^j/j! from the term `t` of number `k` on; with `s` 2 and `r` the negated square, of a sine's or a cosine's series. -/
def fxSeries (s : Nat) (r : Int) : Nat → Nat → Int → Int
  | 0, _, _ => 0
  | f + 1, k, t => t + fxSeries s r f (k + s) (fxMul t r / (if s = 1 then ((k + 1 : Nat) : Int) else ((k + 1) * (k + 2) : Nat)))
/-- e^r for r between 0 and 1. -/
def fxExpSmall (r : Int) : Int := fxSeries 1 r 64 0 fxOne
/-- The sum of z^(2j+1)/(2j+1), z2 being z squared (of an arctangent: negated). -/
def fxOdd (z2 : Int) : Nat → Nat → Int → Int
  | 0, _, _ => 0
  | f + 1, k, p => p / ((2 * k + 1 : Nat) : Int) + fxOdd z2 f (k + 1) (fxMul p z2)
/-- The natural logarithm of y between 1 and 2. -/
def fxLn (y : Int) : Int := let z := (y - fxOne) * fxOne / (y + fxOne); 2 * fxOdd (fxMul z z) 90 0 z
def fxLn2 : Int := fxLn (2 * fxOne)
/-- The arctangent of 1/n, and from it the circle constant (Machin's formula). -/
def fxAtanInv (n : Nat) : Int := fxOdd (-(fxOne / ((n * n : Nat) : Int))) 70 0 (fxOne / (n : Int))
def fxPi : Int := 4 * (4 * fxAtanInv 5 - fxAtanInv 239)
def fxShift (a : Int) (k : Int) : Int := if 0 ≤ k then a * 2 ^ k.toNat else a / 2 ^ (-k).toNat
/-- 2^x for x between -512 and 512. -/
def fxExp2 (x : Int) : Int := fxShift (fxExpSmall (fxMul (x % fxOne) fxLn2)) (x / fxOne)
/-- e^(-a) for a at or above 0; what lies below 2^-256 is 0. -/
def fxExpNeg (a : Int) : Int := if 200 * fxOne < a then 0 else let k := a / fxLn2 + 1; fxShift (fxExpSmall (k * fxLn2 - a)) (-k)
/-- The sine, or the cosine, of x. -/
def fxSin (x : Int) (cos : Bool) : Int :=
  let r := x % (2 * fxPi)
  let q := -(fxMul r r)
  if cos then fxSeries 2 q 70 0 fxOne else fxSeries 2 q 70 1 r

/-- The function at a finite value that is no special case of R168; codes of R340: 0 exp2, 1 log2, 2 rcp, 3 rsqrt, 5 tanh, 6 sigmoid, 7 sin, 8 cos. -/
def fxFun (fn : Nat) (v : Val) : Int :=
  let x := fxOf v
  let a : Int := x.natAbs
  if fn = 0 then fxExp2 x
  else if fn = 1 then (match v with
    | .num _ m e => let n := Nat.log2 m; (e + n) * fxOne + fxLn (m * fxOne / 2 ^ n) * fxOne / fxLn2
    | _ => 0)
  else if fn = 2 then fxOne * fxOne / x
  else if fn = 3 then (isqrt ((fxOne * fxOne * fxOne / x).toNat) : Nat)
  else if fn = 5 then (let e := fxExpNeg (2 * a); let t := (fxOne - e) * fxOne / (fxOne + e); if x < 0 then -t else t)
  else if fn = 6 then (let e := fxExpNeg a; (if x < 0 then e else fxOne) * fxOne / (fxOne + e))
  else fxSin x (fn = 8)

/-! ## The codes that the table allows -/

/-- FP32 codes in the order of their values: -0 stands just below +0. -/
def codeOrd (c : Nat) : Int := if c < 2 ^ 31 then c else -1 - ((c - 2 ^ 31 : Nat) : Int)
def codeOfOrd (o : Int) : Nat := if 0 ≤ o then o.toNat else 2 ^ 31 + (-1 - o).toNat
/-- The code next to a fixed-point number, rounded up (2) or down (3). -/
def fxCode (rm : Nat) (t : Int) : Int := codeOrd (fmtS.round rm false (.num (t < 0) t.natAbs (-256))).1
/-- The bound of R168 in ulp. -/
def sfuUlp (fn : Nat) : Nat := if fn = 5 ∨ fn = 6 ∨ fn = 7 ∨ fn = 8 then 2 else 1
/-- The first and the last code that R168 allows. A sine or cosine beyond 2^16 has an absolute bound; an exp2 is not negative. -/
def sfuRange (fn : Nat) (v : Val) : Int × Int :=
  let t := fxFun fn v
  let far : Bool := (fn = 7 || fn = 8) && decide (65536 * fxOne < (fxOf v).natAbs)
  let w : Int := 2 ^ 64
  if far then (fxCode 2 (t - 2 ^ 234), fxCode 3 (t + 2 ^ 234))
  else
    let d : Int := (sfuUlp fn : Nat) - 1
    let lo := fxCode 3 (t - w) - d
    (if fn = 0 then max lo 0 else max lo (codeOrd 0xFF800000), min (fxCode 2 (t + w) + d) (codeOrd 0x7F800000))
/-- The FP32 code of a function at an FP32 code that is no special case: the device's fixed mapping picks one of the codes that the bound allows. -/
def sfuFixed (fn x : Nat) : Nat :=
  let r := sfuRange fn (fmtS.decode false x)
  codeOfOrd (r.1 + (Config.sfu fn 14 x % (r.2 - r.1 + 1).toNat : Nat))

end Sys2Proof.Machine
end

