-- ==== Sys2Proof/Machine/VecArith.lean ====
section
/-! DEFINITION. Elementwise vector words (0x70-0x81): R158, R168, R479-R481, R483, R498. -/
namespace Sys2Proof.Machine

/-! ## The value of one piece (R480) -/

/-- What a piece's arithmetic depends on besides its sources. -/
structure VCtx where
  et : Nat
  nd : NDesc
  ftz : Bool
  rm : Nat
  sat : Bool
  deriving DecidableEq, Repr

def vctx (s : State) (w : VEC) : VCtx :=
  let b := curBank s
  { et := vet w, nd := fdOf b (vet w), ftz := ftzOn b, rm := roundMode b w.rm, sat := w.sat }
def VCtx.val (c : VCtx) (x : Nat) : Val := etVal c.et c.nd c.ftz x
def VCtx.int (c : VCtx) (x : Nat) : Int := etIntVal c.et x
/-- One rounding, with IO when the exact operation is invalid. -/
def VCtx.round (c : VCtx) (v : Val) (invalid : Bool) : Nat × Flags :=
  let r := etRound c.et c.nd c.rm c.ftz v
  (r.1, r.2 ||| flagIf invalid flagIO)
/-- The bits that arithmetic reads (R120). -/
def VCtx.bits (c : VCtx) (x : Nat) : Nat := x % 2 ^ (if etNarrow c.et then c.nd.width else etWidth c.et)

def vopAdd (c : VCtx) (a b : Nat) : Nat × Flags :=
  if etInt c.et then etWrap c.et c.sat (c.int a + c.int b) else let r := vAdd (c.rm = 3) (c.val a) (c.val b); c.round r.1 r.2
def vopSub (c : VCtx) (a b : Nat) : Nat × Flags :=
  if etInt c.et then etWrap c.et c.sat (c.int a - c.int b) else let r := vAdd (c.rm = 3) (c.val a) (c.val b).neg; c.round r.1 r.2
def vopMul (c : VCtx) (a b : Nat) : Nat × Flags :=
  if etInt c.et then etWrap c.et c.sat (c.int a * c.int b) else let r := vMul (c.val a) (c.val b); c.round r.1 r.2
def vopFma (c : VCtx) (a b d : Nat) : Nat × Flags :=
  if etInt c.et then etWrap c.et c.sat (c.int a * c.int b + c.int d) else let r := vFma (c.rm = 3) (c.val a) (c.val b) (c.val d); c.round r.1 r.2
/-- A float source returned by a selection: its code, a subnormal under FTZ as zero of its sign; a narrow source's code. -/
def VCtx.take (c : VCtx) (x : Nat) : Nat := if etNarrow c.et then c.bits x else ((etFmt c.et).round 0 false (c.val x)).1
/-- VMIN and VMAX (R401, R480). -/
def vopMinMax (max : Bool) (c : VCtx) (a b : Nat) : Nat × Flags :=
  if etInt c.et then (if (if max then c.int a < c.int b else c.int b < c.int a) then (b, 0) else (a, 0))
  else
    let r := fMinMax max (c.val a) (c.val b)
    match r.1 with
    | some t => (c.take (if t then b else a), r.2)
    | none => let q := etNan c.et c.nd; (q.1, q.2 ||| r.2)
def vopAbs (c : VCtx) (a : Nat) : Nat × Flags :=
  if etInt c.et then etWrap c.et c.sat (c.int a).natAbs
  else if etNarrow c.et then
    let v := c.nd.decode a
    c.nd.round c.rm (if v.sign then v.neg else v)
  else (a % 2 ^ (etWidth c.et - 1), 0)
def vopNeg (c : VCtx) (a : Nat) : Nat × Flags :=
  if etInt c.et then etWrap c.et c.sat (-(c.int a))
  else if etNarrow c.et then c.nd.round c.rm (c.nd.decode a).neg
  else (a ^^^ 2 ^ (etWidth c.et - 1), 0)
def vopAnd (c : VCtx) (a b : Nat) : Nat × Flags := (c.bits (a &&& b), 0)
def vopOr (c : VCtx) (a b : Nat) : Nat × Flags := (c.bits (a ||| b), 0)
def vopXor (c : VCtx) (a b : Nat) : Nat × Flags := (c.bits (a ^^^ b), 0)
/-- The shift count: the low log2(w) bits of b. -/
def shiftCount (et b : Nat) : Nat := b % etWidth et
def vopShl (c : VCtx) (a b : Nat) : Nat × Flags := etWrap c.et c.sat (c.int a * (2 ^ shiftCount c.et b : Nat))
def vopShr (c : VCtx) (a b : Nat) : Nat × Flags := (wrapN (etWidth c.et) (c.int a / (2 ^ shiftCount c.et b : Nat)), 0)
/-- VCMP's condition (R340, R481): the codes of CMP for integers, those of FCMP otherwise. -/
def vopCmp (sub : Nat) (c : VCtx) (a b : Nat) : Nat × Flags :=
  if etInt c.et then
    let x := c.int a
    let y := c.int b
    ((if sub = 0 then x = y else if sub = 1 then x ≠ y else if sub = 2 then x < y else if sub = 3 then x ≥ y else if sub = 6 then x ≤ y else x > y
      : Bool).toNat, 0)
  else ((vCond sub (c.val a) (c.val b)).toNat, cmpFlags sub (c.val a) (c.val b))
/-- VCLAMP: the smaller of hi and the larger of a and lo. -/
def vopClamp (c : VCtx) (a lo hi : Nat) : Nat × Flags :=
  let m := vopMinMax true c a lo
  let r := vopMinMax false c m.1 hi
  (r.1, m.2 ||| r.2)

/-! ## Operands (R479) -/

/-- The second operand of an elementwise word: a group, or a constant with its POI. -/
def operandB (s : State) (w : VEC) : Sum Grp (Nat × Bool) :=
  if w.bsel = 0 then .inl (readGroup s w.b (vg w))
  else if w.bsel = 1 then .inr (scalarElem s (vet w) w.b)
  else .inr (w.imm.toNat % 2 ^ valWidth (curBank s) (vet w), false)

/-- An elementwise word of A and B. -/
def args2 (s : State) (w : VEC) (f : Nat → Nat → Nat × Flags) : ElemArgs :=
  let a := readGroup s w.a (vg w)
  match operandB s w with
  | .inl b => { groups := [(a, vet w), (b, vet w)], op := fun v => f (v.getD 0 0) (v.getD 1 0) }
  | .inr k => { groups := [(a, vet w)], poi := k.2, op := fun v => f (v.getD 0 0) k.1 }
/-- An elementwise word of A alone. -/
def args1 (s : State) (w : VEC) (f : Nat → Nat × Flags) : ElemArgs :=
  { groups := [(readGroup s w.a (vg w), vet w)], op := fun v => f (v.getD 0 0) }

/-- Bound of integer and of floating or narrow arithmetic (R307, R481). -/
def arithBound (w : VEC) : Nat := if etInt (vet w) then 20 else 28
/-- A two-source elementwise word. -/
def vec2 (w : VEC) (bound : Nat) (f : VCtx → Nat → Nat → Nat × Flags) (s : State) : Except Stop Out :=
  elemVec s w (vg w) (vet w) bound (args2 s w (f (vctx s w)))
/-- A one-source elementwise word. -/
def vec1 (w : VEC) (f : VCtx → Nat → Nat × Flags) (s : State) : Except Stop Out :=
  elemVec s w (vg w) (vet w) (arithBound w) (args1 s w (f (vctx s w)))

def execVadd (w : VEC) (s : State) : Host.Outcome State Fault Refusal := issue (.vadd w) (vec2 w (arithBound w) vopAdd) s
def execVsub (w : VEC) (s : State) : Host.Outcome State Fault Refusal := issue (.vsub w) (vec2 w (arithBound w) vopSub) s
def execVmul (w : VEC) (s : State) : Host.Outcome State Fault Refusal := issue (.vmul w) (vec2 w (arithBound w) vopMul) s
def execVmin (w : VEC) (s : State) : Host.Outcome State Fault Refusal := issue (.vmin w) (vec2 w (arithBound w) (vopMinMax false)) s
def execVmax (w : VEC) (s : State) : Host.Outcome State Fault Refusal := issue (.vmax w) (vec2 w (arithBound w) (vopMinMax true)) s
def execVabs (w : VEC) (s : State) : Host.Outcome State Fault Refusal := issue (.vabs w) (vec1 w vopAbs) s
def execVneg (w : VEC) (s : State) : Host.Outcome State Fault Refusal := issue (.vneg w) (vec1 w vopNeg) s
def execVand (w : VEC) (s : State) : Host.Outcome State Fault Refusal := issue (.vand w) (vec2 w 20 vopAnd) s
def execVor (w : VEC) (s : State) : Host.Outcome State Fault Refusal := issue (.vor w) (vec2 w 20 vopOr) s
def execVxor (w : VEC) (s : State) : Host.Outcome State Fault Refusal := issue (.vxor w) (vec2 w 20 vopXor) s
def execVshl (w : VEC) (s : State) : Host.Outcome State Fault Refusal := issue (.vshl w) (vec2 w 20 vopShl) s
def execVshr (w : VEC) (s : State) : Host.Outcome State Fault Refusal := issue (.vshr w) (vec2 w 20 vopShr) s

/-- VFMA's body (R479): B by BSEL, C a vector group. -/
def vfmaBody (w : VEC) (s : State) : Except Stop Out :=
  let a := readGroup s w.a (vg w)
  let d := readGroup s w.c (vg w)
  let f := vopFma (vctx s w)
  elemVec s w (vg w) (vet w) (arithBound w) (match operandB s w with
    | .inl b => { groups := [(a, vet w), (b, vet w), (d, vet w)], op := fun v => f (v.getD 0 0) (v.getD 1 0) (v.getD 2 0) }
    | .inr k => { groups := [(a, vet w), (d, vet w)], poi := k.2, op := fun v => f (v.getD 0 0) k.1 (v.getD 1 0) })
def execVfma (w : VEC) (s : State) : Host.Outcome State Fault Refusal := issue (.vfma w) (vfmaBody w) s

/-- VCMP's body (R481). -/
def execVcmp (w : VEC) (s : State) : Host.Outcome State Fault Refusal :=
  issue (.vcmp w) (fun s => elemMask s w 20 (args2 s w (vopCmp w.sub.toNat (vctx s w)))) s

/-- VSEL's body (R481): C = k0 takes a everywhere. -/
def vselBody (w : VEC) (s : State) : Except Stop Out :=
  let a := readGroup s w.a (vg w)
  let m := readMask s w.c.toNat
  let pick := fun (c x y : Nat) => (if c = 1 then x else y, (0 : Flags))
  elemVec s w (vg w) (vet w) 20 (match operandB s w with
    | .inl b => { groups := [(a, vet w), (b, vet w)], masks := m.toList, op := fun v => pick (if m.isSome then v.getD 2 0 else 1) (v.getD 0 0) (v.getD 1 0) }
    | .inr k => { groups := [(a, vet w)], masks := m.toList, poi := k.2, op := fun v => pick (if m.isSome then v.getD 1 0 else 1) (v.getD 0 0) k.1 })
def execVsel (w : VEC) (s : State) : Host.Outcome State Fault Refusal := issue (.vsel w) (vselBody w) s

/-- VCLAMP's body (R481). -/
def vclampBody (w : VEC) (s : State) : Except Stop Out :=
  let a := readGroup s w.a (vg w)
  let f := vopClamp (vctx s w)
  elemVec s w (vg w) (vet w) (arithBound w)
    (if w.bsel = 0 then
      { groups := [(a, vet w), (readGroup s w.b (vg w), vet w), (readGroup s w.c (vg w), vet w)],
        op := fun v => f (v.getD 0 0) (v.getD 1 0) (v.getD 2 0) }
    else
      let lo := scalarElem s (vet w) w.b
      let hi := scalarElem s (vet w) w.c
      { groups := [(a, vet w)], poi := lo.2 || hi.2, op := fun v => f (v.getD 0 0) lo.1 hi.1 })
def execVclamp (w : VEC) (s : State) : Host.Outcome State Fault Refusal := issue (.vclamp w) (vclampBody w) s

/-! ## VCVT (R158, R483) -/

/-- The conversion of one element between two element types. -/
def cvtElem (b : Bank) (rm : Nat) (sat : Bool) (dst src x : Nat) : Nat × Flags :=
  let ftz := ftzOn b
  let v := etVal src (fdOf b src) ftz x
  let io := flagIf v.signalling flagIO
  if etInt src && etInt dst then etWrap dst (sat && etWidth dst ≤ etWidth src) (etIntVal src x)
  else if etInt dst then let r := toIntRange rm (etMin dst) (etMax dst) v; (wrapN (etWidth dst) r.1, r.2)
  else if etNarrow src && dst = src && !v.isNan then (x % 2 ^ (fdOf b src).width, 0)
  else let r := etRound dst (fdOf b dst) rm ftz v; (r.1, r.2 ||| io)

/-- VCVT's body: A has the source type, the destination group its own size (R483). -/
def vcvtBody (w : VEC) (s : State) : Except Stop Out :=
  let b := curBank s
  let src := w.sub.toNat
  let dst := vet w
  elemVec s w (vcvtGroup w.g.toNat dst src) dst (if etWidth dst > etWidth src then 40 else 28)
    { groups := [(readGroup s w.a (vg w), src)], op := fun v => cvtElem b (roundMode b w.rm) w.sat dst src (v.getD 0 0) }
def execVcvt (w : VEC) (s : State) : Host.Outcome State Fault Refusal := issue (.vcvt w) (vcvtBody w) s

/-! ## VSFU (R168, R498) -/

/-- A special case of the table of R168, or a result that the table decides exactly: its value and flags. Functions by code (R340): 0 exp2, 1 log2, 2 rcp, 3 rsqrt,
4 sqrt, 5 tanh, 6 sigmoid, 7 sin, 8 cos. -/
def sfuSpecial (fn : Nat) (v : Val) : Option (Val × Flags) :=
  match v with
  | .nan _ => some (.nan false, 0)
  | .inf n =>
    if fn = 0 then some (if n then .num false 0 0 else .inf false, 0)
    else if fn = 1 ∨ fn = 4 then some (if n then (.nan false, flagIO) else (.inf false, 0))
    else if fn = 2 then some (.num n 0 0, 0)
    else if fn = 3 then some (if n then (.nan false, flagIO) else (.num false 0 0, 0))
    else if fn = 5 then some (.num n 1 0, 0)
    else if fn = 6 then some (if n then .num false 0 0 else .num false 1 0, 0)
    else some (.nan false, flagIO)
  | .num n m e =>
    let zero := m = 0
    let exact1 := !n && m != 0 && vEq v (Val.ofInt 1)
    if fn = 1 then (if zero then some (.inf true, flagDZ) else if n then some (.nan false, flagIO) else if exact1 then some (.num false 0 0, 0) else none)
    else if fn = 2 then (if zero then some (.inf n, flagDZ) else none)
    else if fn = 3 then (if zero then some (.inf n, flagDZ) else if n then some (.nan false, flagIO) else none)
    else if fn = 4 then (let r := vSqrt (.num n m e); some (r.1, flagIf r.2 flagIO))
    else if fn = 0 then
      -- 2^x of an x at or above 128 overflows; below -150 it is below half of the smallest subnormal
      (if !n && !vLt v (Val.ofInt 128) then some (.inf false, flagOF) else if n && vLt v (Val.ofInt (-150)) then some (.num false 0 0, flagUF) else none)
    else none

/-- The function at one element (R168): FP16 and BF16 round the FP32 function of the widened input with RNE. -/
def sfuElem (et fn : Nat) (ftz : Bool) (x : Nat) : Nat × Flags :=
  let f := etFmt et
  let v := f.decode ftz x
  let y : Val × Flags := match sfuSpecial fn v with
    | some r => r
    | none =>
      let c := sfuFixed fn (fmtS.round 0 false v).1
      (fmtS.decode false c, 0)
  let w : Val := if et = 14 ∨ fn = 4 then y.1 else fmtS.decode false (fmtS.round 0 false y.1).1
  let r := f.round 0 false w
  let tiny := match f.decode false r.1 with | .num _ m _ => m != 0 && (r.1 / 2 ^ f.mb) % 2 ^ f.eb = 0 | _ => false
  let range := if fn = 0 && !v.isNan && !v.isInf then flagIf (r.1 = f.infBits false) flagOF ||| flagIf (tiny || r.1 = 0) flagUF else 0
  if ftz && tiny then (r.1 / 2 ^ (f.eb + f.mb) * 2 ^ (f.eb + f.mb), y.2 ||| flagUF) else (r.1, y.2 ||| range)

/-- VSFU's body (R498). -/
def vsfuBody (w : VEC) (s : State) : Except Stop Out :=
  elemVec s w (vg w) (vet w) 64 (args1 s w (sfuElem (vet w) w.sub.toNat (ftzOn (curBank s))))
def execVsfu (w : VEC) (s : State) : Host.Outcome State Fault Refusal := issue (.vsfu w) (vsfuBody w) s

end Sys2Proof.Machine
end

