-- ==== Sys2Proof/Machine/VecData.lean ====
section
/-! DEFINITION. Vector words that build, rearrange, measure, repair and park registers (0x82-0x8B, 0x97-0x9A): R136, R185, R482, R484, R486, R489, R492-R494. -/
namespace Sys2Proof.Machine

/-- n of IMM[23:0]. -/
def immN (w : VEC) : Nat := (w.imm.extractLsb' 0 24).toNat

/-! ## VSPLAT, VIOTA (R486) -/

/-- A result list of a new length L, at most 16,777,215 elements. -/
def lengthOk (n : Nat) : Except Stop Unit := check (n ≤ 16777215) 0x09 1 0

/-- VSPLAT's body (R486). -/
def vsplatBody (w : VEC) (s : State) : Except Stop Out := do
  contentStale s w (vg w) (vet w) []
  let n ← (· + immN w) <$> countArg s w.b
  lengthOk n
  let a := scalarElem s (vet w) w.a
  let l : List Run := if n = 0 then [] else [(a.1, n)]
  contentVec s w (vg w) (vet w) 20 l none a.2
def execVsplat (w : VEC) (s : State) : Host.Outcome State Fault Refusal := issue (.vsplat w) (vsplatBody w) s

/-- Elements a, a + c, a + 2c ... modulo 2^w. -/
def iota (w a c : Nat) : Nat → List Run
  | 0 => []
  | n + 1 => (a % 2 ^ w, 1) :: iota w (a + c) c n
/-- VIOTA's body (R486). A step of 0 modulo 2^w gives one run. -/
def viotaBody (w : VEC) (s : State) : Except Stop Out := do
  contentStale s w (vg w) (vet w) []
  let n ← (· + immN w) <$> countArg s w.b
  lengthOk n
  let a := scalarElem s (vet w) w.a
  let c := scalarElem s (vet w) w.c
  let wd := etWidth (vet w)
  -- with c not 0 neighbours differ, so more elements than any group holds are a RUNOVF whatever they are
  let l : List Run := if n = 0 then [] else if c.1 = 0 then [(a.1, n)] else iota wd a.1 c.1 n
  contentVec s w (vg w) (vet w) 20 l none (a.2 || c.2)
def execViota (w : VEC) (s : State) : Host.Outcome State Fault Refusal := issue (.viota w) (viotaBody w) s

/-! ## VCAT, VREV, VSLICE (R482) -/

/-- The element types of the sources of a rearranging word (R172, check 1). -/
def etCheck (l : List Grp) (et : Nat) : Except Stop Unit := check (l.all fun g => g.etOk et) 0x09 4 0

/-- VCAT's body. -/
def vcatBody (w : VEC) (s : State) : Except Stop Out := do
  let a := readGroup s w.a (vg w)
  let b := readGroup s w.b (vg w)
  contentStale s w (vg w) (vet w) [a, b]
  etCheck [a, b] (vet w)
  contentVec s w (vg w) (vet w) 20 (a.runs (vet w) ++ b.runs (vet w)) (some (a.rc + b.rc)) (a.poi || b.poi)
def execVcat (w : VEC) (s : State) : Host.Outcome State Fault Refusal := issue (.vcat w) (vcatBody w) s

/-- VREV's body. -/
def vrevBody (w : VEC) (s : State) : Except Stop Out := do
  let a := readGroup s w.a (vg w)
  contentStale s w (vg w) (vet w) [a]
  etCheck [a] (vet w)
  contentVec s w (vg w) (vet w) 20 (a.runs (vet w)).reverse (some a.rc) a.poi
def execVrev (w : VEC) (s : State) : Host.Outcome State Fault Refusal := issue (.vrev w) (vrevBody w) s

/-- VSLICE's body. -/
def vsliceBody (w : VEC) (s : State) : Except Stop Out := do
  let a := readGroup s w.a (vg w)
  contentStale s w (vg w) (vet w) [a]
  let st ← countArg s w.b
  let n ← (· + immN w) <$> countArg s w.c
  etCheck [a] (vet w)
  check (st + n ≤ a.ll) 0x09 0 0
  contentVec s w (vg w) (vet w) 20 (sliceRuns (a.runs (vet w)) st n) (some a.rc) a.poi
def execVslice (w : VEC) (s : State) : Host.Outcome State Fault Refusal := issue (.vslice w) (vsliceBody w) s

/-! ## VINS, VEXT (R484) -/

/-- An element as a scalar register holds it (R114, R484). -/
def elemScalar (b : Bank) (et x : Nat) : W64 := if etInt et then BitVec.ofInt 64 (etIntVal et x) else BitVec.ofNat 64 (x % 2 ^ (if etNarrow et then 8 else valWidth b et))

/-- VEXT's body. -/
def vextBody (w : VEC) (s : State) : Except Stop Out := do
  let a := readGroup s w.a (vg w)
  staleCheck [a]
  let i ← (· + immN w) <$> countArg s w.b
  etCheck [a] (vet w)
  check (i < a.ll) 0x09 0 0
  .ok { s := s, writes := wrS w.d (elemScalar (curBank s) (vet w) (elemAt (a.runs (vet w)) i)) a.poi, bound := 20, passes := passesOf a.rc 32 }
def execVext (w : VEC) (s : State) : Host.Outcome State Fault Refusal := issue (.vext w) (vextBody w) s

/-- VINS's body. -/
def vinsBody (w : VEC) (s : State) : Except Stop Out := do
  let a := readGroup s w.a (vg w)
  staleCheck [a]
  let i ← (· + immN w) <$> countArg s w.c
  etCheck [a] (vet w)
  check (i < a.ll) 0x09 0 0
  let v := scalarElem s (vet w) w.b
  let l := a.runs (vet w)
  let ws ← writeGroup s w.d.toNat (vg w) (vet w) (sliceRuns l 0 i ++ [(v.1, 1)] ++ sliceRuns l (i + 1) (a.ll - i - 1)) (a.poi || v.2)
  .ok { s := s, writes := ws, bound := 20, passes := passesOf a.rc 32 }
def execVins (w : VEC) (s : State) : Host.Outcome State Fault Refusal := issue (.vins w) (vinsBody w) s

/-! ## VLEN, VSETL (R492) -/

/-- VLEN's body: it reads a stale register without trapping (R123). -/
def vlenBody (w : VEC) (s : State) : Except Stop Out :=
  let r := ((readGroup s w.a 1).regs).headD {}
  let (v, p) : Nat × Bool :=
    if w.sub = 0 then (r.ll.toNat, r.poi)
    else if w.sub = 1 then (r.rc.toNat, r.poi)
    else if w.sub = 2 then (r.et.toNat, r.poi)
    else if w.sub = 3 then (statusWord r false, false)
    else (etCap (vet w), false)
  .ok { s := s, writes := wrS w.d (BitVec.ofNat 64 v) p, bound := 20 }
def execVlen (w : VEC) (s : State) : Host.Outcome State Fault Refusal := issue (.vlen w) (vlenBody w) s

/-- VSETL's body. -/
def vsetlBody (w : VEC) (s : State) : Except Stop Out := do
  let a := readGroup s w.a (vg w)
  staleCheck [a]
  let n ← (· + immN w) <$> countArg s w.b
  etCheck [a] (vet w)
  lengthOk n
  let l := a.runs (vet w)
  let ws ← writeGroup s w.d.toNat (vg w) (vet w) (if n ≤ a.ll then sliceRuns l 0 n else l ++ [(0, n - a.ll)]) a.poi
  .ok { s := s, writes := ws, bound := 20, passes := passesOf a.rc 32 }
def execVsetl (w : VEC) (s : State) : Host.Outcome State Fault Refusal := issue (.vsetl w) (vsetlBody w) s

/-! ## VRCO (R185, R494) -/

/-- VRCO's body. -/
def vrcoBody (w : VEC) (s : State) : Except Stop Out := do
  let b := curBank s
  let et := vet w
  let g := readGroup s w.d (vg w)
  let parts := g.regs.map fun r => clean b et (vecRuns et r)
  let n := parts.foldl (fun a l => a + l.length) 0
  check (parts.all fun l => runsTotal l ≤ 16777215) 0x09 1 0
  if w.sub = 0 then
    let ws ← writeGroup s w.d.toNat (vg w) et parts.flatten g.poi
    .ok { s := s, writes := ws, bound := 40, passes := passesOf n 32 }
  else
    let ws := (List.zip (List.range (vg w)) (List.zip g.regs parts)).map fun e =>
      Write.vec (physV b.vrb (w.d.toNat + e.1))
        { pairs := packPairs (etWidth et) (etWidth et) e.2.2, et := w.et, rc := BitVec.ofNat 10 e.2.2.length, ll := BitVec.ofNat 24 (runsTotal e.2.2),
          can := canonRuns (etMaxCount et) e.2.2 = e.2.2, poi := e.2.1.poi, stale := false }
    .ok { s := s, writes := ws, bound := 40, passes := passesOf n 32 }
def execVrco (w : VEC) (s : State) : Host.Outcome State Fault Refusal := issue (.vrco w) (vrcoBody w) s

/-! ## Accumulator rows (R489) -/

def rowOf (w : VEC) : Nat := (w.imm.extractLsb' 22 7).toNat
def accOf (w : VEC) : BitVec 3 := w.imm.extractLsb' 29 3
/-- The tile's AFT agrees with the ET (R489). -/
def aftOk (t : AccTile) (et : Nat) : Bool := if t.aft then et = 10 || et = 11 || et = 14 else et = 8 || et = 9 || et = 12 || et = 13

/-- VLDA's body: it stalls under R211. -/
def vldaBody (w : VEC) (s : State) : Except Stop Out := do
  let n ← accTileOf (curBank s) (accOf w)
  let t := accTile (clusterOf s (clusterOfCore s.curCore)) n
  if tileBusy s s.curCore (curFg s) n then .error (.stall .other) else
  check (aftOk t (vet w)) 0x06 0 (0x100 + (accOf w).toNat)
  let c := vctx s w
  let l := (List.range 256).map fun k =>
    let x := accElem t (rowOf w) k
    if t.aft then c.round (acfVal x) false else etWrap (vet w) w.sat (sintN 48 x)
  let ws ← writeGroup s w.d.toNat (vg w) (vet w) (l.map fun x => (x.1, 1)) (accPoison t (1536 * rowOf w) 1536)
  .ok { s := s, writes := ws, flags := flagsOr (l.map (·.2)), bound := 32 }
def execVlda (w : VEC) (s : State) : Host.Outcome State Fault Refusal := issue (.vlda w) (vldaBody w) s

/-- The elements of a list of runs, one by one. -/
def spreadRuns (l : List Run) : List Nat := l.flatMap fun r => List.replicate r.2 r.1
/-- An element widened to an accumulator element (R489). -/
def accWiden (c : VCtx) (aft : Bool) (x : Nat) : Nat := if aft then roundACF (etVal c.et c.nd false x) else wrapN 48 (c.int x)

/-- VSTA's body. A row that a command still writes or reads is undefined after it (R212). -/
def vstaBody (w : VEC) (s : State) : Except Stop Out := do
  let g := readGroup s w.d (vg w)
  staleCheck [g]
  let n ← accTileOf (curBank s) (accOf w)
  let cl := clusterOfCore s.curCore
  let t := accTile (clusterOf s cl) n
  check (aftOk t (vet w)) 0x06 0 (0x100 + (accOf w).toNat)
  etCheck [g] (vet w)
  check (g.ll = 256) 0x09 0 0
  let c := vctx s w
  let v := (spreadRuns (g.runs (vet w))).foldr (fun x a => accWiden c t.aft x + 2 ^ 48 * a) 0
  let row := rowOf w
  .ok { s := if rowBusy s s.curCore (curFg s) n row then
               let s := clashRow s s.curCore (curFg s) n row
               if g.poi then updCluster s cl fun k => setTile k n (accPoisonRow (accTile k n) row 256) else s
             else updCluster s cl fun k => setTile k n (let t := accPut (accTile k n) row 0 1536 v g.poi; { t with poi := t.poi || g.poi })
        passes := passesOf g.rc 32 }
def execVsta (w : VEC) (s : State) : Host.Outcome State Fault Refusal := issue (.vsta w) (vstaBody w) s

/-! ## Parking (R136, R493) -/

/-- The cluster tile, row and byte of a park slot. -/
def parkPlace (b : Bank) (p : Nat) : Except Stop (Nat × Nat × Nat) := do
  check (p < 3 * b.parkav.toNat) 0x06 0 0x400
  let n ← accTileOf b (BitVec.ofNat 3 (p / 384))
  .ok (n, p / 3 % 128, 512 * (p % 3))
def parkSlot (w : VEC) : Nat := (w.imm.extractLsb' 0 12).toNat

/-- VPARK's body. -/
def vparkBody (w : VEC) (s : State) : Except Stop Out := do
  let (n, row, o) ← parkPlace (curBank s) (parkSlot w)
  let r := ((readGroup s w.a 1).regs).headD {}
  .ok { s := if rowBusy s s.curCore (curFg s) n row then
               let s := clashRow s s.curCore (curFg s) n row
               if r.poi then updCluster s (clusterOfCore s.curCore) fun k => setTile k n (accMark (accTile k n) (1536 * row + o) 512 true) else s
             else updCluster s (clusterOfCore s.curCore) fun k => setTile k n (accPut (accTile k n) row o 512 r.pairs.toNat r.poi) }
def execVpark (w : VEC) (s : State) : Host.Outcome State Fault Refusal := issue (.vpark w) (vparkBody w) s

/-- VUNPK's body. From a row that a command still writes or reads it gives a register of undefined values under the ET that it names (R136, R212). -/
def vunpkBody (w : VEC) (s : State) : Except Stop Out := do
  let b := curBank s
  let (n, row, o) ← parkPlace b (parkSlot w)
  let t := accTile (clusterOf s (clusterOfCore s.curCore)) n
  if rowBusy s s.curCore (curFg s) n row then
    .ok { s := clashRow s s.curCore (curFg s) n row, bound := 32, writes := [.vec (physV b.vrb w.d.toNat) { undefVec s.fresh 3000000 with et := w.et }] }
  else
  let l := vecRuns (vet w) { pairs := BitVec.ofNat 4096 (nbits (accRow t row).toNat (8 * o) 4096) }
  lengthOk (runsTotal l)
  .ok { s := s, bound := 32, writes := [.vec (physV b.vrb w.d.toNat)
    { pairs := packPairs (etWidth (vet w)) (etWidth (vet w)) l, et := w.et, rc := BitVec.ofNat 10 l.length, ll := BitVec.ofNat 24 (runsTotal l),
      can := canonRuns (etMaxCount (vet w)) l = l, poi := accPoison t (1536 * row + o) 512, stale := false }] }
def execVunpk (w : VEC) (s : State) : Host.Outcome State Fault Refusal := issue (.vunpk w) (vunpkBody w) s

end Sys2Proof.Machine
end

