-- ==== Sys2Proof/Machine/VecReduce.lean ====
section
/-! DEFINITION. Reductions, segmented reductions, scans and the mask words (0xA0-0xAE): R167, R177-R179, R414-R416, R495-R497. -/
namespace Sys2Proof.Machine

/-! ## The accumulator (R167) -/

/-- A running reduction: nothing yet, an exact integer, or a float value with its code's sign of zero kept. -/
inductive Acc1 where
  | none_
  | int (x : Int)
  | flt (v : Val)
  deriving DecidableEq, Repr

/-- One more value, of a count, in a sum. -/
def accSum (c : VCtx) (a : Acc1) (x n : Nat) : Acc1 :=
  if etInt c.et then
    match a with
    | .int y => .int (y + c.int x * n)
    | _ => .int (c.int x * n)
  else
    let p := acfVal (roundACF (vMul (etVal c.et c.nd false x) (Val.ofInt n)).1)
    let y := match a with | .flt y => y | _ => .num false 0 0
    .flt (acfVal (roundACF (vAdd false y p).1))
/-- One more piece in a dot product. -/
def accDot (c : VCtx) (a : Acc1) (x y n : Nat) : Acc1 :=
  if etInt c.et then
    match a with
    | .int z => .int (z + c.int x * c.int y * n)
    | _ => .int (c.int x * c.int y * n)
  else
    let p := acfVal (roundACF (vMul (vMul (etVal c.et c.nd false x) (etVal c.et c.nd false y)).1 (Val.ofInt n)).1)
    let z := match a with | .flt z => z | _ => .num false 0 0
    .flt (acfVal (roundACF (vAdd false z p).1))
/-- One more value in a maximum or minimum: a NaN anywhere gives NaN; -0 lies below +0. -/
def accExt (max : Bool) (c : VCtx) (a : Acc1) (x : Nat) : Acc1 :=
  if etInt c.et then
    let v := c.int x
    match a with
    | .int y => .int (if max then (if y < v then v else y) else (if v < y then v else y))
    | _ => .int v
  else
    let v := etVal c.et c.nd false x
    match a with
    | .flt y => if y.isNan || v.isNan then .flt (.nan false) else .flt (if max then (if vBelow y v then v else y) else (if vBelow v y then v else y))
    | _ => .flt v
/-- The operation of a sub-opcode: sum, maximum, minimum. -/
def accOp (fn : Nat) (c : VCtx) (a : Acc1) (x n : Nat) : Acc1 := if fn = 0 then accSum c a x n else accExt (fn = 1) c a x

/-- What a reduction over no element gives (R177). -/
def emptyAcc (fn : Nat) (c : VCtx) : Acc1 :=
  if fn = 0 then (if etInt c.et then .int 0 else .flt (.num false 0 0))
  else if etInt c.et then .int (if fn = 1 then etMin c.et else etMax c.et)
  else .flt (.inf (fn = 1))
/-- A running value written as an element: wrapped or clamped, or rounded once (R178, R179). FTZ flushes here only, and a sum only: an extreme value is
exact (R167), so that an infinity keeps its code whatever OVS says. -/
def accOut (c : VCtx) (fn : Nat) (a : Acc1) : Nat × Flags :=
  match (if a = .none_ then emptyAcc fn c else a) with
  | .int x => etWrap c.et c.sat x
  | .flt (.inf n) => etRound c.et (if fn = 0 then c.nd else { c.nd with ovs := true }) c.rm false (.inf n)
  | .flt v => etRound c.et c.nd c.rm (c.ftz && fn = 0) v
  | .none_ => (0, 0)
/-- IO for a signalling NaN among the elements (R147, R495). -/
def sigFlag (c : VCtx) (l : List Nat) : Flags := flagIf (!etInt c.et && l.any fun x => (etVal c.et c.nd false x).signalling) flagIO

/-! ## Scalar reductions (R495) -/

/-- The canonical runs of a source's logical content (R121, R167). -/
def Grp.canon (g : Grp) (et : Nat) : List Run := canonRuns (etMaxCount et) (g.runs et)
/-- A mask's logical content, as runs that no arrangement of its pairs splits. -/
def Grp.joined (g : Grp) : List Run := joinRuns (g.bits.filter fun r => r.2 != 0)

/-- The checks and the enabled pieces of a reduction of the groups under the predicate, and the pieces of R175. -/
def reducePieces (s : State) (w : VEC) (gs : List Grp) : Except Stop (List (List Nat × Nat) × Nat × Bool) := do
  let pred := predMask s w
  staleCheck (gs ++ pred.toList)
  etCheck gs (vet w)
  let n := (gs.map Grp.ll).headD 0
  check (gs.all fun g => g.ll = n) 0x09 0 0
  check (pred.all fun p => p.ll = n) 0x09 2 0
  let ps := piecesAligned (gs.map (fun g => g.canon (vet w)) ++ pred.toList.map Grp.joined)
  let on := ps.filter fun p => pred.isNone || (p.1.getD gs.length 0 != 0) != w.hdr.pn
  let raw := (piecesAligned (gs.map (fun g => g.runs (vet w)) ++ pred.toList.map Grp.bits)).length
  .ok (on, raw, gs.any Grp.poi || pred.any Grp.poi)

/-- A reduction's result in a scalar register (R495, R114). -/
def reduceOut (s : State) (w : VEC) (fn : Nat) (a : Acc1) (fl : Flags) (raw : Nat) (poi : Bool) : Out :=
  let c := vctx s w
  let a := if a = .none_ then emptyAcc fn c else a
  let r : W64 × Flags := match a with
    | .int x => (BitVec.ofInt 64 x, 0)
    | _ => let e := accOut c fn a; (elemScalar (curBank s) c.et e.1, e.2)
  { s := s, writes := wrS w.d r.1 poi, flags := r.2 ||| fl, bound := 32, passes := passesOf raw 32 }

/-- VRSUM, VRMAX and VRMIN: `fn` 0, 1, 2. -/
def reduceBody (fn : Nat) (w : VEC) (s : State) : Except Stop Out := do
  let c := vctx s w
  let (l, raw, p) ← reducePieces s w [readGroup s w.a (vg w)]
  let a := l.foldl (fun a e => accOp fn c a (e.1.headD 0) e.2) .none_
  .ok (reduceOut s w fn a (sigFlag c (l.map fun e => e.1.headD 0)) raw p)
def execVrsum (w : VEC) (s : State) : Host.Outcome State Fault Refusal := issue (.vrsum w) (reduceBody 0 w) s
def execVrmax (w : VEC) (s : State) : Host.Outcome State Fault Refusal := issue (.vrmax w) (reduceBody 1 w) s
def execVrmin (w : VEC) (s : State) : Host.Outcome State Fault Refusal := issue (.vrmin w) (reduceBody 2 w) s

/-- VRDOT's body. -/
def vrdotBody (w : VEC) (s : State) : Except Stop Out := do
  let c := vctx s w
  let (l, raw, p) ← reducePieces s w [readGroup s w.a (vg w), readGroup s w.b (vg w)]
  let a := l.foldl (fun a e => accDot c a (e.1.getD 0 0) (e.1.getD 1 0) e.2) .none_
  .ok (reduceOut s w 0 a (sigFlag c (l.flatMap fun e => e.1.take 2)) raw p)
def execVrdot (w : VEC) (s : State) : Host.Outcome State Fault Refusal := issue (.vrdot w) (vrdotBody w) s

/-! ## Segments (R178, R179) -/

/-- The segments of a start mask as runs of segment names: the elements of segment `2j` form one segment, those named `2j + 1` are segments of one element
each. `m` is the length so far of the segment that is open. Element 0 begins a segment whatever its mask value. -/
def segRuns : Nat → Nat → List Run → List Run
  | j, m, [] => if m = 0 then [] else [(2 * j, m)]
  | j, m, (b, n) :: l =>
    if n = 0 then segRuns j m l
    else if b = 0 then segRuns j (m + n) l
    else (if m = 0 then [] else [(2 * j, m)]) ++ (if n = 1 then [] else [(2 * j + 1, n - 1)]) ++ segRuns (j + 1) 1 l

/-- The parts of a source of `n` elements under a start mask, split at the segment starts alone: the value, the count, and the segment's name. Without a mask every
element has the name `whole`. -/
def segPieces (l : List Run) (m : Option (List Run)) (whole : Nat) : List (Nat × Nat × Nat) :=
  match m with
  | none => l.map fun r => (r.1, r.2, whole)
  | some k => (piecesAligned [l, segRuns 0 0 k]).map fun p => (p.1.getD 0 0, p.2, p.1.getD 1 0)

/-- The result of the segment that is open. -/
def closeSeg : Option (Nat × Acc1) → List (Acc1 × Nat)
  | none => []
  | some (_, a) => [(a, 1)]
/-- The segments' results, in order, with counts; the open segment has a name and a running value. -/
def segments (f : Acc1 → Nat → Nat → Acc1) : Option (Nat × Acc1) → List (Nat × Nat × Nat) → List (Acc1 × Nat)
  | cur, [] => closeSeg cur
  | cur, (v, n, j) :: l =>
    if j % 2 = 1 then closeSeg cur ++ [(f .none_ v 1, n)] ++ segments f none l
    else match cur with
      | some (i, a) => if i = j then segments f (some (i, f a v n)) l else [(a, 1)] ++ segments f (some (j, f .none_ v n)) l
      | none => segments f (some (j, f .none_ v n)) l

/-- VSEGSUM and VSEGMAX: `fn` 0, 1. k0 makes every element its own segment (R497). -/
def segBody (fn : Nat) (w : VEC) (s : State) : Except Stop Out := do
  let c := vctx s w
  let g := readGroup s w.a (vg w)
  let m := readMask s w.c.toNat
  staleCheck (g :: m.toList)
  etCheck [g] (vet w)
  check (m.all fun k => k.ll = g.ll) 0x09 2 0
  let l := g.canon (vet w)
  let r := (segments (accOp fn c) none (segPieces l (m.map Grp.joined) 1)).map fun e => (accOut c fn e.1, e.2)
  let ws ← writeGroup s w.d.toNat (vg w) (vet w) (r.map fun e => (e.1.1, e.2)) (g.poi || m.any Grp.poi)
  .ok { s := s, writes := ws, flags := flagsOr (r.map (·.1.2)) ||| sigFlag c (l.map Prod.fst), bound := 48,
        passes := passesOf (piecesAligned (g.runs (vet w) :: m.toList.map Grp.bits)).length 32 }
def execVsegsum (w : VEC) (s : State) : Host.Outcome State Fault Refusal := issue (.vsegsum w) (segBody 0 w) s
def execVsegmax (w : VEC) (s : State) : Host.Outcome State Fault Refusal := issue (.vsegmax w) (segBody 1 w) s

/-- The running values of one run of `n` elements taken one by one (R179); `starts`: each element begins a segment. -/
def scanRun (f : Acc1 → Nat → Acc1) (v : Nat) (starts : Bool) : Nat → Acc1 → List Acc1 × Acc1
  | 0, a => ([], a)
  | n + 1, a =>
    let b := f (if starts then .none_ else a) v
    let r := scanRun f v starts n b
    (b :: r.1, r.2)
/-- The running values of a source; `j` and `a`: the segment that the last element had, and its running value. -/
def scanAll (f : Acc1 → Nat → Acc1) : Nat → Acc1 → List (Nat × Nat × Nat) → List Acc1
  | _, _, [] => []
  | j, a, (v, n, k) :: l =>
    let r := scanRun f v (k % 2 = 1) n (if j = k then a else .none_)
    r.1 ++ scanAll f k r.2 l

/-- VSCAN's body (R496). -/
def vscanBody (w : VEC) (s : State) : Except Stop Out := do
  let c := vctx s w
  let fn := w.sub.toNat
  let g := readGroup s w.a (vg w)
  let m := readMask s w.c.toNat
  staleCheck (g :: m.toList)
  etCheck [g] (vet w)
  check (m.all fun k => k.ll = g.ll) 0x09 2 0
  let l := g.canon (vet w)
  let r := (scanAll (fun a v => accOp fn c a v 1) 0 .none_ (segPieces l (m.map Grp.joined) 0)).map (accOut c fn)
  let ws ← writeGroup s w.d.toNat (vg w) (vet w) (r.map fun e => (e.1, 1)) (g.poi || m.any Grp.poi)
  .ok { s := s, writes := ws, flags := flagsOr (r.map (·.2)) ||| sigFlag c (l.map Prod.fst), bound := 48,
        passes := passesOf (piecesAligned (g.runs (vet w) :: m.toList.map Grp.bits)).length 32 }
def execVscan (w : VEC) (s : State) : Host.Outcome State Fault Refusal := issue (.vscan w) (vscanBody w) s

/-! ## Mask words (R414-R416) -/

/-- A mask word of the sources `a` and `b`; a source that names k0 enables every element and bears no length. -/
def maskOp (f : Nat → Nat → Nat) (a b : Option Nat) (w : VEC) (s : State) : Except Stop Out :=
  let ma := a.bind (readMask s)
  let mb := b.bind (readMask s)
  elemMask s w 20 { groups := [], masks := ma.toList ++ mb.toList, op := fun v =>
    let x := if ma.isSome then v.getD 0 0 else 1
    let y := if mb.isSome then v.getD (if ma.isSome then 1 else 0) 0 else 1
    (f x y % 2, 0) }
def execKand (w : VEC) (s : State) : Host.Outcome State Fault Refusal := issue (.kand w) (maskOp (· &&& ·) (some w.a.toNat) (some w.b.toNat) w) s
def execKor (w : VEC) (s : State) : Host.Outcome State Fault Refusal := issue (.kor w) (maskOp (· ||| ·) (some w.a.toNat) (some w.b.toNat) w) s
def execKxor (w : VEC) (s : State) : Host.Outcome State Fault Refusal := issue (.kxor w) (maskOp (· ^^^ ·) (some w.a.toNat) (some w.b.toNat) w) s
def execKnot (w : VEC) (s : State) : Host.Outcome State Fault Refusal := issue (.knot w) (maskOp (fun x _ => 1 - x) (some w.a.toNat) none w) s
def execKmov (w : VEC) (s : State) : Host.Outcome State Fault Refusal := issue (.kmov w) (maskOp (fun x _ => x) (some w.a.toNat) none w) s

/-- The elements of KCNT and KFIRST: 1 where the mask holds 1 and the predicate enables the element, the pieces, and the poison. -/
def maskElems (w : VEC) (s : State) : Except Stop (List Run × Nat × Bool) := do
  let a := readMask s w.a.toNat
  let pred := predMask s w
  staleCheck (a.toList ++ pred.toList)
  let l := (a.toList ++ pred.toList).map Grp.ll
  let n ← match l.head? with | some n => .ok n | none => illegalField
  check (l.all (· = n)) 0x09 2 0
  let ps := piecesAligned (a.toList.map Grp.bits ++ pred.toList.map Grp.bits)
  let r := ps.map fun p =>
    let v := a.isNone || p.1.headD 0 != 0
    let on := pred.isNone || (p.1.getLastD 0 != 0) != w.hdr.pn
    ((v && on).toNat, p.2)
  .ok (r, ps.length, a.any Grp.poi || pred.any Grp.poi)
/-- KCNT's body. -/
def kcntBody (w : VEC) (s : State) : Except Stop Out := do
  let (l, n, p) ← maskElems w s
  .ok { s := s, writes := wrS w.d (BitVec.ofNat 64 (runsTotal (l.filter fun r => r.1 = 1))) p, bound := 32, passes := passesOf n 32 }
def execKcnt (w : VEC) (s : State) : Host.Outcome State Fault Refusal := issue (.kcnt w) (kcntBody w) s
/-- KFIRST's body: the elements before the first 1, or all of them. -/
def kfirstBody (w : VEC) (s : State) : Except Stop Out := do
  let (l, n, p) ← maskElems w s
  .ok { s := s, writes := wrS w.d (BitVec.ofNat 64 (runsTotal (l.takeWhile fun r => r.1 = 0))) p, bound := 32, passes := passesOf n 32 }
def execKfirst (w : VEC) (s : State) : Host.Outcome State Fault Refusal := issue (.kfirst w) (kfirstBody w) s

end Sys2Proof.Machine
end

