-- ==== Sys2Proof/Machine/VecMem.lean ====
section
/-! DEFINITION. Vector loads and stores (0x90-0x96): R180-R185, R478, R485, R487, R488, R490, R491. Stores are performed later, in pieces, and so are loads, but for what they
read at their issue (R266, R268; log entry 10). -/
namespace Sys2Proof.Machine

/-! ## What the memory words share (R478) -/

def vmScope (w : VEC) : Nat := (w.imm.extractLsb' 30 2).toNat
def vmOrd (w : VEC) : Nat := (w.imm.extractLsb' 28 2).toNat
def vmDc (w : VEC) : Nat := (w.imm.extractLsb' 26 2).toNat
def vmOff (w : VEC) : W64 := (w.imm.extractLsb' 0 26).signExtend 64
def vmBound (w : VEC) : Nat := classBound (vmDc w)

/-- The address of a register and the offset; a poisoned register traps. -/
def vecAddr (s : State) (w : VEC) : Except Stop Nat := do
  let a := rdS s w.a
  check (!a.poi) causePoison 0 0
  .ok (a.v + vmOff w).toNat
/-- With an order, the address is a multiple of 32. -/
def vmAligned (w : VEC) (va : Nat) : Except Stop Unit := if vmOrd w = 0 then .ok () else aligned va 32

/-- A memory operation of the word. -/
def vmOp (w : VEC) (kind : MemKind) (va n : Nat) (l : List Xlat) : MemOp :=
  { kind := kind, va := va, n := n, pieces := piecesOf l, scope := vmScope w, ord := vmOrd w, dc := vmDc w }

/-- Performs an access of the word after the earlier accesses that precede it; a fence that orders it holds the word back. -/
def vmPerform (s : State) (o : MemOp) : Except Stop ((Nat × Bool) × State) :=
  if waitsBehind s o then .error (.stall .other) else
  let s := drainFor s o
  .ok (performOp s s.curCore (curFg s) s.curSt o)
/-- The stores of the word, which are performed later (R261): it issues once no fence holds them back. `loose`: they are the pieces of one access. A store without bytes is its
release. -/
def vmStores (w : VEC) (s : State) (l : List MemOp) (loose : Bool) (passes : Nat) : Except Stop Out :=
  let l := if l.isEmpty && vmOrd w = 2 then [vmOp w .store 0 0 []] else l
  if l.any (fenced s) then .error (.stall .other) else .ok { s := s, stores := l, loose := loose, passes := passes }

/-- What a vector load that has read `n` bytes leaves outstanding: its reply, which may be late (R311). -/
def vmReply (w : VEC) (va n : Nat) : Option MemOp := if n = 0 then none else some { kind := .reply, va := va, n := n, dc := vmDc w }

/-- The pages of several ranges, each checked before any effect; empty ranges touch none. -/
def xlatRanges (s : State) (acc : Acc) (raw : Bool) (l : List (Nat × Nat)) : Except Stop (List (List Xlat)) :=
  liftFault (allOk (fun (r : Nat × Nat) => if r.2 = 0 then .ok [] else xlatAscending s (curCtx s) acc raw r.1 r.2) l)

/-- The access of a load of several ranges, translated. -/
def vmAccess (w : VEC) (s : State) (l : List (Nat × Nat)) : Except Stop (MemOp × State) := do
  let x ← xlatRanges s .read false l
  .ok ({ vmOp w .load ((l.map Prod.fst).headD 0) ((l.map Prod.snd).foldl (· + ·) 0) [] with pieces := x.flatMap piecesOf },
    x.foldl (fun s p => useXlats s (curCtx s) .read false p) s)
/-- Reads several ranges: their bytes one after the other as one number, and whether an atom was poisoned. -/
def vmRead (w : VEC) (s : State) (l : List (Nat × Nat)) : Except Stop ((Nat × Bool) × State) := do
  let a ← vmAccess w s l
  vmPerform a.2 a.1
/-- What a vector load of `n` bytes from `va` on leaves outstanding: the reply of what it has read, or, of a free choice, its access `o` itself, whose pieces are then read later,
in any order with what it is not ordered with (R266, R268; log entry 10). -/
def vmLater (w : VEC) (s : State) (va n : Nat) (o : MemOp) (x : VLoad) : Option MemOp :=
  if nbit (freeAt s 657) 0 && o.n != 0 && o.pieces.all (fun q => q.kind != .mmio) then some { o with kind := .vload x } else vmReply w va n
/-- A vector load of the ranges: its bytes, as `f` lays them out, in the group D. The poison of its atoms, and what it leaves; `va` and `n` are the bytes that its reply stands for. -/
def vmLoad (w : VEC) (s : State) (l : List (Nat × Nat)) (f : VForm) (poi : Bool) (va n passes : Nat) : Except Stop (Bool × Out) := do
  let a ← vmAccess w s l
  let r ← vmPerform a.2 a.1
  let ws ← writeGroup s w.d.toNat (vg w) (vet w) (f.runs (etWidth (vet w)) r.1.1) (r.1.2 || poi)
  .ok (r.1.2, { s := r.2, writes := ws, op := vmLater w s va n a.1 { et := vet w, wd := valWidth (curBank s) (vet w), g := vg w, form := f, poi := poi }, bound := vmBound w, passes := passes })

/-- A stretch of enabled bytes of a store: its offset and length, and whether its data is poisoned. -/
abbrev Stretch := Nat × Nat × Bool

/-- Joins stretches that touch. -/
def joinStretches : List Stretch → List Stretch
  | [] => []
  | (a, n, p) :: l =>
    match joinStretches l with
    | (b, m, q) :: t => if b ≤ a + n then (a, max (a + n) (b + m) - a, p || q) :: t else (a, n, p) :: (b, m, q) :: t
    | [] => [(a, n, p)]

/-- The parts of stretches that lie in `n` bytes from offset `o`. -/
def cutStretches (l : List Stretch) (o n : Nat) : List Stretch :=
  (l.filter fun e => overlaps e.1 e.2.1 o n).map fun e => (max e.1 o, min (e.1 + e.2.1) (o + n) - max e.1 o, e.2.2)

/-- The stores of `n` bytes of data at `va`: one for each atom and each unbroken stretch of enabled bytes in it. A poisoned register writes every atom it
touches as poisoned (R183). A store to windows that one atom does not hold is performed byte by byte (R226). -/
def storeOps (w : VEC) (x : List Xlat) (va n v : Nat) (en : List Stretch) : List MemOp :=
  if (x.any fun p => p.kind = .mmio) then
    (if joinStretches en = [(0, n, (en.any (·.2.2)))] then [{ vmOp w .store va n x with data := v }] else [])
  else
  let sz := if x.any fun p => p.kind = .window && (x.length != 1 || 32 < p.pa % 32 + p.n) then 1 else 32
  (pieces sz va n).flatMap fun a =>
    let l := joinStretches (cutStretches en (a.1 - va) a.2)
    let poi := l.any (·.2.2)
    l.map fun e =>
      let at0 := va + e.1
      let pa := (x.find? fun p => p.va ≤ at0 && at0 < p.va + p.n).map fun p => { p with va := at0, n := e.2.1, pa := p.pa + (at0 - p.va) }
      { vmOp w .store at0 e.2.1 pa.toList with data := v / 256 ^ e.1, pdata := poi }

/-- Elements of `wd` bits packed from the lowest bit on (R182, R183). -/
def packElems (wd : Nat) (l : List Nat) : Nat := l.foldr (fun x a => x % 2 ^ wd + 2 ^ wd * a) 0
/-! ## VLD and VST, plain forms (R487) -/

/-- The plain form of VLD. -/
def vldPlain (w : VEC) (s : State) : Except Stop Out := do
  let va ← vecAddr s w
  let m ← countArg s w.b
  vmAligned w va
  lengthOk m
  let wd := etWidth (vet w)
  let n := ceilDiv (m * wd) 8
  Prod.snd <$> vmLoad w s [(va, n)] (.dense [m]) false va n (passesOf n 512)

/-- The stretches of a store of a group's elements: those that the predicate enables, with the poison of the member that holds them. -/
def groupStretches (wd : Nat) (g : Grp) (pred : Option Grp) (pn : Bool) : List Stretch :=
  let members : List Run := (g.regs.map fun r => (r.poi.toNat, r.ll.toNat)).filter fun r => r.2 != 0
  let ps := piecesAligned (members :: pred.toList.map Grp.bits)
  (ps.foldl (fun (a : Nat × List Stretch) p =>
    let on := pred.isNone || (p.1.getD 1 0 != 0) != pn
    let lo := a.1 * wd / 8
    let hi := ceilDiv ((a.1 + p.2) * wd) 8
    (a.1 + p.2, if on then a.2 ++ [(lo, hi - lo, p.1.headD 0 == 1)] else a.2)) (0, [])).2

/-- The plain form of VST. -/
def vstPlain (w : VEC) (s : State) : Except Stop Out := do
  let g := readGroup s w.d (vg w)
  let pred := predMask s w
  staleCheck (g :: pred.toList)
  let va ← vecAddr s w
  vmAligned w va
  etCheck [g] (vet w)
  let wd := etWidth (vet w)
  check (wd != 4 || g.ll % 2 = 0) 0x09 0 0
  check (pred.all fun p => p.ll = g.ll) 0x09 2 0
  let n := ceilDiv (g.ll * wd) 8
  let x := (← xlatRanges s .write true [(va, n)]).flatten
  let s' := useXlats s (curCtx s) .write true x
  let ops := storeOps w x va n (packElems wd (spreadRuns (g.runs (vet w)))) (groupStretches wd g pred w.hdr.pn)
  vmStores w s' ops true (passesOf (piecesAligned (g.runs (vet w) :: pred.toList.map Grp.bits)).length 32)

/-! ## Tensor forms (R488) -/

/-- The tile format that an element type maps to; 0 for none. -/
def etFmtCode (et : Nat) : Nat := [1, 2, 3, 4, 12, 13, 0, 0, 5, 6, 9, 10, 7, 8, 11].getD et 0

/-- What the tensor form names: the entry, the tile, its tag, and the rows. -/
structure TForm where
  e : Nat
  i : Nat
  tag : TagRead
  stale : Bool
  row0 : Nat
  n : Nat
  deriving DecidableEq, Repr

def TForm.clip (t : TForm) : Nat := tileCols t.e t.i
/-- VA and bytes of each row, for elements of `wd` bits. -/
def TForm.rows (t : TForm) (wd : Nat) : List (Nat × Nat) :=
  (List.range t.n).map fun r => ((tileBase t.e t.i wd + (t.row0 + r) * tdSdim1 t.e) % 2 ^ 64, ceilDiv (t.clip * wd) 8)

/-- An operand reference of the running task's launch (R475 step 3): TID below TDTN, upper bits zero; the entry of the tensor, and the index below the tile
count. -/
def operandRef (s : State) (v : Nat) : Except Stop (Nat × State) := do
  let b := curBank s
  let n := match b.task with | some t => lrTdtn (taskLr s t) | none => 0
  check (v < 2 ^ 32 && refTid v < n) 0x01 1 0
  let (e, _, s) ← liftFault (readTd s (curCtx s) b.tdtbase.toNat (refTid v))
  check (refIdx v < tdTiles e) 0x01 1 0
  .ok (e, s)

/-- Reads a tile's tag as TTAGR does (R474, R475): an acquire at the tag's home. -/
def readTagAcq (s : State) (e i : Nat) : Except Stop (TagRead × State) := do
  let r ← liftFault (readTag s (curCtx s) e i)
  check r.1.kindOk 0x06 6 (tdTmap e + 2 * i)
  if tdTmap e = 0 then .ok r else
  let o : MemOp := { kind := .load, va := tdTmap e + 2 * i, n := 2, pieces := [{ pa := r.1.pa, n := 2, kind := r.1.kind }], scope := tagScope r.1.kind, ord := 1 }
  if waitsBehind s o then .error (.stall .other) else
  -- what precedes it is performed first, so the tag is read once more behind it
  let s := drainFor r.2 o
  let r ← liftFault (readTag s (curCtx s) e i)
  .ok (r.1, acquireAction r.2 s.curCore o.scope)

/-- The operands and the tag of the tensor form. -/
def tensorForm (w : VEC) (s : State) : Except Stop (TForm × State) := do
  let a := rdS s w.a
  check (!a.poi) causePoison 0 0
  let row0 ← countArg s w.b
  let v := a.v.toNat
  let (e, s) ← operandRef s v
  let (t, s) ← readTagAcq s e (refIdx v)
  .ok ({ e := e, i := refIdx v, tag := t, stale := tileStale s (curBank s).root e (refIdx v) (fmtWidth (tagFmt t.tag)), row0 := row0,
         n := (w.imm.extractLsb' 0 12).toNat + 1 }, s)

/-- The layout rules of the tensor form (R488): SPC 0, or a whole full tile of SPC 4. -/
def tformRows (w : VEC) (t : TForm) : Except Stop Unit := do
  check (tagLay t.tag.tag = 0 && (tagSpc t.tag.tag = 0 || tagSpc t.tag.tag = 4)) 0x09 4 0
  if tagSpc t.tag.tag = 4 then
    check (t.row0 = 0 && t.n = tdTr t.e && !tileClipped t.e t.i && tdTcl t.e ≥ 1) 0x09 4 0
  else
    check (t.row0 + t.n ≤ tileRows t.e t.i) 0x09 0 0
  (t.rows (etWidth (vet w))).foldl (fun r p => do r; vmAligned w p.1) (.ok ())

/-- The tensor form of VLD. -/
def vldTensor (w : VEC) (s : State) : Except Stop Out := do
  let (t, s') ← tensorForm w s
  let et := vet w
  let b := curBank s
  let nd := if et = 4 then b.fd0 = tdNda t.e else if et = 5 then b.fd1 = tdNdb t.e else true
  check (tagFmt t.tag.tag = etFmtCode et && nd && !tagUnk t.tag.tag && !t.stale) 0x09 4 0
  tformRows w t
  let wd := etWidth et
  let nb := ceilDiv (t.clip * wd) 8
  let f : VForm := if tagSpc t.tag.tag = 4 then .pairs (t.n * t.clip / 2) else .dense (List.replicate t.n t.clip)
  Prod.snd <$> vmLoad w s' (t.rows wd) f (tagPoi t.tag.tag || t.tag.poi) (((t.rows wd).map Prod.fst).headD 0) (nb * t.n) (passesOf (nb * t.n) 512)

/-- The data of each row of the tensor form of VST: its bytes and their stretches. The unused nibble of a clipped row of 4-bit elements is a free value, and so
are the bytes of a pair string's footprint after its empty pair (R184). -/
def tensorData (s : State) (w : VEC) (t : TForm) (g : Grp) : Except Stop (List (Nat × List Stretch)) := do
  let et := vet w
  let wd := etWidth et
  let nb := ceilDiv (t.clip * wd) 8
  if tagSpc t.tag.tag = 4 then
    let p := canonRuns (etMaxCount et) (g.runs et)
    let cap := t.n * t.clip / 2
    check (p.length ≤ cap) 0x08 1 0
    let str := p.foldr (fun r a => r.1 % 2 ^ wd + 2 ^ wd * r.2 + 2 ^ (2 * wd) * a) 0
    let len := (if p.length < cap then p.length + 1 else p.length) * wd / 4
    .ok ((List.range t.n).map fun j =>
      let k := min nb (len - nb * j)
      (nbits str (8 * nb * j) (8 * k) + freeAt s (3000 + j) % 2 ^ (8 * (nb - k)) * 2 ^ (8 * k), [(0, nb, g.poi)]))
  else
    check (g.ll = t.n * t.clip) 0x09 0 0
    let v := spreadRuns (g.runs et)
    let members : List Run := g.regs.map fun r => (r.poi.toNat, r.ll.toNat)
    .ok ((List.range t.n).map fun j =>
      let row := packElems wd ((v.drop (j * t.clip)).take t.clip)
      let pad := if t.clip * wd % 8 = 0 then 0 else (freeAt s (3000 + j) % 16) * 2 ^ (t.clip * wd)
      let marks := (sliceRuns members (j * t.clip) t.clip).foldl (fun (a : Nat × List Stretch) p =>
        (a.1 + p.2, a.2 ++ [(a.1 * wd / 8, ceilDiv ((a.1 + p.2) * wd) 8 - a.1 * wd / 8, p.1 == 1)])) (0, [])
      (row + pad, marks.2))

/-- The tensor form of VST: a typed store (R70), whose pieces write the tags of the claimed tiles when they are performed. -/
def vstTensor (w : VEC) (s : State) : Except Stop Out := do
  let g := readGroup s w.d (vg w)
  staleCheck [g]
  let (t, s') ← tensorForm w s
  let et := vet w
  tformRows w t
  etCheck [g] et
  let data ← tensorData s w t g
  let task := (curBank s).task.getD 0
  let rows := (List.zip (t.rows (etWidth et)) data).filterMap fun (r, d) =>
    let n := (d.2.getLast?.map fun e => e.1 + e.2.1).getD 0
    if n = 0 then none else some (r.1, n, d)
  let x ← xlatRanges s' .write false (rows.map fun r => (r.1, r.2.1))
  let s' := x.foldl (fun s p => useTyped s (curCtx s) task (etWidth et) p) s'
  let typed := 1 + etFmtCode et + tagSpc t.tag.tag * 2 ^ 5
  let ops := ((List.zip rows x).flatMap fun (r, p) => storeOps w p r.1 r.2.1 r.2.2.1 r.2.2.2).map fun o => { o with typed := typed }
  if ops.any (fenced s') then .error (.stall .other) else
  vmStores w (useFresh s') ops true (passesOf g.rc 32)

def execVld (w : VEC) (s : State) : Host.Outcome State Fault Refusal :=
  issue (.vld w) (fun s => if w.sub = 0 then vldPlain w s else vldTensor w s) s
def execVst (w : VEC) (s : State) : Host.Outcome State Fault Refusal :=
  issue (.vst w) (fun s => if w.sub = 0 then vstPlain w s else vstTensor w s) s

/-! ## VLDP and VSTP (R490) -/

/-- A register that VLDP fills: raw pairs, STALE, with RC, LL and CAN undefined. -/
def rawReg (s : State) (j : Nat) (et : BitVec 4) (v : Nat) (p : Bool) : VReg :=
  { pairs := BitVec.ofNat 4096 v, et := et, rc := BitVec.ofNat 10 (freeAt s (2000 + 3 * j)), ll := BitVec.ofNat 24 (freeAt s (2001 + 3 * j)),
    can := nbit (freeAt s (2002 + 3 * j)) 0, poi := p, stale := true }

/-- VLDP's body. -/
def vldpBody (w : VEC) (s : State) : Except Stop Out := do
  let va ← vecAddr s w
  vmAligned w va
  let n := 512 * vg w
  let a ← vmAccess w s [(va, n)]
  let r ← vmPerform a.2 a.1
  let ws := (List.range (vg w)).map fun j => Write.vec (physV (curBank s).vrb (w.d.toNat + j)) (rawReg s j w.et (nbits r.1.1 (4096 * j) 4096) r.1.2)
  .ok { s := useFresh r.2, writes := ws, op := vmLater w s va n a.1 { et := vet w, wd := 0, g := vg w, form := .raw }, bound := vmBound w, passes := vg w }
def execVldp (w : VEC) (s : State) : Host.Outcome State Fault Refusal := issue (.vldp w) (vldpBody w) s

/-- VSTP's body. -/
def vstpBody (w : VEC) (s : State) : Except Stop Out := do
  let g := readGroup s w.d (vg w)
  let va ← vecAddr s w
  vmAligned w va
  let n := 512 * vg w
  let x := (← xlatRanges s .write true [(va, n)]).flatten
  let s' := useXlats s (curCtx s) .write true x
  let en := (List.zip (List.range (vg w)) g.regs).map fun e => (512 * e.1, 512, e.2.poi)
  let v := g.regs.foldr (fun r a => r.pairs.toNat + 2 ^ 4096 * a) 0
  vmStores w s' (storeOps w x va n v en) true (vg w)
def execVstp (w : VEC) (s : State) : Host.Outcome State Fault Refusal := issue (.vstp w) (vstpBody w) s

/-! ## VLDRG (R180, R181, R491) -/

/-- VLDRG's body. -/
def vldrgBody (w : VEC) (s : State) : Except Stop Out := do
  let va ← countArg s w.a
  let tbl ← countArg s w.b
  let c ← countArg s w.c
  vmAligned w va
  let n := nbits c 0 16
  let stride := sintN 32 (nbits c 32 32)
  let wd := etWidth (vet w)
  let t ← vmRead w s [(tbl, 2 * n)]
  let lens := (List.range n).map fun j => nbits t.1.1 (16 * j) 16
  check (lens.all fun k => k ≤ nbits c 16 16) 0x09 3 0
  let rows := (List.zip (List.range n) lens).map fun e => (wrapN 64 (va + e.1 * stride), ceilDiv (e.2 * wd) 8)
  let all := 2 * n + (rows.map Prod.snd).foldl (· + ·) 0
  let r ← vmLoad w t.2 rows (.dense lens) t.1.2 tbl all (passesOf all 512)
  let m : List Run := lens.flatMap fun k => if k = 0 then [] else [(1, 1), (0, k - 1)]
  let wm ← writeMask s (w.imm.extractLsb' 0 4).toNat m (t.1.2 || r.1)
  .ok { r.2 with writes := r.2.writes ++ wm }
def execVldrg (w : VEC) (s : State) : Host.Outcome State Fault Refusal := issue (.vldrg w) (vldrgBody w) s

/-! ## VGATH and VSCAT (R485) -/

/-- Every member of the index group that holds an element has ET 12 or 13. -/
def idxOk (g : Grp) : Bool := g.regs.all fun r => r.ll == 0 || r.et = 12 || r.et = 13
/-- The address of the element at an index. -/
def idxAddr (va wd i : Nat) : Nat := (va + i * (wd / 8)) % 2 ^ 64

/-- Where the elements of a VGATH come from: those that the predicate enables are read, and the old elements, or zeros, stand elsewhere (R173, R485). `l`: the index group's runs. -/
def gathPicks (l : List Run) (pred : Option (List Run)) (pn : Bool) (old : Option (List Run)) : List (Option Nat × Nat) :=
  let ps := (piecesAligned (l :: pred.toList)).map fun p => (p.2, pred.isNone || (p.1.getD 1 0 != 0) != pn)
  (ps.foldl (fun (a : Nat × List (Option Nat × Nat)) p =>
    (a.1 + p.1, a.2 ++ (if p.2 then [(none, p.1)] else match old with
      | some o => (sliceRuns o a.1 p.1).map fun r => (some r.1, r.2)
      | none => [(some 0, p.1)]))) (0, [])).2

/-- VGATH's body. -/
def vgathBody (w : VEC) (s : State) : Except Stop Out := do
  let et := vet w
  let b := readGroup s w.b (vg w)
  let pred := predMask s w
  let old := oldGroup s w (vg w) et
  staleCheck (old.toList.map Prod.fst ++ [b] ++ pred.toList)
  check (!b.poi) 0x01 1 0
  let va ← vecAddr s w
  check (idxOk b) 0x09 4 0
  check (match old with | some o => o.1.etOk et | none => true) 0x09 4 0
  check ((pred.toList ++ old.toList.map Prod.fst).all fun g => g.ll = b.ll) 0x09 2 0
  let n := etWidth et / 8
  let ps := piecesAligned ([b.runs 13] ++ pred.toList.map Grp.bits)
  let on := ps.filter fun p => pred.isNone || (p.1.getD 1 0 != 0) != w.hdr.pn
  let f := VForm.picks (gathPicks (b.runs 13) (pred.map Grp.bits) w.hdr.pn (old.map Prod.snd))
  Prod.snd <$> vmLoad w s (on.map fun p => (idxAddr va (etWidth et) (p.1.headD 0), n)) f (pred.any Grp.poi || old.any (·.1.poi)) va (n * on.length) (passesOf ps.length 32)
def execVgath (w : VEC) (s : State) : Host.Outcome State Fault Refusal := issue (.vgath w) (vgathBody w) s

/-- VSCAT's body: each enabled piece is one store, in ascending order. -/
def vscatBody (w : VEC) (s : State) : Except Stop Out := do
  let et := vet w
  let d := readGroup s w.d (vg w)
  let b := readGroup s w.b (vg w)
  let pred := predMask s w
  staleCheck ([d, b] ++ pred.toList)
  check (!b.poi) 0x01 1 0
  let va ← vecAddr s w
  check (idxOk b) 0x09 4 0
  etCheck [d] et
  check (d.ll = b.ll) 0x09 0 0
  check (pred.all fun p => p.ll = b.ll) 0x09 2 0
  let wd := etWidth et
  let members : List Run := (d.regs.map fun r => (r.poi.toNat, r.ll.toNat)).filter fun r => r.2 != 0
  let ps := piecesAligned ([b.runs 13, d.runs et, members] ++ pred.toList.map Grp.bits)
  let on := ps.filter fun p => pred.isNone || (p.1.getD 3 0 != 0) != w.hdr.pn
  let va1 := on.map fun p => (idxAddr va wd (p.1.headD 0), wd / 8)
  let x ← xlatRanges s .write true va1
  let s' := x.foldl (fun s p => useXlats s (curCtx s) .write true p) s
  let ops := (List.zip on (List.zip va1 x)).map fun e =>
    { vmOp w .store e.2.1.1 e.2.1.2 e.2.2 with data := e.1.1.getD 1 0, pdata := e.1.1.getD 2 0 = 1 }
  vmStores w s' ops false (passesOf (piecesAligned ([b.runs 13, d.runs et] ++ pred.toList.map Grp.bits)).length 32)
def execVscat (w : VEC) (s : State) : Host.Outcome State Fault Refusal := issue (.vscat w) (vscatBody w) s

end Sys2Proof.Machine
end

