-- ==== Sys2Proof/Machine/Copy.lean ====
section
/-! DEFINITION. Copy commands and the copy words (0xC0-0xC6, 0xE0, 0xE1): R238-R247, R271, R390-R393, R444, R513, R514. -/
namespace Sys2Proof.Machine

/-! ## The 64-byte command (R239) -/

def ccKind (c : Nat) : Nat := nbits c 0 4
def ccCq (c : Nat) : Nat := nbits c 4 3
def ccScope (c : Nat) : Nat := nbits c 7 2
def ccNote (c : Nat) : Bool := nbit c 9
def ccErrstop (c : Nat) : Bool := nbit c 10
def ccTag (c : Nat) : Bool := nbit c 11
def ccWaitc (c : Nat) : Bool := nbit c 12
def ccPostc (c : Nat) : Bool := nbit c 13
def ccBar (c : Nat) : Nat := nbits c 14 11
def ccRtype (c : Nat) : Nat := nbits c 25 2
def ccWctr (c : Nat) : Nat := nbits c 27 3
def ccWval (c : Nat) : Nat := nbits c 32 32
def ccSrc (c : Nat) : Nat := nbits c 64 64
def ccDst (c : Nat) : Nat := nbits c 128 57
def ccE0 (c : Nat) : Nat := nbits c 192 24
def ccE1 (c : Nat) : Nat := nbits c 216 12
def ccE2 (c : Nat) : Nat := nbits c 228 12
def ccAinc (c : Nat) : Nat := nbits c 240 12
def ccActr (c : Nat) : Nat := nbits c 252 3
def ccSs1 (c : Nat) : Int := sintN 24 (nbits c 256 24)
def ccDs1 (c : Nat) : Int := sintN 24 (nbits c 280 24)
def ccTagv (c : Nat) : Nat := nbits c 304 13
def ccSs2 (c : Nat) : Int := sintN 32 (nbits c 320 32)
def ccDs2 (c : Nat) : Int := sintN 32 (nbits c 352 32)
def ccX2 (c : Nat) : Nat := nbits c 320 64
def ccNaddr (c : Nat) : Nat := nbits c 384 57
def ccNval (c : Nat) : Nat := nbits c 448 64
/-- Rows and planes of STRIDED; elements of GATHER and SCATTER (R240). -/
def ccRows (c : Nat) : Nat := max 1 (ccE1 c)
def ccPlanes (c : Nat) : Nat := max 1 (ccE2 c)
def ccCount (c : Nat) : Nat := ccE2 c * 4096 + ccE1 c
/-- Length in bytes (R240). -/
def ccLen (c : Nat) : Nat :=
  let k := ccKind c
  if k = 1 then ccE0 c * ccRows c * ccPlanes c else if k = 2 ∨ k = 3 then ccE0 c * ccCount c else if k = 8 then 0 else ccE0 c
/-- Bytes of a REDUCE-ADD element. -/
def ccElem (c : Nat) : Nat := if ccRtype c = 1 then 8 else 4
/-- Every RsvdZ bit is 0. -/
def ccRsvdOk (c : Nat) : Bool := nbits c 441 7 = 0 && nbits c 317 3 = 0 && !nbit c 255 && nbits c 185 7 = 0 && nbits c 30 2 = 0
/-- The fields that the kind shows as zero are 0. -/
def ccZeroOk (c : Nat) : Bool :=
  let k := ccKind c
  (k = 1 || k = 2 || k = 3 || ccX2 c = 0) && (k = 1 || nbits c 256 48 = 0) && (k = 1 || k = 2 || k = 3 || nbits c 216 24 = 0) &&
    (!(k = 2 || k = 3) || ccX2 c < 2 ^ 57) && (k = 5 || ccSrc c < 2 ^ 57) && (k ≤ 5 || ccSrc c = 0) && (k != 8 || (ccDst c = 0 && ccE0 c = 0)) &&
    (k = 4 || ccRtype c = 0) && (ccTag c || ccTagv c = 0)
/-- TAG stands on a kind that takes it, with no reserved code. -/
def ccTagOk (c : Nat) : Bool := !ccTag c || ((ccKind c = 0 || ccKind c = 1 || ccKind c = 5) && !tagReserved (ccTagv c))
/-- The rules of R241 but for reel flags, BAR and L. -/
def ccOk (c : Nat) : Bool :=
  let k := ccKind c
  k ≤ 8 && ccRsvdOk c && ccZeroOk c && ccTagOk c && (k != 8 || ccNote c) && (!ccNote c || ccNaddr c % 8 = 0) &&
    (k != 1 || ((ccRows c = 1 || decide ((ccE0 c : Int) ≤ ccDs1 c)) &&
      (ccPlanes c = 1 || decide ((ccRows c - 1 : Nat) * ccDs1 c + (ccE0 c : Int) ≤ ccDs2 c)))) &&
    (k != 4 || (ccScope c ≥ 2 && ccRtype c != 3 && ccSrc c % ccElem c = 0 && ccDst c % ccElem c = 0 && ccE0 c % ccElem c = 0))

/-! ## Slots and queues (R238, R244) -/

/-- Some commands of a core stand ahead of one in its queue. -/
def aheadOf (k : Core) (c : CopyCmd) : List CopyCmd := (k.slots.map (·.2)).filter fun x => x.cq = c.cq && x.seq < c.seq
/-- A command that the fence keeps it behind has not ended. -/
def gated (k : Core) (c : CopyCmd) : Bool := k.slots.any fun e => c.gate.contains e.2.seq
/-- The free slots. -/
def freeSlots (k : Core) : List Nat := (List.range 1024).filter fun n => !(k.slots.any fun e => e.1 = n)

/-- The context of a command's accesses. -/
def copyCtx (core : Nat) (c : CopyCmd) : Ctx := { core := core, root := c.root, key := c.key, sup := c.sup, task := c.task, eng := true }
/-- SRC of a fault record: queue, slot, core, cluster (R237). -/
def copyUnit (core slot cq : Nat) : Nat := cq + slot * 2 ^ 3 + (core % 4) * 2 ^ 13 + (core / 4 % 32) * 2 ^ 15

/-- Places a command in a free slot; the spec does not say which (log entry 11). L is added to PEND (R245). -/
def placeCmd (s : State) (core : Nat) (c : CopyCmd) : State :=
  let k := coreOf s core
  let free := freeSlots k
  let slot := free.getD (freeAt s 4000 % free.length) 0
  let gate := k.fences.flatMap fun f => if f.1.contains c.cq then f.2 else []
  let s := if c.len = 0 then s else barChange s core c.bar .expect c.len
  useFresh (updCore s core fun k => { k with slots := tset k.slots slot { c with seq := k.copySeq, gate := gate }, copySeq := k.copySeq + 1 })

/-! ## Error latches (R242) -/

def latched (s : State) (core task cq : Nat) : Bool := (if task = 0 then (coreOf s core).latches else (taskOf s task).latches).contains cq
def setLatch (s : State) (core task cq : Nat) : State :=
  if task = 0 then updCore s core fun k => { k with latches := insertAsc k.latches cq } else updTask s task fun t => { t with latches := insertAsc t.latches cq }

/-! ## Reel control blocks, as commands update them (R252, R254) -/

def rcBase (r : Nat) : Nat := nbits r 0 57
def rcLog (r : Nat) : Nat := nbits r 64 4
def rcCq (r : Nat) : Nat := nbits r 68 3
def rcState (r : Nat) : Nat := nbits r 72 2
def rcErrn (r : Nat) : Nat := nbits r 80 16
def rcHead (r : Nat) : Nat := nbits r 128 32
def rcTail (r : Nat) : Nat := nbits r 160 32
def rcDone (r : Nat) : Nat := nbits r 192 32
def rcLink (r : Nat) : Nat := nbits r 256 57
def rcCtr (r j : Nat) : Nat := nbits r (512 + 64 * j) 64
/-- Every RsvdZ field is 0 and RLOG is at most 12 (R452). -/
def rcOk (r : Nat) : Bool :=
  nbits r 57 7 = 0 && !nbit r 71 && nbits r 74 6 = 0 && nbits r 96 32 = 0 && nbits r 224 32 = 0 && nbits r 313 199 = 0 && rcLog r ≤ 12

/-- A piece of an RCB. -/
def rcbPiece (pa n : Nat) : List Piece := (pieces 32 pa n).map fun q => { pa := q.1, n := q.2 }
/-- Reads an RCB at its home (R252): its value, and whether an atom is poisoned. -/
def rcbRead (s : State) (core pa : Nat) : (Nat × Bool) × State := readPieces s core 2 (rcbPiece pa 128)
/-- Writes bytes of an RCB at its home. -/
def rcbWrite (s : State) (core pa off n v : Nat) : State := writePieces s core 2 false (rcbPiece (pa + off) n) v
def rcbSetState (s : State) (core pa v : Nat) : State :=
  let r := rcbRead s core pa
  rcbWrite r.2 core pa 8 8 (setBits (nbits r.1.1 64 64) 8 2 v)

/-- A reel that is stopping is stopped once every entry that it has fetched has ended (R254). -/
def reelStop (s : State) (core rcb : Nat) : State :=
  let k := coreOf s core
  if (k.reels.any fun r => r.rcb = rcb && r.stopping) && !(k.slots.any fun e => e.2.reel = some rcb) then
    updCore (rcbSetState s core rcb 3) core fun k => { k with reels := k.reels.filter fun r => r.rcb != rcb }
  else s

/-- An entry of a reel has ended: DONE and ERRN count it, and POSTC advances its counter (R252, R254). -/
def reelEnded (s : State) (core rcb cmd status : Nat) : State :=
  let r := rcbRead s core rcb
  let s := rcbWrite r.2 core rcb 24 4 (rcDone r.1.1 + 1)
  let s := if status = 0 then s else rcbWrite s core rcb 10 2 (min (rcErrn r.1.1 + 1) 65535)
  let s := if ccPostc cmd then rcbWrite s core rcb (64 + 8 * ccActr cmd) 8 (rcCtr r.1.1 (ccActr cmd) + ccAinc cmd) else s
  reelStop s core rcb

/-! ## Ending (R243) -/

/-- A command ends with a status: the slot is free; any status but DONE sets ERR in its barrier and its queue's latch, and PEND loses what was not performed. -/
def endCopy (s : State) (core slot status : Nat) : State :=
  match tfind (coreOf s core).slots slot with
  | none => s
  | some c =>
    let s := updCore s core fun k => { k with slots := tdel k.slots slot }
    let s :=
      if status = 0 then s
      else if c.len - c.done = 0 then barChange s core c.bar .expect 0 true
      else barChange s core c.bar .sub (c.len - c.done) true true
    let s := if status = 0 then s else setLatch s core c.task c.cq
    match c.reel with
    | some rcb => reelEnded s core rcb c.cmd.toNat status
    | none => s

/-- The command parks on a fault, and its record is posted (R246); one of a task that is failing ends ABORTED there (R511). -/
def parkCopy (s : State) (core slot : Nat) (c : CopyCmd) (acc : Acc) (f : PageFault) : State :=
  let s := updCore s core fun k => { k with slots := tset k.slots slot { c with st := .parked } }
  let s := postRecord s (dieOfCore core) (faultRecord s (copyCtx core c) acc (dieOfCore core) 0 (copyUnit core slot c.cq) c.done f) none (some (.copies core))
  if c.task != 0 && (taskOf s c.task).failing.isSome then endCopy s core slot 1 else s

/-- The notify word is written, and the command ends (R242); while a link holds the release or the word, the command stays (R288). -/
def finishCopy (s : State) (core slot : Nat) : State :=
  match tfind (coreOf s core).slots slot with
  | none => s
  | some c =>
    let img := c.cmd.toNat
    if c.badIdx then endCopy s core slot 6
    else if !ccNote img then endCopy s core slot 0
    else
      match xlat s (copyCtx core c) .copyWrite true (ccNaddr img) 8 with
      | .error f => parkCopy s core slot c .copyWrite f
      | .ok l =>
        if opHeld s core { kind := .store, pieces := piecesOf l, scope := ccScope img, ord := 2 } then s else
        let s := releaseAction (useXlats s (copyCtx core c) .copyWrite true l) core (ccScope img)
        endCopy (writePieces s core (ccScope img) false (piecesOf l) (ccNval img)) core slot 0

/-! ## Chunks (R240, R245) -/

/-- Bytes that are contiguous on both sides: their source and destination VA, where there is one, and their number. -/
structure Seg where
  src : Option Nat
  dst : Option Nat
  n : Nat
  deriving DecidableEq, Repr

/-- Index `i` of a GATHER or SCATTER; none in a poisoned atom (R514). -/
def copyIndex (s : State) (core : Nat) (c : CopyCmd) (i : Nat) : Except PageFault (Option Nat × State) := do
  let ctx := copyCtx core c
  let l ← xlat s ctx .copyRead false (ccX2 c.cmd.toNat + 4 * i) 4
  let r := readPieces (useXlats s ctx .copyRead false l) core (ccScope c.cmd.toNat) (piecesOf l)
  .ok (if r.1.2 then none else some r.1.1, r.2)

/-- What stands at a place of a command's bytes, up to the end of its row or element. -/
def segAt (s : State) (core : Nat) (c : CopyCmd) (pos : Nat) : Except PageFault (Seg × State) := do
  let m := c.cmd.toNat
  let k := ccKind m
  let e := ccE0 m
  if k = 0 ∨ k = 4 then .ok (⟨some (ccSrc m + pos), some (ccDst m + pos), c.len - pos⟩, s)
  else if k = 1 then
    let q := pos / e
    let p : Int := (q / ccRows m : Nat)
    let r : Int := (q % ccRows m : Nat)
    let b : Int := (pos % e : Nat)
    .ok (⟨some (wrapN 64 (ccSrc m + p * ccSs2 m + r * ccSs1 m + b)), some (wrapN 64 (ccDst m + p * ccDs2 m + r * ccDs1 m + b)), e - pos % e⟩, s)
  else if k = 2 then
    let (i, s) ← copyIndex s core c (pos / e)
    .ok (⟨i.map fun i => (ccSrc m + i * e + pos % e) % 2 ^ 64, some (ccDst m + pos), e - pos % e⟩, s)
  else if k = 3 then
    let (i, s) ← copyIndex s core c (pos / e)
    .ok (⟨some (ccSrc m + pos), i.map fun i => (ccDst m + i * e + pos % e) % 2 ^ 64, e - pos % e⟩, s)
  else .ok (⟨none, some (ccDst m + pos), c.len - pos⟩, s)

/-- Bytes to the end of a page. -/
def pageRoom (va : Option Nat) (n : Nat) : Nat := match va with | some v => min n (4096 - v % 4096) | none => n
/-- A segment stays in the page of the chunk. -/
def samePage (p : Option Nat) (va : Option Nat) : Bool := match p, va with | some a, some v => a = v / 4096 | _, _ => true

/-- The segments of the chunk at a place: the longest stretch whose source lies in one page and whose destination lies in one page. A fault of an index list ends
the chunk before its element. -/
def chunkSegs (core : Nat) (c : CopyCmd) : Nat → State → Nat → Option Nat → Option Nat → List Seg × Option PageFault × State
  | 0, s, _, _, _ => ([], none, s)
  | fuel + 1, s, pos, sp, dp =>
    if pos ≥ c.len then ([], none, s) else
    match segAt s core c pos with
    | .error f => ([], some f, s)
    | .ok (g, s') =>
      if !(samePage sp g.src && samePage dp g.dst) then ([], none, s) else
      let n := min (pageRoom g.src g.n) (pageRoom g.dst g.n)
      let sp := if sp.isSome then sp else g.src.map (· / 4096)
      let dp := if dp.isSome then dp else g.dst.map (· / 4096)
      let r := chunkSegs core c fuel s' (pos + n) sp dp
      ({ g with n := n } :: r.1, r.2.1, r.2.2)

/-- The piece of a page at a VA. -/
def pieceAt (x : Xlat) (va n : Nat) : Piece := { pa := x.pa + va - x.va, n := n, kind := x.kind, sm := x.sm, tagged := x.tagged }
/-- `n` bytes at a VA of a page, one piece for each atom. -/
def pagePieces (x : Xlat) (va n : Nat) : List Piece := (pieces 32 va n).map fun q => pieceAt x q.1 q.2

/-- `n` bytes whose source overlaps their destination from below are taken in processing order: each byte from what the bytes before it have left. -/
def overlapBytes (spa dpa n v : Nat) : Nat :=
  if spa < dpa ∧ dpa < spa + n then (List.range n).foldr (fun j a => nbits v (8 * (j % (dpa - spa))) 8 + 256 * a) 0 else v

/-- Writes the bytes of one destination atom. -/
def copyAtom (core : Nat) (c : CopyCmd) (xs : Option Xlat) (xd : Xlat) (pos : Nat) (src : Option Nat) (dst n : Nat) (s : State) : State :=
  let m := c.cmd.toNat
  let sc := ccScope m
  let (v, p, s) : Nat × Bool × State := match src, xs with
    | some a, some x =>
      let r := readPieces s core sc (pagePieces x a n)
      (overlapBytes (pieceAt x a n).pa (pieceAt xd dst n).pa n r.1.1, r.1.2, r.2)
    | _, _ =>
      if ccKind m = 5 then ((List.range n).foldr (fun j a => nbits (ccSrc m) (8 * ((pos + j) % 8)) 8 + 256 * a) 0, false, s)
      else (freeAt s (5000 + pos) % 256 ^ n, true, s)
  let s := writePieces s core sc p [pieceAt xd dst n] v
  if p then notePoison s c.task dst n else s

/-- Adds the elements of a REDUCE-ADD segment, one atomic add at a time (R240, R264). -/
def reduceElems (core : Nat) (c : CopyCmd) (xs xd : Xlat) (src dst : Nat) : Nat → State → State
  | 0, s => s
  | k + 1, s =>
    let m := c.cmd.toNat
    let n := ccElem m
    let r := readPieces s core (ccScope m) (pagePieces xs src n)
    let o := readPieces r.2 core (ccScope m) (pagePieces xd dst n)
    let p := r.1.2 || o.1.2
    let s := writePieces o.2 core (ccScope m) p (pagePieces xd dst n) (amoValue (if ccRtype m = 2 then 9 else 1) (8 * n) o.1.1 r.1.1)
    let s := if r.1.2 then notePoison s c.task dst n else s
    reduceElems core c xs xd (src + n) (dst + n) k s

/-- The caches that FLUSH and INV reach (R513). -/
def reachedClusters (s : State) (core scope : Nat) : List Nat := if scope ≤ 1 then [clusterOfCore core] else s.clusters.map (·.1)
/-- A write-back of the line that a FLUSH or INV has to make is held by a link (R288, R513). -/
def flushHeld (s : State) (core scope ln : Nat) : Bool :=
  let dirty := (reachedClusters s core scope).any fun k => (findLine (clusterOf s k).cache ln).any fun x => x.dirty != 0
  let agent := (findLine (agentCache s (agentOf (128 * ln))) ln).any fun x => x.dirty != 0
  paPool (128 * ln) && ((dirty && !canOwn s ln) || (scope = 3 && (dirty || agent) && !canSend s ln))
/-- One line of a FLUSH, or with `drop` of an INV (R513). -/
def flushLine (core scope : Nat) (drop : Bool) (s : State) (ln : Nat) : State :=
  let ks := reachedClusters s core scope
  let s := ks.foldl (fun s k => cleanLine s k ln) s
  let s := if scope = 3 && paPool (128 * ln) then cleanAgentLine s (agentOf (128 * ln)) ln else s
  if !drop then s else
  let s := ks.foldl (fun s k => updCluster s k fun c => { c with cache := dropLine c.cache ln }) s
  if scope = 3 && paPool (128 * ln) then setAgentCache s (agentOf (128 * ln)) (dropLine (agentCache s (agentOf (128 * ln))) ln) else s

/-- The kind of access that a command's destination needs. -/
def dstAcc (k : Nat) : Acc := if k = 4 then .atomic else if k ≥ 6 then .copyRead else .copyWrite

/-- Translates the page of the chunk's first byte on a side, with the limits of its kind: a scope that the KIND permits for REDUCE-ADD (R255, R264), no window
for FLUSH and INV (R444). -/
def chunkPage (s : State) (core : Nat) (c : CopyCmd) (acc : Acc) (raw : Bool) (va : Nat) : Except PageFault Xlat := do
  let k := ccKind c.cmd.toNat
  let ctx := copyCtx core c
  let l ← xlatPages s ctx acc raw va (if k = 4 then ccElem c.cmd.toNat else 1)
  match l with
  | [] => .error ⟨0x05, 7, va, 0, 4⟩
  | x :: _ =>
    if k ≥ 6 && k ≤ 7 && x.kind = .window then .error ⟨0x06, 6, va, x.leaf.pte, x.leaf.level⟩
    else if acc = .atomic && !scopeOk core (ccScope c.cmd.toNat) x then .error ⟨0x06, 8, va, x.leaf.pte, x.leaf.level⟩
    else
      regionsOk s ctx l
      .ok x

/-- The chunk's payload at its pages. -/
def chunkWrite (s : State) (core : Nat) (c : CopyCmd) (segs : List Seg) (xs xd : Option Xlat) : State :=
  let m := c.cmd.toNat
  let k := ccKind m
  match xd with
  | none => s
  | some xd =>
    (segs.foldl (fun (a : Nat × State) g =>
      let s := match g.dst with
        | none => a.2
        | some d =>
          if k ≥ 6 then (linesOf (pieceAt xd d g.n).pa g.n).foldl (fun s ln => flushLine core (ccScope m) (k = 7) s ln) a.2
          else if k = 4 then
            match xs, g.src with
            | some x, some sv => reduceElems core c x xd sv d (g.n / ccElem m) a.2
            | _, _ => a.2
          else
            let s := if ccTag m then typedStore a.2 c.task d g.n (nbits (ccTagv m) 0 5) (nbits (ccTagv m) 5 4) (nbits (ccTagv m) 9 4) else a.2
            (pieces 32 d g.n).foldl (fun s q => copyAtom core c xs xd (a.1 + (q.1 - d)) (g.src.map (· + (q.1 - d))) q.1 q.2 s) s
      (a.1 + g.n, s)) (c.done + c.part, s)).2

/-- A chunk that a link holds: a fill that no cache it reads makes needless, a write at an agent that does not own the line, or a write-back (R288, R300, R513). -/
def chunkHeld (s : State) (core : Nat) (c : CopyCmd) (segs : List Seg) (xs xd : Option Xlat) : Bool :=
  let k := ccKind c.cmd.toNat
  let sc := ccScope c.cmd.toNat
  let fill := fun (q : Piece) => q.kind.pooled && (if sc ≤ 1 then !clusterHas s core q && linkDown s q.pa else linkDown s q.pa)
  segs.any fun g =>
    (match xs, g.src with | some x, some v => (pagePieces x v g.n).any fill | _, _ => false) ||
    (match xd, g.dst with
      | some x, some v =>
        if k ≥ 6 then (linesOf (pieceAt x v g.n).pa g.n).any (flushHeld s core sc)
        else (pagePieces x v g.n).any fun q => (k = 4 && fill q) || (q.kind.pooled && (sc ≥ 2 || clusterStuck s (clusterOfCore core) (q.pa / 128)) && !canOwn s (q.pa / 128))
      | _, _ => false)

/-- The page of a side of the chunk: the one that a chunk which has begun uses, else a new translation of its first byte (R246). -/
def chunkSide (s : State) (core : Nat) (c : CopyCmd) (acc : Acc) (raw : Bool) (kept : Option (Nat × Piece)) (va : Option Nat) : Except PageFault (Option Xlat) :=
  match va, kept with
  | none, _ => .ok none
  | some _, some p => .ok (some { va := p.1, n := 1, pa := p.2.pa, kind := p.2.kind, sm := p.2.sm, tagged := p.2.tagged, leaf := ⟨0, 0, 1, 0⟩ })
  | some v, none => some <$> chunkPage s core c acc raw v
/-- A page that a chunk goes on using. -/
def keepPage (x : Xlat) : Nat × Piece := (x.va, { pa := x.pa, n := 1, kind := x.kind, sm := x.sm, tagged := x.tagged })
/-- The segments of the chunk from where it stands, and what ends it early. -/
def chunkLeft (s : State) (core : Nat) (c : CopyCmd) : List Seg × Option PageFault × State := chunkSegs core c 8192 s (c.done + c.part) none none
/-- The bytes of segments. -/
def segBytes (l : List Seg) : Nat := l.foldl (fun a g => a + g.n) 0
/-- The first stretch of a chunk that is performed alone: an element of a REDUCE-ADD, the bytes up to the end of a destination atom, or one byte of a window that the chunk does not reach in one
atom (R226, R264). FLUSH and INV take their chunk whole, and so does a chunk with a poisoned index. -/
def firstCut (c : CopyCmd) (segs : List Seg) (xd : Option Xlat) : List Seg :=
  let k := ccKind c.cmd.toNat
  let sided := (k != 2 && k != 3) || segs.all fun g => g.src.isSome && g.dst.isSome
  if !sided then segs else
  match segs, xd with
  | g :: _, some x => match g.dst with
    | some d =>
      let one := c.part = 0 && segBytes segs ≤ 32 && (pieceAt x d g.n).pa / 32 = ((pieceAt x d g.n).pa + segBytes segs - 1) / 32
      let m := if k = 4 then ccElem c.cmd.toNat else if x.kind = .window && !one then 1 else 32 - (pieceAt x d g.n).pa % 32
      if k ≥ 6 || g.n ≤ m then (if k ≥ 6 then segs else [g]) else [{ g with n := m }]
    | none => [g]
  | _, _ => segs

/-- `n` more bytes end the chunk: the command's place moves past it, and PEND loses its bytes (R245). -/
def chunkDone (s : State) (core slot : Nat) (c : CopyCmd) (n : Nat) : State :=
  let c' := { c with done := c.done + c.part + n, part := 0, srcPage := none, dstPage := none, sent := s.cycle }
  barChange (updCore s core fun k => { k with slots := tset k.slots slot c' }) core c.bar .sub (c.part + n) false true
/-- The command of a slot ends when all its bytes have been performed. -/
def copyOver (s : State) (core slot : Nat) : State :=
  match tfind (coreOf s core).slots slot with
  | some c => if c.done ≥ c.len then finishCopy s core slot else s
  | none => s
/-- A segment's write has no destination in a SCATTER (R514). -/
def lostIdx (c : CopyCmd) (segs : List Seg) : Bool := ccKind c.cmd.toNat = 3 && segs.any fun g => g.dst.isNone

/-- Performs the next chunk of a running command, or, of a free choice unless `whole`, a first stretch of what is left of it alone (R226, R245, R246). -/
def performChunk (s : State) (core slot : Nat) (c : CopyCmd) (whole : Bool := false) : State :=
  let m := c.cmd.toNat
  if c.done ≥ c.len then finishCopy s core slot else
  let (segs, fault, s) := chunkLeft s core c
  if segBytes segs = 0 then
    match fault with
    | some f => if c.part = 0 then parkCopy s core slot c .copyRead f else chunkDone s core slot c 0
    | none => s
  else
    let ctx := copyCtx core c
    let raw := !ccTag m || segs.any fun g => match g.dst with | some d => rawPart s c.task (fmtWidth (nbits (ccTagv m) 0 5)) d g.n | none => false
    let acc := dstAcc (ccKind m)
    match chunkSide s core c .copyRead false c.srcPage (segs.findSome? (·.src)), chunkSide s core c acc raw c.dstPage (segs.findSome? (·.dst)) with
    | .error f, _ => parkCopy s core slot c .copyRead f
    | _, .error f => parkCopy s core slot c acc f
    | .ok xs, .ok xd =>
      if chunkHeld s core c segs xs xd then s else
      let s := if c.part = 0 then useXlats (useXlats s ctx .copyRead false xs.toList) ctx acc (raw && acc.writes) xd.toList else s
      let now := if whole || !nbit (freeAt s 658) 0 then segs else firstCut c segs xd
      let s := useFresh (chunkWrite s core c now xs xd)
      let c := { c with badIdx := c.badIdx || lostIdx c now }
      if segBytes now = segBytes segs then copyOver (chunkDone s core slot c (segBytes now)) core slot
      else updCore s core fun k => { k with slots := tset k.slots slot { c with part := c.part + segBytes now, srcPage := xs.map keepPage, dstPage := xd.map keepPage } }
/-- A chunk that has begun cannot go on: a link holds it. -/
def chunkStuck (s : State) (core : Nat) (c : CopyCmd) : Bool :=
  let (segs, _, s) := chunkLeft s core c
  match chunkSide s core c .copyRead false c.srcPage (segs.findSome? (·.src)), chunkSide s core c .copyWrite false c.dstPage (segs.findSome? (·.dst)) with
  | .ok xs, .ok xd => chunkHeld s core c segs xs xd
  | _, _ => false
/-- What is left of a chunk that has begun is performed. -/
def endChunk (s : State) (core slot : Nat) : State :=
  match tfind (coreOf s core).slots slot with
  | some c => if c.part = 0 then s else performChunk s core slot c true
  | none => s

/-! ## The copy words (R390-R392, R444) -/

/-- A VA register of a copy word. -/
def copyVa (v : Nat) : Except Stop Unit := check (v < 2 ^ 57) 0x05 7 v

/-- The command that a copy word of kind `k` builds from its registers, after the checks of R392 but for the slot and PEND. -/
def buildCopy (k : Nat) (w : CPY) (s : State) : Except Stop Nat := do
  let reg := fun (f : BitVec 7) => (rdS s f).v.toNat
  let useSrc := k ≤ 5
  let useDst := k != 8
  let useAux := k = 1 || k = 2 || k = 3
  let used := (if useDst then [w.dst] else []) ++ (if useSrc then [w.src] else []) ++ (if k = 8 then [] else [w.len]) ++
    (if useAux then [w.aux] else []) ++ (if k = 1 then [w.aux + 1] else []) ++ (if w.note then [w.nrg, w.nrg + 1] else [])
  check (used.all fun f => !(rdS s f).poi) causePoison 0 0
  let len := if k = 8 then 0 else reg w.len
  check (len < 2 ^ 48 && (k != 1 || reg w.aux < 2 ^ 48)) 0x01 1 0
  if useDst then copyVa (reg w.dst) else .ok ()
  if useSrc && k != 5 then copyVa (reg w.src) else .ok ()
  if k = 2 || k = 3 then copyVa (reg w.aux) else .ok ()
  if w.note then copyVa (reg w.nrg) else .ok ()
  let strides := if k = 1 then (nbits (reg w.aux) 0 24) * 2 ^ 256 + (nbits (reg w.aux) 24 24) * 2 ^ 280 + reg (w.aux + 1) * 2 ^ 320
    else if useAux then reg w.aux * 2 ^ 320 else 0
  let img := k + w.cq.toNat * 2 ^ 4 + w.scope.toNat * 2 ^ 7 + w.note.toNat * 2 ^ 9 + w.errstop.toNat * 2 ^ 10 + w.tag.toNat * 2 ^ 11 +
    w.bar.toNat * 2 ^ 14 + w.rtype.toNat * 2 ^ 25 + (if useSrc then reg w.src * 2 ^ 64 else 0) + (if useDst then reg w.dst * 2 ^ 128 else 0) +
    len * 2 ^ 192 + strides + w.tagv.toNat * 2 ^ 304 + (if w.note then reg w.nrg * 2 ^ 384 + reg (w.nrg + 1) * 2 ^ 448 else 0)
  check (ccBar img < (curBank s).bcnt.toNat) 0x1C 0 0
  check (ccLen img < 2 ^ 24) 0x1B 0 0
  check (ccOk img) 0x01 1 0
  .ok img

/-- PEND can take L more (R245): otherwise the word waits for it to drain, or traps when nothing can drain it. -/
def pendRoom (s : State) (core bar len : Nat) : Except Stop Unit :=
  if barPend s core bar + len < 2 ^ 24 then .ok ()
  else if copyNames s core bar then .error (.stall .other) else trap 0x1C 1 0

/-- A copy word of kind `k`: its strand's earlier accesses are performed before the command exists (R271). -/
def copyBody (k : Nat) (w : CPY) (s : State) : Except Stop Out := do
  let img ← buildCopy k w s
  let b := curBank s
  let bar := b.bbase.toNat + ccBar img
  if (freeSlots (coreOf s s.curCore)).isEmpty || waitsBehind s { kind := .store } then .error (.stall .other) else
  pendRoom s s.curCore bar (ccLen img)
  let c : CopyCmd := { cmd := BitVec.ofNat 512 img, task := b.task.getD 0, sup := supervisor s s.curCore, root := b.root, key := b.key,
                       cq := w.cq.toNat, bar := bar, len := ccLen img }
  .ok { s := placeCmd (drainCur s) s.curCore c }

def execCpy (w : CPY) (s : State) : Host.Outcome State Fault Refusal := issue (.cpy w) (copyBody 0 w) s
def execCpys (w : CPY) (s : State) : Host.Outcome State Fault Refusal := issue (.cpys w) (copyBody 1 w) s
def execCpyg (w : CPY) (s : State) : Host.Outcome State Fault Refusal := issue (.cpyg w) (copyBody 2 w) s
def execCpysc (w : CPY) (s : State) : Host.Outcome State Fault Refusal := issue (.cpysc w) (copyBody 3 w) s
def execCpyr (w : CPY) (s : State) : Host.Outcome State Fault Refusal := issue (.cpyr w) (copyBody 4 w) s
def execCpyf (w : CPY) (s : State) : Host.Outcome State Fault Refusal := issue (.cpyf w) (copyBody 5 w) s
def execCpyn (w : CPY) (s : State) : Host.Outcome State Fault Refusal := issue (.cpyn w) (copyBody 8 w) s
def execPflush (w : CPY) (s : State) : Host.Outcome State Fault Refusal := issue (.pflush w) (copyBody 6 w) s
def execPinv (w : CPY) (s : State) : Host.Outcome State Fault Refusal := issue (.pinv w) (copyBody 7 w) s

end Sys2Proof.Machine
end

