-- ==== Sys2Proof/Machine/Reel.lean ====
section
/-! DEFINITION. Reels: the words of A (0xC8-0xCB) and the engine's fetching (R252-R254, R452-R456). -/
namespace Sys2Proof.Machine

/-- The RCB that register A names, after the checks of R452: its address and value, and whether an atom is poisoned. -/
def reelBlock (s : State) (va : Nat) (acc : Acc) : Except Stop (Nat × (Nat × Bool) × State) := do
  let l ← liftFault (xlatPages s (curCtx s) acc acc.writes va 128)
  let pa := (l.map Xlat.pa).headD 0
  check (l.all fun x => x.kind = .loc) 0x06 6 va
  if waitsBehind s { kind := .store, scope := 2 } then .error (.stall .other) else
  let r := rcbRead (drainCur (useXlats s (curCtx s) acc acc.writes l)) s.curCore pa
  check (rcOk r.1.1) 0x01 1 0
  .ok (pa, r.1, r.2)

/-- Copies an image of 64 bytes into a ring entry with the poison of its atoms. -/
def appendImage (s : State) (core scope task dst : Nat) (img ent : List Piece) : State :=
  let r := readMarked s core scope 0 img
  r.1.2.foldl (fun s e => notePoison s task (dst + e.1) e.2) (writeMarked r.2 core scope r.1.1 r.1.2 0 ent)

/-- The ring's base is aligned to the ring's size, as it must be (R252). -/
def ringOk (r : Nat) : Bool := rcBase r % (64 * 2 ^ rcLog r) = 0
/-- The bytes of an entry of a ring that is not aligned become undefined values (R1). -/
def scrambleEntry (s : State) (core scope r : Nat) (l : List Piece) : State :=
  if ringOk r then s else useFresh (writePieces s core scope false l (freeAt s 672 % 2 ^ 512))
/-- REELAPP's body (R453). -/
def reelappBody (w : RR) (s : State) : Except Stop Out := do
  let a := rdS s w.a
  let b := rdS s w.b
  check (!a.poi && !b.poi) causePoison 0 0
  aligned a.v.toNat 128
  aligned b.v.toNat 64
  let _ ← liftFault (xlatPages s (curCtx s) .write true a.v.toNat 128)
  let img ← liftFault (xlat s (curCtx s) .read false b.v.toNat 64)
  let (pa, (r, _), s) ← reelBlock s a.v.toNat .write
  if (rcTail r + 2 ^ 32 - rcHead r) % 2 ^ 32 = 2 ^ rcLog r then .error (.stall .other) else
  let e := rcBase r + 64 * (rcTail r % 2 ^ rcLog r)
  let l ← liftFault (xlatPages s (curCtx s) .write true e 64)
  check (l.all fun x => x.kind = .loc || x.kind = .coh) 0x06 6 e
  liftFault (regionsOk s (curCtx s) l)
  let scope := if l.any (fun x => x.kind = .coh) then 3 else 2
  let s := useXlats (useXlats s (curCtx s) .read false img) (curCtx s) .write true l
  let s := appendImage s s.curCore scope ((curBank s).task.getD 0) e (piecesOf img) (piecesOf l)
  let s := scrambleEntry s s.curCore scope r (piecesOf l)
  let s := releaseAction s s.curCore 2
  .ok { s := rcbWrite s s.curCore pa 20 4 (rcTail r + 1) }
def execReelapp (w : RR) (s : State) : Host.Outcome State Fault Refusal := issue (.reelapp w) (reelappBody w) s

/-- REELLNK's body (R455). -/
def reellnkBody (w : RR) (s : State) : Except Stop Out := do
  let a := rdS s w.a
  let b := rdS s w.b
  check (!a.poi && !b.poi) causePoison 0 0
  aligned a.v.toNat 128
  let (pa, _, s) ← reelBlock s a.v.toNat .write
  .ok { s := rcbWrite s s.curCore pa 32 8 (b.v.toNat % 2 ^ 57) }
def execReellnk (w : RR) (s : State) : Host.Outcome State Fault Refusal := issue (.reellnk w) (reellnkBody w) s

/-- Binds a reel to a core's engine in STATE 1 (R454). -/
def startReel (s : State) (core : Nat) (r : Reel) : State :=
  updCore (rcbSetState s core r.rcb 1) core fun k => { k with reels := k.reels.filter (fun x => x.rcb != r.rcb) ++ [r] }

/-- REELKICK's body (R454). -/
def reelkickBody (w : RR) (s : State) : Except Stop Out := do
  let a := rdS s w.a
  check (!a.poi) causePoison 0 0
  aligned a.v.toNat 128
  let (pa, (r, _), s) ← reelBlock s a.v.toNat .write
  let s := releaseAction s s.curCore 2
  if rcState r = 1 then .ok { s := s }
  else if (coreOf s s.curCore).reels.length ≥ 64 then .error (.stall .other)
  else
    let b := curBank s
    .ok { s := startReel s s.curCore { rcb := pa, task := b.task.getD 0, root := b.root, key := b.key, sup := supervisor s s.curCore } }
def execReelkick (w : RR) (s : State) : Host.Outcome State Fault Refusal := issue (.reelkick w) (reelkickBody w) s

/-- REELSTAT's body (R456). -/
def reelstatBody (w : RR) (s : State) : Except Stop Out := do
  let a := rdS s w.a
  check (!a.poi) causePoison 0 0
  aligned a.v.toNat 128
  let (_, (r, p), s) ← reelBlock s a.v.toNat .read
  .ok { s := acquireAction s s.curCore 2, atOnce := true,
        writes := wrS w.d (BitVec.ofNat 64 (rcHead r + rcTail r * 2 ^ 32)) p ++
          wrS (w.d + 1) (BitVec.ofNat 64 (rcDone r + rcErrn r * 2 ^ 32 + rcState r * 2 ^ 48)) p }
def execReelstat (w : RR) (s : State) : Host.Outcome State Fault Refusal := issue (.reelstat w) (reelstatBody w) s

/-! ## The engine (R253) -/

/-- A reel leaves the engine: its STATE becomes `v`. -/
def leaveReel (s : State) (core rcb v : Nat) : State :=
  updCore (rcbSetState s core rcb v) core fun k => { k with reels := k.reels.filter fun r => r.rcb != rcb }

/-- A fetch fails: a record with source 2, and STATE 2. -/
def parkReel (s : State) (core : Nat) (r : Reel) (cq : Nat) (f : PageFault) : State :=
  let c : Ctx := { core := core, root := r.root, key := r.key, sup := r.sup, task := r.task }
  leaveReel (postRecord s (dieOfCore core) (faultRecord s c .read (dieOfCore core) 2 (copyUnit core 0 cq) 0 f) none (some (.copies core))) core r.rcb 2

/-- PROT 6 at `va` for a page of the wrong KIND (R231, R237). -/
def kindFault (va : Nat) (x : Option Xlat) : PageFault := ⟨0x06, 6, va, (x.map fun x => x.leaf.pte).getD 0, (x.map fun x => x.leaf.level).getD 0⟩
/-- The first physical barrier and the number of barriers of a task; of the foreground bank for code that is no task's. -/
def taskBars (s : State) (core task : Nat) : Nat × Nat :=
  if task = 0 then let b := fgBank (coreOf s core); (b.bbase.toNat, b.bcnt.toNat) else (taskOf s task).bars

/-- A bad entry ends BADCMD as it is fetched (R241, R453). -/
def badEntry (s : State) (core : Nat) (r : Reel) (cq img : Nat) : State :=
  let (base, n) := taskBars s core r.task
  let s := if ccBar img < n then barChange s core (base + ccBar img) .expect 0 true else s
  reelEnded (setLatch s core r.task cq) core r.rcb img 4

/-- HEAD = TAIL with a LINK: the engine goes on with the linked RCB, or parks (R253). -/
def followLink (s : State) (core : Nat) (r : Reel) (v : Nat) : State :=
  let c : Ctx := { core := core, root := r.root, key := r.key, sup := r.sup, task := r.task }
  let va := rcLink v
  match xlatPages s c .read false va 128 with
  | .error f => parkReel s core r (rcCq v) { f with va := va }
  | .ok l =>
    let pa := (l.map Xlat.pa).headD 0
    if va % 128 != 0 || !(l.all fun x => x.kind = .loc) then parkReel s core r (rcCq v) (kindFault va (l.find? fun x => x.kind != .loc))
    else
      let s := leaveReel (useXlats s c .read false l) core r.rcb 3
      let n := rcbRead s core pa
      if rcState n.1.1 = 1 then n.2 else startReel n.2 core { r with rcb := pa }

/-- Fetches entry HEAD of a bound reel (R253). -/
def fetchEntry (s : State) (core : Nat) (r : Reel) (v : Nat) : State :=
  let c : Ctx := { core := core, root := r.root, key := r.key, sup := r.sup, task := r.task }
  let e := rcBase v + 64 * (rcHead v % 2 ^ rcLog v)
  let more := fun (x : Xlat) => if x.kind = .loc || x.kind = .coh then regionCheck s c.key x else .error (kindFault e (some x))
  match xlatEach s c .read false e 64 more with
  | .error f => parkReel s core r (rcCq v) { f with va := e }
  | .ok l =>
    let d := readPieces (useXlats s c .read false l) core (if l.any (fun x => x.kind = .coh) then 3 else 2) (piecesOf l)
    let img := if ringOk v then d.1.1 else freeAt d.2 673 % 2 ^ 512
    let (base, n) := taskBars s core r.task
    let d := if ringOk v then d else (d.1, useFresh d.2)
    let s := rcbWrite d.2 core r.rcb 16 4 (rcHead v + 1)
    let bar := base + ccBar img
    let bad := d.1.2 || !ccOk img || ccBar img ≥ n || ccLen img ≥ 2 ^ 24
    let room := barPend s core bar + ccLen img < 2 ^ 24
    if bad then badEntry s core r (rcCq v) img
    else if room then
      placeCmd s core { cmd := BitVec.ofNat 512 img, task := r.task, sup := r.sup, root := r.root, key := r.key, cq := rcCq v, bar := bar, len := ccLen img,
                        reel := some r.rcb }
    else if copyNames s core bar then d.2
    else badEntry s core r (rcCq v) img

/-- The engine looks at a bound reel (R253). -/
def reelStep (s : State) (core rcb : Nat) : State :=
  match (coreOf s core).reels.find? (fun r => r.rcb = rcb) with
  | none => s
  | some r =>
    if r.stopping then s else
    let v := rcbRead s core rcb
    if rcHead v.1.1 = rcTail v.1.1 then (if rcLink v.1.1 = 0 then s else followLink v.2 core r v.1.1)
    else if (freeSlots (coreOf s core)).isEmpty then s
    else fetchEntry v.2 core r v.1.1

/-- The reels in STATE 1 that are bound to a core's engine stop fetching, whichever task kicked them (R254, R454, R510). -/
def stopReels (s : State) (core : Nat) : State :=
  let s := updCore s core fun k => { k with reels := k.reels.map fun r => { r with stopping := true } }
  (coreOf s core).reels.foldl (fun s r => reelStop s core r.rcb) s

end Sys2Proof.Machine
end

