-- ==== Sys2Proof/Machine/EvCopy.lean ====
section
/-! DEFINITION. Events of the copy engines, the reels, the stream units and the windows: R138, R242-R250, R253, R271, R447, R448. -/
namespace Sys2Proof.Machine

/-- The device's power is up: nothing runs in PS1 and below (R351). -/
def powered (s : State) : Bool := s.mgmt.psCur == 0
/-- The I/O dies and the pool agents run in PS0 and PS1 (R351). -/
def poolOn (s : State) : Bool := s.mgmt.psCur.toNat ≤ 1
/-- BAR0 answers: the host port is trained and its link is up (R361, R364). -/
def barOn (s : State) : Bool := poolOn s && s.mgmt.hostLink
/-- The core's copy engine has its clock (R311, R353) and does not wait to post a record (R236). -/
def engineOn (s : State) (core : Nat) : Bool := powered s && !frozenNow s core && enabledNow s (dieOfCore core) && !postWaits s (dieOfCore core) (.copies core)

/-- The die's dispatcher has its supply and does not wait to post a record (R236). -/
def dispatcherOn (s : State) (die : Nat) : Bool := powered s && !postWaits s die .dispatcher

/-- WAITC is met: the counter less WVAL, as a signed 32-bit number, is at least 0 (R254). -/
def waitcMet (s : State) (core : Nat) (c : CopyCmd) : Bool :=
  let m := c.cmd.toNat
  match c.reel with
  | some rcb => !ccWaitc m || decide (0 ≤ sintN 32 ((rcCtr (rcbRead s core rcb).1.1 (ccWctr m) % 2 ^ 32) + 2 ^ 32 - ccWval m))
  | none => true

/-- A command at the front of its queue begins, or is skipped (R242, R244, R254). -/
def beginCopy (s : State) (core slot : Nat) : State :=
  let k := coreOf s core
  match tfind k.slots slot with
  | none => s
  | some c =>
    if c.st != .queued || (aheadOf k c).any (fun x => x.st = .queued || x.st = .parked) then s
    else if ccErrstop c.cmd.toNat && latched s core c.task c.cq then endCopy s core slot 3
    else if !waitcMet s core c then s
    else
      let s := updCore s core fun k => { k with slots := tset k.slots slot { c with st := .running, sent := s.cycle } }
      if c.len = 0 && (aheadOf k c).isEmpty && !gated k c then finishCopy s core slot else s
def execCopyCommandBegin (core slot : Nat) (s : State) : Host.Outcome State Fault Refusal :=
  .next (if engineOn s core then beginCopy s core slot else s)

/-- A chunk of a running command is performed when every command whose writes must appear before its own has ended (R244, R271). -/
def chunkStep (s : State) (core slot : Nat) : State :=
  let k := coreOf s core
  match tfind k.slots slot with
  | none => s
  | some c => if c.st = .running && (aheadOf k c).isEmpty && !gated k c then performChunk s core slot c else s
def execChunkPerform (core slot : Nat) (s : State) : Host.Outcome State Fault Refusal :=
  .next (if engineOn s core then chunkStep s core slot else s)

/-! ## CPYRES (R247) -/

/-- The action of CPYRES on a parked command: 1 resumes it from its cursor, 2 ends it ABORTED. -/
def settleCopy (s : State) (x : CopySel) (action : Nat) : State :=
  let core := x.die * 128 + x.cluster * 4 + x.core
  match parkedCopy s x with
  | none => s
  | some c =>
    if action = 1 then updCore s core fun k => { k with slots := tset k.slots x.slot { c with st := .running, sent := s.cycle } }
    else if action = 2 then endCopy s core x.slot 1
    else s
/-- A write of CPYRES of a die. -/
def cpyresWrite (s : State) (x : CopySel) (action : Nat) : State := settleCopy (cpyresSet s x action) x action
def execCpyresResume (sel : CopySel) (s : State) : Host.Outcome State Fault Refusal := .next (if poolOn s then cpyresWrite s sel 1 else s)
def execCpyresAbort (sel : CopySel) (s : State) : Host.Outcome State Fault Refusal := .next (if poolOn s then cpyresWrite s sel 2 else s)

/-! ## Reels and streams -/

def execReelFetch (core rcb : Nat) (s : State) : Host.Outcome State Fault Refusal := .next (if engineOn s core then reelStep s core rcb else s)

/-- The stream unit reads the next block of a bound queue and pushes it (R447, R448). -/
def pushBlock (s : State) (core bank q : Nat) : State :=
  let k := tget (bankOf s core bank).sq q {}
  match k.bound with
  | none => s
  | some t =>
    if t.failed.isSome || k.count ≥ 8 then s else
    let d := t.desc
    let va := sdBlockVa d t.next
    let c := ctxOf s core bank
    match xlat s c .read false va (sdBytes d) with
    | .error f => updBank s core bank fun b => { b with sq := tset b.sq q { k with bound := some { t with failed := some (f.cause, f.sub, va) } } }
    | .ok l =>
      let r := readOp (useXlats s c .read false l) core { kind := .load, va := va, n := sdBytes d, pieces := piecesOf l, scope := sdScope d }
      let p := canonRuns (etMaxCount (sdEt d)) (clean (bankOf r.2 core bank) (sdEt d) (unpackElems (etWidth (sdEt d)) (sdLen d) r.1.1))
      let v := canonReg (sdEt d) p r.1.2
      let last := t.next + 1 = sdN0 d * sdN1 d
      let k' := { k with slots := tset k.slots k.tail v, tail := (k.tail + 1) % 8, count := k.count + 1, was := some (s.cycle, queueSeen s.cycle (bankOf s core bank) q),
                         bound := if last then none else some { t with next := t.next + 1 } }
      updBank r.2 core bank fun b => { b with sq := tset b.sq q k' }
def execStreamBlockPush (core bank q : Nat) (s : State) : Host.Outcome State Fault Refusal :=
  .next (if powered s && enabledNow s (dieOfCore core) then pushBlock s core bank q else s)

/-- A resumed task's stream units read again the blocks that failed (R448). -/
def retryStreams (b : Bank) : Bank :=
  { b with sq := b.sq.map fun e => (e.1, { e.2 with bound := e.2.bound.map fun t => { t with failed := none } }) }

/-! ## Writes that reach a window -/

/-- Bytes as one little-endian number. -/
def bytesNat (l : List Byte) : Nat := l.foldr (fun b a => b.toNat + 256 * a) 0

/-- An aligned 8-byte write reaches a barrier's slot (R250). -/
def execBarrierWindowWrite (pa : Nat) (v : W64) (poison : Bool) (s : State) : Host.Outcome State Fault Refusal :=
  .next (if powered s && paWindow pa && winSpace pa = 5 then winWrite s pa 8 v.toNat poison else s)
/-- A write reaches the registers of a bank (R138). -/
def execWindowRegisterWrite (pa : Nat) (data : List Byte) (poison : Bool) (s : State) : Host.Outcome State Fault Refusal :=
  .next (if powered s && paWindow pa && 1 ≤ winSpace pa && winSpace pa ≤ 4 then wakeBytes (winWrite s pa data.length (bytesNat data) poison) pa data.length else s)

end Sys2Proof.Machine
end

