-- ==== Sys2Proof/Machine/Launch.lean ====
section
/-! DEFINITION. Launches: accesses of the dispatcher to physical memory (R219), the dailies (R110, R111), the checks of a launch record (R36), completion
futures (R37, R38), acceptance (R86-R90) and the tasks' records (R31-R35, R39-R41). -/
namespace Sys2Proof.Machine

/-! ## The dispatcher's own accesses to physical addresses (R219) -/

/-- The record of an access to a reserved range. -/
def reservedRecord (die kind pa : Nat) : BitVec 512 := record8 [0x05 + 5 * 2 ^ 8 + die * 2 ^ 16 + 2 ^ 18, kind, 0, 0, 0, pa, 0, 0]
/-- A write of `n` bytes in ascending address order; one to a reserved range is discarded and posts a record. -/
def deviceWrite (s : State) (die pa n v : Nat) : State :=
  if paMapped s pa && paMapped s (pa + n - 1) then writePieces s 512 2 false (rcbPiece pa n) v else postRecord s die (reservedRecord die 1 pa) none (some .dispatcher)
/-- A read of `n` bytes: those of a reserved range are poisoned, and a record is posted. -/
def deviceRead (s : State) (die scope pa n : Nat) : (Nat × Bool) × State :=
  if paMapped s pa && paMapped s (pa + n - 1) then readPieces s 512 scope (rcbPiece pa n) else ((0, true), postRecord s die (reservedRecord die 0 pa) none (some .dispatcher))

/-! ## Dailies (R110, R111) -/

def dlyLog (d : Die) : Nat := max 4 (d.dlyctl.extractLsb' 0 4).toNat
/-- Writes a record of a type, or discards it. -/
def postDaily (s : State) (die cluster type : Nat) (words : List Nat) : State :=
  let d := dieOf s die
  if !d.dlyctl.getLsbD 8 || (d.dlyhead - d.dlytail).toNat = 2 ^ dlyLog d then
    noteSet (updDie s die fun d => { d with dlydrop := d.dlydrop + 1 }) (0x10000 * die + 0x460) (newBits d.dlydrop.toNat (d.dlydrop + 1).toNat)
  else
    let w0 := type + die * 2 ^ 8 + (cluster % 32) * 2 ^ 10 + (s.cycle % 2 ^ 49) * 2 ^ 15
    let img := record8 (w0 :: (words ++ List.replicate (7 - words.length) 0))
    let s := deviceWrite s die (d.dlybase.toNat + 64 * (d.dlyhead.toNat % 2 ^ dlyLog d)) 64 img.toNat
    updDie s die fun d => { d with dlyhead := d.dlyhead + 1 }

/-! ## Groups and bindings (R32-R35) -/

/-- Position of field Fj. -/
def lrOff (r j : Nat) : Nat := ((List.range j).map (lrWidth r)).foldl (· + ·) 0
/-- Tasks of a level-j group. -/
def lrGroup (r j : Nat) : Nat := ((List.range j).map fun i => lrLim r i + 1).foldl (· * ·) 1
/-- Tasks of the launch. -/
def lrTotal (r : Nat) : Nat := lrGroup r 6
/-- The bindings at a level and above. -/
def bindsFrom (r j : Nat) : List Nat := ((List.range 6).filter fun i => j ≤ i).map (lrBind r)
/-- Every gang group fits its placement (R35). -/
def gangOk (r : Nat) : Bool := (List.range 6).all fun j =>
  lrBind r j != 4 || lrGroup r j ≤ (if (bindsFrom r j).contains 3 then 1 else if (bindsFrom r j).contains 2 then 4 else 128)
/-- The lowest gang level, or 7 (R41). -/
def lrGlev (r : Nat) : Nat := ((List.range 6).find? fun j => lrBind r j = 4).getD 7
/-- The highest gang level, or 7: a gang of a higher level holds those of the lower levels inside it (R34). -/
def lrGtop (r : Nat) : Nat := ((List.range 6).reverse.find? fun j => lrBind r j = 4).getD 7
/-- The highest level that fixes a cluster: bound same-cluster, same-core or gang (R91). -/
def boundLevel (r : Nat) : Option Nat := (List.range 6).reverse.find? fun j => 2 ≤ lrBind r j && lrBind r j ≤ 4
/-- The key of a task's level-j group: the fields Fj and above. -/
def groupKey (r j : Nat) (wid : W64) : W64 := wid >>> lrOff r j

/-- The WID of task `k` of the launch: F0 varies fastest (R32, R90). -/
def widOf (r k : Nat) : W64 :=
  BitVec.ofNat 64 (((List.range 6).map fun j => (k / lrGroup r j % (lrLim r j + 1)) * 2 ^ lrOff r j).foldl (· + ·) 0)

/-! ## The checks of a record (R36, R41) -/

def lrRsvdOk (r : Nat) : Bool :=
  nbits r 995 29 = 0 && nbits r 313 7 = 0 && nbits r 203 53 = 0 && nbits r 185 7 = 0 && nbits r 95 33 = 0 && nbits r 60 4 = 0 && nbits r 18 6 = 0
/-- Fields of an operand descriptor. -/
def opdTid (d : Nat) : Nat := nbits d 0 10
def opdBase (d : Nat) : Nat := nbits d 10 22
def opdSh (d : Nat) : Nat := nbits d 32 6
def opdMw (d : Nat) : Nat := nbits d 38 5
def opdOut (d : Nat) : Bool := nbit d 43
def opdOk (r n : Nat) : Bool :=
  let d := lrOpd r n
  if n ≥ lrNops r then d = 0 else nbits d 44 4 = 0 && opdTid d < lrTdtn r && opdMw d ≤ 22

/-- FUTVA translates for writing, and the KIND of its page permits FSCOPE (R255). -/
def futurePages (s : State) (c : Ctx) (va scope : Nat) : Except PageFault (List Xlat) := do
  let l ← xlatPages s c .write true va 8
  if l.all (scopeOk c.core scope) then .ok l else .error ⟨0x06, 8, va, ((l.map fun x => x.leaf.pte).headD 0), 0⟩

/-- The first check of R36 that fails, counted from 1; 0 when none does. -/
def lrFirstFail (s : State) (r root key : Nat) (poison : Bool) : Nat :=
  if poison then 1
  else if !lrRsvdOk r then 2
  else if lrOff r 6 > 64 then 3
  else if !((List.range 6).all fun j => lrLim r j < 2 ^ lrWidth r j) then 4
  else if !((List.range 6).all fun j => lrBind r j ≤ 4) || !gangOk r then 5
  else if lrTdtn r = 0 || lrTdtn r > 1024 then 6
  else if lrTdtva r % 64 != 0 || lrFutva r % 8 != 0 then 7
  else if lrArv r && lrArtid r ≥ lrTdtn r then 8
  else if lrOpid r = 0 then 9
  else if lrNops r > 6 || !((List.range 6).all (opdOk r)) then 10
  else match futurePages s (agentCtx root key 0) (lrFutva r) (lrFscope r) with | .ok _ => 0 | .error _ => 11

/-! ## Completion futures (R37, R38) -/

/-- Writes the completion word with F set, or posts the record of R38. `bad`: a fault that is already known. -/
def completeFuture (s : State) (die r root key word : Nat) (bad : Option PageFault) : State :=
  let c := agentCtx root key 0
  let va := lrFutva r
  let w := 2 ^ 63 + word
  let post := fun (s : State) (f : PageFault) => postRecord s die (xlatRecord s c .write die 1 0 w { f with va := va }) none (some .dispatcher)
  match bad with
  | some f => post s f
  | none =>
    if va % 8 != 0 then post s ⟨0x04, 0, va, 0, 0⟩ else
    match futurePages s c va (lrFscope r) with
    | .error f => post s f
    | .ok l =>
      match regionsOk s c l with
      | .error f => post s f
      | .ok _ => writePieces (useXlats s c .write true l) c.core (max 2 (lrFscope r)) false (piecesOf l) w

/-- A launch is refused (R36): REFUSED in its future, and a dailies record. `n` is word 2 of that record. -/
def refuseLaunch (s : State) (die src n r root key check : Nat) : State :=
  let bad : Option PageFault := if check = 1 then some ⟨causePoison, 0, lrFutva r, 0, 0⟩ else none
  postDaily (completeFuture s die r root key (3 * 2 ^ 61) bad) die 0 4 [src, n, check]

/-- A launch is accepted by a die. -/
def acceptLaunch (s : State) (die src r root key prio : Nat) : State :=
  let l : Launch := { img := BitVec.ofNat 1024 r, root := root, key := key, die := die, src := src, prio := min (lrPrio r) prio, total := lrTotal r }
  let h := s.nextLaunch
  updDie { s with launches := tset s.launches h l, nextLaunch := h + 1 } die fun d => { d with accepted := d.accepted ++ [h] }

/-- The word of R37 for a launch that has ended. -/
def completionWord (l : Launch) : Nat :=
  (if l.anyFailed then 2 else if l.anyPoisoned then 1 else 0) * 2 ^ 61 + min l.bad (2 ^ 48 - 1)

/-- Expansion has finished and every counted task has retired (R89). -/
def launchOver (l : Launch) : Bool := l.complete || (l.pos = l.total && l.outstanding = 0)

/-! ## Tasks (R39-R41) -/

/-- The operand references that a launch gives a task (R41). -/
def lrOperands (r : Nat) (wid : W64) : List Nat := (List.range (lrNops r)).map fun n =>
  let d := lrOpd r n
  opdTid d * 2 ^ 22 + (opdBase d + (wid >>> opdSh d).toNat % 2 ^ opdMw d) % 2 ^ 22
def lrOutm (r : Nat) : Nat := ((List.range (lrNops r)).map fun n => if opdOut (lrOpd r n) then 2 ^ n else 0).foldl (· + ·) 0

/-- Task `k` of a launch as it is expanded (R41). -/
def expandedTask (s : State) (h k : Nat) : Task :=
  let l := launchOf s h
  let r := l.img.toNat
  let wid := widOf r k
  { opid := lrOpid r, prio := l.prio, eff := l.prio, nops := lrNops r, outm := lrOutm r, ecls := lrEcls r, wid := wid, ops := lrOperands r wid, glev := lrGlev r,
    launch := h, root := l.root, key := l.key, die := l.die, pdie := if (bindsFrom r 0).contains 1 then some l.die else none, expanded := true, due := true }

/-- Adds a task to the device: its ID is the next one (log entry 12). -/
def addTask (s : State) (t : Task) : State := { s with tasks := tset s.tasks s.nextTask t, nextTask := s.nextTask + 1 }

/-- Word 0 of a task record. -/
def taskWord0 (t : Task) : Nat :=
  t.opid % 2 ^ 12 + (t.prio % 4) * 2 ^ 12 + (t.nops % 8) * 2 ^ 14 + (t.outm % 64) * 2 ^ 17 + (t.ecls % 16) * 2 ^ 23 + t.conv.toNat * 2 ^ 27

end Sys2Proof.Machine
end

