-- ==== Sys2Proof/Machine/Dispatcher.lean ====
section
/-! DEFINITION. Dispatch (R59-R82, R512): operand checks, poison, pending and claims, the method table, conversions, holding, containing, and placing in a
ready queue (R91, R92). -/
namespace Sys2Proof.Machine

/-! ## The method table (R74, R75, R77) -/

def mtPat (e n : Nat) : Nat := nbits e (32 * n) 32
def mtRaddr (e : Nat) : Nat := nbits e 128 48
def mtOpid (e : Nat) : Nat := nbits e 176 12
def mtScr (e : Nat) : Nat := nbits e 188 6
def mtAcc (e : Nat) : Nat := nbits e 194 4
def mtBar (e : Nat) : Nat := nbits e 198 6
def mtCost (e : Nat) : Nat := nbits e 204 16
def mtEnergy (e : Nat) : Nat := nbits e 220 32
def mtConv (e : Nat) : Bool := nbit e 252
def mtVal (e : Nat) : Bool := nbit e 253

/-- Entry `i` of the method table. -/
def method (s : State) (i : Nat) : Nat := (tget s.methods i 0).toNat
/-- The valid entries of an operator, in ascending index. -/
def methodsOf (s : State) (opid : Nat) : List (Nat × Nat) := (s.methods.map fun e => (e.1, e.2.toNat)).filter fun e => mtVal e.2 && mtOpid e.2 = opid
/-- A tag matches a pattern (R75). -/
def tagMatch (t p : Nat) : Bool := (t ^^^ (p % 2 ^ 16)) &&& (p / 2 ^ 16) == 0
/-- All four patterns match. -/
def allMatch (e : Nat) (tags : List Nat) : Bool := (List.range 4).all fun n => tagMatch (tags.getD n 0) (mtPat e n)
/-- Care bits of an entry. -/
def careBits (e : Nat) : Nat := ((List.range 64).filter fun i => nbit e (32 * (i / 16) + 16 + i % 16)).length
/-- The entry with the most care bits, of equals the lowest index (R77). -/
def lookup (s : State) (opid : Nat) (tags : List Nat) : Option Nat :=
  (((methodsOf s opid).filter fun e => allMatch e.2 tags).foldl (fun (a : Option (Nat × Nat)) e => match a with
    | none => some (e.1, careBits e.2)
    | some b => if careBits e.2 > b.2 then some (e.1, careBits e.2) else some b) none).map (·.1)

/-! ## Operands (R61, R62, R68, R75, R81) -/

/-- An operand as dispatch sees it: its reference, whether it is an output, its TDT entry, the tag as read (with POI and RDY set when its atom is
poisoned), the tag used for matching, the tag's address and whether it is performed at SYS scope. -/
structure Opnd where
  ref : Nat
  out : Bool
  td : Nat
  raw : Nat := 0
  tag : Nat := 0
  pa : Nat := 0
  sys : Bool := false
  deriving DecidableEq, Repr

/-- The entry's own checks, 1 to 6 of R81; 0 when it is legal. -/
def tdFail (e : Nat) : Nat :=
  if nbits e 441 7 != 0 || nbits e 377 7 != 0 || nbits e 297 23 != 0 || nbits e 59 5 != 0 then 1
  else if (List.range 4).any (fun d => (d ≤ tdRank e) = (tdDimRaw e d = 0)) then 2
  else if tdTrl e > 12 || tdTcl e > 12 then 3
  else if tdSfmt e > 4 then 4
  else if tdSgran e > 6 || (tdSdv e && !(6 ≤ tdSdsz e && tdSdsz e ≤ 16)) then 5
  else if tdTiles e > 2 ^ 22 then 6
  else 0

/-- The narrow descriptor that a tag's format names is legal (R155). -/
def tagNdOk (e t : Nat) : Bool := (tagFmt t != 12 || (ndesc (tdNda e)).legal) && (tagFmt t != 13 || (ndesc (tdNdb e)).legal)

/-- The context of a task's dispatch reads. -/
def taskCtx (s : State) (id : Nat) : Ctx := agentCtx (taskOf s id).root (taskOf s id).key id

/-- Operand `n` of a task: the first check of R81 that fails, else 0, and the operand. A tag that has not been determined when a check fails is a free value
(log entry 75). -/
def readOpnd (s : State) (id n : Nat) : Except PageFault ((Nat × Opnd) × State) := do
  let t := taskOf s id
  let c := taskCtx s id
  let ref := t.ops.getD n 0
  let out := nbit t.outm n
  let (e, poi, s) ← readTd s c (lrTdtva (taskLr s id)) (refTid ref)
  let o : Opnd := { ref := ref, out := out, td := e, tag := freeAt s (680 + n) % 2 ^ 16 }
  let i := refIdx ref
  if poi then .ok ((13, o), s)
  else if tdFail e != 0 then .ok ((tdFail e, o), s)
  else if !tagNdOk e (tdDtag e) then .ok ((7, o), s)
  else if i ≥ tdTiles e then .ok ((8, o), s)
  else
    let (g, s) ← readTag s c e i
    let raw := if g.poi then g.tag ||| 0x6000 else g.tag
    let used := if out then noMapTag e else if treatedUnk s c e i raw then raw ||| 0x8000 else raw
    let o := { o with raw := raw, tag := if g.kindOk then used else o.tag, pa := g.pa, sys := tagScope g.kind = 3 }
    let code :=
      if !out && g.kindOk && !tagNdOk e raw then 7
      else if !g.kindOk then 9
      else if out && tdRdonly e then 10
      else if out && tdTmap e = 0 then 11
      else if tdTc e * fmtWidth (tagFmt (if out then tdDtag e else raw)) % 8 != 0 then 12
      else 0
    .ok ((code, o), s)

/-- The task has claimed the tile (R69). -/
def claimed (s : State) (id ref : Nat) : Bool := (taskOf s id).claims.any fun c => c.ref = ref

/-! ## Leaving dispatch -/

def setSt (s : State) (id : Nat) (st : TaskSt) : State := updTask s id fun t => { t with st := st }

/-- The record of R81. -/
def holdRecord (s : State) (id reason opnd code : Nat) (tags : List Nat) : BitVec 512 :=
  let t := taskOf s id
  let g := fun n => tags.getD n 0
  record8 [0x16 + reason * 2 ^ 8 + t.die * 2 ^ 16, t.opid + t.nops * 2 ^ 12 + t.outm * 2 ^ 15, g 0 + g 1 * 2 ^ 16 + g 2 * 2 ^ 32 + g 3 * 2 ^ 48,
    g 4 + g 5 * 2 ^ 16, opnd + code * 2 ^ 3, t.launch, t.wid.toNat, id]
/-- Takes a task out of dispatch (R81). -/
def holdTask (s : State) (id reason opnd code : Nat) (tags : List Nat) : State :=
  setSt (postRecord s (taskOf s id).die (holdRecord s id reason opnd code tags) none (some .dispatcher)) id (.held reason)

/-- A dispatch read failed: the task waits out of dispatch (R512). -/
def waitTask (s : State) (id : Nat) (f : PageFault) : State :=
  let die := (taskOf s id).die
  setSt (postRecord s die (xlatRecord s (taskCtx s id) .read die 1 0 0 f) none (some .dispatcher)) id .waitRead

/-- Arena tiles of a task are free again, and the tasks of the launch that wait for one run R76 again (R53 step 5, R79). -/
def freeArena (s : State) (id : Nat) : State :=
  let t := taskOf s id
  if t.arena.isEmpty then s else
  let s := updLaunch s t.launch fun l => { l with arenaUsed := l.arenaUsed.filter fun r => !t.arena.contains r }
  let s := updTask s id fun t => { t with arena := [] }
  { s with tasks := s.tasks.map fun e => (e.1, bif e.2.launch == t.launch && e.2.st == .arenaWait then { e.2 with st := .dispatching } else e.2) }

/-- The task has retired with a status (0 DONE, 1 POISONED, 2 FAILED) and counts towards its launch (R54, R89). -/
def countRetired (s : State) (id status : Nat) : State :=
  let t := taskOf s id
  let s := setSt s id (.retired status)
  if t.conv then s else
  updLaunch s t.launch fun l => { l with
    outstanding := l.outstanding - 1, bad := if status = 0 then l.bad else l.bad + 1, anyPoisoned := l.anyPoisoned || status = 1, anyFailed := l.anyFailed || status = 2 }

/-- Retirement of a task that holds no bank (R54, R80, R511). -/
def retireUnstarted (s : State) (id status : Nat) : State := countRetired (freeArena (updTask s id fun t => { t with claims := [] }) id) id status

/-- Contains a task whose input `n` is poisoned (R80). -/
def containTask (s : State) (id n : Nat) (l : List Opnd) : State :=
  let s := (l.filter (·.out)).foldl (fun s o => writeTag s o.pa (tagWith (tagAt s o.pa) true true false)) s
  let t := taskOf s id
  retireUnstarted (postDaily s t.die 0 2 [id, t.wid.toNat, t.launch, n]) id 1

/-- Parks a task on a tag (R73, R98), in the table of the cluster at the placement cursor or of the pool agent; a full table leaves it in the die's poll list. -/
def parkTask (s : State) (id pa : Nat) (sys : Bool) : State :=
  let die := (taskOf s id).die
  let tb := if sys then WaitTable.agent (agentOf pa = .south) else .cluster (die * 32 + (dieOf s die).cursor)
  let s := setSt s id (.parked pa false)
  if (waitsIn s tb).length ≥ waitRoom tb then updDie s die fun d => { d with pollList := d.pollList ++ [id] }
  else addWait s tb { key := .tag pa, task := id, st := none, core := die * 128 }

/-! ## Ready queues and placing (R91, R92) -/

def queueOf (k : Cluster) (c : Nat) : List Nat := if c = 0 then k.q0 else if c = 1 then k.q1 else if c = 2 then k.q2 else k.q3
/-- Replaces a queue; `now`: a new head of class 3 stands there from this cycle on (R96). -/
def setQueue (k : Cluster) (c : Nat) (l : List Nat) (now : Nat) : Cluster :=
  if c = 0 then { k with q0 := l } else if c = 1 then { k with q1 := l } else if c = 2 then { k with q2 := l }
  else { k with q3 := l, headAt := if l.head? = k.q3.head? then k.headAt else now }
/-- Room in a class of a cluster. -/
def queueRoom (s : State) (cl c : Nat) : Nat := 1024 - (queueOf (clusterOf s cl) c).length
/-- The core takes no task: it is a system core, or its SYSMASK bit is set and waits for its banks to empty (R305). -/
def takesNone (c : Core) : Bool := c.sys || c.sysWant = some true
/-- The lowest core of a cluster that is no system core. -/
def freeCore (s : State) (cl : Nat) : Option Nat := (List.range 4).find? fun k => !takesNone (coreOf s (4 * cl + k))

/-- The outermost group of an expanded task that fixes a cluster: its level and key. -/
def boundGroup (s : State) (id : Nat) : Option (Nat × W64) :=
  let t := taskOf s id
  if !t.expanded then none else (boundLevel (taskLr s id)).map fun j => (j, groupKey (taskLr s id) j t.wid)
/-- Where the group has been placed. -/
def groupPlace (s : State) (id : Nat) : Option Place :=
  match boundGroup s id with
  | none => none
  | some g => (launchOf s (taskOf s id).launch).places.find? fun p => p.level = g.1 && p.gkey = g.2
/-- The task's cluster, if one can take it, and whether it is the first of its group. -/
def chooseCluster (s : State) (id : Nat) : Option (Nat × Bool) :=
  let t := taskOf s id
  let ring := (List.range 32).map fun i => t.die * 32 + ((dieOf s t.die).cursor + i) % 32
  let room := fun (n cl : Nat) => decide (n ≤ queueRoom s cl t.prio)
  match t.pclu, groupPlace s id, boundGroup s id with
  | some c, _, _ => if room 1 (t.die * 32 + c) then some (t.die * 32 + c, false) else none
  | none, some p, _ => if room 1 p.cluster then some (p.cluster, false) else none
  | none, none, some g =>
    let r := taskLr s id
    let core := (bindsFrom r 0).contains 3
    (ring.find? fun c => room (lrGroup r g.1) c && (!core || (freeCore s c).isSome)).map fun c => (c, true)
  | none, none, none => (ring.find? (room 1)).map fun c => (c, false)

/-- Places a task that has its method in a ready queue; none when no cluster has room (R91). -/
def placeTask (s : State) (id : Nat) : Option State :=
  match chooseCluster s id with
  | none => none
  | some (cl, first) =>
    let t := taskOf s id
    let c := cl % 32
    let r := taskLr s id
    let g := boundGroup s id
    let core := match groupPlace s id with
      | some p => p.core
      | none => if (bindsFrom r 0).contains 3 then freeCore s cl else none
    let s := match first, g with
      | true, some g => updLaunch s t.launch fun l => { l with places := l.places ++ [{ level := g.1, gkey := g.2, cluster := cl, core := core }] }
      | _, _ => s
    let s := updDie s t.die fun d => { d with cursor := (c + 1) % 32 }
    let s := updCluster s cl fun k => setQueue k t.prio (queueOf k t.prio ++ [id]) s.cycle
    some (updTask s id fun t => { t with
      st := .ready, die := cl / 32, cluster := cl, eff := t.prio, since := s.cycle, waited := 0, aged := false
      pclu := bif g.isSome then some c else t.pclu, pcore := bif g.isSome then core else t.pcore })

/-- Once an expanded task has been through R76 and has not been left without room, its launch goes behind its equals; until then the launch keeps its position (R90). -/
def turnLaunch (s : State) (id : Nat) : State :=
  let t := taskOf s id
  if !t.due || t.st = .dispatching then s else
  updTask (updDie s (launchOf s t.launch).die fun d =>
    if d.active.contains t.launch then { d with active := d.active.filter (· != t.launch) ++ [t.launch] } else d) id fun t => { t with due := false }
/-- The task has its method (R76 enqueue_ready); without room it stays unplaced and its launch waits. -/
def enqueueReady (s : State) (id m : Nat) : State :=
  let s := updTask s id fun t => { t with method := some m, st := .dispatching }
  (placeTask s id).getD s

/-! ## The conversion search (R78, R79) -/

/-- A path: the key of R78, and the conversion entry for each converted operand, in ascending operand. -/
structure Path where
  key : List Nat
  conv : List (Nat × Nat)
  deriving DecidableEq, Repr

def lexLt : List Nat → List Nat → Bool
  | a :: l, b :: m => a < b || (a = b && lexLt l m)
  | _, _ => false

/-- The tag that a conversion gives. -/
def convTag (c : Nat) : Nat := mtPat c 1 % 2 ^ 13 + 2 ^ 13

/-- The conversions of an input (R78). `arena` is the arena's entry, when the launch names one. -/
def conversionsOf (s : State) (arena : Option Nat) (o : Opnd) : List (Nat × Nat) :=
  (methodsOf s 1 ++ methodsOf s 2).filter fun c => mtConv c.2 && tagMatch o.tag (mtPat c.2 0) &&
    (match arena with
      | none => true
      | some e => tdTrl o.td = tdTrl e && tdTcl o.td = tdTcl e && fmtWidth (mtPat c.2 1 % 32) ≤ fmtWidth (tagFmt (tdDtag e)))

/-- The choices for one or two operands: the operands with their conversions. -/
def choices (l : List (Nat × List (Nat × Nat))) : List (List (Nat × (Nat × Nat))) :=
  let one := l.flatMap fun o => o.2.map fun c => [(o.1, c)]
  let two := l.flatMap fun a => (l.filter fun b => a.1 < b.1).flatMap fun b => a.2.flatMap fun c => b.2.map fun d => [(a.1, c), (b.1, d)]
  one ++ two

/-- The best path (R78). -/
def searchPath (s : State) (id : Nat) (arena : Option Nat) (tags : List Nat) (ops : List Opnd) : Option Path :=
  let t := taskOf s id
  let inputs := ((List.zip (List.range 4) ops).filter fun o => !o.2.out && !t.arena.contains o.2.ref).map fun o => (o.1, conversionsOf s arena o.2)
  let ways := choices inputs
  (methodsOf s t.opid).foldl (fun best e => ways.foldl (fun (best : Option Path) w =>
    let tags' := w.foldl (fun l c => l.set c.1 (convTag c.2.2)) tags
    if !allMatch e.2 tags' then best else
    let key := [mtCost e.2 + (w.map fun c => mtCost c.2.2).foldl (· + ·) 0, e.1, w.length, ((w.map fun c => c.2.1).headD 0), ((w.map fun c => c.2.1).getLastD 0)]
    match best with
    | some b => if lexLt key b.key then some ⟨key, w.map fun c => (c.1, c.2.1)⟩ else best
    | none => some ⟨key, w.map fun c => (c.1, c.2.1)⟩) best) none

/-- One conversion of a path: an arena tile, its tag, the conversion task and the rewritten operand; none when no tile is free (R79). -/
def insertOne (s : State) (id arena : Nat) (n ce : Nat) : Except PageFault (Option (Option (Nat × Bool) × State)) := do
  let t := taskOf s id
  let r := taskLr s id
  let used := (launchOf s t.launch).arenaUsed
  match (List.range (tdTiles arena)).find? fun i => !used.contains (lrArtid r * 2 ^ 22 + i) with
  | none => .ok none
  | some i =>
    let ref := lrArtid r * 2 ^ 22 + i
    let (g, s) ← readTag s (taskCtx s id) arena i
    let sys := tagScope g.kind = 3
    let mapped := tdTmap arena != 0 && g.kindOk
    let s := if mapped then writeTag s g.pa (convTag (method s ce) - 2 ^ 13) else s
    let ct : Task := { opid := mtOpid (method s ce), prio := t.prio, eff := t.prio, nops := 2, outm := 2, ecls := t.ecls, conv := true, wid := t.wid,
                       ops := [t.ops.getD n 0, ref], launch := t.launch, root := t.root, key := t.key, die := t.die,
                       claims := if mapped then [{ ref := ref, td := BitVec.ofNat 512 arena, pa := g.pa, sys := sys }] else [] }
    let s := updLaunch s t.launch fun l => { l with arenaUsed := l.arenaUsed ++ [ref] }
    let s := updTask (addTask s ct) id fun t => { t with ops := t.ops.set n ref, arena := t.arena ++ [ref] }
    .ok (some (if mapped then some (g.pa, sys) else none, s))

/-- The conversions of a path in ascending operand; then the original parks on the first arena tile's tag, or waits for a tile. -/
def insertAll (s : State) (id arena : Nat) : List (Nat × Nat) → Option (Nat × Bool) → State
  | [], some (pa, sys) => parkTask s id pa sys
  | [], none => setSt s id .dispatching
  | (n, ce) :: l, first =>
    match insertOne s id arena n ce with
    | .error f => waitTask s id f
    | .ok none => setSt s id .arenaWait
    | .ok (some (p, s)) => insertAll s id arena l (first.or p)

/-! ## R76 -/

/-- The tags of a record of reason 3: those of the operands that have been read, and free values for the operands behind them (log entry 75). -/
def heldTags (s : State) (id : Nat) (l : List Opnd) : List Nat :=
  (List.range 6).map fun n => match l[n]? with | some o => o.tag | none => if n < (taskOf s id).nops then freeAt s (680 + n) % 2 ^ 16 else 0
/-- Reads the operands in order, behind those of `got`; the first illegal one holds the task, a failing read makes it wait. An error carries the final state. -/
def readOpnds (s : State) (id : Nat) (got : List Opnd) : List Nat → Except State (List Opnd × State)
  | [] => .ok (got, s)
  | n :: l =>
    match readOpnd s id n with
    | .error f => .error (waitTask s id f)
    | .ok ((code, o), s) =>
      if code != 0 then .error (useFresh (holdTask s id 3 n code (heldTags s id (got ++ [o])))) else readOpnds s id (got ++ [o]) l

/-- Claims the outputs in order, or parks on the first that is pending (R69). -/
def claimAll (s : State) (id : Nat) : List Opnd → Except State State
  | [] => .ok s
  | o :: l =>
    if !o.out || claimed s id o.ref then claimAll s id l
    else if !tagRdy o.raw && !tagPoi o.raw then .error (parkTask s id o.pa o.sys)
    else
      let s := writeTag s o.pa (tdDtag o.td % 2 ^ 13)
      claimAll (updTask s id fun t => { t with claims := t.claims ++ [{ ref := o.ref, td := BitVec.ofNat 512 o.td, pa := o.pa, sys := o.sys }] }) id l

/-- No method matches: conversions, or the task is held (R76, R78, R79, R81). A poisoned entry of the arena holds it with check 13 (R512); it is no operand, and the index in the
record is a free value (log entry 75). -/
def convertOrHold (s : State) (id : Nat) (tags : List Nat) (ops : List Opnd) : State :=
  let r := taskLr s id
  if !lrArv r then (match searchPath s id none tags ops with | none => holdTask s id 0 0 0 tags | some _ => holdTask s id 1 0 0 tags)
  else
    match readTd s (taskCtx s id) (lrTdtva r) (lrArtid r) with
    | .error f => waitTask s id f
    | .ok (e, true, s) => useFresh (holdTask s id 3 (freeAt s 690 % 8) 13 tags)
    | .ok (e, false, s) =>
      match searchPath s id (some e) tags ops with
      | none => holdTask s id 0 0 0 tags
      | some p => if tdTiles e < 2 then holdTask s id 2 0 0 tags else insertAll s id e p.conv none

/-- The algorithm of R76 on a task. -/
def dispatchTask (s : State) (id : Nat) : State :=
  let t := taskOf s id
  let s := updTask s id fun t => { t with method := none, st := .dispatching }
  match readOpnds s id [] (List.range t.nops) with
  | .error s => s
  | .ok (ops, s) =>
    let open_ := (List.zip (List.range t.nops) ops).filter fun o => !o.2.out && !claimed s id o.2.ref
    match open_.find? (fun o => tagPoi o.2.raw) with
    | some o => containTask s id o.1 ops
    | none =>
      match open_.find? (fun o => !tagRdy o.2.raw) with
      | some o => parkTask s id o.2.pa o.2.sys
      | none =>
        match claimAll s id ops with
        | .error s => s
        | .ok s =>
          let tags := (List.range 6).map fun n => match ops[n]? with | some o => o.tag | none => 0
          match lookup s t.opid tags with
          | some m => enqueueReady s id m
          | none => convertOrHold s id tags ops

/-- Runs R76 for every task that a test selects. -/
def dispatchWhere (s : State) (p : Task → Bool) : State :=
  ((s.tasks.filter fun e => p e.2).map (·.1)).foldl dispatchTask s

/-- A TLBINV or PRTCMD action has completed: the tasks that wait for a failed dispatch read may make it again (R512). -/
def retryReads (s : State) : State :=
  let s : State := { s with tasks := s.tasks.map fun e => (e.1, bif e.2.st == .waitRead then { e.2 with runnable := true } else e.2) }
  (s.clusters.map (·.1)).foldl translateArray s
/-- An entry has been installed: the tasks held for want of a method run R76 again (R82). -/
def retryHeld (s : State) (opid : Nat) : State := dispatchWhere s fun t => (t.st = .held 0 || t.st = .held 1) && t.opid = opid

end Sys2Proof.Machine
end

