-- ==== Sys2Proof/Machine/Retire.lean ====
section
/-! DEFINITION. The end of a task (R53, R54, R72, R254, R316, R511) and energy accounts (R106-R108). -/
namespace Sys2Proof.Machine

/-! ## Energy accounts (R106-R108, R354) -/

/-- The die's effective power cap (R354). -/
def effCap (d : Die) : Nat := if d.encap = 0 then d.thcap.toNat else min d.encap.toNat d.thcap.toNat
/-- SHARE of a class. -/
def share (d : Die) (c : Nat) : Nat :=
  if c = 0 then 0 else if c < 8 then nbits d.eshare0.toNat (8 * c) 8 else nbits d.eshare1.toNat (8 * (c - 8)) 8
/-- The refill of each class (R106). -/
def refillOf (d : Die) (c : Nat) : Nat :=
  let r := effCap d * 10000
  let part := fun c => r * share d c / 256
  if c = 0 then r - (((List.range 15).map fun i => part (i + 1)).foldl (· + ·) 0) else part c
/-- The account is off: every estimate is covered and nothing is deducted. -/
def accountOff (d : Die) : Bool := d.encap = 0 && d.thcap = 1023
/-- The sub-account that a class draws on. -/
def accountOf (d : Die) (c : Nat) : Nat := if share d c = 0 then 0 else c
def eacc (d : Die) (c : Nat) : Int := d.eacc.getD c 0
/-- A sub-account after an addition, clipped to twice its refill. -/
def clipAcc (d : Die) (c : Nat) (v : Int) : Int := if v > 2 * refillOf d c then 2 * refillOf d c else v
/-- A method's estimate is covered (R107). -/
def covered (d : Die) (cls est : Nat) : Bool :=
  let c := accountOf d cls
  accountOff d || decide ((est : Int) ≤ eacc d c) || decide (2 * (refillOf d c : Int) ≤ eacc d c)
/-- Deducts an estimate. -/
def deduct (s : State) (die cls est : Nat) : State :=
  updDie s die fun d => if accountOff d then d else
    { d with eacc := d.eacc.set (accountOf d cls) (eacc d (accountOf d cls) - est), eDeduct := d.eDeduct + est }
/-- Adds to a sub-account. -/
def credit (s : State) (die cls : Nat) (v : Int) : State :=
  updDie s die fun d => if accountOff d then d else
    { d with eacc := d.eacc.set (accountOf d cls) (clipAcc d (accountOf d cls) (eacc d (accountOf d cls) + v)), eCredit := d.eCredit + v }

/-- The energy meters have added to a task's count, in µJ, since it was last read: by a free value of the device (R55, R108; log entry 7). -/
def meterTask (s : State) (id : Nat) : State := useFresh (updTask s id fun t => { t with enacc := (t.enacc + freeAt s 600) % 2 ^ 64 })

/-! ## Conditions -/

/-- The bank of a task that is in one: the core and the bank. -/
def taskBank (s : State) (id : Nat) : Option (Nat × Nat) :=
  match tfind s.tasks id with
  | some t => if t.st = .inBank then some (t.core, t.bank) else none
  | none => none
/-- A strand has retired its END section, or is absent (R43). -/
def strandOver (x : StrandSt) : Bool := x.phase = .absent || (x.phase = .ended && x.execs.isEmpty)
/-- Every result of the strand has landed. -/
def allLanded (x : StrandSt) : Bool := x.flight.all fun f => f.landed || f.dests.isEmpty
/-- No copy command of the task is left, and every reel of it is complete. -/
def copiesOver (s : State) (core id : Nat) : Bool :=
  let k := coreOf s core
  !(k.slots.any fun e => e.2.task = id) && !(k.reels.any fun r => r.task = id)
/-- E has reached its end: TRET has issued, or its END section has retired without one (R53). -/
def endReached (b : Bank) : Bool := b.tretIssued || strandOver b.se
/-- When the task of a bank has reached TRET, the reels bound to its engine stop fetching (R254); those that A has kicked after that stop when A ends. -/
def reachTret (s : State) (core : Nat) (b : Bank) : State := if b.task.isSome && endReached b then stopReels s core else s
/-- The conditions of R53. -/
def tretReady (s : State) (core id : Nat) (b : Bank) : Bool :=
  endReached b && strandOver b.sa && strandOver b.sm && copiesOver s core id && allLanded b.se

/-! ## Retiring -/

/-- The bank without its task; the register contents stay. -/
def emptyBank (b : Bank) : Bank :=
  { b with task := none, sa := {}, se := {}, sm := {}, trap := none, tretIssued := false, mwait := none, mldwPosted := false, cut := none, saved := none, cursor := 0 }

/-- Wait-table entries of a task are freed (R256). -/
def freeWaits (s : State) (id : Nat) : State :=
  { s with
    clusters := s.clusters.map fun k => (k.1, { k.2 with waits := k.2.waits.filter fun e => e.task != id })
    pool := { s.pool with waitsN := s.pool.waitsN.filter fun e => e.task != id, waitsS := s.pool.waitsS.filter fun e => e.task != id } }

/-- The tags of the claimed tiles at retirement: after TRET (R72), RDY, and POI on every one when the task has written poison into any, since it then retires
POISONED (R54); failed as POISONED (R316), RDY and POI; failed by the
runtime (R54), POI alone. -/
def setOutTags (s : State) (id : Nat) : State :=
  let t := taskOf s id
  t.claims.foldl (fun s c =>
    let g := tagAt s c.pa
    let v := match t.failing with
      | none => tagWith g true (!t.poisoned.isEmpty) false
      | some 1 => tagWith g true true false
      | some _ => g ||| 0x4000
    writeTag s c.pa v) s

/-- The status with which a task retires (R54). -/
def endStatus (t : Task) : Nat := match t.failing with | some n => n | none => if t.poisoned.isEmpty then 0 else 1

/-- A bank of the core's cluster frees: a steal may be tried again (R99). -/
def bankFreed (s : State) (core : Nat) : State := updCluster s (clusterOfCore core) fun k => { k with stealAt := 0 }
/-- The task gives back what it owns (R53 steps 3 to 6). -/
def giveBack (s : State) (id : Nat) : State :=
  let t := taskOf s id
  let status := endStatus t
  let s := match taskBank s id with
    | some (core, b) =>
      let s := if (coreOf s core).fg = b && holdsLease s core then releaseLease s (clusterOfCore core) else s
      let s := updCluster s (clusterOfCore core) fun k => if (coreOf s core).fg = b then { k with want := k.want.filter (· != core % 4) } else k
      let s := updBank s core b emptyBank
      let s := bankFreed s core
      updCore s core fun k => { k with shst := if k.fg = b then k.shst else 0 }
    | none => s
  let s := match t.st with
    | .spilled a => updDie s t.die fun d => { d with areas := tdel d.areas a }
    | _ => s
  let s := updTask s id fun t => { t with scr := (0, 0), bars := (0, 0), acc := [], wmap := [], wsrc := [], claims := [], keep := none }
  let s := if t.started then credit s t.die t.ecls (t.est - 1000 * (t.enacc : Int)) else s
  countRetired (freeArena (freeWaits (dropCode s id) id) id) id status

/-- The scope of the release of R53 step 1: SYS when a claimed tile's tag map lies in a COH page (R72). -/
def tagsScope (s : State) (id : Nat) : Nat := if (taskOf s id).claims.any (·.sys) then 3 else 2
/-- Retires a task that has been in a bank (R53): a release, its tags, and the rest. The accesses of its strands are performed first. -/
def retireTask (s : State) (id : Nat) : State :=
  let s := match taskBank s id with
    | some (core, b) =>
      let s := drain (drain (drain s core b .a) core b .e) core b .m
      releaseAction s core (tagsScope s id)
    | none => releaseAction s (taskOf s id).core (tagsScope s id)
  giveBack (setOutTags (meterTask s id) id) id

/-! ## Failing (R511) -/

/-- Steps 1 and 2: the strands stop, a running command is cut, parked copies end ABORTED, reels stop. -/
def beginFail (s : State) (id : Nat) : State :=
  let t := taskOf s id
  let s := match taskBank s id with
    | some (core, b) => if (coreOf s core).fg = b then cutMatrix s core else s
    | none => s
  if !t.started then s else
  let s := ((coreOf s t.core).slots.filter fun e => e.2.task = id && e.2.st = .parked).foldl (fun s e => endCopy s t.core e.1 1) s
  freeWaits (stopReels s t.core) id

/-- The runtime fails a task: one out of dispatch retires at once (R511), any other begins to fail. -/
def failTask (s : State) (id : Nat) : State :=
  let t := taskOf s id
  let s := updTask s id fun t => { t with failing := some 2 }
  match t.st with
  | .held _ | .waitRead => countRetired (freeArena (updTask (setOutTags s id) id fun t => { t with claims := [] }) id) id 2
  | _ => beginFail s id

/-- A failing task may retire: its copies have ended and its results have landed (R511 step 3). -/
def failReady (s : State) (id : Nat) : Bool :=
  let t := taskOf s id
  t.failing.isSome && copiesOver s t.core id &&
  (match t.st with
   | .inBank => let b := bankOf s t.core t.bank; [b.sa, b.se, b.sm].all fun x => x.flight.all fun f => f.landed || (f.op.isSome && f.dests.isEmpty)
   | .spilled _ => true
   | _ => false)

end Sys2Proof.Machine
end

