-- ==== Sys2Proof/Machine/Select.lean ====
section
/-! DEFINITION. Selection (R92-R96): fitting, allocation, the start state of a bank (R57), staging (R102) and taking tasks out of the ready queues. -/
namespace Sys2Proof.Machine

/-! ## Ready queues (R92, R93, R96) -/

/-- Ends the tasks' waiting in a queue: what it has waited is kept (R93). -/
def endWait (s : State) (id : Nat) : State := updTask s id fun t => { t with waited := t.waited + (s.cycle - t.since), since := s.cycle }
/-- Takes a task out of the ready queues of its cluster. -/
def unqueue (s : State) (id : Nat) : State :=
  let cl := (taskOf s id).cluster
  if !((List.range 4).any fun c => (queueOf (clusterOf s cl) c).contains id) then s else
  let s := endWait s id
  updCluster s cl fun k =>
    let k := (List.range 4).foldl (fun k c => setQueue k c ((queueOf k c).filter (· != id)) s.cycle) k
    { k with reserved := if k.reserved = some id then none else k.reserved }
/-- The queue of a task's effective class has room for it (R92). -/
def classRoom (s : State) (id : Nat) : Bool := 1 ≤ queueRoom s (taskOf s id).cluster (taskOf s id).eff
/-- Puts a task at the tail, or back at the head, of its effective class. Waiting time is kept across steals and the returns of R102 (`kept`), and begins anew after TYIELD
and a spill (R93). -/
def requeue (s : State) (id : Nat) (head kept : Bool) : State :=
  let t := taskOf s id
  let s := updTask s id fun t => { t with since := s.cycle, waited := if kept then t.waited else 0 }
  updCluster s t.cluster fun k => setQueue k t.eff (if head then id :: queueOf k t.eff else queueOf k t.eff ++ [id]) s.cycle
/-- Cycles that the task has waited since it entered its queue. -/
def waitedFor (s : State) (t : Task) : Nat := t.waited + (s.cycle - t.since)
/-- AGEL of a die (R93). -/
def agel (s : State) (die : Nat) : Nat := (dieOf s die).agectl.toNat

/-! ## Fitting (R95) -/

/-- Units of `sz` that the spans cover. -/
def unitsOf (sz : Nat) (l : List (Nat × Nat)) : List Nat := l.flatMap fun p => (List.range (p.2 / sz)).map (p.1 / sz + ·)
/-- The lowest run of `n` free units of 32. -/
def lowRun (used : List Nat) (n : Nat) : Option Nat :=
  (List.range (33 - n)).find? fun b => (List.range n).all fun i => !used.contains (b + i)
/-- The tasks with allocations on a core, but for one. -/
def ownersOn (s : State) (core : Nat) (ign : Option Nat) : List Task :=
  (s.tasks.filter fun e => e.2.core = core && some e.1 != ign).map (·.2)
/-- Tiles of a cluster that no task owns. -/
def freeTiles (s : State) (cl : Nat) (ign : Option Nat) : List Nat :=
  let used := (s.tasks.filter fun e => e.2.cluster = cl && some e.1 != ign).flatMap fun e => e.2.acc
  (List.range 32).filter fun t => !used.contains t
/-- An allocation: first scratchpad unit, first barrier unit, tiles. -/
structure Fit where
  scr : Nat
  bar : Nat
  acc : List Nat
  deriving DecidableEq, Repr
/-- Whether a method fits a core, the allocations of task `ign` not counted. -/
def fitOf (s : State) (core m : Nat) (ign : Option Nat) : Option Fit :=
  let e := method s m
  let l := ownersOn s core ign
  let free := freeTiles s (clusterOfCore core) ign
  if free.length < mtAcc e then none else
  match lowRun (unitsOf 65536 (l.map Task.scr)) (mtScr e), lowRun (unitsOf 64 (l.map Task.bars)) (mtBar e) with
  | some a, some b => some { scr := a, bar := b, acc := free.take (mtAcc e) }
  | _, _ => none

/-! ## Allocation and the start state (R56, R57) -/

/-- One 64 KiB unit of a scratchpad is given to a key group: zeroed when another key group owned it last, else undefined. -/
def giveUnit (s : State) (core key u : Nat) : State :=
  let lo := scratchPa core (65536 * u)
  let other := match tfind (coreOf s core).scrKey u with | some k => k != key | none => false
  let m := if other then memZero s.mem lo (lo + 65536) else memUndef s.mem lo (lo + 65536) (s.fresh + u)
  updCore { s with mem := m } core fun k => { k with scrKey := tset k.scrKey u key }
/-- One accumulator tile is given to a key group (R57, R202). -/
def giveTile (s : State) (cl key t : Nat) : State :=
  updCluster s cl fun k =>
    let other := match (accTile k t).key with | some g => g != key | none => false
    setTile k t { undef := if other then none else some (s.fresh * 2 ^ 32 + 4096 + 256 * t), key := some key }

/-- ACCMAP (R141). -/
def accmapOf (l : List Nat) : Nat := ((List.zip (List.range l.length) l).map fun e => (32 + e.2) * 2 ^ (6 * e.1)).foldl (· + ·) 0
/-- The bank at task start (R57); E stands before the routine header at `raddr`. -/
def startBank (t : Task) (id lr m : Nat) : Bank :=
  { task := some id, root := t.root, key := t.key
    se := { phase := .header, pc := BitVec.ofNat 64 (mtRaddr m) }
    wid := t.wid, widfmt := BitVec.ofNat 54 (nbits lr 24 36 + nbits lr 64 18 * 2 ^ 36), taskid := BitVec.ofNat 32 id
    opid := BitVec.ofNat 13 (t.opid + t.conv.toNat * 2 ^ 12)
    parkav := BitVec.ofNat 11 (128 * t.acc.length), accmap := BitVec.ofNat 48 (accmapOf t.acc)
    bbase := BitVec.ofNat 11 t.bars.1, bcnt := BitVec.ofNat 12 t.bars.2
    scrbase := BitVec.ofNat 21 t.scr.1, scrsize := BitVec.ofNat 22 t.scr.2
    tdtbase := BitVec.ofNat 57 (lrTdtva lr), enest := BitVec.ofNat 64 (mtEnergy m) }

/-- The group's first task reaches a bank (R100). -/
def groupStarted (s : State) (id : Nat) : State :=
  match boundGroup s id with
  | none => s
  | some g => updLaunch s (taskOf s id).launch fun l => { l with places := l.places.map fun p =>
      bif p.level == g.1 && p.gkey == g.2 then { p with started := true } else p }

/-- A selected task is given a bank: its queue entry, its allocations, its estimate and its start state, which takes 128 cycles to write (R102). -/
def giveBank (s : State) (core bank id : Nat) (f : Fit) : State :=
  let s := unqueue s id
  let t := taskOf s id
  let m := match t.method with | some m => method s m | none => 0
  let cl := clusterOfCore core
  let s := ((List.range (mtScr m)).map (f.scr + ·)).foldl (fun s u => giveUnit s core t.key u) s
  let s := f.acc.foldl (fun s a => giveTile s cl t.key a) s
  let s := useFresh { s with fresh := s.fresh + 32 }
  let bars := (64 * f.bar, 64 * mtBar m)
  let s := updCore s core fun k => { k with bars := k.bars.filter fun e => !(bars.1 ≤ e.1 && e.1 < bars.1 + bars.2) }
  let kept := fun (e : BarChg) => !(e.core == core && bars.1 ≤ e.bar && e.bar < bars.1 + bars.2)
  let s := { s with barChg := s.barChg.filter kept, barLate := s.barLate.filter kept }
  let s := updTask s id fun t => { t with
    st := .inBank, cluster := cl, core := core, bank := bank, started := true, est := mtEnergy m, scr := (65536 * f.scr, 65536 * mtScr m), bars := bars, acc := f.acc }
  let s := deduct s t.die t.ecls (mtEnergy m)
  let b := startBank (taskOf s id) id (taskLr s id) m
  groupStarted (updBank s core bank fun _ => b) id

/-- The start state goes into the shadow bank (R102). -/
def stageTask (s : State) (core id : Nat) (f : Fit) : State :=
  let b := shadow (coreOf s core)
  updCore (giveBank s core b id f) core fun k => { k with shst := 1, stageAt := some (s.cycle + 128) }
/-- The start state goes into the empty foreground bank; the 64-cycle swap follows. -/
def startFront (s : State) (core id : Nat) (f : Fit) : State :=
  let b := (coreOf s core).fg
  updCore (giveBank s core b id f) core fun k => { k with fgStart := true, stageAt := some (s.cycle + 128) }

/-- A staged task goes back to the head of its queue (R102): its allocations are free and its estimate is credited. -/
def unstage (s : State) (core : Nat) : State :=
  let k := coreOf s core
  let b := bankSel k (shadow k)
  match b.task with
  | none => s
  | some id =>
    let t := taskOf s id
    let s := credit s t.die t.ecls t.est
    let s := updTask s id fun t => { t with st := .ready, started := false, est := 0, scr := (0, 0), bars := (0, 0), acc := [] }
    let s := updBank s core (shadow k) fun _ => {}
    requeue (bankFreed (updCore s core fun k => { k with shst := 0, stageAt := none }) core) id true true
/-- The staged task of the core can go back to its queue. -/
def unstageRoom (s : State) (core : Nat) : Bool :=
  match (bankSel (coreOf s core) (shadow (coreOf s core))).task with | some id => classRoom s id | none => true

/-! ## select (R94) -/

/-- The bank holds a task of a gang: it is swapped in with its whole group only (R35). -/
def gangBank (s : State) (b : Bank) : Bool := match b.task with | some id => (taskOf s id).glev != 7 | none => false
/-- A strand of a bank can go on once the bank is in the foreground: it is present, it has not ended, and no park holds it. -/
def strandFree (x : StrandSt) : Bool :=
  x.phase != .absent && x.phase != .ended && x.phase != .stopped && (match x.park with | some p => p.woken | none => true)
/-- The task of a bank could run: it is neither trapped nor failing, and some strand can go on, or its end has come. -/
def bankRunnable (s : State) (core : Nat) (b : Bank) : Bool :=
  match b.task with
  | none => false
  | some id => b.trap.isNone && !failingBank s b &&
      ([b.sa, b.se, b.sm].any (fun x => strandFree x && x.stall.all fun w => w.1 != .tret) || tretReady s core id b)

/-- A queue entry as a selector of the core sees it: it can be placed with an allocation, or it is the task of its own shadow bank, or one in a save
area that comes back to its core. -/
inductive Cand where
  | place (f : Fit)
  | back
  | no
  | gone
  deriving DecidableEq, Repr

/-- The entry of a ready task is still valid and of its operator (R76). -/
def methodValid (s : State) (t : Task) : Bool :=
  match t.method with | some m => mtVal (method s m) && mtOpid (method s m) = t.opid | none => false

/-- Judges an entry for a core. A gang task is the die dispatcher's (R97), also when it comes back (R35). -/
def candidate (s : State) (core id : Nat) (ign : Option Nat) : Cand :=
  let t := taskOf s id
  if t.glev != 7 then .no
  else if t.pcore.any (· != core % 4) then .no
  else match t.st with
  | .ready =>
    if !methodValid s t then .gone else
    match fitOf s core (t.method.getD 0) ign with | some f => .place f | none => .no
  | .inBank => if t.core = core && (bankOf s core (shadow (coreOf s core))).task = some id && bankRunnable s core (bankOf s core t.bank) then .back else .no
  | .spilled _ =>
    if t.core = core && (t.keep.any (bankRunnable s core)) then .back else .no
  | _ => .no

/-- The estimate of a ready task is covered (R107). -/
def taskCovered (s : State) (id : Nat) : Bool :=
  let t := taskOf s id
  t.started || covered (dieOf s t.die) t.ecls (match t.method with | some m => mtEnergy (method s m) | none => 0)

/-- What a selection gives: the task with its allocation, the entries whose method has gone, and whether a fitting task was not covered. -/
structure Pick where
  task : Option (Nat × Option Fit) := none
  gone : List Nat := []
  stall : Bool := false
  deriving DecidableEq, Repr

/-- Examines entries in order. -/
def pickFrom (s : State) (core : Nat) (ign : Option Nat) : List Nat → Pick
  | [] => {}
  | id :: l =>
    match candidate s core id ign with
    | .back => { task := some (id, none) }
    | .place f => if taskCovered s id then { task := some (id, some f) } else { pickFrom s core ign l with stall := true }
    | .gone => let r := pickFrom s core ign l; { r with gone := id :: r.gone }
    | .no => pickFrom s core ign l

/-- `select` of R94 for a core, over the classes from `low` on, the allocations of task `ign` not counted. A THCAP of 0 places nothing (R106). -/
def selectFor (s : State) (core : Nat) (ign : Option Nat) (low : Nat) : Pick :=
  let k := clusterOf s (clusterOfCore core)
  if (dieOf s (dieOfCore core)).thcap = 0 then {} else
  match k.reserved with
  | some id => if low ≤ (taskOf s id).eff then pickFrom s core ign [id] else {}
  | none => pickFrom s core ign ((([3, 2, 1, 0] : List Nat).filter fun c => low ≤ c).flatMap fun c => (queueOf k c).take 16)

/-- An energy stall of a die (R107). -/
def energyStall (s : State) (die : Nat) : State :=
  let n := (dieOf s die).estall + 1
  noteSet (updDie s die fun d => { d with estall := n, eStalls := d.eStalls + 1 }) (0x10000 * die + 0x428) (newBits (dieOf s die).estall.toNat n.toNat)
/-- What every selection leaves: entries whose method has gone run R76 again; a selection that places nothing while a fitting task was not covered is
an energy stall (R107). -/
def afterPick (s : State) (die : Nat) (p : Pick) : State :=
  let s := p.gone.foldl (fun s id => dispatchTask (unqueue s id) id) s
  if p.task.isNone && p.stall then energyStall s die else s

end Sys2Proof.Machine
end

