-- ==== Sys2Proof/Machine/Swap.lean ====
section
/-! DEFINITION. Task start (R42, R43, R273), bank swaps (R321), and the spill engine with its save areas (R322). -/
namespace Sys2Proof.Machine

/-! ## Task start (R43) -/

/-- The offsets of a routine header are legal (R42). -/
def headerOk (h : Nat) : Bool :=
  nbits h 0 24 = 0x594C53 && nbits h 24 8 = 1 && nbits h 128 128 = 0 && nbits h 64 32 != 0 &&
    ([32, 64, 96].all fun o => nbits h o 32 % 8 = 0)
/-- A strand before its first slate; absent at offset 0. -/
def firstSlate (x : StrandSt) (raddr off : Nat) : StrandSt :=
  if off = 0 then x else { x with phase := .slate, pc := BitVec.ofNat 64 (raddr + off) }
/-- The task in the foreground starts: its acquire, its header, and its strands at their first slates; or E traps. A header that is not aligned to 8 bytes reads as
undefined values (R1, R42; log entry 80). -/
def startTask (s : State) (core : Nat) : State :=
  let s := startAcquire s core
  let ra := (fgBank (coreOf s core)).se.pc.toNat
  match fetchCode s (ctxOf s core (coreOf s core).fg) ra 32 with
  | .error f => takeTrap s core .e f.cause f.sub ra
  | .ok (h, s) =>
    let (h, s) := if ra % 8 = 0 then (h, s) else (freeAt s 605 % 2 ^ 256, useFresh s)
    if !headerOk h then takeTrap s core .e 0x0D 0 0
    else updBank s core (coreOf s core).fg fun b =>
      { b with sa := firstSlate b.sa ra (nbits h 32 32), se := firstSlate b.se ra (nbits h 64 32), sm := firstSlate b.sm ra (nbits h 96 32) }

/-! ## Swaps (R321) -/

/-- Every strand is at a word boundary: the last pass of its last word has entered. -/
def atBoundary (s : State) (core : Nat) : Bool :=
  let b := fgBank (coreOf s core)
  [b.sa, b.se, b.sm].all fun x => decide (x.busy ≤ coreTime s core)
/-- A swap may begin now: the core is not frozen, nothing is being swapped, staged or spilled, and every strand is at a boundary. -/
def swapAllowed (s : State) (core : Nat) : Bool :=
  let k := coreOf s core
  powered s && !k.sys && enabledNow s (dieOfCore core) && !frozenNow s core && k.swapAt.isNone && k.stageAt.isNone && k.shst != 3 && atBoundary s core
/-- A swap is due: it has been decided, or the foreground is empty and the shadow bank holds a task that can run. -/
def swapDue (s : State) (core : Nat) : Bool :=
  let k := coreOf s core
  k.swapWant || ((fgBank k).task.isNone && !gangBank s (bankSel k (shadow k)) && bankRunnable s core (bankSel k (shadow k)))
/-- A strand's wait that has been woken and not yet resumed is kept as satisfied (R324). -/
def keepMet (s : State) (core : Nat) (x : StrandSt) : StrandSt :=
  { x with park := x.park.map fun p => if p.woken && p.sat.isNone then { p with sat := satisfied s core p.scope p.key p.cond } else p }
/-- The waits of a bank that are met while a swap takes it out. -/
def bankMet (s : State) (core : Nat) (b : Bank) : Bank := { b with sa := keepMet s core b.sa, se := keepMet s core b.se, sm := keepMet s core b.sm }
/-- The swap begins: M's running command is cut, and 64 cycles pass from the boundary at which it is (R213). -/
def beginSwap (s : State) (core : Nat) : State :=
  let s := cutMatrix s core
  let s := updBank s core (coreOf s core).fg (bankMet s core)
  let s := match (bankSel (coreOf s core) (shadow (coreOf s core))).task with | some id => unqueue s id | none => s
  let cl := clusterOfCore core
  let wait := ceilDiv (((clusterOf s cl).freeAt - arrayClock s cl) * 16) (duty (dieOf s (dieOfCore core)).curPoint.toNat)
  updCore s core fun k => { k with swapAt := some (s.cycle + wait + 64), swapWant := false }

/-- The foreground bank is ready: a task that has not started starts, any other goes on (R214). -/
def enterFront (s : State) (core : Nat) : State :=
  let b := fgBank (coreOf s core)
  if b.task.isNone then s
  else if b.se.phase = .header && b.trap.isNone then startTask s core
  else if b.trap.isNone then resumeMatrix (if b.mldwPosted || b.mldws.any (fun x => x.took.isNone) then translateCore s core else s) core else s
/-- The swap ends: the banks have changed places, but for a start in the foreground bank; the held window writes are performed (R138). -/
def endSwap (s : State) (core : Nat) : State :=
  let t := coreTime s core
  let s := updCore s core fun k =>
    let k := if k.fgStart then k else { k with fg := 1 - k.fg }
    let k := { k with swapAt := none, fgStart := false, fgAt := t }
    { k with shst := if (bankSel k (shadow k)).task.isNone then 0 else if k.spillAt.isSome then 3 else 2 }
  enterFront (releaseHeld (updBank s core (coreOf s core).fg fun b => { b with yielded := false }) core) core

/-! ## Save areas (R322) -/

/-- The items of a save area: the offset, the size, and what stands there (R137). -/
def areaItems : List (Nat × Nat × WinItem) :=
  let row := fun (n base step size : Nat) (f : Nat → WinItem) => (List.range n).map fun i => (base + step * i, size, f i)
  row 64 0 512 512 .vpair ++ row 64 0x8000 8 8 .vstat ++ row 32 0x10000 8 8 .xreg ++ row 64 0x10100 8 8 .sreg ++ row 8 0x10300 4 4 .ireg ++
  row 3 0x10380 8 8 .poiMap ++ row 15 0x10600 512 512 (fun i => .kpair (i + 1)) ++ row 15 0x12408 8 8 (fun i => .kstat (i + 1)) ++
  ((List.range 8).flatMap fun q => row 32 (0x13000 + 256 * q) 8 8 (.slot q)) ++
  ((List.range 4).flatMap fun q => row 16 (0x13800 + 128 * q) 8 8 (.slot (12 + q))) ++
  ((List.range 4).flatMap fun q => row 8 (0x14000 + 4096 * q) 512 512 (.blockPair (8 + q))) ++
  ((List.range 4).flatMap fun q => row 8 (0x18000 + 64 * q) 8 8 (.blockStat (8 + q))) ++
  row 16 0x19000 8 8 .ctl ++ row 8 0x19080 8 8 .slotPoi ++ row 4 0x190E0 8 8 (fun i => .slotPoi (12 + i))

/-- Writes 8-byte words from an address on. -/
def areaWords (s : State) (die pa : Nat) (l : List Nat) : State :=
  (List.zip (List.range l.length) l).foldl (fun s e => deviceWrite s die (pa + 8 * e.1) 8 e.2) s
/-- The words of strand `st`'s block. -/
def strandWords (x : StrandSt) (t : Option TrapSt) (word0 : Nat) (b : Bank) (st : Nat) : List Nat :=
  [x.pc.toNat, x.ent.toNat + 2 ^ 32 * x.ret.toNat, x.repIdx % 256 + (match x.rep with | some r => r.j % 64 | none => 0) * 2 ^ 8,
    if t.any (fun t => t.st = st) then word0 else 0, if st = 2 then b.mconf.toNat else 0, if st = 2 then b.cursor.toNat else 0]
/-- The blocks of the three strands in the area at `pa` (R322). -/
def writeStrands (s : State) (die pa core bank : Nat) (b : Bank) : State :=
  let word0 := match b.trap with | some t => trapWord0 (updBank s core bank fun _ => b) core bank t.st t.cause t.sub | none => 0
  let s := areaWords s die (pa + 0x1A000) (strandWords b.sa b.trap word0 b 0)
  let s := areaWords s die (pa + 0x1A040) (strandWords b.se b.trap word0 b 1)
  areaWords s die (pa + 0x1A080) (strandWords b.sm b.trap word0 b 2)
/-- The descriptor VA and the next block index of each bound stream (R448). -/
def writeStreams (s : State) (die pa : Nat) (b : Bank) : State :=
  (List.range 4).foldl (fun s n => match (tget b.sq (8 + n) {}).bound with
    | some t => areaWords s die (pa + 0x1A300 + 16 * n) [t.descVa, t.next]
    | none => s) s
/-- The per-task CSRs in the order of R55. -/
def csrWords (b : Bank) (enacc : Nat) : List Nat :=
  [b.wid.toNat, b.widfmt.toNat, b.taskid.toNat, b.opid.toNat, b.vrb.toNat, b.krb.toNat, b.fd0.toNat, b.fd1.toNat, b.fd2.toNat, b.fd3.toNat, b.fpctl.toNat,
    b.fpflags.toNat, b.parkav.toNat, b.accmap.toNat, b.bbase.toNat, b.bcnt.toNat, b.enest.toNat, b.scrbase.toNat, b.scrsize.toNat, b.tdtbase.toNat, enacc]
/-- The physical address of a save area. -/
def areaPa (s : State) (die a : Nat) : Nat := (dieOf s die).ctxbase.toNat + 0x20000 * a
/-- The lowest free save area of a die. -/
def freeArea (s : State) (die : Nat) : Option Nat :=
  (List.range (dieOf s die).ctxn.toNat).find? fun a => (tfind (dieOf s die).areas a).isNone && !((List.range 128).any fun c => (coreOf s (die * 128 + c)).spillAt = some a)

/-- Every result addressed to the bank has landed. -/
def bankLanded (b : Bank) : Bool := allLanded b.sa && allLanded b.se && allLanded b.sm

/-- The spill engine writes the shadow bank to area `a`; the task goes to the tail of its ready queue (R103, R463). Its outstanding stores are performed
first. -/
def spillBank (s : State) (core a : Nat) : State :=
  let k := shadow (coreOf s core)
  match (bankOf s core k).task with
  | none => s
  | some id =>
    let die := dieOfCore core
    let s := drain (drain (drain s core k .a) core k .e) core k .m fun f => !matrixBehind s core k .m f.id
    let b := bankOf s core k
    let pa := areaPa s die a
    let s := areaItems.foldl (fun s e => deviceWrite s die (pa + e.1) e.2.1 (winGet b e.2.2).1) s
    let s := writeStreams (writeStrands s die pa core k b) die pa b
    let s := meterTask s id
    let s := areaWords s die (pa + 0x1A100) (csrWords b (taskOf s id).enacc)
    let s := useFresh (deviceWrite s die (pa + 0x1A200) 64 (freeAt s 700))
    let s := updTask s id fun t => { t with st := .spilled a, keep := some b }
    let s := updDie s die fun d => { d with areas := tset d.areas a id }
    let s := bankFreed (updCore (updBank s core k emptyBank) core fun k => { k with shst := 0, spillAt := none }) core
    let queued := (List.range 4).any fun c => (queueOf (clusterOf s (clusterOfCore core)) c).contains id
    releaseHeld (if queued then s else requeue s id false false) core
/-- The shadow bank's task may be spilled: it is in its ready queue, or there is room for it there (R92). -/
def spillRoom (s : State) (core : Nat) : Bool :=
  match (bankSel (coreOf s core) (shadow (coreOf s core))).task with
  | some id => (List.range 4).any (fun c => (queueOf (clusterOf s (clusterOfCore core)) c).contains id) || classRoom s id
  | none => true

/-- Sets the POI bits of a table of registers from a bitmap. -/
def orPoi (t : Tbl Reg) (v : Nat) : Tbl Reg := t.map fun e => (e.1, { e.2 with poi := e.2.poi || nbit v e.1 })
/-- One item of a save area goes into a bank. -/
def itemIn (b : Bank) (it : WinItem) (v : Nat) (p : Bool) : Bank :=
  match it with
  | .vpair n => { b with v := tset b.v n { tget b.v n {} with pairs := BitVec.ofNat 4096 v, poi := p } }
  | .vstat n => let r := tget b.v n {}; { b with v := tset b.v n (statusIn r v (r.poi || p)) }
  | .xreg n => if n = 0 then b else { b with x := tset b.x n { v := BitVec.ofNat 64 v, poi := p } }
  | .sreg n => if n = 0 then b else { b with s := tset b.s n { v := BitVec.ofNat 64 v, poi := p } }
  | .ireg n => { b with i := tset b.i n { v := BitVec.ofNat 32 v, poi := p } }
  | .poiMap f =>
    if f = 0 then { b with x := orPoi b.x v } else if f = 1 then { b with s := orPoi b.s v }
    else { b with i := b.i.map fun e => (e.1, { e.2 with poi := e.2.poi || nbit v e.1 }) }
  | .kpair n => { b with k := tset b.k n { tget b.k n {} with pairs := BitVec.ofNat 4096 v, poi := p } }
  | .kstat n => let r := tget b.k n {}; { b with k := tset b.k n { statusIn r v (r.poi || p) with et := r.et } }
  | .slot q e => let k := tget b.q q {}; { b with q := tset b.q q { k with slots := tset k.slots e { r := { v := BitVec.ofNat 64 v, poi := p } } } }
  | .blockPair q e => let k := tget b.sq q {}; { b with sq := tset b.sq q { k with slots := tset k.slots e { tget k.slots e {} with pairs := BitVec.ofNat 4096 v, poi := p } } }
  | .blockStat q e => let k := tget b.sq q {}; { b with sq := tset b.sq q { k with slots := tset k.slots e (statusIn (tget k.slots e {}) v ((tget k.slots e {}).poi || p)) } }
  | .ctl q =>
    if 8 ≤ q ∧ q < 12 then
      let k := tget b.sq q {}; { b with sq := tset b.sq q { k with head := nbits v 0 8 % 8, tail := nbits v 8 8 % 8, count := min 8 (nbits v 16 8) } }
    else
      let k := tget b.q q {}
      { b with q := tset b.q q { k with head := nbits v 0 8 % queueDepth q, tail := nbits v 8 8 % queueDepth q, count := min (queueDepth q) (nbits v 16 8) } }
  | .slotPoi q =>
    let k := tget b.q q {}
    { b with q := tset b.q q { k with slots := k.slots.map fun e => (e.1, { e.2 with r := { e.2.r with poi := e.2.r.poi || nbit v e.1 } }) } }

/-- A strand as its block in the area gives it. -/
def strandIn (x : StrandSt) (pc er rep : Nat) : StrandSt :=
  let x := { x with ent := BitVec.ofNat 32 er, ret := BitVec.ofNat 32 (er / 2 ^ 32), retPrev := BitVec.ofNat 32 (er / 2 ^ 32), repIdx := rep % 256,
                    rep := x.rep.map fun r => { r with j := nbits rep 8 6 } }
  if x.pc.toNat = pc || x.phase = .absent then x
  else if x.phase = .run && inSection x.base x.slate pc then { x with pc := BitVec.ofNat 64 pc }
  else { x with phase := .slate, pc := BitVec.ofNat 64 pc }
/-- The per-task CSRs as the area gives them. -/
def csrIn (b : Bank) (w : Nat → Nat) : Bank :=
  { b with
    wid := BitVec.ofNat 64 (w 0), widfmt := BitVec.ofNat 54 (w 1), taskid := BitVec.ofNat 32 (w 2), opid := BitVec.ofNat 13 (w 3), vrb := BitVec.ofNat 5 (w 4)
    krb := BitVec.ofNat 3 (w 5), fd0 := BitVec.ofNat 16 (w 6), fd1 := BitVec.ofNat 16 (w 7), fd2 := BitVec.ofNat 16 (w 8), fd3 := BitVec.ofNat 16 (w 9)
    fpctl := BitVec.ofNat 4 (w 10), fpflags := BitVec.ofNat 9 (w 11), parkav := BitVec.ofNat 11 (w 12), accmap := BitVec.ofNat 48 (w 13)
    bbase := BitVec.ofNat 11 (w 14), bcnt := BitVec.ofNat 12 (w 15), enest := BitVec.ofNat 64 (w 16), scrbase := BitVec.ofNat 21 (w 17)
    scrsize := BitVec.ofNat 22 (w 18), tdtbase := BitVec.ofNat 57 (w 19) }

/-- Reads items of a save area, each an offset and a size: what they hold, and the state after. -/
def areaReads (s : State) (die pa : Nat) : List (Nat × Nat) → List (Nat × Bool) × State
  | [] => ([], s)
  | e :: l =>
    let a := deviceRead s die 2 (pa + e.1) e.2
    let b := areaReads a.2 die pa l
    (a.1 :: b.1, b.2)
/-- The offsets of the words of the strands' blocks. -/
def strandTail : List Nat :=
  [0x1A000, 0x1A008, 0x1A010, 0x1A018, 0x1A040, 0x1A048, 0x1A050, 0x1A058, 0x1A080, 0x1A088, 0x1A090, 0x1A098, 0x1A0A0, 0x1A0A8]
/-- The offsets of the words of the streams (R448) and of the per-task CSRs. -/
def areaTail : List Nat :=
  ((List.range 4).flatMap fun n => [0x1A300 + 16 * n, 0x1A308 + 16 * n]) ++ (List.range 21).map fun j => 0x1A100 + 8 * j
/-- Words of the area by their offset. -/
def wordAt (tail : List Nat) (ws : List (Nat × Bool)) (off : Nat) : Nat := ((List.zip tail ws).find? fun e => e.1 = off).elim 0 fun e => e.2.1
/-- The pending trap that the first words of the strands' trap records give, if any (R315, R322). -/
def trapIn (old : Option TrapSt) (cursor : Nat) (l : List Nat) : Option TrapSt :=
  (l.find? (· != 0)).map fun w => { cause := nbits w 0 8, sub := nbits w 8 8, st := nbits w 16 2, cursor := (old.map TrapSt.cursor).getD cursor, at_ := (old.map TrapSt.at_).getD 0 }
/-- A bank with its strands as their blocks in the area give them. -/
def strandsIn (b : Bank) (w : Nat → Nat) : Bank :=
  { b with
    sa := strandIn b.sa (w 0x1A000) (w 0x1A008) (w 0x1A010), se := strandIn b.se (w 0x1A040) (w 0x1A048) (w 0x1A050)
    sm := strandIn b.sm (w 0x1A080) (w 0x1A088) (w 0x1A090), trap := trapIn b.trap (w 0x1A0A8) [w 0x1A018, w 0x1A058, w 0x1A098]
    mwait := if b.sm.pc.toNat = w 0x1A080 then b.mwait else none
    mconf := BitVec.ofNat 64 (w 0x1A0A0), cursor := BitVec.ofNat 64 (w 0x1A0A8)
    cut := b.cut.map fun m => { m with unit := w 0x1A0A8 % 2 ^ 32 }, saved := if nbit (w 0x1A0A8) 32 then b.saved else none }
/-- A stream as the area gives it: it goes on from there (R448). -/
def streamIn (b : Bank) (n va next : Nat) : Bank :=
  { b with sq := tset b.sq (8 + n) { tget b.sq (8 + n) {} with bound := (tget b.sq (8 + n) {}).bound.map fun t => { t with descVa := va, next := next } } }
/-- The spill engine restores area `a` into an empty bank and frees the area (R322): the shadow bank, or the foreground bank when it is the one that is empty, where the
swap's 64 cycles follow (R94). -/
def restoreArea (s : State) (core k a : Nat) : State :=
  let die := dieOfCore core
  match tfind (dieOf s die).areas a with
  | none => s
  | some id =>
    let pa := areaPa s die a
    let b := ((taskOf s id).keep.getD {})
    let (its, s) := areaReads s die pa (areaItems.map fun e => (e.1, e.2.1))
    let (sw, s) := areaReads s die pa (strandTail.map fun o => (o, 8))
    let (ws, s) := areaReads s die pa (areaTail.map fun o => (o, 8))
    let word := wordAt areaTail ws
    let b := (List.zip areaItems its).foldl (fun b e => itemIn b e.1.2.2 e.2.1 e.2.2) b
    let b := csrIn (strandsIn b (wordAt strandTail sw)) fun j => word (0x1A100 + 8 * j)
    let b := (List.range 4).foldl (fun b n => streamIn b n (word (0x1A300 + 16 * n)) (word (0x1A308 + 16 * n))) b
    let s := unqueue s id
    let s := meterTask (updTask s id fun t => { t with st := .inBank, bank := k, keep := none, runnable := false, enacc := word 0x1A1A0 }) id
    let s := updDie s die fun d => { d with areas := tdel d.areas a }
    updCore (updBank s core k fun _ => b) core fun c =>
      if k = c.fg then { c with fgStart := true, swapAt := some (s.cycle + 64) } else { c with shst := 2 }
/-- A change of the strands of a task in a save area is made in the area, which holds them (R317, R322). -/
def changeArea (s : State) (id : Nat) (f : Bank → Bank) : State :=
  let t := taskOf s id
  match t.st, t.keep with
  | .spilled a, some b =>
    let die := dieOfCore t.core
    let pa := areaPa s die a
    let (sw, s) := areaReads s die pa (strandTail.map fun o => (o, 8))
    let b := f (strandsIn b (wordAt strandTail sw))
    updTask (writeStrands s die pa t.core t.bank b) id fun t => { t with keep := some b }
  | _, _ => s

end Sys2Proof.Machine
end

