-- ==== Sys2Proof/Machine/Section.lean ====
section
/-! DEFINITION. Sections (R46-R52): beginning and retiring executions. -/
namespace Sys2Proof.Machine

/-! ## Word boundaries that a swap or an interrupt waits for (R319, R321) -/

/-- The core that takes the interrupts of a die: the lowest-numbered system core with IE = 1 that is not halted (R319, R411). -/
def interruptCore (s : State) (die : Nat) : Option Nat :=
  ((List.range 128).map (128 * die + ·)).find? fun c => let k := coreOf s c; k.sys && k.ie && !k.halted
/-- An interrupt waits that this core is to take at its next word boundary (R319, R399). -/
def interruptDue (s : State) (core : Nat) : Bool :=
  let d := dieOf s (dieOfCore core)
  (d.intFq || d.intMc) && interruptCore s (dieOfCore core) == some core
/-- No word of the core issues: a swap of it is decided, or it is to take an interrupt. A trap due at the boundary is taken first. -/
def boundaryHeld (s : State) (core : Nat) : Bool := (coreOf s core).swapWant || interruptDue s core
/-- The current core has taken a trap between `t` and `u`. -/
def tookTrap (t u : State) : Bool :=
  ((curBank u).trap.isSome && (curBank t).trap.isNone) || decide ((coreOf t t.curCore).savedE.length < (coreOf u t.curCore).savedE.length)
/-- The word before which a swap or an interrupt waits was tried in `t` and left `u`: of that only a trap takes place. -/
def probed (t u : State) : State := if tookTrap t u then u else modStrand t fun x => { x with probed := t.cycle + 1 }
/-- No trap is due at the core's word boundary: each strand is held back, or was found without one in this cycle. -/
def boundaryClear (s : State) (core : Nat) : Bool :=
  [Strand.a, Strand.e, Strand.m].all fun st =>
    (heldBack { s with curCore := core, curSt := st }).isSome || (strandOf s core (coreOf s core).fg st).probed == s.cycle + 1

/-! ## Slates (R46, R47) -/

/-- The other strands of the dependency fields. -/
def otherStrands (st : Strand) : Strand × Strand := match st with | .a => (.e, .m) | .e => (.a, .m) | .m => (.a, .e)
/-- R47. -/
def slateOk (st : Strand) (w : W64) : Bool :=
  w.extractLsb' 60 4 == 10 && (w.extractLsb' 58 2).toNat == strandNum st && slateCount w != 0 && !(slateLrel w && st != .m) && w.extractLsb' 0 22 == 0
/-- The dependencies of a slate: the other strand and the offset, for each that is valid. -/
def slateDeps (st : Strand) (w : W64) : List (Strand × BitVec 8) :=
  (if w.getLsbD 41 then [((otherStrands st).1, w.extractLsb' 42 8)] else []) ++ (if w.getLsbD 32 then [((otherStrands st).2, w.extractLsb' 33 8)] else [])
/-- RET as the other strands see it in this cycle (R49). -/
def retSeen (s : State) (y : StrandSt) : BitVec 32 := if y.retAt = s.cycle then y.retPrev else y.ret

/-- Whether an execution may begin. -/
inductive Dep where
  | met | wait | never
  deriving DecidableEq, Repr

/-- One dependency of execution `ent` on strand Y at offset `d` (R43, R48, R49). -/
def depOn (s : State) (y : StrandSt) (ent : BitVec 32) (d : BitVec 8) : Dep :=
  let short := fun (r : BitVec 32) => decide ((r - (ent + d.signExtend 32)).toInt < 0)
  if y.phase = .absent || !short (retSeen s y) then .met
  else if y.phase = .ended && y.execs.isEmpty && short y.ret then .never
  else .wait
/-- Both dependencies of an execution. -/
def depsOf (s : State) (b : Bank) (st : Strand) (w : W64) : Dep :=
  let l := (slateDeps st w).map fun e => depOn s (strandSel b e.1) ((strandSel b st).ent + 1) e.2
  if l.contains .never then .never else if l.contains .wait then .wait else .met

/-- An execution begins (R48). -/
def beginExecution (x : StrandSt) (base : Nat) (w : W64) : StrandSt :=
  { x with phase := .run, base := base, slate := w, ent := x.ent + 1, pc := BitVec.ofNat 64 (firstWord base), stall := none
           execs := x.execs ++ [{ n := x.ent + 1, lrel := slateLrel w }] }
/-- An access of a retired execution of a strand: a counted one when a dependency on the strand is met (R270). -/
def counted (x : StrandSt) (f : Flight) : Bool := !(x.execs.any fun e => e.n = f.ent)
/-- A link holds an access of a retired execution of a strand that the slate depends on. -/
def countedHeld (s : State) (st : Strand) (w : W64) : Bool :=
  (slateDeps st w).any fun e => let x := strandSel (curBank s) e.1; x.flight.any fun f => !f.landed && counted x f && f.op.any (opHeld s s.curCore)
/-- The accesses of the counted executions are performed before any of the execution that depends on them (R270). -/
def drainCounted (s : State) (st : Strand) (w : W64) : State :=
  (slateDeps st w).foldl (fun s e => drain s s.curCore (curFg s) e.1 (counted (strandSel (curBank s) e.1))) s
/-- The checks of R48-R50 on the slate `w` at `base`. -/
def tryExecution (s : State) (st : Strand) (base : Nat) (w : W64) : State :=
  if (curStrand s).execs.length ≥ 2 then stallAs s .other else
  match depsOf s (curBank s) st w with
  | .met => if countedHeld s st w then stallAs s .dep else modStrand (drainCounted s st w) fun x => beginExecution x base w
  | .wait => stallAs s .dep
  | .never => trapStrand s 0x0D 2 0

/-- A strand that stands before a section, or before the routine header. -/
def beginSection (s : State) (core : Nat) (st : Strand) : State :=
  let x := curStrand s
  match x.phase with
  | .header => startTask s core
  | .again => tryExecution s st x.base x.slate
  | .slate =>
    match fetchCode s (curCtx s) x.pc.toNat 8 with
    | .error f => trapStrand s f.cause f.sub f.va
    | .ok (v, s) =>
      if slateOk st (BitVec.ofNat 64 v) then tryExecution s st x.pc.toNat (BitVec.ofNat 64 v) else trapStrand s 0x0D 1 0
  | _ => s
def execSectionBegin (core : Nat) (st : Strand) (s : State) : Host.Outcome State Fault Refusal :=
  let s := landCore { s with curCore := core, curSt := st } core
  .next (match heldBack s with
    | some why => stallAs s why
    | none => if boundaryHeld s core then probed s (beginSection s core st) else beginSection s core st)

/-! ## Retiring (R51) -/

/-- A matrix command of execution `n` of a bank has not completed: one of `l`, the commands of its task that have not; an MLDW completes when the slot that it mapped is
filled (R198). -/
def matrixOpen (s : State) (core : Nat) (l : List MCmd) (b : Bank) (n : BitVec 32) : Bool :=
  l.any (fun m => m.ent = n) || b.mldws.any fun e => e.ent = n && !mldwDone s core e
/-- The oldest execution of a strand of a bank can retire. -/
def canRetire (s : State) (core : Nat) (l : List MCmd) (b : Bank) (st : Strand) : Bool :=
  let x := strandSel b st
  match x.execs with
  | [] => false
  | e :: _ => e.issued && (if st = .m then !matrixOpen s core l b e.n else x.flight.all fun f => f.ent != e.n || f.landed || f.dests.isEmpty)
/-- The bank whose oldest execution of the strand has retired in cycle `cycle` (R49). -/
def retireIn (cycle : Nat) (st : Strand) (b : Bank) : Bank :=
  let x := strandSel b st
  let b := setStrand b st { x with execs := x.execs.drop 1, retPrev := if x.retAt = cycle then x.retPrev else x.ret, ret := x.ret + 1, retAt := cycle }
  if st = .m then { b with mldws := b.mldws.filter fun e => x.execs.head?.all fun h => e.ent != h.n } else b
/-- The oldest execution of a strand in a bank of the core retires: an M section with LREL releases the lease, and TRET may be reached (R51, R53). -/
def retireExecution (s : State) (core bank : Nat) (st : Strand) : State :=
  match (strandOf s core bank st).execs with
  | [] => s
  | e :: _ =>
    let s := updBank s core bank (retireIn s.cycle st)
    let s := if e.lrel && bank = (coreOf s core).fg && holdsLease s core then releaseLease s (clusterOfCore core) else s
    if e.last then reachTret s core (bankOf s core bank) else s
/-- A task of the core in a save area whose strand has an execution that can retire: results and fills that came before the spill, or since, count there too. -/
def areaRetires (s : State) (core : Nat) (st : Strand) : Option Nat :=
  (s.tasks.find? fun e => e.2.core = core && (match e.2.st with | .spilled _ => true | _ => false) &&
    e.2.keep.any fun b => canRetire s core (b.cut.toList ++ b.saved.toList ++ b.mwait.toList) b st).map Prod.fst
/-- The oldest execution of a strand of a task in a save area retires. -/
def retireArea (s : State) (core id : Nat) (st : Strand) : State :=
  let last := (taskOf s id).keep.any fun b => (strandSel b st).execs.head?.any fun e => e.last
  let s := changeArea s id (retireIn s.cycle st)
  match last, (taskOf s id).keep with
  | true, some b => reachTret s core b
  | _, _ => s
/-- An execution of the strand retires: in the foreground, behind it, or in a save area of the core. -/
def execSectionRetire (core : Nat) (st : Strand) (s : State) : Host.Outcome State Fault Refusal :=
  let s := landCore s core
  let fg := (coreOf s core).fg
  let ok := fun (b : Nat) => canRetire s core (openCmds s core b) (bankOf s core b) st
  .next (if !powered s then s
    else if ok fg then retireExecution s core fg st
    else if ok (1 - fg) then retireExecution s core (1 - fg) st
    else match areaRetires s core st with | some id => retireArea s core id st | none => s)

end Sys2Proof.Machine
end

