-- ==== Sys2Proof/Machine/Plan.lean ====
section
/-! DEFINITION. What the next step does: a strand's turn, from its time and its watchdogs to the word that it issues, or an event (log entry 1; R311, R312, R314). -/
namespace Sys2Proof.Machine

/-! ## The watchdog (R312) -/

/-- The write with its POI set. -/
def Write.poisoned : Write → Write
  | .reg n r => .reg n { r with poi := true }
  | .idx n r => .idx n { r with poi := true }
  | .vec n r => .vec n { r with poi := true }
  | .mask n r => .mask n { r with poi := true }
  | .queue q sl r => .queue q sl { r with poi := true }
/-- Cycles since a flight's bound elapsed, frozen and disabled ones included (R312, R353). -/
def lateBy (s : State) (core : Nat) (f : Flight) : Nat := cyclesSince s (dieOfCore core) (rawTime s core + f.lost - f.bound)
/-- The watchdog of an awaited reply has reached its end. -/
def watchdogOut (s : State) (core : Nat) (f : Flight) : Bool := f.awaits && lateBy s core f ≥ 2 ^ 22
/-- The access is abandoned (R312): an AMO or CAS may or may not have been performed; the destination holds an undefined value with POI; the strand is to take
LATE. -/
def abandon (s : State) (r : ResultId) (f : Flight) : State :=
  match f.op with
  | none => s
  | some o =>
    let was := freezeTime s r.core
    let changes := match o.kind with | .amo _ | .cas => true | _ => false
    let t := if changes && nbit (freeAt s 600) 0 then (performOp s r.core r.bank r.st o).2 else s
    let ws := (freeWrites s (f.dests.map Dest.blank)).map Write.poisoned
    let t := updStrand t r.core r.bank r.st fun x => { x with
      late := x.late ++ [(o.dc, o.va)], flight := x.flight.map fun g => bif g.id == r.id then { g with writes := ws } else g }
    useFresh (thaw (updBank t r.core r.bank fun b => landFlight b r.st r.id (coreTime s r.core)) r.core was)
/-- The flights of a bank with the strand of each. -/
def namedFlights (s : State) (core bank : Nat) : List (ResultId × Flight) :=
  [Strand.a, Strand.e, Strand.m].flatMap fun st => (strandOf s core bank st).flight.map fun f => (⟨core, bank, st, f.id⟩, f)
/-- Every access of the core whose watchdog has reached its end is abandoned. -/
def expireCore (s : State) (core : Nat) : State :=
  ((namedFlights s core 0 ++ namedFlights s core 1).filter fun e => watchdogOut s core e.2).foldl (fun s e => abandon s e.1 e.2) s

/-! ## A strand's turn -/

/-- No strand that stands behind this one in the order A, E, M has had its turn in this cycle: of traps of one cycle the first in that order is taken (R314; log
entry 1). -/
def turnOk (s : State) (core : Nat) (st : Strand) : Bool :=
  let k := coreOf s core
  !(k.turn.1 == s.cycle && strandNum st < k.turn.2)
/-- The state in which a strand's turn begins: overdue accesses are abandoned, and results whose bound has elapsed have landed. -/
def turnState (s : State) (core : Nat) (st : Strand) : State :=
  landCore (updCore (expireCore { s with curCore := core, curSt := st } core) core fun k => { k with turn := (s.cycle, strandNum st) }) core

/-- A strand's turn. A word boundary at which it would issue a word is where it takes LATE (R312). -/
def planStrand (s0 : State) (core : Nat) (st : Strand) : Plan :=
  if !turnOk s0 core st then .done s0 else
  let s := turnState s0 core st
  match heldBack s with
  | some why => .done (stallAs s why)
  | none =>
    let x := curStrand s
    if x.phase != .run then .run s (.sectionBegin core st)
    else match x.late with
      | (cls, va) :: l => .done (if midPass s then stallAs s .other else trapStrand (modStrand s fun x => { x with late := l }) 0x10 cls va)
      | [] =>
        match fetchWord s with
        | .error f => .done (trapStrand s f.cause f.sub f.va)
        | .ok (none, s) => .done (trapStrand s 0x01 0 0)
        | .ok (some i, s) => if boundaryHeld s core then .probe s i else .run s i

/-- An event of the device, not a word. -/
def isEvent (i : Instr) : Bool := match i with | .illegal _ => false | i => (hdrOf i).isNone

/-- What the next step does. With an empty agenda it is the turn of strand E of core 0, one cycle later (log entry 1). -/
def plan (s : State) : Plan :=
  match s.agenda with
  | [] => planStrand (tick s 1) 0 .e
  | .strand dt c st :: rest => planStrand (tick { s with agenda := rest } dt) c st
  | .event dt i :: rest => if isEvent i then .run (tick { s with agenda := rest } dt) i else .bad

end Sys2Proof.Machine
end

