-- ==== Sys2Proof/Machine/EvSched.lean ====
section
/-! DEFINITION. Scheduling events: selection, ageing, reservation, gangs, stealing, staging, pre-emption, swaps, spills (R92-R105, R305, R321, R322). -/
namespace Sys2Proof.Machine

/-- The dispatcher may place a task on the core: the device is powered, the core takes tasks, and no swap, staging or spill of it is in progress. -/
def coreOpen (s : State) (core : Nat) : Bool :=
  let k := coreOf s core
  powered s && core < 512 && !takesNone k && !k.halted && k.swapAt.isNone && k.stageAt.isNone && k.spillAt.isNone && !k.swapWant

/-! ## Selection and staging (R94, R102) -/

/-- A picked task takes the empty foreground bank, or the empty shadow bank; a task that comes back is swapped in or restored. -/
def placePick (s : State) (core id : Nat) (f : Option Fit) : State :=
  match f, (taskOf s id).st with
  | some f, _ => if (fgBank (coreOf s core)).task.isNone then startFront s core id f else stageTask s core id f
  | none, .spilled a => restoreArea s core (let k := coreOf s core; if (bankSel k (shadow k)).task.isNone then shadow k else k.fg) a
  | none, _ => if (fgBank (coreOf s core)).task.isNone then updCore s core fun k => { k with swapWant := true } else s
/-- Runs `select` for a core with a free bank. -/
def selectCore (s : State) (core : Nat) : State :=
  let p := selectFor s core none 0
  let s := afterPick s (dieOfCore core) p
  match p.task with
  | some (id, f) => placePick s core id f
  | none => s
def shadowEmpty (s : State) (core : Nat) : Bool := (bankSel (coreOf s core) (shadow (coreOf s core))).task.isNone
def frontEmpty (s : State) (core : Nat) : Bool := (fgBank (coreOf s core)).task.isNone
def execTaskSelect (core : Nat) (s : State) : Host.Outcome State Fault Refusal :=
  .next (if coreOpen s core && (frontEmpty s core || shadowEmpty s core) then selectCore s core else s)
def execTaskStage (core : Nat) (s : State) : Host.Outcome State Fault Refusal :=
  .next (if coreOpen s core && !frontEmpty s core && shadowEmpty s core then selectCore s core else s)
/-- The 128 cycles have passed; a start in the foreground bank goes on with its 64-cycle swap. -/
def endStaging (s : State) (core : Nat) : State :=
  let k := coreOf s core
  match k.stageAt with
  | some t => if t ≤ s.cycle then updCore s core fun k => { k with stageAt := none, swapAt := if k.fgStart then some (s.cycle + 64) else k.swapAt } else s
  | none => s
def execStagingComplete (core : Nat) (s : State) : Host.Outcome State Fault Refusal := .next (if powered s then endStaging s core else s)

/-! ## Ageing and reservation (R93, R96) -/

/-- The task moves to the tail of the next higher class. -/
def promote (s : State) (cl id : Nat) : State :=
  let t := taskOf s id
  let s := updCluster s cl fun k => setQueue k t.eff ((queueOf k t.eff).filter (· != id)) s.cycle
  let s := updTask s id fun t => { t with eff := t.eff + 1, since := s.cycle, waited := 0, aged := t.eff + 1 = 3 }
  updCluster s cl fun k => setQueue k (t.eff + 1) (queueOf k (t.eff + 1) ++ [id]) s.cycle
def execAgePromote (cluster task : Nat) (s : State) : Host.Outcome State Fault Refusal :=
  let t := taskOf s task
  let a := agel s (cluster / 32)
  .next (if powered s && a != 0 && t.eff < 3 && (queueOf (clusterOf s cluster) t.eff).contains task && a ≤ waitedFor s t &&
    1 ≤ queueRoom s cluster (t.eff + 1) then promote s cluster task else s)

/-- The head of class 3 becomes the reserved task. -/
def reserveHead (s : State) (cl : Nat) : State :=
  let k := clusterOf s cl
  let a := agel s (cl / 32)
  match k.reserved, k.q3 with
  | none, id :: _ =>
    let t := taskOf s id
    if a != 0 && t.aged && max k.headAt t.since + a ≤ s.cycle then updCluster s cl fun k => { k with reserved := some id } else s
  | _, _ => s
def execReserveTask (cluster : Nat) (s : State) : Host.Outcome State Fault Refusal := .next (if powered s then reserveHead s cluster else s)

/-! ## Pre-emption (R103) -/

/-- The foreground task can be displaced by a class rule: it is in no gang. -/
def frontTask (s : State) (core : Nat) : Option Nat := (fgBank (coreOf s core)).task
/-- Makes the shadow bank ready for a new task (R103 step 1): a staged task is returned; a pre-empted one is to be spilled; none when no save area is free. -/
def clearShadow (s : State) (core : Nat) : Option (State × Bool) :=
  let k := coreOf s core
  if (bankSel k (shadow k)).task.isNone then some (s, true)
  else if k.shst = 1 then (if unstageRoom s core then some (unstage s core, true) else none)
  else (freeArea s (dieOfCore core)).map fun a => (updCore s core fun k => { k with spillAt := some a, shst := 3 }, false)
/-- R103. A spill of step 1 ends in CONTEXT_SPILL; the pre-emption is then examined again. -/
def preempt (s : State) (core : Nat) : State :=
  match frontTask s core with
  | none => s
  | some f =>
    let low := (taskOf s f).eff + 1
    let k := coreOf s core
    if (taskOf s f).glev != 7 then s else
    match decide (k.shst = 1), (bankSel k (shadow k)).task with
    | true, some u =>
      if low ≤ (taskOf s u).eff then updCore s core fun k => { k with swapWant := true } else
      if !unstageRoom s core then s else
      let p := selectFor s core (some u) low
      let s := afterPick s (dieOfCore core) p
      (match p.task with
        | some (id, some fit) => updCore (stageTask (unstage s core) core id fit) core fun k => { k with swapWant := true }
        | some (id, none) => (match (taskOf s id).st with
          | .spilled a => updCore (restoreArea (unstage s core) core (shadow k) a) core fun k => { k with swapWant := true }
          | _ => s)
        | none => s)
    | _, _ =>
      let p := selectFor s core none low
      let s := afterPick s (dieOfCore core) p
      match p.task with
      | none => s
      | some (id, fit) =>
        if (bankSel k (shadow k)).task = some id then updCore (unqueue s id) core fun k => { k with swapWant := true } else
        match clearShadow s core with
        | none => s
        | some (s, false) => s
        | some (s, true) => updCore (placePick s core id fit) core fun k => { k with swapWant := true }
def preemptOpen (s : State) (core : Nat) : Bool :=
  let k := coreOf s core
  powered s && core < 512 && !takesNone k && k.swapAt.isNone && k.stageAt.isNone && k.spillAt.isNone && !k.swapWant
def execPreempt (core : Nat) (s : State) : Host.Outcome State Fault Refusal := .next (if preemptOpen s core then preempt s core else s)

/-! ## Parked foreground tasks (R104) -/

/-- A strand has been parked for 2,048 cycles, in FGET, WAITA, BWAIT, a section dependency, an empty queue or TRET, or has ended (R104, R472). -/
def longParked (s : State) (x : StrandSt) : Bool :=
  x.phase = .absent || (x.phase = .ended && x.execs.isEmpty) || (match x.stall with | some (w, t) => (w = .wait || w = .dep || w = .queue || w = .tret) && t + 2048 ≤ s.cycle | none => false)
/-- Every present strand of the foreground task that has not ended has been parked long enough; a trapped task counts as parked from its trap on (R315). -/
def frontParked (s : State) (core : Nat) : Bool :=
  let b := fgBank (coreOf s core)
  match b.task with
  | none => false
  | some id =>
    match b.trap with
    | some t => decide (t.at_ + 2048 ≤ s.cycle)
    | none => (taskOf s id).glev = 7 && [b.sa, b.se, b.sm].all (longParked s) && [b.sa, b.se, b.sm].any (fun x => x.stall.isSome)

/-- The word that a strand of the shadow bank stands at would issue, were the bank in the foreground. -/
def wouldIssue (s : State) (core : Nat) (st : Strand) : Bool :=
  let s := updCore { s with curCore := core, curSt := st } core fun k => { k with fg := 1 - k.fg }
  match fetchWord s with
  | .ok (some i, s) => (match gate i s with | .halt (.stall _) => false | _ => true)
  | _ => true
/-- What the strand waited for is satisfied. -/
def strandSatisfied (s : State) (core : Nat) (st : Strand) : Bool :=
  let k := coreOf s core
  let b := bankSel k (shadow k)
  let x := strandSel b st
  strandFree x && (match x.stall with
    | none => true
    | some (.wait, _) => true
    | some (.queue, _) => wouldIssue s core st
    | some (.tret, _) => (match b.task with | some id => tretReady s core id b | none => false)
    | some (.dep, _) =>
      let w := if x.phase = .slate then (match fetchCode s (ctxOf s core (shadow k)) x.pc.toNat 8 with | .ok r => BitVec.ofNat 64 r.1 | .error _ => x.slate) else x.slate
      depsOf s b st w != .wait
    | some (.held, _) | some (.other, _) => x.flight.all fun f => !f.blocks || f.landed)
/-- The shadow bank holds a staged task, or a pre-empted one whose wait has been satisfied. -/
def shadowSatisfied (s : State) (core : Nat) : Bool :=
  let k := coreOf s core
  let b := bankSel k (shadow k)
  match b.task with
  | none => false
  | some _ => b.trap.isNone && !failingBank s b && !gangBank s b && (k.shst = 1 || [Strand.a, .e, .m].any (strandSatisfied s core))
def execParkSwap (core : Nat) (s : State) : Host.Outcome State Fault Refusal :=
  .next (if preemptOpen s core && frontParked s core && shadowSatisfied s core then updCore s core fun k => { k with swapWant := true } else s)

/-! ## Swaps, spills and restores (R321, R322) -/

def execBankSwapBegin (core : Nat) (s : State) : Host.Outcome State Fault Refusal :=
  .next (if swapAllowed s core && swapDue s core && boundaryClear s core then beginSwap s core else s)
def execBankSwapComplete (core : Nat) (s : State) : Host.Outcome State Fault Refusal :=
  .next (match (coreOf s core).swapAt with
    | some t => if powered s && t ≤ s.cycle then endSwap s core else s
    | none => s)
def execContextSpill (core : Nat) (s : State) : Host.Outcome State Fault Refusal :=
  let k := coreOf s core
  .next (match k.spillAt with
    | some a => if powered s && k.shst = 3 && k.swapAt.isNone && bankLanded (bankSel k (shadow k)) && spillRoom s core then spillBank s core a else s
    | none => s)
def execContextRestore (core area : Nat) (s : State) : Host.Outcome State Fault Refusal :=
  .next (match tfind (dieOf s (dieOfCore core)).areas area with
    | some id => if coreOpen s core && shadowEmpty s core && (selectFor s core none 0).task = some (id, none) then restoreArea s core (shadow (coreOf s core)) area else s
    | none => s)

/-! ## System cores (R305) -/

/-- A core becomes a system core, or ceases to be one. A system core runs in supervisor mode; strand E of one is started by the runtime of another core
through the windows or a swap, or at bring-up (R364). -/
def applySys (s : State) (core : Nat) (v : Bool) : State := updCore s core fun k => { k with sys := v, pm := v, sysWant := none }
/-- A change of a SYSMASK bit: it takes effect once both banks are empty. -/
def changeSys (s : State) (core : Nat) (v : Bool) : State :=
  let k := coreOf s core
  if k.b0.task.isNone && k.b1.task.isNone && k.stageAt.isNone then (if k.sys = v then updCore s core fun k => { k with sysWant := none } else applySys s core v)
  else updCore s core fun k => { k with sysWant := if k.sys = v then none else some v }
def execSysmaskApply (core : Nat) (s : State) : Host.Outcome State Fault Refusal :=
  .next (match (coreOf s core).sysWant with | some v => changeSys s core v | none => s)

/-! ## Gangs (R35, R97) -/

/-- The tasks of the gang group of a task, retired ones among them: of its launch, expanded, with the key of the highest gang level (R34). -/
def gangAllOf (s : State) (id : Nat) : List Nat :=
  let t := taskOf s id
  let r := taskLr s id
  let key := groupKey r (lrGtop r) t.wid
  (s.tasks.filter fun e => e.2.launch = t.launch && e.2.glev != 7 && e.2.expanded && groupKey r (lrGtop r) e.2.wid = key).map (·.1)
/-- Those that have not retired. -/
def gangOf (s : State) (id : Nat) : List Nat := (gangAllOf s id).filter fun i => match (taskOf s i).st with | .retired _ => false | _ => true
/-- The foreground of a core lets a task of a gang in: it is empty, or holds a task of a lower class that is in no gang. -/
def gangFront (s : State) (core id : Nat) : Bool :=
  preemptOpen s core && !(coreOf s core).halted &&
    (match frontTask s core with | none => true | some g => (taskOf s g).glev = 7 && (taskOf s g).eff < (taskOf s id).eff)
/-- The shadow bank of a core is made empty for a task of a gang (R103 step 1), in this step. -/
def emptyShadow (s : State) (core : Nat) : Option State :=
  match clearShadow s core with
  | none => none
  | some (t, true) => some t
  | some (_, false) =>
    match freeArea s (dieOfCore core) with
    | some a => if bankLanded (bankSel (coreOf s core) (shadow (coreOf s core))) && spillRoom s core then some (spillBank s core a) else none
    | none => none
/-- A swap of the core has been decided. -/
def wantSwap (s : State) (core : Nat) : State := updCore s core fun k => { k with swapWant := true }
/-- One task of a gang is placed on a core: into its empty foreground bank, or over its foreground task. -/
def gangOn (s : State) (core id : Nat) : Option State :=
  if !gangFront s core id then none else
  match fitOf s core ((taskOf s id).method.getD 0) (if (coreOf s core).shst = 1 then (bankSel (coreOf s core) (shadow (coreOf s core))).task else none) with
  | none => none
  | some f =>
    match frontTask s core with
    | none => (fitOf s core ((taskOf s id).method.getD 0) none).map fun f => startFront s core id f
    | some _ => (emptyShadow s core).map fun s => wantSwap (stageTask s core id f) core
/-- Two tasks of a gang may take two cores: those of a same-cluster or same-core group stand in one cluster or on one core (R34). -/
def gangPair (s : State) (a b : Nat × Nat) : Bool :=
  let r := taskLr s a.1
  let same := fun (bind : Nat) => (List.range 6).any fun j => lrBind r j = bind && groupKey r j (taskOf s a.1).wid = groupKey r j (taskOf s b.1).wid
  a.2 != b.2 && (!same 2 || a.2 / 4 = b.2 / 4) && !same 3
/-- The cores that a task of a gang may take: its core when R91 has fixed one, those of its cluster when the group is bound to one, else those of the die (R40, R97). -/
def gangCores (s : State) (die id : Nat) : List Nat :=
  let t := taskOf s id
  let b := bindsFrom (taskLr s id) (lrGtop (taskLr s id))
  match t.pcore with
  | some k => [4 * t.cluster + k]
  | none => if b.contains 2 || b.contains 3 then (List.range 4).map (4 * t.cluster + ·) else (List.range 128).map (die * 128 + ·)
/-- Places all tasks of a gang on distinct cores, trying every assignment; `got` holds the cores taken. -/
def gangAll (s : State) (die : Nat) (got : List (Nat × Nat)) : List Nat → Option State
  | [] => some s
  | id :: l => ((gangCores s die id).filter fun c => got.all fun g => gangPair s (id, c) g).findSome? fun c =>
      (gangOn s c id).bind fun s' => gangAll s' die ((id, c) :: got) l
/-- A gang that waits in ready queues is complete: every task of the group is expanded, and those that have not retired, contained or failed, are there (R34, R58). -/
def gangWhole (s : State) (die id : Nat) (l : List Nat) : Bool :=
  (gangAllOf s id).length = lrGroup (taskLr s id) (lrGtop (taskLr s id)) && l.all fun i => (taskOf s i).st = .ready && (taskOf s i).die = die
/-- A complete gang is placed whole, if it fits and is covered (R97): the state after, and whether the estimates are covered. When the method of some task has gone, those
tasks run R76 again (R76). -/
def placeGang (s : State) (die id : Nat) : Option (State × Bool) :=
  let t := taskOf s id
  let l := gangOf s id
  let est := (l.map fun i => match (taskOf s i).method with | some m => mtEnergy (method s m) | none => 0).foldl (· + ·) 0
  if !gangWhole s die id l || (dieOf s die).thcap = 0 then none
  else if !(l.all fun i => methodValid s (taskOf s i)) then
    some ((l.filter fun i => !methodValid s (taskOf s i)).foldl (fun s i => dispatchTask (unqueue s i) i) s, true)
  else (gangAll s die [] l).map fun s' => (s', covered (dieOf s die) t.ecls est)

/-- A task of a swapped-out gang goes back into the foreground of its core: from the shadow bank, or from its save area through it. -/
def gangBack (s : State) (id : Nat) : Option State :=
  let t := taskOf s id
  if !gangFront s t.core id then none else
  match t.st with
  | .inBank => some (wantSwap (unqueue s id) t.core)
  | .spilled a => (emptyShadow s t.core).map fun s => wantSwap (restoreArea s t.core (shadow (coreOf s t.core)) a) t.core
  | _ => none
/-- A task of a gang that is to come back: it is in no foreground bank, and neither trapped nor failing. -/
def gangOut (s : State) (id : Nat) : Bool :=
  let t := taskOf s id
  t.started && t.failing.isNone && (match t.st with
    | .inBank => (coreOf s t.core).fg != t.bank && (bankOf s t.core t.bank).trap.isNone
    | .spilled _ => t.keep.any fun b => b.trap.isNone
    | _ => false)
/-- A task of a gang stands in the foreground, and no swap of its core is on its way. -/
def gangStands (s : State) (id : Nat) : Bool :=
  let t := taskOf s id
  let k := coreOf s t.core
  t.st = .inBank && k.fg = t.bank && !k.swapWant && k.swapAt.isNone
/-- A swapped-out gang comes back whole: all its tasks that have neither retired nor trapped; a task that had left the others by a trap and has been resumed joins them again
(R35, R58, R97). -/
def returnGang (s : State) (id : Nat) : Option State :=
  let trapped := fun i => (trappedBank s i).isSome || (taskOf s i).failing.isSome
  let l := (gangOf s id).filter fun i => !trapped i
  let out := l.filter (gangOut s)
  if out.isEmpty || !(l.all fun i => gangOut s i || gangStands s i) then none
  else out.foldl (fun (a : Option State) i => a.bind fun s => gangBack s i) (some s)
/-- The die dispatcher examines its gangs: those that wait in ready queues, class by class, and those that have been swapped out. When it places none while one fits that is not
covered, that is an energy stall (R107). -/
def examineGangs (s : State) (die : Nat) : State :=
  let ids := ([3, 2, 1, 0] : List Nat).flatMap fun q => (List.range 32).flatMap fun c => (queueOf (clusterOf s (die * 32 + c)) q).filter fun id => (taskOf s id).glev != 7 && !(taskOf s id).started
  let out := (s.tasks.filter fun e => e.2.glev != 7 && e.2.started && e.2.die = die).map (·.1)
  let l := ids.filterMap (placeGang s die)
  match (l.find? fun p => p.2), out.findSome? (returnGang s) with
  | some p, _ => p.1
  | none, some t => t
  | none, none => if l.isEmpty then s else energyStall s die
def execGangPlace (die : Nat) (s : State) : Host.Outcome State Fault Refusal := .next (if dispatcherOn s die then examineGangs s die else s)

/-! ## Stealing (R99-R101) -/

/-- Two tasks are of one bound group. -/
def groupMates (s : State) (a b : Nat) : Bool := (boundGroup s a).isSome && (taskOf s a).launch = (taskOf s b).launch && boundGroup s a = boundGroup s b
/-- A queue entry may move to another cluster (R100); `cross`: of another die. The cluster's reserved task stays, and so does its group, since no unit is split. A task that comes
back from a bank is an entry and does not move (log entry 159). -/
def movable (s : State) (id : Nat) (cross : Bool) : Bool :=
  let t := taskOf s id
  t.st = .ready && (clusterOf s t.cluster).reserved.all (fun r => r != id && !groupMates s id r) && !(cross && t.pdie.isSome) &&
    (match groupPlace s id with | some p => !p.started | none => true)
def allQueued (k : Cluster) : List Nat := k.q3 ++ k.q2 ++ k.q1 ++ k.q0
/-- The victim of a die: of the clusters with two movable entries the one with the most entries, of equals the first in ring order. -/
def victimOn (s : State) (thief die : Nat) : Option Nat :=
  let ring := ((List.range 32).map fun i => die * 32 + (thief % 32 + 1 + i) % 32).filter (· != thief)
  let ok := ring.filter fun v => 2 ≤ ((allQueued (clusterOf s v)).filter fun id => movable s id (die != thief / 32)).length
  ok.foldl (fun (a : Option Nat) v => match a with
    | none => some v
    | some b => if (allQueued (clusterOf s v)).length > (allQueued (clusterOf s b)).length then some v else some b) none
/-- The unit of an entry: itself, or the waiting tasks of its bound group in the victim's queues. -/
def stealUnit (s : State) (v id : Nat) : List Nat :=
  match boundGroup s id with
  | none => [id]
  | some _ => (allQueued (clusterOf s v)).filter fun i => groupMates s id i
/-- Takes units from the tail of a class until the target is reached: the tasks taken, the first one first. -/
def stealUnits (s : State) (v target : Nat) (cross : Bool) : List Nat → List Nat → List Nat
  | [], got => got
  | id :: l, got =>
    if got.length ≥ target then got
    else if got.contains id || !movable s id cross then stealUnits s v target cross l got
    else stealUnits s v target cross l (got ++ (stealUnit s v id).reverse)
/-- A stolen task joins the thief's queue of the same class. -/
def moveTask (s : State) (thief id : Nat) : State :=
  let s := match boundGroup s id with
    | some g => updLaunch s (taskOf s id).launch fun l => { l with places := l.places.map fun p =>
        bif p.level == g.1 && p.gkey == g.2 then { p with cluster := thief, core := p.core.bind fun _ => freeCore s thief } else p }
    | none => s
  let s := updTask (unqueue s id) id fun t => { t with
    cluster := thief, die := thief / 32, pclu := t.pclu.map fun _ => thief % 32, pcore := t.pcore.bind fun _ => freeCore s thief, pdie := t.pdie.map fun _ => thief / 32 }
  requeue s id false true
/-- One steal of cluster `thief` from `v`; without a movable unit, or without room, it is retried 1,024 cycles later. -/
def stealFrom (s : State) (thief v : Nat) : State :=
  let k := clusterOf s v
  let c := if !k.q3.isEmpty then 3 else if !k.q2.isEmpty then 2 else if !k.q1.isEmpty then 1 else 0
  let q := queueOf k c
  let got := stealUnits s v (min 64 ((q.length + 1) / 2)) (v / 32 != thief / 32) q.reverse []
  let order := (allQueued k).filter got.contains
  if got.isEmpty || !((List.range 4).all fun c => (order.filter fun i => (taskOf s i).eff = c).length ≤ queueRoom s thief c) then
    updCluster s thief fun k => { k with stealAt := s.cycle + 1024 }
  else
    let s := order.foldl (fun s id => moveTask s thief id) s
    postDaily s (thief / 32) thief 3 [v / 32 + (v % 32) * 2 ^ 2, got.length, (taskOf s (got.headD 0)).wid.toNat, c]
/-- A core of the cluster has a free bank and its selection finds nothing. -/
def idleCore (s : State) (core : Nat) : Bool :=
  coreOpen s core && (frontEmpty s core || shadowEmpty s core) && (selectFor s core none 0).task.isNone
def steal (s : State) (cl : Nat) : State :=
  let d := cl / 32
  if (clusterOf s cl).reserved.isSome || s.cycle < (clusterOf s cl).stealAt || !((List.range 4).any fun i => idleCore s (4 * cl + i)) then s else
  match ([d, d ^^^ 1, d ^^^ 2, d ^^^ 3] : List Nat).findSome? (victimOn s cl) with
  | none => updCluster s cl fun k => { k with stealAt := s.cycle + 1024 }
  | some v => stealFrom s cl v
def execSteal (cluster : Nat) (s : State) : Host.Outcome State Fault Refusal := .next (if powered s && cluster < 128 then steal s cluster else s)

end Sys2Proof.Machine
end

