-- ==== Sys2Proof/Machine/EvLaunch.lean ====
section
/-! DEFINITION. Events of launches and dispatch (R36, R37, R76, R82-R91, R98, R512), and the end of tasks (R53, R511). -/
namespace Sys2Proof.Machine

/-! ## Host launch queues (R83-R87) -/

def execDoorbell (q : Nat) (v : W64) (s : State) : Host.Outcome State Fault Refusal := .next (if q < 64 && barOn s then ringDoorbell s q v else s)
def execLqctlWrite (q : Nat) (v : W64) (s : State) : Host.Outcome State Fault Refusal := .next (if q < 64 && barOn s then writeLqctl s q v else s)

/-! ## Acceptance (R86-R90) -/

/-- The source that a die serves next: a queue, or 64 for device launches. -/
def nextSource (s : State) (die : Nat) : Option Nat :=
  ((List.range 65).map fun i => ((dieOf s die).rotSource + 1 + i) % 65).find? fun n =>
    if n = 64 then !(dieOf s die).launchBuf.isEmpty
    else let q := lqOf s n; lqEn q && q.head != q.tail && lqDie q = die
/-- Reads, checks and accepts or refuses the next record of a queue (R36, R86). -/
def readLaunch (s : State) (die n : Nat) : State :=
  let q := lqOf s n
  let ((r, p), s) := deviceRead s die 3 (q.base.toNat + 128 * (q.head.toNat % 2 ^ lqLog q)) 128
  let c := lrFirstFail s r q.root.toNat (lqKey q) p
  let s :=
    if c = 0 then updLq (acceptLaunch s die n r q.root.toNat (lqKey q) (lqPmax q)) n fun q => { q with rot := if lqDsel q = 4 then (q.rot + 1) % 4 else q.rot }
    else updLq (refuseLaunch s die n q.head.toNat r q.root.toNat (lqKey q) c) n fun q => { q with ref := true }
  let s := if c = 0 then s else noteSet s (0x40028 + 0x40 * n) 4
  updDie (updLq s n fun q => { q with head := q.head + 1 }) die fun d => { d with rotSource := n }
def execLaunchRecordRead (die : Nat) (s : State) : Host.Outcome State Fault Refusal :=
  .next (if dispatcherOn s die && die < 4 then (match nextSource s die with | some n => if n = 64 then s else readLaunch s die n | none => s) else s)
/-- Takes the first record of the device-launch buffer (R88). -/
def takeDeviceLaunch (s : State) (die : Nat) : State :=
  match (dieOf s die).launchBuf with
  | [] => s
  | b :: l =>
    let s := updDie s die fun d => { d with launchBuf := l, rotSource := 64 }
    let r := b.img.toNat
    let c := lrFirstFail s r b.root b.key false
    if c = 0 then acceptLaunch s die 64 r b.root b.key b.prio else refuseLaunch s die 64 0 r b.root b.key c
def execDeviceLaunchAccept (die : Nat) (s : State) : Host.Outcome State Fault Refusal :=
  .next (if dispatcherOn s die && die < 4 && nextSource s die = some 64 then takeDeviceLaunch s die else s)
/-- An active-launch slot takes the first accepted launch (R90). -/
def activateLaunch (s : State) (die : Nat) : State :=
  updDie s die fun d => match d.accepted with
    | h :: l => if d.active.length < 16 then { d with accepted := l, active := d.active ++ [h] } else d
    | [] => d
def execLaunchActivate (die : Nat) (s : State) : Host.Outcome State Fault Refusal := .next (if dispatcherOn s die then activateLaunch s die else s)

/-! ## Expansion (R90) -/

/-- A task of the launch has its method and found no cluster with room, or has not been through R76 yet: the launch is skipped. -/
def launchBlocked (s : State) (h : Nat) : Bool := s.tasks.any fun e => e.2.launch = h && e.2.expanded && e.2.st = .dispatching && (e.2.method.isSome || e.2.due)
/-- The active launch that is expanded next: of those that can be, one of the highest priority, the first in rotation. -/
def nextLaunchOf (s : State) (die : Nat) : Option Nat :=
  ((dieOf s die).active.filter fun h => let l := launchOf s h; l.pos < l.total && !launchBlocked s h).foldl (fun (a : Option Nat) h => match a with
    | none => some h
    | some b => if (launchOf s h).prio > (launchOf s b).prio then some h else some b) none
/-- Expands one task. -/
def expandOne (s : State) (die : Nat) : State :=
  match nextLaunchOf s die with
  | none => s
  | some h =>
    let s := addTask s (expandedTask s h (launchOf s h).pos)
    updLaunch s h fun l => { l with pos := l.pos + 1, outstanding := l.outstanding + 1 }
def execTaskExpand (die : Nat) (s : State) : Host.Outcome State Fault Refusal := .next (if dispatcherOn s die then expandOne s die else s)

/-! ## Dispatch (R76, R98, R512) -/

def unspawn (s : State) (id : Nat) : State := updDie s (taskOf s id).die fun d => { d with spawnBuf := d.spawnBuf.filter (· != id) }
/-- Runs R76 for a task that has been created, inserted or woken; one that only lacks a place looks for it again (R91). -/
def dispatchOne (s : State) (id : Nat) : State :=
  match tfind s.tasks id with
  | none => s
  | some t =>
    match t.st with
    | .dispatching => turnLaunch (if t.method.isSome then (placeTask s id).getD s else dispatchTask (unspawn s id) id) id
    | .parked _ true => dispatchTask s id
    | _ => s
def execDispatch (task : Nat) (s : State) : Host.Outcome State Fault Refusal := .next (if dispatcherOn s (taskOf s task).die then dispatchOne s task else s)
/-- A task whose dispatch read failed makes it again. -/
def execDispatchReadRetry (task : Nat) (s : State) : Host.Outcome State Fault Refusal :=
  let t := taskOf s task
  .next (if dispatcherOn s (taskOf s task).die && t.st = .waitRead && t.runnable then dispatchTask (updTask s task fun t => { t with runnable := false }) task else s)
/-- The tags of the poll list are read again, every 1,024 cycles (R98). -/
def pollTags (s : State) (die : Nat) : State :=
  let l := (dieOf s die).pollList
  l.foldl (fun s id => match (taskOf s id).st with | .parked _ _ => dispatchTask s id | _ => s) (updDie s die fun d => { d with pollList := [], pollAt := s.cycle + 1024 })
def execTagPoll (die : Nat) (s : State) : Host.Outcome State Fault Refusal := .next (if dispatcherOn s die && (dieOf s die).pollAt ≤ s.cycle then pollTags s die else s)

/-! ## HOLDCTL (R82) -/

/-- The action of HOLDCTL on a task; nothing when it is not held there. Action 2 also settles a task that waits for a dispatch read (R512). -/
def settleHold (s : State) (die task action : Nat) : State :=
  if !holdOk s die task action then s else if action = 1 then dispatchTask s task else if action = 2 then failTask s task else s
/-- A write of HOLDCTL of a die. -/
def holdctlWrite (s : State) (die task action : Nat) : State := settleHold (holdctlSet s die task action) die task action
def execHoldctlRedispatch (die task : Nat) (s : State) : Host.Outcome State Fault Refusal := .next (if poolOn s then holdctlWrite s die task 1 else s)
def execHoldctlFail (die task : Nat) (s : State) : Host.Outcome State Fault Refusal := .next (if poolOn s then holdctlWrite s die task 2 else s)

/-! ## TRAPCTL (R317) -/

/-- The task resumes (R317): its strands go on, M requests the lease for its cut command, and failed stream reads are made again. -/
def resumeTask (s : State) (task : Nat) (after : Bool) : State :=
  let t := taskOf s task
  match t.st with
  | .inBank =>
    let s := updBank s t.core t.bank fun b => retryStreams (resumeBank b after)
    if (coreOf s t.core).fg = t.bank && (coreOf s t.core).swapAt.isNone then resumeMatrix s t.core else s
  | .spilled _ => updTask (changeArea s task fun b => retryStreams (resumeBank b after)) task fun t => { t with runnable := true }
  | _ => s
/-- The action of TRAPCTL on a task; nothing when it is not trapped on that die. -/
def settleTrap (s : State) (die task action : Nat) : State :=
  if (trappedBank s task).isNone || (taskOf s task).die != die then s
  else if action = 2 then failTask s task else if action = 1 then resumeTask s task false else if action = 3 then resumeTask s task true else s
/-- A write of TRAPCTL of a die. -/
def trapctlWrite (s : State) (die task action : Nat) : State := settleTrap (trapctlSet s die task action) die task action
def execTrapctlResume (die task : Nat) (s : State) : Host.Outcome State Fault Refusal := .next (if poolOn s then trapctlWrite s die task 1 else s)
def execTrapctlResumeAfter (die task : Nat) (s : State) : Host.Outcome State Fault Refusal := .next (if poolOn s then trapctlWrite s die task 3 else s)
def execTrapctlFail (die task : Nat) (s : State) : Host.Outcome State Fault Refusal := .next (if poolOn s then trapctlWrite s die task 2 else s)

/-! ## The end of tasks and launches -/

/-- The task in the foreground of its core whose conditions of R53 hold retires. -/
def retireReady (s : State) (id : Nat) : Bool :=
  match taskBank s id with
  | some (core, b) =>
    let k := coreOf s core
    k.fg = b && k.swapAt.isNone && !frozenNow s core && (bankOf s core b).trap.isNone && !failingBank s (bankOf s core b) && tretReady s core id (bankOf s core b)
  | none => false
/-- The current core lands its results before the conditions are looked at. -/
def landTask (s : State) (id : Nat) : State := match taskBank s id with | some (core, _) => landCore s core | none => s
def execTaskRetire (task : Nat) (s : State) : Host.Outcome State Fault Refusal :=
  let s := landTask s task
  .next (if powered s && retireReady s task then retireTask s task else s)
def execFailedTaskRetire (task : Nat) (s : State) : Host.Outcome State Fault Refusal :=
  let s := landTask s task
  .next (if powered s && failReady s task then retireTask (unqueue s task) task else s)

/-- Step 1 of R53 stands before the tags; the count of a launch that is over reaches its future (R37, R89). -/
def completeLaunch (s : State) (h : Nat) : State :=
  let l := launchOf s h
  let s := completeFuture (dropTds s l.root (lrTdtva l.img.toNat) (lrTdtn l.img.toNat)) l.die l.img.toNat l.root l.key (completionWord l) none
  updDie (updLaunch s h fun l => { l with complete := true }) l.die fun d => { d with active := d.active.filter (· != h) }
def execLaunchComplete (launch : Nat) (s : State) : Host.Outcome State Fault Refusal :=
  .next (match tfind s.launches launch with
    | some l => if powered s && !l.complete && (dieOf s l.die).active.contains launch && launchOver l then completeLaunch s launch else s
    | none => s)

/-! ## Energy (R106) -/

/-- A class's refill, and what its ceiling takes away. -/
def refillClass (d : Die) (c : Nat) : Int × Int :=
  let v := eacc d c + refillOf d c
  let w := clipAcc d c v
  (w, v - w)

end Sys2Proof.Machine
end

