-- ==== Sys2Proof/Machine/TaskWords.lean ====
section
/-! DEFINITION. The task words (0xD0-0xDA): R422, R438, R468, R470, R472-R476, R500. -/
namespace Sys2Proof.Machine

/-- A fence holds back an access that follows every earlier one. -/
def heldByFence (s : State) : Bool := waitsBehind s { kind := .store, scope := 2, ord := 2 }
/-- Reads `n` bytes at DEV scope behind the strand's earlier accesses and a release at DEV scope (R422, R473). -/
def readReleased (s : State) (va n : Nat) : Except Stop ((Nat × Bool) × State) := do
  let l ← liftFault (xlat s (curCtx s) .read false va n)
  if heldByFence s then .error (.stall .other) else
  let s := releaseAction (drainCur (useXlats s (curCtx s) .read false l)) s.curCore 2
  .ok (readPieces s s.curCore 2 (piecesOf l))

/-! ## TSPAWN (R473) and LNCH (R422) -/

/-- A task record breaks R40, or holds what TSPAWN refuses. -/
def spawnOk (r tdtn : Nat) : Bool :=
  let n := nbits r 14 3
  n ≤ 6 && nbits r 480 32 = 0 && nbits r 335 49 = 0 && nbits r 28 36 = 0 && nbits r 448 32 = 0 && nbits r 384 64 = 0 && nbits r 323 12 = 0 && nbits r 320 3 = 7 &&
    !nbit r 27 && nbits r 0 12 != 0 && (List.range 6).all fun i =>
      let o := nbits r (128 + 32 * i) 32
      if i < n then decide (refTid o < tdtn) else o = 0 && !nbit r (17 + i)
/-- The task that a record describes, of the issuing task's launch. -/
def spawnTask (s : State) (me r : Nat) : Task :=
  let t := taskOf s me
  let p := min (nbits r 12 2) t.prio
  { opid := nbits r 0 12, prio := p, eff := p, nops := nbits r 14 3, outm := nbits r 17 6, ecls := nbits r 23 4, wid := BitVec.ofNat 64 (nbits r 64 64),
    ops := (List.range (nbits r 14 3)).map fun i => nbits r (128 + 32 * i) 32, launch := t.launch, root := t.root, key := t.key, die := dieOfCore s.curCore }
/-- TSPAWN's body. -/
def tspawnBody (w : RR) (s : State) : Except Stop Out := do
  let a := rdS s w.a
  check (!a.poi) causePoison 0 0
  aligned a.v.toNat 64
  let ((r, p), s) ← readReleased s a.v.toNat 64
  check (!p) causePoison 0 0
  let me := (curBank s).task.getD 0
  let launch := (taskOf s me).launch
  check (me != 0 && spawnOk r (lrTdtn (taskLr s me)) && !launchOver (launchOf s launch)) 0x01 1 0
  let die := dieOfCore s.curCore
  if (dieOf s die).spawnBuf.length ≥ 64 then .error (.stall .other) else
  let id := s.nextTask
  let s := addTask s (spawnTask s me r)
  let s := updLaunch s launch fun l => { l with outstanding := l.outstanding + 1 }
  let s := updDie s die fun d => { d with spawnBuf := d.spawnBuf ++ [id] }
  .ok { s := s, writes := wrS w.d (BitVec.ofNat 64 (id % 2 ^ 32)) false, bound := 1500 }
def execTspawn (w : RR) (s : State) : Host.Outcome State Fault Refusal := issue (.tspawn w) (tspawnBody w) s

/-- LNCH's body. Code of a system core that is no task's has no priority class of its own: its record's PRIO stands. -/
def lnchBody (w : RR) (s : State) : Except Stop Out := do
  let a := rdS s w.a
  check (!a.poi) causePoison 0 0
  aligned a.v.toNat 128
  let ((r, p), s) ← readReleased s a.v.toNat 128
  check (!p) causePoison 0 0
  let die := dieOfCore s.curCore
  if (dieOf s die).launchBuf.length ≥ 64 then .error (.stall .other) else
  let b := curBank s
  let prio := match b.task with | some t => (taskOf s t).prio | none => 3
  .ok { s := updDie s die fun d => { d with launchBuf := d.launchBuf ++ [{ img := BitVec.ofNat 1024 r, root := b.root, key := b.key, prio := prio }] } }
def execLnch (w : RR) (s : State) : Host.Outcome State Fault Refusal := issue (.lnch w) (lnchBody w) s

/-! ## TRET (R472) and TYIELD (R476) -/

/-- TRET's body: E waits at TRET for the conditions of R53. -/
def tretBody (s : State) : Except Stop Out :=
  let s := stallAs (modBank s fun b => { b with tretIssued := true }) .tret
  .ok { s := reachTret s s.curCore (curBank s), issued := false }
def execTret (w : RR) (s : State) : Host.Outcome State Fault Refusal := issue (.tret w) tretBody s

/-- TYIELD's body: the task is queued again and a swap is decided; its bank will be the shadow bank, or is spilled behind the swap. -/
def tyieldBody (s : State) : Except Stop Out :=
  let c := s.curCore
  let k := coreOf s c
  match (curBank s).task with
  | none => .ok { s := s }
  | some id =>
    let go := fun (s : State) => updCore (requeue (modBank s fun b => { b with yielded := true }) id false false) c fun k => { k with swapWant := true }
    if (taskOf s id).glev != 7 then .ok { s := s }
    else if k.spillAt.isSome then .error (.stall .other)
    else if !classRoom s id then .error (.stall .other)
    else if (bankSel k (shadow k)).task.isNone then .ok { s := go s }
    else match freeArea s (dieOfCore c) with
      | none => .ok { s := s }
      | some a => .ok { s := updCore (go s) c fun k => { k with spillAt := some a } }
def execTyield (w : RR) (s : State) : Host.Outcome State Fault Refusal := issue (.tyield w) tyieldBody s

/-! ## Tags (R474, R475) -/

/-- TTAGR's body. -/
def ttagrBody (w : RR) (s : State) : Except Stop Out := do
  let a := rdS s w.a
  check (!a.poi) causePoison 0 0
  let v := a.v.toNat
  let (e, s) ← operandRef s v
  let (t, s) ← readTagAcq s e (refIdx v)
  let stale := tileStale s (curBank s).root e (refIdx v) (fmtWidth (tagFmt t.tag))
  .ok { s := s, writes := wrS w.d (BitVec.ofNat 64 (t.tag % 2 ^ 16 + stale.toNat * 2 ^ 16)) t.poi, atOnce := true }
def execTtagr (w : RR) (s : State) : Host.Outcome State Fault Refusal := issue (.ttagr w) (ttagrBody w) s

/-- TTAGW's body: a release write of two bytes at the tag's home. -/
def ttagwBody (w : RR) (s : State) : Except Stop Out := do
  let a := rdS s w.a
  let b := rdS s w.b
  check (!a.poi && !b.poi) causePoison 0 0
  let v := a.v.toNat
  check (b.v.toNat < 2 ^ 16) 0x01 1 0
  let (e, s) ← operandRef s v
  check (tdTmap e != 0 && !tdRdonly e) 0x06 2 0
  let va := tdTmap e + 2 * refIdx v
  let l ← liftFault (xlat s (curCtx s) .write false va 2)
  check (l.all fun x => tagKindOk e x.kind) 0x06 6 va
  if heldByFence s then .error (.stall .other) else
  let scope := if l.all fun x => x.kind = .loc then 2 else 3
  let s := releaseAction (drainCur (useXlats s (curCtx s) .write false l)) s.curCore scope
  .ok { s := writePieces s s.curCore scope false (piecesOf l) b.v.toNat }
def execTtagw (w : RR) (s : State) : Host.Outcome State Fault Refusal := issue (.ttagw w) (ttagwBody w) s

/-! ## Facts of the task (R468, R470, R500) -/

/-- TDESC's body. -/
def tdescBody (w : RR) (s : State) : Except Stop Out := do
  let a := rdS s w.a
  check (!a.poi) causePoison 0 0
  let b := curBank s
  let tdtn := match b.task with | some t => lrTdtn (taskLr s t) | none => 0
  check (a.v.toNat < 1024 && a.v.toNat < tdtn) 0x01 1 0
  let r ← liftFault (readTdWord s (curCtx s) b.tdtbase.toNat a.v.toNat (w.imm.toNat % 8))
  .ok { s := r.2, writes := wrS w.d (BitVec.ofNat 64 r.1.1) r.1.2, bound := 1500 }
def execTdesc (w : RR) (s : State) : Host.Outcome State Fault Refusal := issue (.tdesc w) (tdescBody w) s

/-- The facts of R470. -/
def taskFact (t : Task) (sel : Nat) : Nat :=
  if sel = 0 then t.launch
  else if sel = 1 then taskWord0 t
  else if sel ≤ 7 then (if sel - 2 < t.nops then t.ops.getD (sel - 2) 0 else 0)
  else if sel = 8 then t.method.getD 0
  else t.eff
/-- TQRY's body. -/
def tqryBody (w : RR) (s : State) : Except Stop Out :=
  .ok { s := s, writes := wrS w.d (BitVec.ofNat 64 (taskFact (taskOf s ((curBank s).task.getD 0)) w.imm.toNat)) false, bound := 2 }
def execTqry (w : RR) (s : State) : Host.Outcome State Fault Refusal := issue (.tqry w) (tqryBody w) s

/-- Width and position of field Fj under WIDFMT (R32, R141). -/
def fmtFieldWidth (f : BitVec 54) (j : Nat) : Nat := nbits f.toNat (6 * j) 6
def fmtFieldOff (f : BitVec 54) (j : Nat) : Nat := ((List.range j).map (fmtFieldWidth f)).foldl (· + ·) 0
/-- WIDF's body. -/
def widfBody (w : RR) (s : State) : Except Stop Out := do
  let b := curBank s
  let j := w.imm.toNat % 8
  check (j ≤ 5 && w.sub.toNat ≤ 1) 0x01 1 0
  let a : Reg := if w.sub = 1 then rdS s w.a else { v := b.wid }
  let o := fmtFieldOff b.widfmt j
  let n := fmtFieldWidth b.widfmt j
  let mode := w.imm.toNat / 8 % 4
  let v := if mode = 0 then nbits a.v.toNat o n else if mode = 1 then o else if mode = 2 then n else a.v.toNat / 2 ^ o * 2 ^ o
  .ok { s := s, writes := wrS w.d (BitVec.ofNat 64 v) (a.poi && (mode = 0 || mode = 3)), bound := 2 }
def execWidf (w : RR) (s : State) : Host.Outcome State Fault Refusal := issue (.widf w) (widfBody w) s

/-! ## The method table (R74, R438) -/

/-- MTINS refuses the image. -/
def imageOk (e : Nat) : Bool :=
  mtVal e && nbits e 254 2 = 0 && mtOpid e != 0 && !(mtConv e && mtOpid e > 2) && mtScr e ≤ 32 && mtBar e ≤ 32 && mtAcc e ≤ 8
/-- MTINS's body. -/
def mtinsBody (w : RR) (s : State) : Except Stop Out := do
  let a := rdS s w.a
  let b := rdS s w.b
  check (!a.poi && !b.poi) causePoison 0 0
  aligned a.v.toNat 32
  let l ← liftFault (xlat s (curCtx s) .read false a.v.toNat 32)
  let o : MemOp := { kind := .load, va := a.v.toNat, n := 32, pieces := piecesOf l, scope := 2, ord := 1 }
  if waitsBehind s o then .error (.stall .other) else
  let ((e, p), s) := readPieces (drainFor (useXlats s (curCtx s) .read false l) o) s.curCore 2 (piecesOf l)
  let s := acquireAction s s.curCore 2
  let st := if b.v.toNat ≥ 65536 then 2 else if p || !imageOk e then 1 else 0
  let s := if st = 0 then retryHeld { s with methods := tset s.methods b.v.toNat (BitVec.ofNat 256 e) } (mtOpid e) else s
  .ok { s := s, writes := wrS w.d (BitVec.ofNat 64 st) false, bound := 1500 }
def execMtins (w : RR) (s : State) : Host.Outcome State Fault Refusal := issue (.mtins w) (mtinsBody w) s
/-- MTDEL's body. -/
def mtdelBody (w : RR) (s : State) : Except Stop Out := do
  let b := rdS s w.b
  check (!b.poi) causePoison 0 0
  let i := b.v.toNat
  let st := if i ≥ 65536 then 2 else if mtVal (method s i) then 0 else 1
  let s := if st = 0 then { s with methods := tset s.methods i (BitVec.ofNat 256 (method s i - 2 ^ 253)) } else s
  .ok { s := s, writes := wrS w.d (BitVec.ofNat 64 st) false, bound := 1500 }
def execMtdel (w : RR) (s : State) : Host.Outcome State Fault Refusal := issue (.mtdel w) (mtdelBody w) s

end Sys2Proof.Machine
end

