-- ==== Sys2Proof/Machine/Pool.lean ====
section
/-! DEFINITION. The pool agents' operations (R284-R303): regions, leases, orphaned lines, refused accesses, failed heads, extents. -/
namespace Sys2Proof.Machine

/-! ## Regions -/

/-- Cycles of a lease's length; 0 ms is read as 20 (R282). -/
def lmsCycles (ms : Nat) : Nat := (if ms = 0 then 20 else ms) * 1500000
/-- Heads that an entry lies on. -/
def entryHeads (e : Nat) : List Nat := if prtKind e = 1 then (List.range 8).filter fun h => nbit (prtRmask e) h else [prtHead e]
/-- A physical address lies in the region of an entry. -/
def inPrt (e pa : Nat) : Bool := prtBase e ≤ pa && pa < prtBase e + prtLen e
/-- Every entry with its index. -/
def allEntries (s : State) : List (Nat × Nat) := (List.range 1024).map fun i => (i, prtEntry s i)
/-- An entry with STATE not 0 covers a granule of a run of a head. -/
def coveredBy (s : State) (skip : Option Nat) (h g n : Nat) : Bool :=
  (allEntries s).any fun e => some e.1 != skip && prtState e.2 != 0 && (entryHeads e.2).contains h && overlaps (prtGbase e.2) (prtNgm1 e.2 + 1) g n
/-- The checks of the create action (R284). -/
def entryOk (s : State) (i e : Nat) : Bool :=
  let n := prtNgm1 e + 1
  prtState e = 0 && nbits e 80 176 = 0 && nbits e 42 4 = 0 && nbits e 0 14 = 0 && prtKind e != 3 && prtLms e ≤ 1000 &&
    (if prtKind e = 1 then nbit (prtRmask e) (prtHead e) && 2 ≤ (entryHeads e).length else prtRmask e = 0) &&
    (entryHeads e).all fun h => (List.range n).all (fun g => granuleAccepted s h (prtGbase e + g)) && !coveredBy s (some i) h (prtGbase e) n

/-- The waiters on words and tags of a region are woken. -/
def wakeRange (s : State) (hit : Nat → Bool) : State := wakeWhere s (waitsAt fun a _ => hit a)

/-! ## Orphaned lines (R292, R301) -/

/-- The dirty lines of a cache that the test selects, as orphans. -/
def orphansOf (l : List Line) (hit : Nat → Bool) (die cluster : Nat) (pool : Bool) (prt : Nat → Nat) (bad : Bool) : List Orphan :=
  (l.filter fun x => hit (128 * x.line) && x.dirty != 0).map fun x =>
    orphanOf x die cluster pool (prt (128 * x.line)) bad
/-- Drops the lines that the test selects from every cache of the device, read-only caches included, with the agents' permissions on them. -/
def dropLines (s : State) (hit : Nat → Bool) : State :=
  let keep := fun (l : List Line) => l.filter fun x => !hit (128 * x.line)
  { s with
    clusters := s.clusters.map fun k => (k.1, { k.2 with cache := keep k.2.cache })
    cores := s.cores.map fun c => (c.1, { c.2 with ro := keep c.2.ro })
    pool := { s.pool with north := keep s.pool.north, south := keep s.pool.south, perms := s.pool.perms.filter fun e => !hit (128 * e.1) } }
/-- Drops every line of the caches that the test selects; dirty ones are kept as orphans. `bad`: poisoned (R293). -/
def orphanLines (s : State) (hit : Nat → Bool) (prt : Nat → Nat) (bad : Bool) : State :=
  let o := orphansOf s.pool.north hit 0 0 true prt bad ++ orphansOf s.pool.south hit 0 0 true prt bad ++
    s.clusters.flatMap fun k => orphansOf k.2.cache hit (k.1 / 32) (k.1 % 32) false prt bad
  let s := dropLines s hit
  { s with pool := { s.pool with orphans := s.pool.orphans ++ o } }
/-- Writes back every dirty byte of the lines that the test selects, to the head. -/
def cleanLines (s : State) (hit : Nat → Bool) : State :=
  let s := s.clusters.foldl (fun s k => (k.2.cache.filter fun x => hit (128 * x.line)).foldl (fun s x => cleanLine s k.1 x.line) s) s
  let lines := ((s.pool.north ++ s.pool.south).filter fun x => hit (128 * x.line)).map Line.line
  lines.foldl (fun s ln => cleanAgentLine s (agentOf (128 * ln)) ln) s

/-! ## Accesses that a head does not answer (R293, R300 step 2) -/

/-- What a load or atomic that was refused leaves in a register: an undefined value with POI. -/
def lostWrite (s : State) (d : Dest) : Write :=
  match d with
  | .reg n => .reg n { v := BitVec.ofNat 64 (freeAt s (800 + n)), poi := true }
  | .idx n => .idx n { v := BitVec.ofNat 32 (freeAt s (800 + n)), poi := true }
  | .queue q k => .queue q k { v := BitVec.ofNat 64 (freeAt s (800 + q)), poi := true }
  | .vec n => .vec n { pairs := BitVec.ofNat 4096 (freeAt s (900 + n)), poi := true }
  | .mask n => .mask n { pairs := BitVec.ofNat 4096 (freeAt s (980 + n)), poi := true }
/-- A flight ends without its access: a load or atomic lands poisoned, a store is discarded. -/
def loseFlight (s : State) (core bank : Nat) (st : Strand) (f : Flight) : State :=
  let ws := f.dests.map (lostWrite s)
  let s := updStrand s core bank st fun x => { x with flight := x.flight.map fun g => if g.id = f.id then { g with writes := ws } else g }
  useFresh (updBank s core bank fun b => landFlight b st f.id (coreTime s core))
/-- The outstanding flights of the device whose access touches an address that the test selects. -/
def flightsOn (s : State) (hit : Nat → Bool) : List (Nat × Nat × Strand × Flight) :=
  s.cores.flatMap fun c => [0, 1].flatMap fun b => [Strand.a, .e, .m].flatMap fun st =>
    ((strandSel (bankSel c.2 b) st).flight.filter fun f => !f.landed && (match f.op with
      | some o => o.pieces.any fun p => hit p.pa
      | none => false)).map fun f => (c.1, b, st, f)
def loseFlights (s : State) (hit : Nat → Bool) : State :=
  (flightsOn s hit).foldl (fun s e => loseFlight s e.1 e.2.1 e.2.2.1 e.2.2.2) s

/-! ## Leases (R284, R291-R294) -/

def leaseOf (s : State) (i : Nat) : Option Lease := s.pool.leases.find? fun l => l.prt = i
def updLease (s : State) (i : Nat) (f : Lease → Lease) : State :=
  { s with pool := { s.pool with leases := s.pool.leases.map fun l => if l.prt = i then f l else l } }
def dropLease (s : State) (i : Nat) : State := { s with pool := { s.pool with leases := s.pool.leases.filter fun l => l.prt != i } }
/-- A renewal is sent (R291, R424). -/
def sendRenewal (s : State) (i : Nat) : State := updLease s i fun l => { l with asked := l.asked ++ [s.cycle] }

/-- PRTCMD after the action is complete. -/
def prtDone (s : State) (err : Bool) : State := { s with pool := { s.pool with prtBusy := false, prtErr := err } }
/-- The pool agent refuses the action, or completes it; then the dispatch reads that wait are made again (R512). -/
def prtFinish (s : State) (err : Bool) : State := retryReads (prtDone s err)

/-- A head that the entry lies on has failed: a request to it is never answered (R284, R300). -/
def headsFailed (s : State) (e : Nat) : Bool := (entryHeads e).any fun h => (headOf s h).state = 2
/-- Requests a lease for an entry; the action is complete when the grant is acknowledged. -/
def requestLease (s : State) (i e : Nat) : State :=
  if headsFailed s e then prtFinish s true else
  let s := dropLease s i
  { s with pool := { s.pool with prtBusy := true, prtErr := false, leases := s.pool.leases ++ [{ prt := i, sent := s.cycle, asked := [s.cycle], waiting := true, lms := prtLms e }] } }
/-- The head refuses the create: another processor has created the region with another kind, LMS or RMASK. What other processors have done is a free choice (R284; log entry 156). -/
def headRefuses (s : State) : Bool := nbit (freeAt s 620) 0
def prtCreate (s : State) (i : Nat) : State :=
  let e := prtEntry s i
  if !entryOk s i e || headRefuses s then prtFinish (useFresh s) true
  else if prtKind e = 0 then requestLease (useFresh s) i e
  else prtFinish (setPrtState (useFresh s) i 1) false
def hasOrphans (s : State) (i : Nat) : Bool := s.pool.orphans.any fun o => o.prt = i
/-- Drops every line of a region from the caches. -/
def dropRegion (s : State) (e : Nat) : State := dropLines s (inPrt e)
/-- A dirty line of the region cannot be written back while a link is down. -/
def regionHeld (s : State) (e : Nat) : Bool :=
  (s.pool.north ++ s.pool.south ++ s.clusters.flatMap fun k => k.2.cache).any fun x => inPrt e (128 * x.line) && x.dirty != 0 && lineLinkDown s x.line
/-- Retire (R284): BUSY stands while a write-back waits for its link. -/
def prtRetire (s : State) (i : Nat) : State :=
  let e := prtEntry s i
  if prtState e = 0 || hasOrphans s i then prtFinish s true
  else if prtState e ≤ 2 && regionHeld s e then s
  else
    let s := if prtState e ≤ 2 then cleanLines s (inPrt e) else s
    prtFinish (setPrtState (dropLease (dropRegion s e) i) i 0) false
def prtRejoin (s : State) (i : Nat) : State :=
  let e := prtEntry s i
  if !(prtState e = 2 || prtState e = 3) || hasOrphans s i then prtFinish s true else requestLease s i e
/-- The grant of a create or a rejoin is acknowledged: the lease counts from the sending of its request. What the caches still hold of a given-up lease is dropped, so that none
of it reaches the head (R294; log entry 103). -/
def leaseGranted (s : State) (i : Nat) : State :=
  match leaseOf s i with
  | some l =>
    if l.waiting then
      let s := if prtState (prtEntry s i) = 0 then s else dropRegion s (prtEntry s i)
      prtFinish (setPrtState (updLease s i fun l => { l with sent := l.asked.headD l.sent, asked := [], waiting := false }) i 1) false
    else s
  | none => s

/-- The entry of a region leaves STATE 1 (R292, R293): no renewal follows, accesses in flight are lost, waiters are woken. -/
def loseRegion (s : State) (i st : Nat) : State :=
  let e := prtEntry s i
  let s := dropLease (setPrtState s i st) i
  wakeRange (loseFlights s (inPrt e)) (inPrt e)
/-- The device's count runs out (R292). -/
def leaseOut (s : State) (i : Nat) : State :=
  let e := prtEntry s i
  let s := orphanLines (setPrtState s i 2) (inPrt e) (fun _ => i) false
  postPool (loseRegion s i 2) (prtHead e) 0x11 0 (prtBase e) 0 i
/-- A LEASE record: of a task to its die, else to D0 or D2 (R303). -/
def leaseRecord (s : State) (task sub ln i : Nat) : State :=
  if task = 0 then postPool s (headOfPa ln) 0x12 sub ln 0 i
  else
    let t := taskOf s task
    postRecord s t.die (poolRecord task t.wid.toNat ln 0 0 i 0x12 sub t.die (headOfPa ln)) none (some (.agent (4 ≤ headOfPa ln)))
/-- Some part of the device learns that the region has lapsed: STATE 1 becomes 3, and the head has taken back every permission on it (R293). -/
def lapse (s : State) (i sub task pa : Nat) : State :=
  if prtState (prtEntry s i) != 1 then s else
  let s := leaseRecord (dropLease (setPrtState s i 3) i) task sub pa i
  { s with pool := { s.pool with perms := s.pool.perms.filter fun e => !inPrt (prtEntry s i) (128 * e.1) } }

/-! ## Failed heads (R300) -/

/-- The physical address of a VA of a copy command, if it translates. -/
def copyPa (s : State) (core : Nat) (c : CopyCmd) (va : Nat) : Option Nat :=
  match leafOf s (copyCtx core c) .copyRead false va with
  | .ok l => some (ptePfn l.pte / l.size * l.size + va % l.size)
  | .error _ => none
/-- An unperformed chunk from `pos` on lies on an address that the test selects. -/
def chunksOn (s : State) (core : Nat) (c : CopyCmd) (hit : Nat → Bool) : Nat → Nat → Bool
  | 0, _ => false
  | fuel + 1, pos =>
    if pos ≥ c.len then false else
    let (segs, _, _) := chunkSegs core c 8192 s pos none none
    let n := segs.foldl (fun a g => a + g.n) 0
    if n = 0 then false
    else if segs.any fun g => (g.src.toList ++ g.dst.toList).any fun va => (copyPa s core c va).any hit then true
    else chunksOn s core c hit fuel (pos + n)
/-- The copy commands of the device with an unperformed chunk on such an address. -/
def copiesOn (s : State) (hit : Nat → Bool) : List (Nat × Nat) :=
  s.cores.flatMap fun c => (c.2.slots.filter fun e => chunksOn s c.1 e.2 hit (e.2.len + 1) (e.2.done + e.2.part)).map fun e => (c.1, e.1)
/-- An ROR entry has a live replica. -/
def liveReplica (s : State) (e : Nat) : Bool := prtKind e = 1 && (entryHeads e).any fun h => (headOf s h).state != 2
def updHead (s : State) (h : Nat) (f : Head → Head) : State := { s with pool := { s.pool with heads := tset s.pool.heads h (f (headOf s h)) } }
/-- Cycles of 4 ms. -/
def answerTime : Nat := 6000000
/-- A request to head `h` has gone unanswered for 4 ms: of a lease that a create or rejoin waits for, an access or a chunk (R300); a renewal is no request (R291, R294). -/
def requestLate (s : State) (h : Nat) : Bool :=
  let on := fun (pa : Nat) => paPool pa && headOfPa (replicaPa s pa) = h
  (s.pool.leases.any fun l => l.waiting && prtHead (prtEntry s l.prt) = h && l.asked.any fun t => t + answerTime ≤ s.cycle) ||
    ((flightsOn s on).any fun e => e.2.2.2.sent + answerTime ≤ s.cycle) ||
    ((copiesOn s on).any fun e => ((tfind (coreOf s e.1).slots e.2).any fun c => c.st = .running && c.sent + answerTime ≤ s.cycle))
/-- Head `h` is declared failed, for a reason (R300). -/
def failHead (s : State) (h sub : Nat) : State :=
  if (headOf s h).state = 0 || (headOf s h).state = 2 then s else
  -- the accesses and chunks that the head serves now
  let on := fun (pa : Nat) => paPool pa && headOfPa (replicaPa s pa) = h
  let fl := flightsOn s on
  let s := updHead s h fun k => { k with state := 2, downAt := none }
  let lost := ((allEntries s).filter fun e => prtState e.2 != 0 && (entryHeads e.2).contains h && !liveReplica s e.2).map (·.1)
  let waiting := s.pool.leases.any fun l => l.waiting && prtHead (prtEntry s l.prt) = h
  let s := lost.foldl (fun s i => dropLease (setPrtState s i 4) i) s
  let s := if waiting then prtFinish { s with pool := { s.pool with leases := s.pool.leases.filter fun l => !(l.waiting && prtHead (prtEntry s l.prt) = h) } } true else s
  let s := fl.foldl (fun s e => loseFlight s e.1 e.2.1 e.2.2.1 e.2.2.2) s
  let home := fun (pa : Nat) => paPool pa && (lost.any fun i => inPrt (prtEntry s i) pa)
  -- a chunk of an ROR region that has another live replica goes on from that one
  let cs := copiesOn s fun pa => on pa && !((regionOf s pa).any fun e => liveReplica s e.2)
  let s := cs.foldl (fun s e => endCopy s e.1 e.2 2) s
  let before := s.pool.orphans.length
  let s := orphanLines s home (fun pa => (lost.find? fun i => inPrt (prtEntry s i) pa).getD 0) false
  let s := wakeRange s home
  postPool s h 0x13 sub (0x8000000000000 + h * 0x100000000000) (cs.length % 2 ^ 20 + (s.pool.orphans.length - before) % 2 ^ 24 * 2 ^ 20) 0

/-! ## Dynamic capacity (R299) -/

/-- DCACC after the action is complete. -/
def dcDone (s : State) (err : Bool) : State := { s with pool := { s.pool with dcBusy := false, dcErr := err } }
/-- The zeroes that an accepted extent reads as. -/
def zeroExtent (s : State) (h g n : Nat) : State :=
  let lo := 0x8000000000000 + h * 0x100000000000 + g * 0x10000000
  { s with mem := memZero s.mem lo (lo + n * 0x10000000), pool := { s.pool with lineKeys := s.pool.lineKeys.filter fun e => !(lo ≤ 128 * e.1 && 128 * e.1 < lo + n * 0x10000000) } }
/-- An answer of system software: 1 accepts an offered extent, 2 rejects it, 3 releases an accepted one. -/
def dcAnswer (s : State) (action h g n : Nat) : State :=
  let k := headOf s h
  if action = 1 then
    if k.offered.contains (g, n) then dcDone (updHead (zeroExtent s h g n) h fun k => { k with offered := k.offered.filter (· != (g, n)), accepted := k.accepted ++ [(g, n)] }) false
    else dcDone s true
  else if action = 2 then
    if k.offered.contains (g, n) then dcDone (updHead s h fun k => { k with offered := k.offered.filter (· != (g, n)) }) false else dcDone s true
  else if action = 3 then
    if (List.range n).all (fun i => granuleAccepted s h (g + i)) && !coveredBy s none h g n then
      dcDone (updHead s h fun k => { k with accepted := cutFrom k.accepted (g, n) }) false
    else dcDone s true
  else dcDone s true
/-- Granules accepted on a head (PHSTAT.CAP). -/
def capOf (k : Head) : Nat := (k.accepted.map (·.2)).foldl (· + ·) 0

end Sys2Proof.Machine
end

