-- ==== Sys2Proof/Machine/PoolWords.lean ====
section
/-! DEFINITION. The pool words of A and E (0xE2-0xE5): R297, R298, R301, R424, R441, R443. -/
namespace Sys2Proof.Machine

/-- LRENEW's body (R424). -/
def lrenewBody (w : RR) (s : State) : Except Stop Out := do
  let a := rdS s w.a
  check (!a.poi) causePoison 0 0
  let i := a.v.toNat
  let e := prtEntry s i
  .ok { s := if i < 1024 && prtKind e = 0 && prtState e = 1 then sendRenewal s i else s }
def execLrenew (w : RR) (s : State) : Host.Outcome State Fault Refusal := issue (.lrenew w) (lrenewBody w) s

/-! ## Notify queues (R296-R298, R441) -/

/-- A piece of a notify queue: its pages must be COH, in a region of the task's key group with STATE 1; the index of the region. -/
def queuePage (s : State) (acc : Acc) (va n : Nat) : Except Stop (List Xlat × Nat) := do
  let l ← liftFault (xlatPages s (curCtx s) acc acc.writes va n)
  check (l.all fun x => x.kind = .coh) 0x06 9 va
  liftFault (regionsOk s (curCtx s) l)
  let idx := match regionOf s ((l.map Xlat.pa).headD 0) with | some r => r.1 | none => 1024
  check (l.all fun x => (regionOf s x.pa).any fun r => r.1 = idx) 0x06 9 va
  .ok (l, idx)
/-- An 8-byte-aligned buffer of 56 bytes that lies in one page. -/
def bufferOk (va : Nat) : Bool := va % 8 = 0 && va / 4096 = (va + 55) / 4096
/-- A read at SYS scope; a poisoned header or sequence word raises POISON with subcause 2 (R313). -/
def readSys (s : State) (l : List Xlat) : Except Stop (Nat × State) := do
  let r := readPieces s s.curCore 3 (piecesOf l)
  check (!r.1.2) causePoison 2 0
  .ok (r.1.1, r.2)
/-- Copies the 56 bytes of a payload with its marks: one piece for each 32-byte atom (R266, R297); `va` is where they go. -/
def copyPayload (s : State) (rd wr va : Nat) (src dst : List Piece) : State :=
  let r := readMarked s s.curCore rd 0 src
  let s := writeMarked r.2 s.curCore wr r.1.1 r.1.2 0 dst
  r.1.2.foldl (fun s e => notePoison s ((curBank s).task.getD 0) (va + e.1) e.2) s
/-- The pages of a stretch from its eighth byte on: an entry's payload. -/
def pastSeq (l : List Xlat) : List Xlat := match l with | x :: t => { x with va := x.va + 8, pa := x.pa + 8, n := x.n - 8 } :: t | [] => []

def nqLog (h : Nat) : Nat := nbits h 128 8
def nqClosed (h : Nat) : Bool := nbit h 136
def nqPi (h : Nat) : Nat := nbits h 0 64
def nqCi (h : Nat) : Nat := nbits h 64 64
def nqHeaderOk (h : Nat) : Bool := nqLog h != 0 && nqLog h ≤ 16 && nbits h 137 887 = 0
/-- VA of the entry of an index. -/
def nqEntry (va h i : Nat) : Nat := va + 128 + 64 * (i % 2 ^ nqLog h)

/-- What stands before the claim: the operands, the pages and the header, read as an acquire behind the strand's earlier accesses. A word that has claimed is at its wait, and its header is not
read again (R298). -/
def queueHeader (w : RR) (dst : Acc) (s : State) : Except Stop (Nat × Nat × Nat × List Xlat × State) := do
  let a := rdS s w.a
  let b := rdS s w.b
  check (!a.poi && !b.poi) causePoison 0 0
  aligned a.v.toNat 128
  check (bufferOk b.v.toNat) 0x04 0 b.v.toNat
  if (curStrand s).claimed.isSome then do
    let buf ← liftFault (xlat s (curCtx s) dst dst.writes b.v.toNat 56)
    .ok (a.v.toNat, (curStrand s).claimOf.1 * 2 ^ 128, (curStrand s).claimOf.2, buf, useXlats s (curCtx s) dst dst.writes buf)
  else
  let (l, idx) ← queuePage s .read a.v.toNat 128
  let buf ← liftFault (xlat s (curCtx s) dst dst.writes b.v.toNat 56)
  if heldByFence s then .error (.stall .other) else
  let s := drainCur (useXlats (useXlats s (curCtx s) .read false l) (curCtx s) dst dst.writes buf)
  let (h, s) ← readSys s l
  check (nqHeaderOk h) 0x01 1 0
  .ok (a.v.toNat, h, idx, buf, acquireAction s s.curCore 3)

/-- The entry of an index, in the same region as the header. -/
def queueEntry (s : State) (va h i idx : Nat) : Except Stop (List Xlat) := do
  let (l, r) ← queuePage s .write (nqEntry va h i) 64
  check (r = idx) 0x06 9 (nqEntry va h i)
  .ok l
/-- The first word, and the payload, of an entry's pages. -/
def entrySeq (l : List Xlat) : List Piece := piecesOf (l.map fun x => { x with n := 8 })
def entryPayload (l : List Xlat) : List Piece := piecesOf (pastSeq l)

/-- Claims an index of the queue with header `h` in region `idx` by writing the counter at `off` of the header at SYS scope; a word that holds a claim keeps it. -/
def claimIndex (s : State) (va h idx off i : Nat) : Except Stop State :=
  if (curStrand s).claimed.isSome then .ok s else do
  let (l, _) ← queuePage s .atomic (va + off) 8
  let s := writePieces (useXlats s (curCtx s) .atomic true l) s.curCore 3 false (piecesOf l) ((i + 1) % 2 ^ 64)
  .ok (modStrand s fun x => { x with claimed := some (i % 2 ^ 63), claimOf := (nqLog h, idx) })
/-- What a wait for a sequence word finds: the word and its entry's pages; or the strand has parked; or the page fails its checks or the word is poisoned, and the claim stands (R12, R297,
R298). -/
inductive SeqWait where
  | got (v : Nat) (l : List Xlat) (s : State)
  | ends (o : Out)
  deriving DecidableEq, Repr
/-- A word that holds a claim stops at its wait: the claim stands (R298). -/
def stopsAt (s : State) (x : Stop) : Out :=
  match x with
  | .trap c sub tval => { s := s, issued := false, traps := some (c, sub, tval) }
  | .stall why => { s := stallAs s why, issued := false }
/-- Waits for the sequence word of the claimed entry, whose page is looked at here, after the claim (R256, R297, R298). -/
def awaitSeq (s : State) (l : Except Stop (List Xlat)) (want : Nat) : SeqWait :=
  match l with
  | .error x => .ends (stopsAt s x)
  | .ok l =>
  let s := useXlats s (curCtx s) .write true l
  let r := match (curStrand s).park.bind Park.sat with | some v => (v, s) | none => readPieces s s.curCore 3 (entrySeq l)
  let pa := (l.map Xlat.pa).headD 0
  if r.1.2 then .ends { s := r.2, issued := false, traps := some (causePoison, 2, 0) }
  else if r.1.1 % 2 ^ 63 = want % 2 ^ 63 then .got r.1.1 l (acquireAction r.2 s.curCore 3)
  else .ends { s := parkCur r.2 (.word pa) (waitTable s.curCore 3 pa) (.equals want) 3, issued := false }
/-- Releases an entry to sequence value `v`; the claim is over. -/
def releaseSeq (s : State) (l : List Xlat) (v : Nat) : State :=
  let s := writePieces (releaseAction s s.curCore 3) s.curCore 3 false (entrySeq l) (v % 2 ^ 63)
  modStrand s fun x => { x with claimed := none }

/-- NQPOST's body (R297). -/
def nqpostBody (w : RR) (s : State) : Except Stop Out := do
  let (va, h, idx, buf, s) ← queueHeader w .read s
  if (curStrand s).claimed.isNone && nqClosed h then .ok { s := s, writes := wrS w.d (BitVec.allOnes 64) false, atOnce := true } else
  let i := ((curStrand s).claimed).getD (nqPi h)
  let s ← claimIndex s va h idx 0 i
  match awaitSeq s (queueEntry s va h i idx) i with
  | .ends o => .ok o
  | .got _ l s =>
    let s := copyPayload s 1 3 (nqEntry va h i + 8) (piecesOf buf) (entryPayload l)
    .ok { s := releaseSeq s l (i + 1), writes := wrS w.d (BitVec.ofNat 64 (i % 2 ^ 63)) false, atOnce := true }
def execNqpost (w : RR) (s : State) : Host.Outcome State Fault Refusal := issue (.nqpost w) (nqpostBody w) s

/-- NQTAKE's body (R297). -/
def nqtakeBody (w : RR) (s : State) : Except Stop Out := do
  let (va, h, idx, buf, s) ← queueHeader w .write s
  let i := ((curStrand s).claimed).getD (nqCi h)
  let empty ←
    if (curStrand s).claimed.isNone && w.imm.getLsbD 0 then do
      let l ← queueEntry s va h i idx
      let r := readPieces (useXlats s (curCtx s) .write true l) s.curCore 3 (entrySeq l)
      check (!r.1.2) causePoison 2 0
      .ok (if r.1.1 % 2 ^ 63 != (i + 1) % 2 ^ 63 then some r.2 else none)
    else .ok none
  match empty with
  | some s => .ok { s := acquireAction s s.curCore 3, writes := wrS w.d (BitVec.allOnes 64) false, atOnce := true }
  | none =>
  let s ← claimIndex s va h idx 8 i
  match awaitSeq s (queueEntry s va h i idx) (i + 1) with
  | .ends o => .ok o
  | .got seq l s =>
    let s := copyPayload s 3 1 (rdS s w.b).v.toNat (entryPayload l) (piecesOf buf)
    .ok { s := releaseSeq s l (i + 2 ^ nqLog h), writes := wrS w.d (BitVec.ofNat 64 (seq / 2 ^ 63 * 2 ^ 63 + i % 2 ^ 63)) false, atOnce := true }
def execNqtake (w : RR) (s : State) : Host.Outcome State Fault Refusal := issue (.nqtake w) (nqtakeBody w) s

/-! ## ORPHX (R301, R443) -/

/-- An orphan comes before another: pool caches first, then by die, cluster and line. -/
def orphanKey (o : Orphan) : List Nat := [if o.pool then 0 else 1, o.die, o.cluster, o.line]
def insertOrphan : List Orphan → Orphan → List Orphan
  | [], o => [o]
  | p :: l, o => if lexLt (orphanKey o) (orphanKey p) then o :: p :: l else p :: insertOrphan l o
/-- The 160 bytes of a rescue buffer's entry. -/
def orphanImage (o : Orphan) : Nat :=
  (128 * o.line + o.poison.toNat) + (o.die + o.cluster * 2 ^ 2 + o.pool.toNat * 2 ^ 7 + o.prt * 2 ^ 16) * 2 ^ 64 + o.dirty.toNat * 2 ^ 128 +
    (mixBytes 0 o.data o.dirty).toNat * 2 ^ 256
/-- The orphans that a selector names, in the order of R301; none for an illegal selector. -/
def orphansFor (s : State) (b : Nat) : Option (List Orphan) :=
  let pick := fun (f : Orphan → Bool) => (s.pool.orphans.filter f).foldl insertOrphan []
  if nbit b 63 then (if nbits b 3 60 = 0 then some (pick fun o => headOfPa (128 * o.line) = nbits b 0 3) else none)
  else if nbits b 10 53 = 0 then some (pick fun o => o.prt = nbits b 0 10) else none
/-- ORPHX's body. -/
def orphxBody (w : RR) (s : State) : Except Stop Out := do
  let a := rdS s w.a
  let b := rdS s w.b
  let c := rdS s w.c
  check (!a.poi && !b.poi && !c.poi) causePoison 0 0
  match orphansFor s b.v.toNat with
  | none => .ok { s := s, writes := wrS w.d 0 false, bound := 6000 }
  | some o =>
    let n := min c.v.toNat 256
    aligned a.v.toNat 32
    let l ← liftFault (xlat s (curCtx s) .rescue true a.v.toNat (160 * n))
    if heldByFence s then .error (.stall .other) else
    let o := o.take n
    let v := o.foldr (fun x acc => orphanImage x + 2 ^ 1280 * acc) 0
    let s := drainCur (useXlats s (curCtx s) .rescue true l)
    let ps := (piecesOf l).take (5 * o.length)
    let s := releaseAction (writePieces s s.curCore 2 false ps v) s.curCore 2
    .ok { s := { s with pool := { s.pool with orphans := s.pool.orphans.filter fun x => !o.contains x } },
          writes := wrS w.d (BitVec.ofNat 64 o.length) false, bound := 6000 }
def execOrphx (w : RR) (s : State) : Host.Outcome State Fault Refusal := issue (.orphx w) (orphxBody w) s

end Sys2Proof.Machine
end

