-- ==== Sys2Proof/Machine/SystemWords.lean ====
section
/-! DEFINITION. The CSR words (R139-R142, R394, R395), TRAP (R471), BKPT (R379), ERET (R399), TLBINV (R469), HALT and IDLE (R411), SWAPB and SPILL (R463), and
DACC (R170, R396, R397). -/
namespace Sys2Proof.Machine

/-! ## CSRs -/

/-- STATUS (R320). -/
def statusCsr (k : Core) : Nat :=
  k.pm.toNat + 2 * k.ppm.toNat + 4 * k.ie.toNat + 8 * k.pie.toNat + 16 * k.sys.toNat + 32 * (k.fg % 2) + 64 * (k.shst % 4)
/-- A CSR as a word of the core finds it; RsvdZ fields read as 0. TICK counts the 100 MHz reference clock, 15 cycles of 1.5 GHz to a tick (R4, R139, R357). -/
def csrGet (s : State) (n : Nat) : Nat :=
  let k := coreOf s s.curCore
  let b := curBank s
  if n = 0x00 then statusCsr k
  else if n = 0x01 then k.cause.toNat
  else if n = 0x02 then k.epc.toNat
  else if n = 0x03 then k.tval.toNat
  else if n = 0x04 then k.trec.toNat
  else if n = 0x05 then k.tvec.toNat
  else if n = 0x10 then b.wid.toNat
  else if n = 0x11 then b.widfmt.toNat
  else if n = 0x12 then b.taskid.toNat
  else if n = 0x13 then b.opid.toNat
  else if n = 0x20 then b.vrb.toNat
  else if n = 0x21 then b.krb.toNat
  else if n = 0x30 then b.fd0.toNat
  else if n = 0x31 then b.fd1.toNat
  else if n = 0x32 then b.fd2.toNat
  else if n = 0x33 then b.fd3.toNat
  else if n = 0x40 then b.fpctl.toNat
  else if n = 0x41 then b.fpflags.toNat
  else if n = 0x50 then b.parkav.toNat
  else if n = 0x51 then b.accmap.toNat
  else if n = 0x60 then b.bbase.toNat
  else if n = 0x61 then b.bcnt.toNat
  else if n = 0x70 then leaseWord s s.curCore
  else if n = 0x71 then k.rtk.toNat + 2 ^ 16 * k.ccinj.toNat
  else if n = 0x80 then (match b.task with | some t => (taskOf s t).enacc % 2 ^ 64 | none => 0)
  else if n = 0x81 then b.enest.toNat
  else if n = 0x90 then s.cycle % 2 ^ 64
  else if n = 0x91 then s.cycle / 15 % 2 ^ 64
  else if n = 0xA0 then k.latchk.toNat + 2 * k.mixchk.toNat
  else if n = 0xB0 then b.scrbase.toNat
  else if n = 0xB1 then b.scrsize.toNat
  else if n = 0xC0 then b.tdtbase.toNat
  else 0
/-- The bits of a CSR that are not RsvdZ (R139, R141, R151, R152, R154, R191, R207, R310, R320). -/
def csrBits (n : Nat) : Nat :=
  if n = 0x00 then 0xFF
  else if n = 0x01 then 0x800000000000FFFF
  else if n = 0x02 then 2 ^ 57 - 1
  else if n = 0x04 then 2 ^ 32 - 1
  else if n = 0x05 then 2 ^ 57 - 8
  else if n = 0x11 then 2 ^ 54 - 1
  else if n = 0x12 then 2 ^ 32 - 1
  else if n = 0x13 then 2 ^ 13 - 1
  else if n = 0x20 then 2 ^ 5 - 1
  else if n = 0x21 then 2 ^ 3 - 1
  else if 0x30 ≤ n ∧ n ≤ 0x33 then 2 ^ 16 - 1
  else if n = 0x40 then 2 ^ 4 - 1
  else if n = 0x41 then 0x17F
  else if n = 0x50 then 2 ^ 11 - 1
  else if n = 0x51 then 2 ^ 48 - 1
  else if n = 0x60 then 2 ^ 11 - 1
  else if n = 0x61 then 2 ^ 12 - 1
  else if n = 0x70 then 0xFFFFFF1F
  else if n = 0x71 then 2 ^ 18 - 1
  else if n = 0xA0 then 3
  else if n = 0xB0 then 2 ^ 21 - 1
  else if n = 0xB1 then 2 ^ 22 - 1
  else if n = 0xC0 then 2 ^ 57 - 1
  else 2 ^ 64 - 1
/-- What a CSR write refuses: a 1 in a RsvdZ field, and in FPCTL an RM of 5 to 7 (R151, R394). -/
def csrRefuses (n : Nat) (v : W64) : Bool :=
  v.toNat &&& csrBits n != v.toNat || (n = 0x40 && v.toNat % 8 ≥ 5)
/-- The write of a CSR's RW fields; the write of CCINJ 3 is ignored (R207). -/
def csrSet (s : State) (n : Nat) (v : W64) : State :=
  let core := fun (f : Core → Core) => updCore s s.curCore f
  if n = 0x00 then core fun k => { k with ppm := v.getLsbD 1, ie := v.getLsbD 2, pie := v.getLsbD 3 }
  else if n = 0x01 then core fun k => { k with cause := v }
  else if n = 0x02 then core fun k => { k with epc := v.setWidth 57 }
  else if n = 0x03 then core fun k => { k with tval := v }
  else if n = 0x05 then core fun k => { k with tvec := v.setWidth 57 }
  else if n = 0x41 then modBank s fun b => { b with fpflags := v.setWidth 9 ||| landedNow b (coreTime s s.curCore) }
  else if n = 0x71 then (if v.extractLsb' 16 2 = 3 then s else core fun k => { k with ccinj := v.extractLsb' 16 2 })
  else if n = 0x20 ∨ n = 0x21 ∨ n = 0x30 ∨ n = 0x31 ∨ n = 0x32 ∨ n = 0x33 ∨ n = 0x40 ∨ n = 0xA0 then setLateCsr s (n, v)
  else s
/-- Core time at which a CSR's new value holds for every later word: the next cycle for VRB and KRB (R133), the bound for those of R142; none for the others. -/
def csrLate (n : Nat) : Option Nat :=
  if n = 0x20 ∨ n = 0x21 then some 1
  else if n = 0x30 ∨ n = 0x31 ∨ n = 0x32 ∨ n = 0x33 ∨ n = 0x40 ∨ n = 0xA0 then some 2
  else none
/-- What a CSR word finds: RTK counts the K-blocks retaken so far (R207), and ENACC the energy metered so far (R108). -/
def csrSync (s : State) (n : Nat) : State :=
  if n = 0x71 then syncMatrix s s.curCore
  else if n = 0x80 then (match (curBank s).task with | some t => meterTask s t | none => s)
  else s
/-- The body of CSRW, CSRS and CSRC; `f` gives the new value from the old one and the source. -/
def csrWriteBody (f : W64 → W64 → W64) (w : SYS) (s : State) : Except Stop Out := do
  let a := rdS s w.a
  check (!a.poi) causePoison 0 0
  let n := w.csr.toNat
  let s := csrSync s n
  let old := BitVec.ofNat 64 (csrGet s n)
  let new := f old a.v
  check (!csrRefuses n new) 0x01 1 0
  let t := csrSet s n new
  let t := match csrLate n with
    | some d => modBank t fun b => { b with csrOld := b.csrOld ++ [(n, old, new, coreTime s s.curCore + d)] }
    | none => t
  .ok { s := t, writes := wrS w.d old false, bound := 2 }
/-- CSRR's body. -/
def csrrBody (w : SYS) (s : State) : Except Stop Out :=
  let s := csrSync s w.csr.toNat
  .ok { s := s, writes := wrS w.d (BitVec.ofNat 64 (csrGet s w.csr.toNat)) false, bound := 2 }
def execCsrr (w : SYS) (s : State) : Host.Outcome State Fault Refusal := issue (.csrr w) (csrrBody w) s
def execCsrw (w : SYS) (s : State) : Host.Outcome State Fault Refusal := issue (.csrw w) (csrWriteBody (fun _ a => a) w) s
def execCsrs (w : SYS) (s : State) : Host.Outcome State Fault Refusal := issue (.csrs w) (csrWriteBody (fun o a => o ||| a) w) s
def execCsrc (w : SYS) (s : State) : Host.Outcome State Fault Refusal := issue (.csrc w) (csrWriteBody (fun o a => o &&& ~~~a) w) s

/-! ## Traps and returns -/

/-- TRAP's body: TRAPI with the code as subcause. -/
def trapBody (w : SYS) : Except Stop Out := .error (.trap 0x18 (w.imm.extractLsb' 0 8).toNat 0)
def execTrap (w : SYS) (s : State) : Host.Outcome State Fault Refusal := issue (.trap w) (fun _ => trapBody w) s
/-- BKPT's body. -/
def bkptBody : Except Stop Out := .error (.trap 0x17 0 0)
def execBkpt (w : SYS) (s : State) : Host.Outcome State Fault Refusal := issue (.bkpt w) (fun _ => bkptBody) s

/-- Sets or clears ERR of a die's TRAPCTL. -/
def trapErr (s : State) (die : Nat) (e : Bool) : State :=
  updDie s die fun d => { d with trapctl := BitVec.ofNat 64 (setBits d.trapctl.toNat 36 1 e.toNat) }
/-- ERET with a value: TRAPCTL action 1 on the die and task that it names. -/
def eretTask (s : State) (v : Nat) : State :=
  if v / 2 ^ 34 != 0 then trapErr s (dieOfCore s.curCore) true
  else
    let die := nbits v 32 2
    let task := nbits v 0 32
    let ok := (trappedBank s task).isSome && (taskOf s task).die = die
    settleTrap (trapErr s die (!ok)) die task 1
/-- ERET with value 0: it returns from the handler; E's next word issues in a later cycle. -/
def eretHandler (i : Instr) (s : State) : State :=
  let t := coreTime s s.curCore
  let s := leaveHandler (modBank s fun b => popAll b s.curSt i) s.curCore
  modStrand s fun x => { x with ready := t + 1, busy := t + 1 }
/-- ERET's body. -/
def eretBody (w : SYS) (s : State) : Except Stop Out := do
  let a := rdS s w.a
  check (!a.poi) causePoison 0 0
  if a.v = 0 then
    check (s.curSt = .e) 0x01 2 0
    .ok { s := eretHandler (.eret w) s, issued := false }
  else .ok { s := eretTask s a.v.toNat }
def execEret (w : SYS) (s : State) : Host.Outcome State Fault Refusal := issue (.eret w) (eretBody w) s

/-! ## TLBINV (R234, R469) -/

/-- A cached translation that the operands select: form 0 everything, 1 every page of a root, 2 one page of it. -/
def tlbHit (sub root va : Nat) (e : TlbEnt) : Bool :=
  sub = 0 || (e.root = root && (sub = 1 || (e.va ≤ va && va < e.va + e.size)))
/-- The walk caches after a TLBINV: form 0 drops every table entry, forms 1 and 2 those of the root (R234). -/
def walkDrop (sub root : Nat) (d : Die) : Die := { d with walks := d.walks.filter fun w => !(sub = 0 || w.root = root) }
/-- Drops the selected entries of every TLB of the device, and the walk caches' entries. -/
def tlbDrop (s : State) (sub root va : Nat) : State :=
  let hit := tlbHit sub root va
  { s with cores := s.cores.map fun e => (e.1, { e.2 with tlb := e.2.tlb.filter fun t => !hit t })
           clusters := s.clusters.map fun e => (e.1, { e.2 with tlb := e.2.tlb.filter fun t => !hit t })
           dies := s.dies.map fun e => (e.1, walkDrop sub root e.2) }
/-- An access that has been translated. -/
def translated (f : Flight) : Bool := f.op.any fun o => !o.pieces.isEmpty
/-- The copy commands of a core with a chunk that has been performed in part. -/
def partChunks (k : Core) : List Nat := (k.slots.filter fun e => e.2.part != 0).map Prod.fst
/-- Every access that has been translated is performed, and every chunk that has begun. -/
def drainDevice (s : State) : State :=
  (s.cores.map Prod.fst).foldl (fun s c =>
    (partChunks (coreOf s c)).foldl (fun s n => endChunk s c n)
      ([0, 1].foldl (fun s b => [Strand.a, .e, .m].foldl (fun s st => drain s c b st translated) s) s)) s
/-- A link holds some translated access of the device, or a chunk that has begun. -/
def deviceHeld (s : State) : Bool :=
  s.cores.any fun e => ([0, 1].any fun b => [Strand.a, .e, .m].any fun st => strandHeld s e.1 b st) || e.2.slots.any fun c => c.2.part != 0 && (!engineOn s e.1 || chunkStuck s e.1 c.2)
/-- An MDRAIN to a tensor uses pages that it has translated. -/
def rowsOut (s : State) : Bool := s.clusters.any fun e => (e.2.running.toList ++ e.2.behind.toList).any fun m => !m.rows.isEmpty
/-- TLBINV can complete: nothing that uses a translation is held, and no drain uses pages that it has translated (R234). -/
def tlbinvReady (s : State) : Bool := !rowsOut s && !deviceHeld s
/-- TLBINV completes: every access that used a translation has been performed, and the dispatch reads that failed are made again (R512). -/
def tlbinvDone (s : State) : State := retryReads (drainDevice s)
/-- TLBINV's body: the translations are gone at once; it completes when every access that used one has been performed, and the strand's later memory words wait for that (R469). -/
def tlbinvBody (w : SYS) (s : State) : Except Stop Out := do
  let a := rdS s w.a
  let b := rdS s w.b
  check (!(w.sub != 0 && a.poi)) causePoison 0 0
  check (!(w.sub = 2 && b.poi)) causePoison 0 0
  let t := tlbDrop s w.sub.toNat (nbits a.v.toNat 12 40 * 4096) (b.v.toNat % 2 ^ 57)
  .ok (if tlbinvReady t then { s := tlbinvDone t } else { s := t, op := some { kind := .tlbinv } })
def execTlbinv (w : SYS) (s : State) : Host.Outcome State Fault Refusal := issue (.tlbinv w) (tlbinvBody w) s

/-! ## HALT and IDLE (R411) -/

def haltBody (s : State) : Except Stop Out := .ok { s := updCore s s.curCore fun k => { k with halted := true } }
def execHalt (w : SYS) (s : State) : Host.Outcome State Fault Refusal := issue (.halt w) haltBody s
/-- IDLE's body: it stalls until an interrupt waits on the die. -/
def idleBody (s : State) : Except Stop Out :=
  let d := dieOf s (dieOfCore s.curCore)
  if d.intFq || d.intMc then .ok { s := s } else .error (.stall .other)
def execIdle (w : SYS) (s : State) : Host.Outcome State Fault Refusal := issue (.idle w) idleBody s

/-! ## SWAPB and SPILL (R463) -/

/-- The selected core is no core of tasks. -/
def selBad (s : State) (v : Nat) : Bool := v ≥ 512 || (coreOf s v).sys
/-- A swap is forced: it begins now, or when the core allows it (R321). -/
def forceSwap (s : State) (core : Nat) : State :=
  if swapAllowed s core && boundaryClear s core then beginSwap s core else updCore s core fun k => { k with swapWant := true }
/-- The gang task of a bank. -/
def gangTask (s : State) (b : Bank) : Option Nat := b.task.filter fun id => (taskOf s id).glev != 7
/-- The tasks of the gang in a core's foreground that stand in foreground banks: its swap takes them all out (R35). -/
def gangLeaves (s : State) (core : Nat) : List Nat :=
  match gangTask s (fgBank (coreOf s core)) with | some id => (gangOf s id).filter (gangStands s) | none => []
/-- The tasks of the gang in a core's shadow bank that are out of the foreground: its swap brings them all in (R35). -/
def gangComes (s : State) (core : Nat) : List Nat :=
  match gangTask s (bankSel (coreOf s core) (shadow (coreOf s core))) with | some id => (gangOf s id).filter (gangOut s) | none => []
/-- Adds to a list of cores those that must swap with them, until none is missing. -/
def swapClosure (s : State) : Nat → List Nat → List Nat
  | 0, l => l
  | n + 1, l =>
    let m := dedupNat (l ++ l.flatMap fun c => (gangLeaves s c ++ gangComes s c).map fun i => (taskOf s i).core)
    if m.length = l.length then l else swapClosure s n m
/-- The cores that a SWAPB of a core swaps: with each task of a gang those of its whole group (R35, R97). -/
def swapCores (s : State) (v : Nat) : List Nat := swapClosure s 512 [v]
/-- A task that the swap brings in comes from its save area into the shadow bank first, which is emptied for it; none while that cannot be done. -/
def bringIn (s : State) (id : Nat) : Option State :=
  match (taskOf s id).st with
  | .spilled a => (emptyShadow s (taskOf s id).core).map fun s => restoreArea s (taskOf s id).core (shadow (coreOf s (taskOf s id).core)) a
  | _ => some s
/-- The swaps that a SWAPB of core `v` asks for; none while a task that is to come in cannot be brought into a bank. -/
def forceSwaps (s : State) (v : Nat) : Option State :=
  let l := swapCores s v
  ((dedupNat (l.flatMap (gangComes s))).foldl (fun (a : Option State) i => a.bind fun s => bringIn s i) (some s)).map fun t => l.foldl forceSwap t
/-- SWAPB finds nothing to swap: the selector is invalid or names a system core, or both banks are empty. -/
def swapbNone (s : State) (v : Nat) : Bool := selBad s v || ((bankOf s v 0).task.isNone && (bankOf s v 1).task.isNone)
/-- SWAPB's answer 0 is on its way until the cores have swapped; the word is open as long as the swap has not been asked for. -/
def swapReply (w : SYS) (v : Nat) (l : List Nat) : Option MemOp := if w.d = 0 && !l.isEmpty then none else some { kind := .swap v l, dc := 3 }
/-- SWAPB's body. -/
def swapbBody (w : SYS) (s : State) : Except Stop Out := do
  let a := rdS s w.a
  check (!a.poi) causePoison 0 0
  let v := a.v.toNat
  if swapbNone s v then .ok { s := s, writes := wrS w.d 1 false, bound := 6000 }
  else match forceSwaps s v with
    | some t => .ok { s := t, writes := wrS w.d 0 false, op := swapReply w v (swapCores s v), bound := 6000 }
    | none => .ok { s := s, writes := wrS w.d 0 false, op := swapReply w v [], bound := 6000 }
def execSwapb (w : SYS) (s : State) : Host.Outcome State Fault Refusal := issue (.swapb w) (swapbBody w) s

/-- SPILL's effect and status; none while the bank is still written to (R322), or a swap of the core is decided or under way. -/
def spillAct (s : State) (v : Nat) : Option (State × Nat) :=
  let k := coreOf s v
  if selBad s v || (bankSel k (shadow k)).task.isNone then some (s, 1)
  else if k.shst = 1 then (if k.swapAt.isSome || k.swapWant || !unstageRoom s v then none else some (unstage s v, 2))
  else if k.shst = 3 || k.swapAt.isSome || k.swapWant then none
  else match freeArea s (dieOfCore v) with
    | none => some (s, 3)
    | some a => if bankLanded (bankSel k (shadow k)) && spillRoom s v then some (spillBank s v a, 0) else none
/-- SPILL's body: when it cannot act at once, its answer comes when it has. -/
def spillBody (w : SYS) (s : State) : Except Stop Out := do
  let a := rdS s w.a
  check (!a.poi) causePoison 0 0
  match spillAct s a.v.toNat with
  | none => .ok { s := s, writes := wrS w.d 0 false, op := some { kind := .spill a.v.toNat, dc := 3 }, bound := 6000 }
  | some r => .ok { s := r.1, writes := wrS w.d (BitVec.ofNat 64 r.2) false, bound := 6000 }
def execSpill (w : SYS) (s : State) : Host.Outcome State Fault Refusal := issue (.spill w) (spillBody w) s

/-! ## DACC (R170) -/

/-- A probability that R170 refuses: NaN, infinite, or negative and not zero. -/
def badProb (v : Val) : Bool := match v with | .num n m _ => n && m != 0 | _ => true
/-- Is a position accepted: p ≥ q, or r q < p 2^24, on exact reals; DIN when p or q is refused. -/
def daccPos (p q : Val) (r : Nat) : Bool × Flags :=
  if badProb p || badProb q then (false, flagDIN)
  else (!vLt p q || vLt (vMul (Val.ofInt r) q).1 (vMul p (Val.ofInt (2 ^ 24))).1, 0)
/-- The elements of a logical content, one by one. -/
def elementsOf (l : List Run) : List Nat := l.flatMap fun r => List.replicate r.2 r.1
/-- DACC's body. -/
def daccBody (w : VEC) (s : State) : Except Stop Out := do
  let gp := readGroup s (w.imm.extractLsb' 0 7) 1
  let gq := readGroup s (w.imm.extractLsb' 7 7) 1
  let sup := w.sub != 0
  let gr := if sup then [readGroup s w.c 1] else []
  staleCheck ([gp, gq] ++ gr)
  check (gp.etOk 14 && gq.etOk 14 && gr.all fun g => g.etOk 12 || g.etOk 13) 0x09 4 0
  check (gp.ll = gq.ll && gr.all fun g => g.ll = gp.ll) 0x09 0 0
  check (gp.ll ≤ 64) 0x09 1 0
  let ftz := ftzOn (curBank s)
  let seed := rdS s w.a
  let base := rdS s w.b
  let p := (elementsOf (gp.runs 14)).map (fmtS.decode ftz)
  let q := (elementsOf (gq.runs 14)).map (fmtS.decode ftz)
  let r := if sup then (gr.flatMap fun g => elementsOf (g.runs 12)).map (· % 2 ^ 24)
    else (List.range gp.ll).map fun i => nbits (hashr seed.v (base.v + BitVec.ofNat 64 i)).toNat 40 24
  let acc := (List.zip p (List.zip q r)).map fun e => daccPos e.1 e.2.1 e.2.2
  let poi := gp.poi || gq.poi || gr.any Grp.poi || (!sup && (seed.poi || base.poi))
  let n := (acc.map Prod.fst).takeWhile id
  let ws ← writeMask s (w.imm.extractLsb' 14 4).toNat (acc.map fun e => (e.1.toNat, 1)) poi
  .ok { s := s, writes := wrS w.d (BitVec.ofNat 64 n.length) poi ++ ws, flags := flagsOr (acc.map Prod.snd), bound := 32 }
def execDacc (w : VEC) (s : State) : Host.Outcome State Fault Refusal := issue (.dacc w) (daccBody w) s

end Sys2Proof.Machine
end

