-- ==== Sys2Proof/Machine/EvCore.lean ====
section
/-! DEFINITION. Events of the cores, the arrays, the caches and the homes: R188-R192, R197, R217, R222-R224, R236, R258, R307, R311, R312, R319, R433. -/
namespace Sys2Proof.Machine

/-! ## Results and accesses (R261, R307, R311, R312) -/

/-- The flight that an event names. -/
def flightOf (s : State) (r : ResultId) : Option Flight := (strandOf s r.core r.bank r.st).flight.find? fun f => f.id = r.id && !f.landed
/-- A result with a given value. -/
def Write.withValue (v : W64) : Write → Write
  | .reg n r => .reg n { r with v := v }
  | .queue q sl r => .queue q sl { r with v := v }
  | w => w
/-- The answer of a SWAPB or SPILL lands with its status (R463). -/
def landAnswer (s : State) (r : ResultId) (v : Nat) : State :=
  let was := freezeTime s r.core
  let s := updStrand s r.core r.bank r.st fun x => { x with
    flight := x.flight.map fun g => bif g.id == r.id then { g with writes := g.writes.map (Write.withValue (BitVec.ofNat 64 v)) } else g }
  thaw (updBank s r.core r.bank fun b => landFlight b r.st r.id (coreTime s r.core)) r.core was
/-- A SWAPB, a SPILL or a TLBINV that has issued goes on: a swap that could not be asked for is asked for, and its answer comes when every named core has swapped; a spill is made when
it can be, and so a TLBINV completes; none for any other operation. -/
def landBankOp (s : State) (r : ResultId) (o : MemOp) : Option State :=
  match o.kind with
  | .swap v [] => some (match forceSwaps s v with
      | some t => updStrand t r.core r.bank r.st fun x => { x with
          flight := x.flight.map fun g => bif g.id == r.id then { g with op := some { o with kind := .swap v (swapCores s v) } } else g }
      | none => s)
  | .swap _ l => some (if l.any fun c => (coreOf s c).swapAt.isSome || (coreOf s c).swapWant then s else landAnswer s r 0)
  | .spill v => some (match spillAct s v with | some t => landAnswer t.1 r t.2 | none => s)
  | .tlbinv => some (if tlbinvReady s then landAnswer (tlbinvDone s) r 0 else s)
  | _ => none
/-- Performs an outstanding access when no earlier one must be performed first (R268), or lands a result that needs none. A reply that comes after its watchdog's end is
discarded (R312). -/
def landResult (s : State) (r : ResultId) : State :=
  match flightOf s r with
  | none => s
  | some f =>
    if watchdogOut s r.core f then abandon s r f
    else match f.op.bind (landBankOp s r) with
    | some t => t
    | none =>
    if f.op.any (fun o => opHeld s r.core o) then s
    else if f.op.isNone then updBank s r.core r.bank fun b => landFlight b r.st r.id (coreTime s r.core)
    else if canPerform (strandOf s r.core r.bank r.st) r.id && !matrixBehind s r.core r.bank r.st r.id then performNext s r.core r.bank r.st r.id
    else s
def execResultLand (r : ResultId) (s : State) : Host.Outcome State Fault Refusal :=
  .next (if powered s && (flightOf s r).any (fun f => !f.dests.isEmpty) then landResult s r else s)
/-- A store, or a fence or an arrival behind its write-backs, is performed at its point. -/
def execStorePerformed (r : ResultId) (s : State) : Host.Outcome State Fault Refusal :=
  .next (if powered s && (flightOf s r).any (fun f => f.dests.isEmpty) then landResult s r else s)
/-- A forced refresh delays the accesses that wait for the bank: the access stays outstanding (R223). -/
def execForcedRefresh (_stack : Nat) (_r : ResultId) (s : State) : Host.Outcome State Fault Refusal := .next s

/-- A reply of the foreground task is late: the core stands frozen (R311), from the core time at which the reply's bound says so. -/
def execFreezeBegin (core : Nat) (s : State) : Host.Outcome State Fault Refusal :=
  let s := landCore s core
  .next (if powered s then updCore s core fun k => { k with frozen := freezeTime s core } else s)

def execWatchdogExpiry (r : ResultId) (s : State) : Host.Outcome State Fault Refusal :=
  .next (match flightOf s r with
    | none => s
    | some f => if powered s && watchdogOut s r.core f then abandon s r f else s)

/-- The condition of a parked wait holds now. -/
def parkHolds (s : State) (core : Nat) (p : Park) : Bool :=
  match p.key, p.cond with
  | .bar c n, .phaseNot v => (barOf (coreOf s c) n).phase != v
  | .word w, c => condHolds c (waitWord s core p.scope w)
  | _, _ => true
/-- The check of a strand that polls for want of a wait entry, 1,024 cycles after the last (R258): in the foreground the word executes again; elsewhere the strand is
woken when its condition holds. -/
def pollBank (s : State) (core : Nat) (front : Bool) (st : Strand) (b : Bank) : Bank :=
  let x := strandSel b st
  setStrand b st { x with park := x.park.map fun p =>
    bif p.table == .none_ && !p.woken && p.since + 1024 ≤ s.cycle && (front || parkHolds s core p) then { p with woken := true } else p }
/-- The strands of a core that poll, in its banks and in the save areas, make their checks again (R258). -/
def execWaitPoll (core : Nat) (st : Strand) (s : State) : Host.Outcome State Fault Refusal :=
  let fg := (coreOf s core).fg
  let t := updBank (updBank s core fg (pollBank s core true st)) core (1 - fg) (pollBank s core false st)
  .next (if powered s then
      { t with tasks := t.tasks.map fun e => (e.1, bif e.2.core == core then { e.2 with keep := e.2.keep.map (pollBank s core false st) } else e.2) }
    else s)

/-! ## Interrupts (R319, R411) -/

/-- A strand that has issued IDLE completes it, now that an interrupt waits. -/
def leaveIdle (s : State) (core : Nat) (st : Strand) : State :=
  let t := landCore { s with curCore := core, curSt := st } core
  match heldBack t with
  | some _ => s
  | none =>
    let x := curStrand t
    if x.stall.isNone || x.phase != .run then s else
    match fetchWord t with
    | .ok (some (.idle w), t) => withCsrs (.idle w) (issueState (.idle w) idleBody) t
    | _ => s
/-- The core can take an interrupt in this cycle: it has its clock, its strands stand at word boundaries (R176), and no trap is due there (R319). -/
def interruptOk (s : State) (core : Nat) : Bool :=
  enabledNow s (dieOfCore core) && !frozenNow s core && atBoundary s core && boundaryClear s core
/-- The core takes the interrupt: 0x01 the fault queue advanced, 0x02 a message. TVAL is a free value. -/
def takeInterrupt (s : State) (die core : Nat) : State :=
  let d := dieOf s die
  let s := leaveIdle (leaveIdle s core .a) core .e
  let n := if d.intFq then 1 else 2
  let s := updDie s die fun d => if n = 1 then { d with intFq := false } else { d with intMc := false }
  useFresh (enterHandler s core (BitVec.ofNat 64 (2 ^ 63 + n)) (fgBank (coreOf s core)).se.pc.toNat (freeAt s 997))
def execInterruptTake (die : Nat) (s : State) : Host.Outcome State Fault Refusal :=
  .next (if powered s && ((dieOf s die).intFq || (dieOf s die).intMc) then (match interruptCore s die with | some c => if interruptOk s c then takeInterrupt s die c else s | none => s) else s)
def execManagementControllerMessage (die : Nat) (s : State) : Host.Outcome State Fault Refusal :=
  .next (if die < 4 && poolOn s then updDie s die fun d => { d with intMc := true } else s)

/-! ## Fault records (R236, R315) -/

/-- The place of the next record. -/
def fqPlace (d : Die) : Nat := d.fqbase.toNat + 64 * (d.fqhead.toNat % 4096)
/-- The oldest waiting record is written, and FQHEAD passes it; or the waits that begin on a full queue are counted. -/
def postNext (s : State) (die : Nat) : State :=
  let d := dieOf s die
  match d.posts with
  | [] => s
  | p :: l =>
    if fqFull d then
      let n := min (2 ^ 32 - 1) (d.fullw.toNat + (d.posts.filter fun p => !p.counted).length)
      noteSet (updDie s die fun d => { d with posts := d.posts.map fun p => { p with counted := true }, fullw := BitVec.ofNat 32 n }) (0x10000 * die + 0x498)
        (newBits d.fullw.toNat n)
    else
      let pa := fqPlace d
      let ok := paMapped s pa && paMapped s (pa + 63)
      let s := if ok then writePieces s 512 3 false (rcbPiece pa 64) p.img.toNat else s
      let s := updDie s die fun d => { d with posts := l, fqhead := d.fqhead + 1, intFq := true, badb := d.badb || !ok }
      let s := if ok then s else noteSet s (0x10000 * die + 0x498) (2 ^ 32)
      match p.core with
      | some c => updCore s c fun k => { k with trec := (dieOf s die).fqhead }
      | none => s
def execFaultRecordPost (die : Nat) (s : State) : Host.Outcome State Fault Refusal := .next (if powered s then postNext s die else s)

/-! ## The matrix array (R188-R192, R197, R433) -/

/-- The array has its supply and does not wait to post a record (R236). -/
def arrayOn (s : State) (cl : Nat) : Bool := powered s && !postWaits s (cl / 32) (.array cl)
/-- The free lease goes to the first requesting core after the last holder. -/
def grantLease (s : State) (cl : Nat) : State :=
  let k := clusterOf s cl
  if arrayClock s cl < k.freeAt then s else
  match k.holder, nextWant k k.lastHolder with
  | none, some c => loadCut (updCluster s cl fun k => setHolder k (some c) s.cycle (dieClock s (cl / 32))) (4 * cl + c)
  | _, _ => s
def execMatrixLeaseGrant (cluster : Nat) (s : State) : Host.Outcome State Fault Refusal := .next (if powered s then grantLease s cluster else s)
/-- The spent budget's commands have completed: another requesting core takes the lease, or the holder a fresh budget. -/
def rearbitrate (s : State) (cl : Nat) : State :=
  let k := clusterOf s cl
  match k.holder with
  | none => s
  | some h =>
    if !budgetSpent s cl || k.running.isSome || k.behind.isSome then s else
    let c := (nextWant k h).getD h
    let s := updCluster s cl fun k => { setHolder k (some c) s.cycle (dieClock s (cl / 32)) with lastHolder := h }
    if c = h then s else loadCut s (4 * cl + c)
def execMatrixBudgetSpent (cluster : Nat) (s : State) : Host.Outcome State Fault Refusal := .next (if powered s then rearbitrate s cluster else s)
/-- The running command's time of R192 has passed, with the retakes of the mismatches that its K-blocks meet (R205). -/
def cmdDone (s : State) (cl : Nat) (m : MCmd) (miss : List Mismatch) : Bool :=
  ((List.range (cmdUnits s m - m.unit)).map fun u => unitSpan s m (some miss) (m.unit + u)).foldl (· + ·) (m.start + 8) ≤ arrayClock s cl
/-- The running command finishes; the one behind it begins, its start having overlapped (R192); the lease goes when MREL waits for this. -/
def finishCommand (s : State) (cl : Nat) (miss : List Mismatch) : State :=
  match (clusterOf s cl).running with
  | none => s
  | some m =>
    if !cmdDone s cl m miss then s else
    let s := runUnits s m (cmdUnits s m) (some miss)
    let s := updCluster s cl fun k => { k with running := k.behind.map fun n => { n with start := arrayClock s cl - 8 }, behind := none }
    let k := clusterOf s cl
    match k.holder with
    | none => s
    | some h =>
      if k.releasing && (k.running.toList.all fun m => m.core != 4 * cl + h) then releaseLease s cl else loadCut s (4 * cl + h)
def execMatrixCommandComplete (cluster : Nat) (miss : List Mismatch) (s : State) : Host.Outcome State Fault Refusal :=
  .next (if arrayOn s cluster then finishCommand s cluster miss else s)
def execSlotFillComplete (cluster slot : Nat) (s : State) : Host.Outcome State Fault Refusal :=
  .next (if arrayOn s cluster && ((weightSlot (clusterOf s cluster) slot).any fun w => !w.waiting) then fillSlot s cluster slot else s)
/-- What waits after a failed read translates again: the slot that is named, or, where that does not wait, the MLDWs and refills that wait on the cores of the cluster. -/
def execMldwRetranslate (cluster slot : Nat) (s : State) : Host.Outcome State Fault Refusal :=
  .next (if !arrayOn s cluster then s
    else if (weightSlot (clusterOf s cluster) slot).any fun w => w.waiting then fillSlot s cluster slot
    else (List.range 4).foldl (fun s c => translateCore s (4 * cluster + c)) s)

/-! ## Caches and homes (R217, R222, R224) -/

/-- A line leaves the cache of a cluster (0-127), of a pool agent (128 north, 129 south), or the read-only cache of a core (from 130 on): its dirty bytes are written back. -/
def evict (s : State) (c ln : Nat) : State :=
  if c < 128 then evictCluster s c ln
  else if 130 ≤ c then updCore s (c - 130) fun k => { k with ro := dropLine k.ro ln }
  else evictAgent s (if c = 128 then .north else .south) ln
def execCacheEvict (cluster line : Nat) (s : State) : Host.Outcome State Fault Refusal := .next (if powered s && cluster < 642 then evict s cluster line else s)
/-- Rows of 1 KiB that the 64 MiB memory-side cache of a base die holds (R22, R216). -/
def stackRows : Nat := 65536
/-- The rows captured once row `row` is: when its base die's cache is full, the least recently used row of that die leaves it. -/
def captureRow (l : List Nat) (row : Nat) : List Nat :=
  let l := l.filter (· != row)
  let mine := l.filter fun r => homeStack (1024 * r) = homeStack (1024 * row)
  row :: (if mine.length < stackRows then l else match mine.getLast? with | some r => l.filter (· != r) | none => l)
/-- A row of local HBM is copied into its base die's memory-side cache (R224). -/
def execRowCapture (row : Nat) (s : State) : Host.Outcome State Fault Refusal :=
  .next (if poolOn s && paLocal (1024 * row) then { s with captured := captureRow s.captured row } else s)
/-- ECCCNT after a scrub that may have corrected an error: whether it did is a free choice. -/
def countEcc (s : State) : State :=
  let e := s.mgmt.ecc
  let n := if nbit (freeAt s 601) 0 && e != BitVec.allOnes 64 then e + 1 else e
  useFresh (noteSet { s with mgmt := { s.mgmt with ecc := n } } 0x60020 (newBits e.toNat n.toNat))
/-- The base die scrubs an atom of local HBM: an error that ECC cannot correct poisons it, a corrected one is only counted (R222, R350). -/
def execHbmScrub (atom : Nat) (uncorrectable : Bool) (s : State) : Host.Outcome State Fault Refusal :=
  .next (if !poolOn s || !paLocal (32 * atom) then s else if uncorrectable then { s with mem := setPoison s.mem atom true } else countEcc s)

end Sys2Proof.Machine
end

