-- ==== Sys2Proof/Machine/EvPool.lean ====
section
/-! DEFINITION. Events of the pool agents, the heads and the host's CXL traffic: R284, R289-R294, R299, R300, R304, R361, R363. -/
namespace Sys2Proof.Machine

/-- The pool calls for the device: in PS1 it is to wake (R351). -/
def callDevice (s : State) : State := if s.mgmt.psCur = 1 then { s with mgmt := { s.mgmt with wake := true } } else s
/-- The pool agent of a head runs and does not wait to post a record (R236). -/
def agentOn (s : State) (head : Nat) : Bool := poolOn s && !agentWaits s (4 ≤ head)
/-- The head of an entry of the PRT. -/
def prtHeadOf (s : State) (i : Nat) : Nat := prtHead (prtEntry s i)

/-! ## PRTCMD (R283, R284, R294) -/

/-- Runs an action of PRTCMD once its checks are made. -/
def prtRun (s : State) (act i : Nat) : State := if act = 1 then prtCreate s i else if act = 2 then prtRetire s i else if act = 3 then prtRejoin s i else s
/-- The action that PRTCMD holds is carried out; with BUSY = 0 the event is also its write. -/
def prtAction (s : State) (act i : Nat) : State :=
  let p := s.pool
  if p.prtBusy then
    if p.prtAct.toNat = act && p.prtIdx.toNat = i && p.leases.all (fun l => !l.waiting) then prtRun s act i else s
  else prtRun { s with pool := prtcmdSet p i act } act i
def execPrtcmdCreate (idx : Nat) (s : State) : Host.Outcome State Fault Refusal := .next (if agentOn s (prtHeadOf s idx) && idx < 1024 then prtAction s 1 idx else s)
def execPrtcmdRetire (idx : Nat) (s : State) : Host.Outcome State Fault Refusal := .next (if agentOn s (prtHeadOf s idx) && idx < 1024 then prtAction s 2 idx else s)
def execPrtcmdRejoin (idx : Nat) (s : State) : Host.Outcome State Fault Refusal := .next (if agentOn s (prtHeadOf s idx) && idx < 1024 then prtAction s 3 idx else s)
def execLeaseGrantAck (idx : Nat) (s : State) : Host.Outcome State Fault Refusal := .next (if agentOn s (prtHeadOf s idx) then leaseGranted s idx else s)

/-! ## Leases (R291-R293) -/

/-- The entry's lease stands. -/
def leaseLive (s : State) (i : Nat) : Option Lease :=
  (leaseOf s i).bind fun l => if prtState (prtEntry s i) = 1 && !l.waiting then some l else none
/-- A renewal is due a quarter of LMS after the last sending. -/
def renewalDue (s : State) (i : Nat) : Bool :=
  (leaseLive s i).any fun l => (l.asked.getLastD l.sent) + lmsCycles l.lms / 4 ≤ s.cycle
def execLeaseRenewal (idx : Nat) (s : State) : Host.Outcome State Fault Refusal := .next (if agentOn s (prtHeadOf s idx) && renewalDue s idx then sendRenewal s idx else s)
/-- The oldest outstanding renewal is acknowledged: the lease counts from its sending. -/
def renewed (s : State) (i : Nat) : State :=
  updLease s i fun l => match l.asked with | t :: r => { l with sent := t, asked := r } | [] => l
def execLeaseRenewalAck (idx : Nat) (s : State) : Host.Outcome State Fault Refusal := .next (if agentOn s (prtHeadOf s idx) && (leaseLive s idx).isSome then renewed s idx else s)
def execLeaseExpiryDevice (idx : Nat) (s : State) : Host.Outcome State Fault Refusal :=
  .next (if agentOn s (prtHeadOf s idx) && (leaseLive s idx).any (fun l => l.sent + 7 * lmsCycles l.lms / 8 ≤ s.cycle) then leaseOut s idx else s)
def execLapseNotice (idx : Nat) (s : State) : Host.Outcome State Fault Refusal := .next (if agentOn s (prtHeadOf s idx) then callDevice (lapse s idx 1 0 (prtBase (prtEntry s idx))) else s)

/-- A line of a region: its entry. -/
def regionIdx (s : State) (pa : Nat) : Option Nat := (regionOf s pa).map Prod.fst
/-- A refused write-back: the line is poisoned and orphaned, also where the device has orphaned it meanwhile; a LEASE record is posted, and the entry takes STATE 3. -/
def refuseLine (s : State) (ln : Nat) : State :=
  match regionIdx s (128 * ln) with
  | none => s
  | some i =>
    let s := orphanLines s (fun pa => pa / 128 = ln) (fun _ => i) true
    let s := { s with pool := { s.pool with orphans := s.pool.orphans.map fun o => bif o.line == ln then { o with poison := 15 } else o } }
    dropLease (setPrtState (postPool s (headOfPa (128 * ln)) 0x12 0 (128 * ln) 0 i) i 3) i
/-- A refused fill, store or atomic. -/
def refuseAccess (s : State) (r : ResultId) : State :=
  match flightOf s r with
  | none => s
  | some f =>
    match f.op.bind fun o => o.pieces.head? with
    | none => s
    | some p =>
      if !paPool p.pa then s else
      match regionIdx s p.pa with
      | none => s
      | some i =>
        let s := loseFlight s r.core r.bank r.st f
        let s := if f.dests.isEmpty then orphanLines s (fun pa => pa / 128 = p.pa / 128) (fun _ => i) false else s
        lapse s i 2 ((bankOf s r.core r.bank).task.getD 0) (p.pa / 128 * 128)
/-- A refused chunk or FLUSH: its command ends REFUSED. -/
def refuseChunk (s : State) (core slot : Nat) : State :=
  match tfind (coreOf s core).slots slot with
  | none => s
  | some c =>
    let (segs, _, _) := chunkLeft s core c
    let pas := segs.flatMap fun g => (g.src.toList ++ g.dst.toList).filterMap fun va => copyPa s core c va
    let s := endCopy s core slot 5
    match (pas.filterMap fun pa => if paPool pa then (regionIdx s pa).map fun i => (i, pa) else none).head? with
    | some (i, pa) => lapse s i 2 c.task (pa / 128 * 128)
    | none => s
def execHeadRefusal (r : Refused) (s : State) : Host.Outcome State Fault Refusal :=
  .next (if !poolOn s then s else match r with
    | .writeBack ln => refuseLine s ln
    | .access x => refuseAccess s x
    | .chunk core slot => refuseChunk s core slot)

/-! ## Snoops (R289, R304) -/

/-- One line of a snoop: its dirty bytes are written back; it is dropped, with the agent's permission, unless the snoop only downgrades; waiters on it check again (R256). -/
def snoopLine (downgrade : Bool) (s : State) (ln : Nat) : State :=
  let s := cleanLines s (fun pa => pa / 128 = ln)
  let s := if downgrade then (if permitted s ln then setPerm s ln (some false) else s) else dropLines s (fun pa => pa / 128 = ln)
  wakeSnooped s (128 * ln) 128
/-- The lines of a snoop: one, or the 32 of a 4 KiB block. -/
def snoopLines (ln : Nat) (block : Bool) : List Nat := if block then (List.range 32).map (ln / 32 * 32 + ·) else [ln]
/-- A head snoops the lines of COH regions only (R286), over a link that is up. -/
def snooped (s : State) (ln : Nat) : Bool := paPool (128 * ln) && lineKind s ln = .coh && !lineLinkDown s ln
def execBiSnoop (line : Nat) (block downgrade : Bool) (s : State) : Host.Outcome State Fault Refusal :=
  .next (if poolOn s then callDevice (((snoopLines line block).filter (snooped s)).foldl (snoopLine downgrade) s) else s)
def execHostSnoop (line : Nat) (downgrade : Bool) (s : State) : Host.Outcome State Fault Refusal :=
  .next (if poolOn s && s.mgmt.hostLink && paHost (128 * line) then callDevice (snoopLine downgrade s line) else s)

/-! ## Dynamic capacity (R299) -/

/-- First address of a head's granule. -/
def granulePa (h g : Nat) : Nat := 0x8000000000000 + h * 0x100000000000 + g * 0x10000000
/-- The head is up. -/
def headUp (s : State) (h : Nat) : Bool := h < 8 && ((headOf s h).state = 1 || (headOf s h).state = 3)
def offerExtent (s : State) (h g n : Nat) : State :=
  postPool (updHead s h fun k => { k with offered := k.offered ++ [(g, n)] }) h 0x20 0 (granulePa h g) (n % 2 ^ 14) 0
def execDcExtentOffer (head gbase count : Nat) (s : State) : Host.Outcome State Fault Refusal :=
  .next (if agentOn s head && headUp s head && 0 < count && gbase + count ≤ 16384 then callDevice (offerExtent s head gbase count) else s)
def execDcReleaseRequest (head gbase count : Nat) (s : State) : Host.Outcome State Fault Refusal :=
  .next (if agentOn s head && headUp s head && gbase + count ≤ 16384 then callDevice (postPool s head 0x20 1 (granulePa head gbase) (count % 2 ^ 14) 0) else s)
/-- The value of DCACC for an answer. -/
def dcWord (act h g n : Nat) : Nat := g % 2 ^ 14 + ((n - 1) % 2 ^ 14) * 2 ^ 14 + (h % 8) * 2 ^ 28 + act * 2 ^ 32
/-- What the fields of DCACC can name of a head of 4 TiB (R27): its 16,384 granules. -/
def dcSane (h g n : Nat) : Bool := h < 8 && 0 < n && g + n ≤ 16384
/-- The answer that DCACC holds is carried out; with BUSY = 0 the event is also its write. -/
def dcAction (s : State) (act h g n : Nat) : State :=
  let p := s.pool
  if p.dcBusy then (if p.dcacc.toNat = dcWord act h g n then dcAnswer s act h g n else s)
  else dcAnswer { s with pool := dcaccSet p (dcWord act h g n) } act h g n
def execDcaccAccept (head gbase count : Nat) (s : State) : Host.Outcome State Fault Refusal := .next (if agentOn s head && dcSane head gbase count then dcAction s 1 head gbase count else s)
def execDcaccReject (head gbase count : Nat) (s : State) : Host.Outcome State Fault Refusal := .next (if agentOn s head && dcSane head gbase count then dcAction s 2 head gbase count else s)
def execDcaccRelease (head gbase count : Nat) (s : State) : Host.Outcome State Fault Refusal := .next (if agentOn s head && dcSane head gbase count then dcAction s 3 head gbase count else s)

/-! ## Failed heads and links (R281, R300, R361) -/

/-- PHSTAT.DECL is written: the head is declared failed. -/
def declareHead (s : State) (h : Nat) : State := failHead (updHead s h fun k => { k with decl := true }) h 3
def execHeadDeclare (head : Nat) (s : State) : Host.Outcome State Fault Refusal := .next (if agentOn s head && head < 8 then declareHead s head else s)
def execHeadFatalNotice (head : Nat) (s : State) : Host.Outcome State Fault Refusal :=
  .next (if agentOn s head && headUp s head && (headOf s head).downAt.isNone then callDevice (failHead s head 1) else s)
/-- A trained link goes down: that of a pool port, 0 to 7, or of the host port. -/
def dropLink (s : State) (h : Nat) : State :=
  if 8 ≤ h then { s with mgmt := { s.mgmt with hostLink := false } }
  else if headUp s h && (headOf s h).downAt.isNone then updHead s h fun k => { k with downAt := some s.cycle } else s
def execLinkDown (head : Nat) (s : State) : Host.Outcome State Fault Refusal := .next (if poolOn s then dropLink s head else s)
/-- 10 ms in cycles. -/
def retrainTime : Nat := 15000000
def execLinkRetrainTimeout (head : Nat) (s : State) : Host.Outcome State Fault Refusal :=
  .next (if agentOn s head && (headOf s head).downAt.any (fun t => t + retrainTime ≤ s.cycle) then failHead s head 0 else s)
/-- The link retrains, perhaps at 32 GT/s; what it held is replayed by the events of those accesses. -/
def execLinkRetrain (head : Nat) (half : Bool) (s : State) : Host.Outcome State Fault Refusal :=
  .next (if poolOn s && (headOf s head).downAt.any (fun t => s.cycle < t + retrainTime) then
      updHead s head fun k => { k with downAt := none, state := if half then 3 else 1 }
    else if poolOn s && 8 ≤ head && 4 ≤ s.mgmt.stage then { s with mgmt := { s.mgmt with hostLink := true } }
    else s)
def execRequestTimeout (head : Nat) (s : State) : Host.Outcome State Fault Refusal := .next (if agentOn s head && headUp s head && requestLate s head then failHead s head 2 else s)

/-- An atom of a received flit is poisoned: in the pool agent's copy of its line, or where the flit's data lie. -/
def poisonAtom (s : State) (a : Nat) : State :=
  let ln := a / 4
  if !paPool (32 * a) then { s with mem := setPoison s.mem a true }
  else
    let p := agentOf (32 * a)
    match findLine (agentCache s p) ln with
    | some x => setAgentCache s p (putLine (agentCache s p) { x with poison := x.poison ||| BitVec.ofNat 4 (2 ^ (a % 4)) })
    | none => { s with mem := setPoison s.mem a true }
/-- Ports 0-7 are pool ports, any other the host port. Beyond the retry limit the link is taken down. -/
def execIdeIntegrityFail (port : Nat) (atoms : List Nat) (beyondLimit : Bool) (s : State) : Host.Outcome State Fault Refusal :=
  .next (if !poolOn s then s else
    let s := atoms.foldl poisonAtom s
    if beyondLimit then dropLink s port else s)

/-! ## The host (R304, R363) -/

/-- A 2 MiB granule of local HBM is confidential. -/
def confidential (s : State) (pa : Nat) : Bool := paLocal pa && s.mgmt.confidential.contains (pa / 2 ^ 21)
/-- CXL.mem is enabled toward the host (R364 step 8), and the host's link is up. -/
def cxlMem (s : State) : Bool := s.mgmt.stage ≥ 8 && barOn s
/-- A host read of local HBM: the directory notes that the host holds the 64-byte line; of a confidential granule it returns poison and notes nothing. -/
def execHostMemRead (pa : Nat) (s : State) : Host.Outcome State Fault Refusal :=
  .next (if cxlMem s && paLocal pa && !confidential s pa then { s with hostLines := insertAsc s.hostLines (pa / 64) } else s)
/-- The bytes of a host write go into the host's own copy of a line that it holds (R304). -/
def hostModify (l : List HostCopy) (pa n v : Nat) : List HostCopy :=
  let ln := pa / 64
  let o := pa % 64
  let h := (l.find? fun h => h.line = ln).getD { line := ln, data := 0, mask := 0 }
  { h with data := BitVec.ofNat 512 (setBits h.data.toNat (8 * o) (8 * n) v), mask := h.mask ||| BitVec.ofNat 64 ((2 ^ n - 1) <<< o) } :: l.filter fun h => h.line != ln
/-- A host write of bytes of one 64-byte line, of local HBM or of the host's own memory. It is performed at the home, or, on a line of local HBM that the host holds, it may
stay in the host's copy until a device access recalls it: which is a free choice (R304; log entry 24). -/
def hostWrite (s : State) (pa : Nat) (data : List Byte) : State :=
  let n := data.length
  if paLocal pa && s.hostLines.contains (pa / 64) && nbit (freeAt s 660) 0 then useFresh { s with hostDirty := hostModify s.hostDirty pa n (bytesNat data) }
  else
    let s := if paLocal pa then useFresh (recallHost s pa n) else s
    let s := keepCode s pa n (memRead s.mem pa n)
    wakeBytes { s with mem := homeWrite s.mem pa n (bytesNat data) false } pa n
def execHostMemWrite (pa : Nat) (data : List Byte) (s : State) : Host.Outcome State Fault Refusal :=
  .next (
    if pa / 64 != (pa + data.length - 1) / 64 then s
    else if paHost pa then hostWrite s pa data
    else if cxlMem s && paLocal pa && !confidential s pa then hostWrite s pa data
    else s)

end Sys2Proof.Machine
end

