-- ==== Sys2Proof/Machine/EvPlatform.lean ====
section
/-! DEFINITION. Events of the platform: registers (R348-R350), energy and DVFS (R106, R111, R353-R355), power states (R351, R352), trust (R358-R363), reset and
bring-up (R364); and the actions that a step's register writes still have to make. -/
namespace Sys2Proof.Machine

/-! ## Power states (R351, R352) -/

/-- Some PRT entry has STATE not 0. -/
def prtLive (s : State) : Bool := (allEntries s).any fun e => prtState e.2 != 0
/-- What lies outside the device, and what it keeps without power: host and pool memory, the fused and stored values of the security processor, and the model's own
fields. -/
def outside (pa : Nat) : Bool := paHost pa || paPool pa
def outsideMem (m : Memory) : Memory :=
  { cells := m.cells.filter (fun c => outside c.1), poison := m.poison.filter (fun a => outside (32 * a)), undef := m.undef.filter (fun x => outside x.lo) }
def powerOff (s : State) : State :=
  { State.reset with
    agenda := s.agenda, fresh := s.fresh, mem := outsideMem s.mem, pool := { lineKeys := s.pool.lineKeys }
    mgmt := { psReq := 3, psCur := 3, rollback := s.mgmt.rollback, boots := s.mgmt.boots, identity := s.mgmt.identity, stored := s.mgmt.stored } }
def updMgmt (s : State) (f : Mgmt → Mgmt) : State := { s with mgmt := f s.mgmt }
/-- A request of PSCTL.REQ that is not ignored. -/
def psApply (s : State) (req : Nat) : State :=
  let cur := s.mgmt.psCur.toNat
  if cur = 3 then s
  else if req = 0 then (if cur = 1 then updMgmt s fun m => { m with psCur := 0 } else if cur = 2 then updMgmt s fun m => { m with psBusy := true } else s)
  else if req = 1 then (if cur = 0 then updMgmt s fun m => { m with psBusy := true } else s)
  else if req = 2 then (if cur ≤ 1 && !prtLive s then updMgmt s fun m => { m with psCur := 2 } else s)
  else powerOff s
/-- A write of PSCTL over the sideband: ignored while BUSY = 1 (R351). A BAR0 write of the same cycle has its effect after it, so that nothing of it stands (R357; log entry 197). -/
def psRequest (s : State) (req : Nat) : State :=
  if s.mgmt.psBusy || s.mgmt.psCur = 3 || s.mgmt.barAt = some s.cycle then s
  else
    let s := psApply (updMgmt s fun m => { m with psReq := BitVec.ofNat 2 req }) req
    if s.mgmt.psBusy then updMgmt s fun m => { m with sideAt := some s.cycle } else s
def execPsctlReqPs0 (s : State) : Host.Outcome State Fault Refusal := .next (psRequest s 0)
def execPsctlReqPs1 (s : State) : Host.Outcome State Fault Refusal := .next (psRequest s 1)
def execPsctlReqPs2 (s : State) : Host.Outcome State Fault Refusal := .next (psRequest s 2)
def execPsctlReqPs3 (s : State) : Host.Outcome State Fault Refusal := .next (psRequest s 3)

/-- E of a system core waits in IDLE, and its A and M are stopped or absent. -/
def idling (s : State) (core : Nat) : Bool :=
  let b := fgBank (coreOf s core)
  let quiet := fun (x : StrandSt) => x.phase = .absent || x.phase = .ended || x.phase = .stopped || (coreOf s core).amStopped
  let inIdle := match fetchWord { s with curCore := core, curSt := .e } with
    | .ok (some (.idle _), _) => true
    | _ => false
  quiet b.sa && quiet b.sm && b.se.phase = .run && b.se.stall.isSome && inIdle
/-- The conditions of R352 for PS1. -/
def ps1Ready (s : State) : Bool :=
  (s.cores.all fun c => if c.2.sys then idling s c.1 else c.2.b0.task.isNone && c.2.b1.task.isNone) &&
  (List.range 4).all fun d => (dieOf s d).active.isEmpty
def execPs1Enter (s : State) : Host.Outcome State Fault Refusal :=
  .next (if s.mgmt.psCur = 0 && s.mgmt.psBusy && s.mgmt.psReq = 1 && ps1Ready s then updMgmt s fun m => { m with psCur := 1, psBusy := false, wake := m.doorAt = some s.cycle } else s)
/-- The wake from PS1 that a call from the pool asks for, or a doorbell of the cycle of its entry (R352); any other doorbell and a write of REQ wake the device themselves (R351). -/
def execPs1Wake (s : State) : Host.Outcome State Fault Refusal :=
  .next (if s.mgmt.psCur = 1 && s.mgmt.wake then updMgmt s fun m => { m with psCur := 0, wake := false } else s)

/-! ## What a step's register writes still have to do (R349) -/

/-- The action of one noted write. -/
def todoAct (s : State) (e : Nat × Nat) : State :=
  let off := e.1
  let v := e.2
  let die := off / 0x10000
  let r := off % 0x10000
  if off ≥ failTodo then beginFail s v
  else if off < 0x40000 then
    if r = 0x400 then settleHold s die (nbits v 0 32) (nbits v 32 2)
    else if r = 0x4A8 then settleTrap s die (nbits v 0 32) (nbits v 34 2)
    else if r = 0x4A0 then settleCopy s (cpySel die v) (nbits v 20 2)
    else if r = 0x4C0 then (List.range 64).foldl (fun s i => changeSys s (128 * die + i) (nbit v i)) s
    else if r = 0x4C8 then (List.range 64).foldl (fun s i => changeSys s (128 * die + 64 + i) (nbit v i)) s
    else s
  else if off = 0x60010 then psApply s v
  else if 0x50040 ≤ off ∧ off < 0x50080 then failHead s ((off - 0x50040) / 8) 3
  else s
/-- Makes the actions that the step has noted, in their order. -/
def runTodo (s : State) : State := if s.todo.isEmpty then s else s.todo.foldl todoAct { s with todo := [] }
/-- A register write of the host (R348), or an event that is one. In PS2 the management controller still takes PSCTL (R351, R357). -/
def registerWrite (s : State) (off n v : Nat) : State :=
  if barOn s || (s.mgmt.psCur = 2 && s.mgmt.hostLink && off / 8 * 8 = 0x60010) then runTodo (mmioWrite s off n v) else s
/-- BAR0 takes naturally aligned accesses of 4 or 8 bytes. -/
def barOk (off size : Nat) : Bool := (size = 4 || size = 8) && off % size = 0 && off + size ≤ 0x100000
def execRegisterWrite (off size : Nat) (v : W64) (s : State) : Host.Outcome State Fault Refusal :=
  .next (if barOk off size then registerWrite s off size v.toNat else s)
def execBar0UnsupportedAccess (_off _size : Nat) (_write : Bool) (s : State) : Host.Outcome State Fault Refusal := .next s
def execEshareWrite (die : Nat) (hi : Bool) (v : W64) (s : State) : Host.Outcome State Fault Refusal :=
  .next (if die < 4 then registerWrite s (0x10000 * die + (if hi then 0x420 else 0x418)) 8 v.toNat else s)
def execSysmaskWrite (die : Nat) (hi : Bool) (v : W64) (s : State) : Host.Outcome State Fault Refusal :=
  .next (if die < 4 then registerWrite s (0x10000 * die + (if hi then 0x4C8 else 0x4C0)) 8 v.toNat else s)

/-! ## Energy, points and temperature (R106, R111, R353-R355) -/

/-- The junction of a die, °C. -/
def junction (s : State) (die : Nat) : Nat := tget s.mgmt.temps die 0
/-- The point takes effect; the die's count of enabled cycles goes on from where it stood, and the stretch that ends is kept (R312, R353). -/
def setPoint (s : State) (die : Nat) (p : BitVec 3) : State :=
  let c := dieClock s die
  updDie s die fun d => if d.curPoint = p then d else { d with curPoint := p, clkBase := c, clkAt := s.cycle, clkHist := (d.clkAt, d.clkBase, d.curPoint.toNat) :: d.clkHist }
/-- The point that a die runs at: at least 3 above 95 °C. -/
def pointFor (s : State) (die : Nat) : BitVec 3 :=
  let p := (dieOf s die).point
  if junction s die > 95 ∧ p.toNat < 3 then 3 else p
/-- THCAP.CAP: the lower of what temperature and power call for. -/
def setThcap (d : Die) : Die := { d with thcap := if d.thTemp.toNat ≤ d.thPower.toNat then d.thTemp else d.thPower }
/-- What a measured power of the four compute dies makes of the power share of THCAP. -/
def powerStep (now : Nat) (d : Die) (watts : Nat) : Die :=
  let d := keepCap now d
  setThcap (if watts > 1650 then (if d.thPower.toNat > 100 then { d with thPower := d.thPower - 1 } else d)
    else if watts < 1600 then (if d.thPower.toNat < 1023 then { d with thPower := d.thPower + 1 } else d) else d)
/-- Every sub-account takes its refill, computed from the caps that stood before the writes of this cycle (R354). -/
def refillDie (now : Nat) (d : Die) : Die :=
  let l := (List.range 16).map (refillClass (beforeCaps now d))
  { d with eacc := l.map Prod.fst, eLost := d.eLost + (l.map Prod.snd).foldl (· + ·) 0, refills := d.refills + 1 }
/-- The energy record of every 1,024 refills (R111). -/
def energyRecord (s : State) (die : Nat) : State :=
  let d := dieOf s die
  if d.refills % 1024 != 0 then s else
  let s := postDaily s die 0 1 [d.eDeduct % 2 ^ 64, wrapN 64 d.eCredit, d.eStalls % 2 ^ 64, wrapN 64 d.eLost]
  updDie s die fun d => { d with eDeduct := 0, eCredit := 0, eStalls := 0, eLost := 0 }
/-- A refill boundary of a die; `watts`: the measured power of the four compute dies together (log entry 7). -/
def refillBoundary (s : State) (die watts : Nat) : State :=
  let s := energyRecord (updDie s die (refillDie s.cycle)) die
  let s := setPoint s die (pointFor s die)
  updDie s die fun d => powerStep s.cycle d watts
def execEnergyRefill (die watts : Nat) (s : State) : Host.Outcome State Fault Refusal :=
  .next (if die < 4 && poolOn s && ((dieOf s die).refills + 1) * 15000 ≤ s.cycle then refillBoundary s die watts else s)
/-- The thermal cap after a junction has been found at a temperature. -/
def thermalCap (old : BitVec 10) (temp : Nat) : BitVec 10 :=
  if temp ≥ 105 then 0 else if temp ≥ 100 then (if old = 0 then 0 else 400) else if temp < 90 then 1023 else old
def junctionTo (s : State) (die temp : Nat) : State :=
  let s := updMgmt s fun m => { m with temps := tset m.temps die temp }
  if die < 4 then
    let s := updDie s die fun d => let d := keepCap s.cycle d; setThcap { d with thTemp := thermalCap d.thTemp temp }
    if temp > 95 then setPoint s die (let p := (dieOf s die).curPoint; if p.toNat < 3 then 3 else p) else s
  else s
def execJunctionTempThreshold (die temp : Nat) (s : State) : Host.Outcome State Fault Refusal :=
  .next (if die < 6 && s.mgmt.psCur.toNat ≤ 2 then junctionTo s die temp else s)

/-! ## Reset and bring-up (R364) -/

/-- The security processor runs. -/
def trusted (s : State) : Bool := s.mgmt.psCur.toNat ≤ 2
/-- What the check of a manifest finds: 0 good, 1 signature or hash, 2 rollback (R358, R350). -/
def manifestFault (s : State) (manifest : List Byte) (images : List (List Byte)) : Nat :=
  if !Config.manifestSigned manifest || images.map Config.sha256 != Config.manifestHashes manifest then 1
  else if Config.manifestVersion manifest < s.mgmt.rollback then 2
  else 0
/-- What the boot ROM finds of the manifest that the mailbox has taken; of the manifest that the device was made with the event of the reset says it (log entry 134). -/
def storedFault (s : State) : Nat := match s.mgmt.stored with | some (m, l) => manifestFault s m l | none => 0
/-- Step 1, passed: the images are measured, and the security processor may advance the rollback counter to the manifest's version, which is a free choice (R358). -/
def takeStored (s : State) : State :=
  match s.mgmt.stored with
  | some (m, l) => updMgmt (useFresh s) fun g => { g with
      measures := l.map Config.sha256
      rollback := if nbit (freeAt s 662) 0 then max g.rollback (Config.manifestVersion m) else g.rollback }
  | none => s
/-- Bytes laid into memory. -/
def layCells (m : Memory) (l : List (Nat × Byte)) : Memory := l.foldl (fun m c => memSetByte m c.1 c.2) m
/-- Core 0 of a die starts in S mode: E reads the slate at the runtime's entry; A and M are absent. -/
def bootCore (boots : Nat) : Core :=
  { sysCore with b0 := { root := Config.runtimeRoot boots, se := { phase := .slate, pc := (Config.runtimeEntry boots).setWidth 64 } } }
/-- Step 7: the image and its page tables go into local HBM. -/
def startRuntime (s : State) : State :=
  let b := s.mgmt.boots
  { s with
    mem := layCells s.mem ((Config.runtimeImage b).filter fun c => paLocal c.1)
    cores := [(0, bootCore b), (128, bootCore b), (256, bootCore b), (384, bootCore b)]
    mgmt := { s.mgmt with runtime := true } }
/-- Step 3: local HBM reads as zero. -/
def trainHbm (s : State) : State := { s with mem := outsideMem s.mem, hostLines := [], hostDirty := [], captured := [] }
/-- Step 5: the heads whose links train, at 64 GT/s or down to 32 GT/s: at which is a free choice (R280; log entry 157). -/
def trainPool (s : State) (heads : List Nat) : State :=
  useFresh { s with pool := { s.pool with heads := ((List.range 8).filter heads.contains).map fun h => (h, { state := if nbit (freeAt s 630) h then 3 else 1 }) } }
/-- Step 6: every compute die at one DVFS point. -/
def allPoints (s : State) (p : Nat → BitVec 3) : State := (List.range 4).foldl (fun s d => setPoint s d (p d)) s
/-- What a step does before it can fail: the self-test of step 6 runs at point 4 (R353). -/
def bootBegin (s : State) (k : Nat) : State := if k = 6 then allPoints s fun _ => 4 else s
/-- One step of the sequence. -/
def bootStep (heads : Option (List Nat)) (s : State) (k : Nat) : State :=
  let s :=
    if k = 1 then takeStored s
    else if k = 3 then trainHbm s
    else if k = 4 then updMgmt s fun m => { m with hostLink := true }
    else if k = 5 then (match heads with | some h => trainPool s h | none => s)
    else if k = 6 then allPoints s (pointFor s)
    else if k = 7 then startRuntime s else s
  updMgmt s fun m => { m with stage := k }
/-- The FAIL code of a failing step (R350): that of the step, where the table of FAIL has one; another is the event's, and is not 0. -/
def failCode (f : BootFail) : Nat :=
  if f.stage = 1 then (if f.code = 2 then 2 else 1) else if f.stage = 3 then 3 else if f.stage = 4 || f.stage = 5 then 4 else if f.stage = 6 then 5
  else if f.code % 256 = 0 then 1 else f.code % 256
/-- How a step fails: step 1 when the manifest that the mailbox has taken does not pass (R358), and any step that the event names (log entry 134); 0: not at all. -/
def bootFault (s : State) (fail : Option BootFail) (k : Nat) : Nat :=
  if k = 1 && storedFault s != 0 then storedFault s else match fail with
    | some f => if f.stage = k then failCode f else 0
    | none => 0
/-- The steps of a sequence up to the first that fails, which sets FAIL; of R358 CXL.io and BAR0 still come up. -/
def bootSteps (heads : Option (List Nat)) (fail : Option BootFail) : List Nat → State → State
  | [], s => s
  | k :: l, s =>
    if bootFault s fail k != 0 then updMgmt (bootBegin s k) fun m => { m with fail := bootFault s fail k, hostLink := m.hostLink || k = 1 }
    else bootSteps heads fail l (bootStep heads (bootBegin s k) k)
/-- Three measurements that the spec does not fix (log entry 8). -/
def bootMeasures (s : State) : List Nat := [freeAt s 610 % 2 ^ 256, freeAt s 611 % 2 ^ 256, freeAt s 612 % 2 ^ 256]
/-- The device as a cold reset leaves it, before step 1. -/
def coldState (s : State) : State :=
  useFresh { State.reset with
    agenda := s.agenda, fresh := s.fresh, mem := outsideMem s.mem, pool := { lineKeys := s.pool.lineKeys }
    mgmt := { rollback := s.mgmt.rollback, boots := s.mgmt.boots + 1, identity := true, measures := bootMeasures s, stored := s.mgmt.stored } }
def execColdReset (heads : List Nat) (fail : Option BootFail) (s : State) : Host.Outcome State Fault Refusal :=
  .next (bootSteps (some heads) fail [1, 2, 3, 4, 5, 6, 7, 8] (coldState s))
/-- The compute dies after a warm reset: at their reset values, but for the caps that the management controller, which has run on, has set by their temperatures (R351, R355). -/
def warmDies (s : State) : Tbl Die := (List.range 4).map fun d => (d, setThcap { dieOf State.reset d with thTemp := (dieOf s d).thTemp })
/-- The device as it leaves standby: the links of the pool ports and the host port stay trained, and the identity key is kept, the key groups are not. -/
def warmState (s : State) : State :=
  useFresh { State.reset with
    agenda := s.agenda, fresh := s.fresh, mem := s.mem, dies := warmDies s
    pool := { lineKeys := s.pool.lineKeys, heads := s.pool.heads.map fun h => (h.1, { h.2 with decl := false }) }
    mgmt := { rollback := s.mgmt.rollback, boots := s.mgmt.boots + 1, identity := s.mgmt.identity, measures := s.mgmt.measures, temps := s.mgmt.temps,
              hostLink := s.mgmt.hostLink, stored := s.mgmt.stored } }
/-- The warm reset that a PSCTL write of PS0 in PS2 asks for (R351, R364). -/
def execWarmReset (fail : Option BootFail) (s : State) : Host.Outcome State Fault Refusal :=
  .next (if s.mgmt.psCur = 2 && s.mgmt.psBusy && s.mgmt.psReq = 0 then bootSteps none fail [3, 6, 7, 8] (warmState s) else s)

/-! ## Trust (R358-R363) -/

/-- The mailbox takes a manifest that passes the check; the next boot checks it again and runs its images. One that fails is not taken: where bring-up has failed, FAIL says why; what a device
that is up does is not stated, and it goes on (R358; log entry 198). -/
def execMailboxManifest (manifest : List Byte) (images : List (List Byte)) (s : State) : Host.Outcome State Fault Refusal :=
  .next (if !trusted s then s else
    let f := manifestFault s manifest images
    if f = 0 then updMgmt s fun m => { m with measures := images.map Config.sha256, stored := some (manifest, images) }
    else if s.mgmt.fail = 0 then s else updMgmt s fun m => { m with fail := f })
/-- The mailbox serves sessions, reports and the confidential map unless bring-up has failed: then it takes a new manifest only (R358). -/
def mailboxOpen (s : State) : Bool := trusted s && s.mgmt.fail = 0
/-- The bytes of the configuration: SYSMASK, CTXN, CTXBASE and the PRT (R359). -/
def configBytes (s : State) : List Byte :=
  let word := fun (n v : Nat) => (List.range n).map fun i => BitVec.ofNat 8 (v / 256 ^ i)
  ((List.range 4).flatMap fun d => let k := dieOf s d; word 8 k.sysmask0.toNat ++ word 8 k.sysmask1.toNat ++ word 8 k.ctxn.toNat ++ word 8 k.ctxbase.toNat) ++
    (allEntries s).flatMap fun e => word 32 e.2
/-- What a report says, in its order (R359). -/
def reportBody (s : State) (nonce : Nat) : List Nat :=
  [nonce, 0x53474D5900010768] ++ s.mgmt.measures ++ [Config.romMeasure, Config.sha256 (configBytes s), Config.kemKey s.mgmt.boots]
def execAttestationReport (nonce : BitVec 256) (s : State) : Host.Outcome State Fault Refusal :=
  .next (if mailboxOpen s then updMgmt s fun m => { m with mailbox := reportBody s nonce.toNat ++ [Config.sign (reportBody s nonce.toNat)] } else s)
/-- A session: the secret is bound to a key group, and the answer is the group (R360). -/
def execMailboxSession (secret group : Nat) (s : State) : Host.Outcome State Fault Refusal :=
  .next (if mailboxOpen s && 1 ≤ group && group ≤ 255 then
    updMgmt s fun m => { m with groups := (group, secret) :: m.groups.filter (fun e => e.1 != group), mailbox := [group] } else s)
/-- A cached line of the granule has dirty bytes that are not zero, or are poisoned. -/
def granuleDirty (s : State) (g : Nat) : Bool :=
  (s.clusters.flatMap fun k => k.2.cache).any fun x => x.line * 128 / 2 ^ 21 = g && x.dirty != 0 &&
    (x.poison != 0 || (List.range 128).any fun i => x.dirty.getLsbD i && nbits x.data.toNat (8 * i) 8 != 0)
/-- Every byte of a granule of 2 MiB is zero, at its home and in the caches and host copies that are still to be written back. -/
def granuleZero (s : State) (g : Nat) : Bool :=
  let lo := g * 2 ^ 21
  let hi := lo + 2 ^ 21
  !granuleDirty s g && s.hostDirty.all (fun h => h.line * 64 / 2 ^ 21 != g) &&
  s.mem.cells.all (fun c => c.1 < lo || hi ≤ c.1) && s.mem.poison.all (fun a => 32 * a < lo || hi ≤ 32 * a) && s.mem.undef.all (fun x => x.hi ≤ lo || hi ≤ x.lo)
/-- A bit of the confidential map is set, or, once the granule has been zeroed, cleared (R363). -/
def execMailboxConfidentialSet (granule : Nat) (set : Bool) (s : State) : Host.Outcome State Fault Refusal :=
  .next (if !mailboxOpen s || !paLocal (granule * 2 ^ 21) then s
    else if set then hideGranule s granule
    else if granuleZero s granule then updMgmt s fun m => { m with confidential := m.confidential.filter (· != granule) }
    else s)

end Sys2Proof.Machine
end

