-- ==== Sys2Proof/Machine/Dispatch.lean ====
section
/-! DEFINITION. The meaning of every instruction: one arm for each constructor of `Instr`. -/
namespace Sys2Proof.Machine

/-- One instruction executed at a state. -/
def exec (i : Instr) (s : State) : Host.Outcome State Fault Refusal :=
  match i with
  | .illegal body => Sys2Proof.Machine.execIllegal body s
  | .add w => Sys2Proof.Machine.execAdd w s
  | .sub w => Sys2Proof.Machine.execSub w s
  | .mul w => Sys2Proof.Machine.execMul w s
  | .mulh w => Sys2Proof.Machine.execMulh w s
  | .div w => Sys2Proof.Machine.execDiv w s
  | .rem w => Sys2Proof.Machine.execRem w s
  | .and w => Sys2Proof.Machine.execAnd w s
  | .or w => Sys2Proof.Machine.execOr w s
  | .xor w => Sys2Proof.Machine.execXor w s
  | .andn w => Sys2Proof.Machine.execAndn w s
  | .shl w => Sys2Proof.Machine.execShl w s
  | .shr w => Sys2Proof.Machine.execShr w s
  | .sra w => Sys2Proof.Machine.execSra w s
  | .rotr w => Sys2Proof.Machine.execRotr w s
  | .min w => Sys2Proof.Machine.execMin w s
  | .max w => Sys2Proof.Machine.execMax w s
  | .cmp w => Sys2Proof.Machine.execCmp w s
  | .sel w => Sys2Proof.Machine.execSel w s
  | .clz w => Sys2Proof.Machine.execClz w s
  | .ctz w => Sys2Proof.Machine.execCtz w s
  | .popc w => Sys2Proof.Machine.execPopc w s
  | .bfx w => Sys2Proof.Machine.execBfx w s
  | .bfi w => Sys2Proof.Machine.execBfi w s
  | .addi w => Sys2Proof.Machine.execAddi w s
  | .li w => Sys2Proof.Machine.execLi w s
  | .lih w => Sys2Proof.Machine.execLih w s
  | .fadd w => Sys2Proof.Machine.execFadd w s
  | .fsub w => Sys2Proof.Machine.execFsub w s
  | .fmul w => Sys2Proof.Machine.execFmul w s
  | .ffma w => Sys2Proof.Machine.execFfma w s
  | .fdiv w => Sys2Proof.Machine.execFdiv w s
  | .fsqrt w => Sys2Proof.Machine.execFsqrt w s
  | .fmin w => Sys2Proof.Machine.execFmin w s
  | .fmax w => Sys2Proof.Machine.execFmax w s
  | .fcmp w => Sys2Proof.Machine.execFcmp w s
  | .fcvt w => Sys2Proof.Machine.execFcvt w s
  | .fclass w => Sys2Proof.Machine.execFclass w s
  | .br w => Sys2Proof.Machine.execBr w s
  | .jmp w => Sys2Proof.Machine.execJmp w s
  | .jmpr w => Sys2Proof.Machine.execJmpr w s
  | .call w => Sys2Proof.Machine.execCall w s
  | .ret w => Sys2Proof.Machine.execRet w s
  | .loop w => Sys2Proof.Machine.execLoop w s
  | .brq w => Sys2Proof.Machine.execBrq w s
  | .syncv w => Sys2Proof.Machine.execSyncv w s
  | .nop w => Sys2Proof.Machine.execNop w s
  | .ld w => Sys2Proof.Machine.execLd w s
  | .st w => Sys2Proof.Machine.execSt w s
  | .ldro w => Sys2Proof.Machine.execLdro w s
  | .roinv w => Sys2Proof.Machine.execRoinv w s
  | .amo w => Sys2Proof.Machine.execAmo w s
  | .cas w => Sys2Proof.Machine.execCas w s
  | .fence w => Sys2Proof.Machine.execFence w s
  | .qmark w => Sys2Proof.Machine.execQmark w s
  | .qfence w => Sys2Proof.Machine.execQfence w s
  | .pref w => Sys2Proof.Machine.execPref w s
  | .fget w => Sys2Proof.Machine.execFget w s
  | .fset w => Sys2Proof.Machine.execFset w s
  | .fclr w => Sys2Proof.Machine.execFclr w s
  | .waita w => Sys2Proof.Machine.execWaita w s
  | .binit w => Sys2Proof.Machine.execBinit w s
  | .barr w => Sys2Proof.Machine.execBarr w s
  | .bwait w => Sys2Proof.Machine.execBwait w s
  | .btest w => Sys2Proof.Machine.execBtest w s
  | .bexp w => Sys2Proof.Machine.execBexp w s
  | .qpush w => Sys2Proof.Machine.execQpush w s
  | .qbind w => Sys2Proof.Machine.execQbind w s
  | .qunb w => Sys2Proof.Machine.execQunb w s
  | .qstat w => Sys2Proof.Machine.execQstat w s
  | .vadd w => Sys2Proof.Machine.execVadd w s
  | .vsub w => Sys2Proof.Machine.execVsub w s
  | .vmul w => Sys2Proof.Machine.execVmul w s
  | .vfma w => Sys2Proof.Machine.execVfma w s
  | .vmin w => Sys2Proof.Machine.execVmin w s
  | .vmax w => Sys2Proof.Machine.execVmax w s
  | .vabs w => Sys2Proof.Machine.execVabs w s
  | .vneg w => Sys2Proof.Machine.execVneg w s
  | .vand w => Sys2Proof.Machine.execVand w s
  | .vor w => Sys2Proof.Machine.execVor w s
  | .vxor w => Sys2Proof.Machine.execVxor w s
  | .vshl w => Sys2Proof.Machine.execVshl w s
  | .vshr w => Sys2Proof.Machine.execVshr w s
  | .vcmp w => Sys2Proof.Machine.execVcmp w s
  | .vsel w => Sys2Proof.Machine.execVsel w s
  | .vclamp w => Sys2Proof.Machine.execVclamp w s
  | .vcvt w => Sys2Proof.Machine.execVcvt w s
  | .vsfu w => Sys2Proof.Machine.execVsfu w s
  | .vsplat w => Sys2Proof.Machine.execVsplat w s
  | .viota w => Sys2Proof.Machine.execViota w s
  | .vrco w => Sys2Proof.Machine.execVrco w s
  | .vslice w => Sys2Proof.Machine.execVslice w s
  | .vcat w => Sys2Proof.Machine.execVcat w s
  | .vrev w => Sys2Proof.Machine.execVrev w s
  | .vlen w => Sys2Proof.Machine.execVlen w s
  | .vsetl w => Sys2Proof.Machine.execVsetl w s
  | .vins w => Sys2Proof.Machine.execVins w s
  | .vext w => Sys2Proof.Machine.execVext w s
  | .vld w => Sys2Proof.Machine.execVld w s
  | .vst w => Sys2Proof.Machine.execVst w s
  | .vldp w => Sys2Proof.Machine.execVldp w s
  | .vstp w => Sys2Proof.Machine.execVstp w s
  | .vldrg w => Sys2Proof.Machine.execVldrg w s
  | .vgath w => Sys2Proof.Machine.execVgath w s
  | .vscat w => Sys2Proof.Machine.execVscat w s
  | .vlda w => Sys2Proof.Machine.execVlda w s
  | .vsta w => Sys2Proof.Machine.execVsta w s
  | .vpark w => Sys2Proof.Machine.execVpark w s
  | .vunpk w => Sys2Proof.Machine.execVunpk w s
  | .vrsum w => Sys2Proof.Machine.execVrsum w s
  | .vrmax w => Sys2Proof.Machine.execVrmax w s
  | .vrmin w => Sys2Proof.Machine.execVrmin w s
  | .vrdot w => Sys2Proof.Machine.execVrdot w s
  | .vsegsum w => Sys2Proof.Machine.execVsegsum w s
  | .vsegmax w => Sys2Proof.Machine.execVsegmax w s
  | .vscan w => Sys2Proof.Machine.execVscan w s
  | .kand w => Sys2Proof.Machine.execKand w s
  | .kor w => Sys2Proof.Machine.execKor w s
  | .kxor w => Sys2Proof.Machine.execKxor w s
  | .knot w => Sys2Proof.Machine.execKnot w s
  | .kmov w => Sys2Proof.Machine.execKmov w s
  | .kcnt w => Sys2Proof.Machine.execKcnt w s
  | .kfirst w => Sys2Proof.Machine.execKfirst w s
  | .macq w => Sys2Proof.Machine.execMacq w s
  | .mrel w => Sys2Proof.Machine.execMrel w s
  | .mcfg w => Sys2Proof.Machine.execMcfg w s
  | .mset w => Sys2Proof.Machine.execMset w s
  | .mma w => Sys2Proof.Machine.execMma w s
  | .mmas w => Sys2Proof.Machine.execMmas w s
  | .mola w => Sys2Proof.Machine.execMola w s
  | .mldw w => Sys2Proof.Machine.execMldw w s
  | .mrowsum w => Sys2Proof.Machine.execMrowsum w s
  | .mdrain w => Sys2Proof.Machine.execMdrain w s
  | .mldacc w => Sys2Proof.Machine.execMldacc w s
  | .midx w => Sys2Proof.Machine.execMidx w s
  | .cpy w => Sys2Proof.Machine.execCpy w s
  | .cpys w => Sys2Proof.Machine.execCpys w s
  | .cpyg w => Sys2Proof.Machine.execCpyg w s
  | .cpysc w => Sys2Proof.Machine.execCpysc w s
  | .cpyr w => Sys2Proof.Machine.execCpyr w s
  | .cpyf w => Sys2Proof.Machine.execCpyf w s
  | .cpyn w => Sys2Proof.Machine.execCpyn w s
  | .reelapp w => Sys2Proof.Machine.execReelapp w s
  | .reellnk w => Sys2Proof.Machine.execReellnk w s
  | .reelkick w => Sys2Proof.Machine.execReelkick w s
  | .reelstat w => Sys2Proof.Machine.execReelstat w s
  | .tspawn w => Sys2Proof.Machine.execTspawn w s
  | .lnch w => Sys2Proof.Machine.execLnch w s
  | .tret w => Sys2Proof.Machine.execTret w s
  | .tyield w => Sys2Proof.Machine.execTyield w s
  | .ttagr w => Sys2Proof.Machine.execTtagr w s
  | .ttagw w => Sys2Proof.Machine.execTtagw w s
  | .tdesc w => Sys2Proof.Machine.execTdesc w s
  | .tqry w => Sys2Proof.Machine.execTqry w s
  | .widf w => Sys2Proof.Machine.execWidf w s
  | .mtins w => Sys2Proof.Machine.execMtins w s
  | .mtdel w => Sys2Proof.Machine.execMtdel w s
  | .pflush w => Sys2Proof.Machine.execPflush w s
  | .pinv w => Sys2Proof.Machine.execPinv w s
  | .lrenew w => Sys2Proof.Machine.execLrenew w s
  | .nqpost w => Sys2Proof.Machine.execNqpost w s
  | .nqtake w => Sys2Proof.Machine.execNqtake w s
  | .orphx w => Sys2Proof.Machine.execOrphx w s
  | .dacc w => Sys2Proof.Machine.execDacc w s
  | .hashr w => Sys2Proof.Machine.execHashr w s
  | .csrr w => Sys2Proof.Machine.execCsrr w s
  | .csrw w => Sys2Proof.Machine.execCsrw w s
  | .csrs w => Sys2Proof.Machine.execCsrs w s
  | .csrc w => Sys2Proof.Machine.execCsrc w s
  | .trap w => Sys2Proof.Machine.execTrap w s
  | .eret w => Sys2Proof.Machine.execEret w s
  | .tlbinv w => Sys2Proof.Machine.execTlbinv w s
  | .idle w => Sys2Proof.Machine.execIdle w s
  | .halt w => Sys2Proof.Machine.execHalt w s
  | .bkpt w => Sys2Proof.Machine.execBkpt w s
  | .swapb w => Sys2Proof.Machine.execSwapb w s
  | .spill w => Sys2Proof.Machine.execSpill w s
  | .rep w => Sys2Proof.Machine.execRep w s
  | .doorbell q v => Sys2Proof.Machine.execDoorbell q v s
  | .lqctlWrite q v => Sys2Proof.Machine.execLqctlWrite q v s
  | .launchRecordRead die => Sys2Proof.Machine.execLaunchRecordRead die s
  | .deviceLaunchAccept die => Sys2Proof.Machine.execDeviceLaunchAccept die s
  | .launchActivate die => Sys2Proof.Machine.execLaunchActivate die s
  | .taskExpand die => Sys2Proof.Machine.execTaskExpand die s
  | .dispatch task => Sys2Proof.Machine.execDispatch task s
  | .dispatchReadRetry task => Sys2Proof.Machine.execDispatchReadRetry task s
  | .tagPoll die => Sys2Proof.Machine.execTagPoll die s
  | .holdctlRedispatch die task => Sys2Proof.Machine.execHoldctlRedispatch die task s
  | .holdctlFail die task => Sys2Proof.Machine.execHoldctlFail die task s
  | .taskSelect core => Sys2Proof.Machine.execTaskSelect core s
  | .agePromote cluster task => Sys2Proof.Machine.execAgePromote cluster task s
  | .reserveTask cluster => Sys2Proof.Machine.execReserveTask cluster s
  | .gangPlace die => Sys2Proof.Machine.execGangPlace die s
  | .steal cluster => Sys2Proof.Machine.execSteal cluster s
  | .taskStage core => Sys2Proof.Machine.execTaskStage core s
  | .stagingComplete core => Sys2Proof.Machine.execStagingComplete core s
  | .preempt core => Sys2Proof.Machine.execPreempt core s
  | .parkSwap core => Sys2Proof.Machine.execParkSwap core s
  | .bankSwapBegin core => Sys2Proof.Machine.execBankSwapBegin core s
  | .bankSwapComplete core => Sys2Proof.Machine.execBankSwapComplete core s
  | .contextSpill core => Sys2Proof.Machine.execContextSpill core s
  | .contextRestore core area => Sys2Proof.Machine.execContextRestore core area s
  | .energyRefill die watts => Sys2Proof.Machine.execEnergyRefill die watts s
  | .junctionTempThreshold die temp => Sys2Proof.Machine.execJunctionTempThreshold die temp s
  | .eshareWrite die hi v => Sys2Proof.Machine.execEshareWrite die hi v s
  | .sysmaskWrite die hi v => Sys2Proof.Machine.execSysmaskWrite die hi v s
  | .sysmaskApply core => Sys2Proof.Machine.execSysmaskApply core s
  | .registerWrite off size v => Sys2Proof.Machine.execRegisterWrite off size v s
  | .bar0UnsupportedAccess off size write => Sys2Proof.Machine.execBar0UnsupportedAccess off size write s
  | .sectionBegin core st => Sys2Proof.Machine.execSectionBegin core st s
  | .sectionRetire core st => Sys2Proof.Machine.execSectionRetire core st s
  | .taskRetire task => Sys2Proof.Machine.execTaskRetire task s
  | .failedTaskRetire task => Sys2Proof.Machine.execFailedTaskRetire task s
  | .launchComplete launch => Sys2Proof.Machine.execLaunchComplete launch s
  | .interruptTake die => Sys2Proof.Machine.execInterruptTake die s
  | .trapctlResume die task => Sys2Proof.Machine.execTrapctlResume die task s
  | .trapctlResumeAfter die task => Sys2Proof.Machine.execTrapctlResumeAfter die task s
  | .trapctlFail die task => Sys2Proof.Machine.execTrapctlFail die task s
  | .resultLand r => Sys2Proof.Machine.execResultLand r s
  | .freezeBegin core => Sys2Proof.Machine.execFreezeBegin core s
  | .watchdogExpiry r => Sys2Proof.Machine.execWatchdogExpiry r s
  | .matrixLeaseGrant cluster => Sys2Proof.Machine.execMatrixLeaseGrant cluster s
  | .matrixBudgetSpent cluster => Sys2Proof.Machine.execMatrixBudgetSpent cluster s
  | .matrixCommandComplete cluster miss => Sys2Proof.Machine.execMatrixCommandComplete cluster miss s
  | .slotFillComplete cluster slot => Sys2Proof.Machine.execSlotFillComplete cluster slot s
  | .copyCommandBegin core slot => Sys2Proof.Machine.execCopyCommandBegin core slot s
  | .chunkPerform core slot => Sys2Proof.Machine.execChunkPerform core slot s
  | .cpyresResume sel => Sys2Proof.Machine.execCpyresResume sel s
  | .cpyresAbort sel => Sys2Proof.Machine.execCpyresAbort sel s
  | .reelFetch core rcb => Sys2Proof.Machine.execReelFetch core rcb s
  | .streamBlockPush core bank q => Sys2Proof.Machine.execStreamBlockPush core bank q s
  | .barrierWindowWrite pa v poison => Sys2Proof.Machine.execBarrierWindowWrite pa v poison s
  | .windowRegisterWrite pa data poison => Sys2Proof.Machine.execWindowRegisterWrite pa data poison s
  | .waitPoll core st => Sys2Proof.Machine.execWaitPoll core st s
  | .faultRecordPost die => Sys2Proof.Machine.execFaultRecordPost die s
  | .cacheEvict cluster line => Sys2Proof.Machine.execCacheEvict cluster line s
  | .prtcmdCreate idx => Sys2Proof.Machine.execPrtcmdCreate idx s
  | .leaseGrantAck idx => Sys2Proof.Machine.execLeaseGrantAck idx s
  | .coldReset heads fail => Sys2Proof.Machine.execColdReset heads fail s
  | .warmReset fail => Sys2Proof.Machine.execWarmReset fail s
  | .storePerformed r => Sys2Proof.Machine.execStorePerformed r s
  | .mldwRetranslate cluster slot => Sys2Proof.Machine.execMldwRetranslate cluster slot s
  | .rowCapture row => Sys2Proof.Machine.execRowCapture row s
  | .hbmScrub atom uncorrectable => Sys2Proof.Machine.execHbmScrub atom uncorrectable s
  | .prtcmdRetire idx => Sys2Proof.Machine.execPrtcmdRetire idx s
  | .prtcmdRejoin idx => Sys2Proof.Machine.execPrtcmdRejoin idx s
  | .leaseRenewal idx => Sys2Proof.Machine.execLeaseRenewal idx s
  | .leaseRenewalAck idx => Sys2Proof.Machine.execLeaseRenewalAck idx s
  | .leaseExpiryDevice idx => Sys2Proof.Machine.execLeaseExpiryDevice idx s
  | .lapseNotice idx => Sys2Proof.Machine.execLapseNotice idx s
  | .headRefusal r => Sys2Proof.Machine.execHeadRefusal r s
  | .biSnoop line block downgrade => Sys2Proof.Machine.execBiSnoop line block downgrade s
  | .hostSnoop line downgrade => Sys2Proof.Machine.execHostSnoop line downgrade s
  | .dcExtentOffer head gbase count => Sys2Proof.Machine.execDcExtentOffer head gbase count s
  | .dcReleaseRequest head gbase count => Sys2Proof.Machine.execDcReleaseRequest head gbase count s
  | .dcaccAccept head gbase count => Sys2Proof.Machine.execDcaccAccept head gbase count s
  | .dcaccReject head gbase count => Sys2Proof.Machine.execDcaccReject head gbase count s
  | .dcaccRelease head gbase count => Sys2Proof.Machine.execDcaccRelease head gbase count s
  | .headDeclare head => Sys2Proof.Machine.execHeadDeclare head s
  | .headFatalNotice head => Sys2Proof.Machine.execHeadFatalNotice head s
  | .linkDown head => Sys2Proof.Machine.execLinkDown head s
  | .linkRetrainTimeout head => Sys2Proof.Machine.execLinkRetrainTimeout head s
  | .requestTimeout head => Sys2Proof.Machine.execRequestTimeout head s
  | .ideIntegrityFail port atoms beyondLimit => Sys2Proof.Machine.execIdeIntegrityFail port atoms beyondLimit s
  | .hostMemRead pa => Sys2Proof.Machine.execHostMemRead pa s
  | .hostMemWrite pa data => Sys2Proof.Machine.execHostMemWrite pa data s
  | .psctlReqPs0 => Sys2Proof.Machine.execPsctlReqPs0  s
  | .psctlReqPs1 => Sys2Proof.Machine.execPsctlReqPs1  s
  | .psctlReqPs2 => Sys2Proof.Machine.execPsctlReqPs2  s
  | .psctlReqPs3 => Sys2Proof.Machine.execPsctlReqPs3  s
  | .ps1Enter => Sys2Proof.Machine.execPs1Enter  s
  | .ps1Wake => Sys2Proof.Machine.execPs1Wake  s
  | .mailboxManifest manifest images => Sys2Proof.Machine.execMailboxManifest manifest images s
  | .attestationReport nonce => Sys2Proof.Machine.execAttestationReport nonce s
  | .mailboxSession secret group => Sys2Proof.Machine.execMailboxSession secret group s
  | .mailboxConfidentialSet granule set => Sys2Proof.Machine.execMailboxConfidentialSet granule set s
  | .linkRetrain head half => Sys2Proof.Machine.execLinkRetrain head half s
  | .managementControllerMessage die => Sys2Proof.Machine.execManagementControllerMessage die s
  | .forcedRefresh stack r => Sys2Proof.Machine.execForcedRefresh stack r s

end Sys2Proof.Machine
end

