-- ==== Sys2Proof/Machine/Place.lean ====
section
/-! DEFINITION. A word placed where the next step fetches and issues it (log entry 5): on core 0 of cluster 0 of D0 in supervisor mode, through a page table of its
own. -/
namespace Sys2Proof.Machine

/-- The strand that the word is placed on: E if it may execute there, else A, else M; E for a word that decodes to nothing (R45). -/
def strandFor (w : Word96) : Strand :=
  match decodeWord w with
  | some i => if strandOk .e i then .e else if strandOk .a i then .a else if strandOk .m i then .m else .e
  | none => .e
/-- Root, two tables below it, and the slate: addresses in local HBM. -/
def placeRoot : Nat := 0x1000
def placeBase : Nat := 0x10000
/-- A slate of one word for a strand (R46). -/
def placeSlate (st : Strand) : W64 := BitVec.ofNat 64 (10 * 2 ^ 60 + strandNum st * 2 ^ 58 + 2 ^ 50)
/-- Writes bytes of memory and leaves no poison under them. -/
def layBytes (m : Memory) (a n v : Nat) : Memory := (atomsOf a n).foldl (fun m k => setPoison m k false) (memWrite m a n v)
/-- The page table, which maps the first GiB onto itself for every access, the slate and the word. -/
def placeMem (m : Memory) (st : Strand) (w : Nat) : Memory :=
  layBytes (layBytes (layBytes (layBytes (layBytes m 0x1000 8 0x2001) 0x2000 8 0x3001) 0x3000 8 0x7F) placeBase 8 (placeSlate st).toNat) (placeBase + 8) 12 w
/-- The strand stands at the word. -/
def placeStrand (st : Strand) (t : Nat) : StrandSt :=
  { phase := .run, pc := BitVec.ofNat 64 (placeBase + 8), base := placeBase, slate := placeSlate st, ent := 1, execs := [{ n := 1 }], ready := t }
/-- The bank with that strand alone. -/
def placeBank (b : Bank) (st : Strand) : Bank :=
  setStrand { b with task := none, root := placeRoot, key := 0, trap := none, tretIssued := false, yielded := false, sa := {}, se := {}, sm := {} } st (placeStrand st 0)
/-- The core in supervisor mode, with nothing that holds a strand back. -/
def placeCore (k : Core) (st : Strand) : Core :=
  setBank { k with sys := true, pm := true, swapAt := none, swapWant := false, halted := false, amStopped := false, frozen := none, turn := (0, 0), tlb := [] } k.fg (placeBank (fgBank k) st)
/-- The state whose next step issues the word. -/
def placeWord (s : State) (nbits w : Nat) : State :=
  let v := w % 2 ^ nbits % 2 ^ 96
  let st := strandFor (BitVec.ofNat 96 v)
  let s := updCluster s 0 fun k => { k with tlb := [], cache := dropLine k.cache (placeBase / 128) }
  let s := updDie s 0 fun d => { d with curPoint := 2, intFq := false, intMc := false }
  let s := updCore s 0 fun k => placeCore k st
  { s with mem := placeMem s.mem st v, mgmt := { s.mgmt with psCur := 0 }, agenda := .strand 0 0 st :: s.agenda }

end Sys2Proof.Machine
end

