-- ==== Sys2Proof/Machine/Step.lean ====
section
/-! DEFINITION. One step of the machine, and the state whose next step runs a given instruction. -/
namespace Sys2Proof.Machine

/-- One step: the agent whose turn it is acts (log entry 1), and the register writes that it made take their effect on other state. -/
def step (s : State) : Host.Outcome State Fault Refusal :=
  match plan s with
  | .done t => .next (runTodo t)
  | .run t i =>
    match exec i t with
    | .next u => .next (runTodo u)
    | .fault f => .fault f
    | .refused r => .refused r
  | .probe t i =>
    match exec i t with
    | .next u => .next (runTodo (probed t u))
    | .fault f => .fault f
    | .refused r => .refused r
  | .bad => .fault .wordInAgenda

/-- `s` with an instruction of the given bits where the next step fetches (log entry 5). -/
def State.withFetchWord (s : State) (nbits w : Nat) : State := placeWord s nbits w

end Sys2Proof.Machine
end

