-- ==== Sys2Proof/Safety.lean ====
section
/-! DEFINITION. The words that claims use: what a safe run is, when a word meets nothing that holds it back before its own effect, and what an issued word leaves in
its strand. -/
namespace Sys2Proof.Safety
open Sys2Proof.Machine

/-- A step at this state answers a next state: the model stops nowhere that the device goes on. -/
def Safe (s : State) : Prop := ∃ t, step s = .next t

/-- Every agenda entry that holds an instruction holds an event of the device (log entry 1). -/
def AgendaOk (s : State) : Prop := ∀ e ∈ s.agenda, ∀ dt i, e = .event dt i → isEvent i = true

/-- A word of the opcode map that has a header (R327): every word but ILLEGAL. -/
def isWord (i : Instr) : Bool := (hdrOf i).isSome

/-- No write of FD0-FD3, FPCTL, DBGCTL, VRB or KRB is on its way in the current bank (R133, R142). -/
def csrsSettled (s : State) : Bool := (curBank s).csrOld.isEmpty

/-- The word's strand, mode and fields pass the checks of R339 that stand before its own. -/
def fieldsPass (i : Instr) (s : State) : Bool :=
  strandOk s.curSt i && (privilege (supervisor s s.curCore) i).isNone && wordOk s.curSt i && narrowOk (curBank s) i

/-- The word reads no register whose reply is late (R311). -/
def repliesIn (i : Instr) (s : State) : Bool :=
  !anyLate (coreTime s s.curCore) (curStrand s) (predReads (curBank s) i ++ readsAll (curBank s) s.curSt i)

/-- The word reads no register whose bound has not elapsed (R309). -/
def predTimely (i : Instr) (s : State) : Bool := (firstEarly (coreTime s s.curCore) (curStrand s) (predReads (curBank s) i)).isNone
def operandsTimely (i : Instr) (s : State) : Bool := (firstEarly (coreTime s s.curCore) (curStrand s) (readsAll (curBank s) s.curSt i)).isNone

/-- The word passes R339's checks, its predicate holds, it reads no register too early, and its queues and an earlier TLBINV of its strand let it issue (R469): what it then does is its own
effect. -/
def issues (i : Instr) (s : State) : Bool :=
  csrsSettled s && fieldsPass i s && repliesIn i s && predTimely i s && (predValue s (curBank s) i == 1) && operandsTimely i s && (queueGate (curBank s) s.curSt i).isNone &&
    !tlbWaits (curStrand s) i

/-- The state after a word that has issued with the results `ws`, the flags `fl` and the latency bound `bound`, in one pass, going on to the next word: R307, R308. -/
def done (i : Instr) (s : State) (ws : List Write) (bound : Nat) (fl : Flags := 0) : State :=
  complete i false { s := s, writes := ws, flags := fl, bound := bound } s

/-- The state after a word that has issued and leaves a control transfer to `t`, or goes on to the next word. -/
def wentTo (i : Instr) (s : State) (t : Option W64) : State := complete i false { s := s, target := t } s

/-- A write or read of a piece in cluster `k`'s cache displaces no line: the line is held, or its set and the snoop filter's have room (R22, R287). -/
def roomFor (s : State) (k : Nat) (q : Piece) : Bool :=
  let l := (clusterOf s k).cache
  let ln := q.pa / 128
  (findLine l ln).isSome ||
    (decide ((l.filter fun x => x.line % 4096 = ln % 4096).length < 16) &&
      ((q.kind != .coh && q.kind != .host) || decide ((filterSet s (agentOf (128 * ln)) ln).length < 16)))
/-- The host holds no modified copy of a line that `n` bytes from `pa` touch (R304). -/
def hostClean (s : State) (pa n : Nat) : Bool := s.hostDirty.all fun h => !overlaps (64 * h.line) 64 pa n

/-- The word does what the answer of its own checks and effects says: it completes with it, or it stops there. -/
def Runs (i : Instr) (s : State) (r : Except Stop Out) : Prop :=
  (∀ o, r = .ok o → exec i s = .next (complete i false o s)) ∧ (∀ x, r = .error x → exec i s = .next (stopWord i x s))

/-- A vector group that a word can use: no member is stale, every member that holds an element has the type, and the group's length is that of its runs, `n`. -/
def SoundGroup (g : Grp) (et n : Nat) : Prop := g.stale = false ∧ g.etOk et = true ∧ g.ll = n ∧ (spreadRuns (g.runs et)).length = n
/-- A mask that a word can use, of length `n`. -/
def SoundMask (g : Grp) (n : Nat) : Prop := g.stale = false ∧ g.ll = n ∧ (spreadRuns g.bits).length = n

end Sys2Proof.Safety
end

