-- ==== Sys2Proof/Certificates/Slice0/Obligations.lean ====
section
/-! DEFINITION. The statements for the provers, in the order of OBLIGATIONS.json. -/

open Sys2Proof Sys2Proof.Machine Sys2Proof.Safety

/-! ## Encoding (R325, R327-R338) -/

/-- R327-R336: every word and every field of it, at every value: decoding the encoding gives the instruction back, from the word and from its 12 bytes;
every word of the opcode map has an encoding. -/
def Obligations.EncodeThenDecodeGivesBack : Prop :=
  ∀ i : Instr,
    (∀ v, encode i = some v → decodeWord v = some i ∧ ∀ rest, decode (wordBytes v ++ rest) = .ok i) ∧
    ((isWord i = true ∨ ∃ body, i = .illegal body) → (encode i).isSome = true) ∧
    (isEvent i = true → encode i = none)

/-- R338: each word has one meaning: a word that decodes is the encoding of what it decodes to, so decoding drops no bit of it. -/
def Obligations.DecodeThenEncodeGivesBack : Prop := ∀ (v : Word96) (i : Instr), decodeWord v = some i → encode i = some v

/-- Words written out from the spec's encodings, one or more of each family, decode to the instructions they stand for (R325-R338 and the examples of the
instruction reference). -/
def Obligations.WrittenWordsDecode : Prop :=
  decodeWord 0x330007C00000000000000030 = some (.call ⟨⟨0, 0, false⟩, 31, 0, 0, 0, 0x30⟩) ∧
  decodeWord 0x350002400000FFFFFFFFFFD0 = some (.loop ⟨⟨0, 0, false⟩, 9, 0, 0, 0, 0xFFFFFFFFFFD0⟩) ∧
  decodeWord 0xFE0001911000000000000000 = some (.rep ⟨⟨0, 0, false⟩, 3, 2, 2, 2, 0, 0⟩) ∧
  decodeWord 0xB400000401FFFC0200004004 = some (.mma ⟨⟨0, 0, false⟩, 0, 0, 1, 0, 0, 127, 255, 1, 0, 0x10, 4⟩) ∧
  decodeWord 0x000000000000000000000000 = some (.illegal 0) ∧
  decodeWord 0xFFFFFFFFFFFFFFFFFFFFFFFF = none ∧
  decode [0, 1, 2] = .error .shortWord

/-! ## A step (R12, R339) -/

/-- A strand's turn runs the word at its PC: when nothing holds the strand back and the 12 bytes at PC decode to an instruction, the step is that instruction's
execution at that state, then the actions that its register writes call for. Before it, time passes by the turn's cycles, overdue accesses are abandoned, and results
whose bound has elapsed land. At a word boundary where a swap is decided or an interrupt is due (R319, R321), the word is only tried: of what it does a trap alone takes place. -/
def Obligations.StepRunsDecodedWord : Prop :=
  ∀ (s : State) (dt core : Nat) (st : Strand) (rest : List Turn) (v : Nat) (u : State) (i : Instr),
    let s1 := tick { s with agenda := rest } dt
    let t := turnState s1 core st
    let done := fun x : State => runTodo (if boundaryHeld u core then (if tookTrap u x then x else modStrand u fun y => { y with probed := u.cycle + 1 }) else x)
    s.agenda = .strand dt core st :: rest → turnOk s1 core st = true → heldBack t = none → (curStrand t).late = [] → (curStrand t).phase = .run →
    fetchCode t (curCtx t) (curStrand t).pc.toNat 12 = .ok (v, u) →
    ((curStrand t).rep = none → decodeWord (BitVec.ofNat 96 v) = some i →
      step s = match exec i u with | .next x => .next (done x) | .fault f => .fault f | .refused r => .refused r) ∧
    (∀ r, (curStrand t).rep = some r → decodeWord (stepWord (BitVec.ofNat 96 v) r) = some i →
      step s = match exec i u with | .next x => .next (done x) | .fault f => .fault f | .refused r => .refused r)

/-- A strand's turn that runs no word: it comes after that of a strand that stands behind it in the order A, E, M (R314), or the strand is held back, or it is to take
LATE (R312), once no pass of E's word is still to enter, or its fetch faults, or the bytes, with REP's steps added to them (R336; log entry 30), are no instruction (R339 step 1, R326), or it stands at a slate. With
an empty agenda it is the turn of strand E of core 0, a cycle later (log entry 1). -/
def Obligations.StepWithoutWord : Prop :=
  (∀ (s : State) (dt core : Nat) (st : Strand) (rest : List Turn),
    let s1 := tick { s with agenda := rest } dt
    let t := turnState s1 core st
    s.agenda = .strand dt core st :: rest →
    (turnOk s1 core st = false → step s = .next (runTodo s1)) ∧
    (turnOk s1 core st = true →
    (∀ why, heldBack t = some why → step s = .next (runTodo (stallAs t why))) ∧
    (heldBack t = none → (curStrand t).late = [] → (curStrand t).phase = .run →
      (∀ f, fetchCode t (curCtx t) (curStrand t).pc.toNat 12 = .error f → step s = .next (runTodo (trapStrand t f.cause f.sub f.va))) ∧
      (∀ v u, fetchCode t (curCtx t) (curStrand t).pc.toNat 12 = .ok (v, u) →
        decodeWord (match (curStrand t).rep with | some r => stepWord (BitVec.ofNat 96 v) r | none => BitVec.ofNat 96 v) = none →
        step s = .next (runTodo (trapStrand u 0x01 0 0)))) ∧
    (∀ cls va l, heldBack t = none → (curStrand t).late = (cls, va) :: l → (curStrand t).phase = .run →
      (midPass t = true → step s = .next (runTodo (stallAs t .other))) ∧
      (midPass t = false → step s = .next (runTodo (trapStrand (modStrand t fun x => { x with late := l }) 0x10 cls va)))) ∧
    (heldBack t = none → (curStrand t).phase ≠ .run →
      step s = match exec (.sectionBegin core st) t with | .next x => .next (runTodo x) | .fault f => .fault f | .refused r => .refused r))) ∧
  (∀ s : State, s.agenda = [] → step s = step { s with agenda := [.strand 1 0 .e] })

/-- An event at the head of the agenda is executed after its cycles have passed; a word there stops the model, and nothing else does (log entry 1). -/
def Obligations.StepRunsEvents : Prop :=
  (∀ (s : State) (dt : Nat) (i : Instr) (rest : List Turn), s.agenda = .event dt i :: rest →
    (isEvent i = true → step s = match exec i (tick { s with agenda := rest } dt) with
      | .next x => .next (runTodo x) | .fault f => .fault f | .refused r => .refused r) ∧
    (isEvent i = false → step s = .fault .wordInAgenda)) ∧
  (∀ (i : Instr) (s : State), ∃ t, exec i s = .next t) ∧
  (∀ s : State, AgendaOk s → Safe s)

/-- What reset leaves, where the spec says it (R364, R348-R350, R305, R106, R84): no bring-up step is complete; the foreground bank is bank 0 and no strand is present;
core 0 of cluster 0 of each die is a system core in supervisor mode and no other core is; the registers with a stated reset value hold it. -/
def Obligations.ResetState : Prop :=
  let s := State.reset
  s.mgmt.stage = 0 ∧ s.mgmt.fail = 0 ∧ s.mgmt.psReq = 0 ∧ s.mgmt.psCur = 0 ∧ s.mgmt.psBusy = false ∧
  (∀ c, (coreOf s c).sys = decide (c = 0 ∨ c = 128 ∨ c = 256 ∨ c = 384) ∧ (coreOf s c).pm = (coreOf s c).sys ∧ (coreOf s c).ppm = false ∧ (coreOf s c).ie = false ∧
    (coreOf s c).pie = false ∧ (coreOf s c).fg = 0 ∧ (coreOf s c).shst = 0 ∧ (coreOf s c).cause = 0 ∧ (coreOf s c).epc = 0 ∧ (coreOf s c).tval = 0 ∧ (coreOf s c).tvec = 0 ∧
    (coreOf s c).trec = 0 ∧ ∀ b st, (strandOf s c b st).phase = .absent) ∧
  (∀ d, d < 4 → (dieOf s d).holdctl = 0 ∧ (dieOf s d).agectl = 65536 ∧ (dieOf s d).encap = 650 ∧ (dieOf s d).thcap = 1023 ∧ (dieOf s d).point = 2 ∧ (dieOf s d).sysmask0 = 1 ∧
    (dieOf s d).sysmask1 = 0 ∧ (dieOf s d).fqhead = 0 ∧ (dieOf s d).fqtail = 0 ∧ (dieOf s d).fullw = 0) ∧
  s.mem.cells = [] ∧ s.methods = [] ∧ s.tasks = [] ∧ s.launches = []

/-! ## What stands before a word's own effect (R339, R328, R130, R309) -/

/-- R306, R140, R339: the checks of every word with a header, in their order: the strand, then the mode, then the fields; the first that fails decides, whatever the others
would say. Which words are supervisor only, and that M reaches no CSR. -/
def Obligations.ChecksInOrder : Prop :=
  (∀ i : Instr, supervisorOnly i = true ↔ (∃ w, i = .mtins w ∨ i = .mtdel w ∨ i = .orphx w ∨ i = .lrenew w) ∨
    (∃ w, i = .eret w ∨ i = .tlbinv w ∨ i = .idle w ∨ i = .halt w ∨ i = .swapb w ∨ i = .spill w)) ∧
  (∀ (i : Instr) (n : Nat) (wr : Bool), csrOf i = some (n, wr) → strandOk .m i = false) ∧
  (∀ n : Nat, csrMode n = some 2 ↔ n ≤ 5) ∧ (∀ n : Nat, csrMode n = some 1 ↔ n = 0x71 ∨ n = 0xA0) ∧
  (∀ n : Nat, csrMode n = some 0 ↔ n ∈ [0x10, 0x11, 0x12, 0x13, 0x20, 0x21, 0x30, 0x31, 0x32, 0x33, 0x40, 0x41, 0x50, 0x51, 0x60, 0x61, 0x70, 0x80, 0x81, 0x90, 0x91, 0xB0, 0xB1, 0xC0]) ∧
  ∀ (i : Instr) (s : State), isWord i = true → csrsSettled s = true →
    (strandOk s.curSt i = false → exec i s = .next (stopWord i (.trap 0x01 2 0) s)) ∧
    (strandOk s.curSt i = true → (coreOf s s.curCore).pm = false → supervisorOnly i = true → exec i s = .next (stopWord i (.trap 0x03 0 0) s)) ∧
    (∀ n wr, strandOk s.curSt i = true → csrOf i = some (n, wr) →
      (csrMode n = none → exec i s = .next (stopWord i (.trap 0x01 0 0) s)) ∧
      ((coreOf s s.curCore).pm = false → (csrMode n = some 2 ∨ (csrMode n = some 1 ∧ wr = true)) → exec i s = .next (stopWord i (.trap 0x03 1 0) s))) ∧
    (strandOk s.curSt i = true → privilege (coreOf s s.curCore).pm i = none → (wordOk s.curSt i = false ∨ narrowOk (curBank s) i = false) →
      exec i s = .next (stopWord i (.trap 0x01 1 0) s))

/-- R328, R115: a scalar predicate. A word that does not execute goes on to the next word after its STL and does nothing else; a poisoned predicate ends the task
(POISON, subcause 1). -/
def Obligations.ScalarPredicates : Prop :=
  ∀ (i : Instr) (s : State) (h : Hdr), hdrOf i = some h → h.pr ≠ 0 → maskPredicated i = false → csrsSettled s = true → fieldsPass i s = true → repliesIn i s = true →
    predTimely i s = true →
    let r := readReg (coreTime s s.curCore) (curBank s) s.curSt h.pr.toNat
    (r.poi = true → exec i s = .next (stopWord i (.trap 0x15 1 0) s)) ∧
    (r.poi = false → (r.v = 0 ↔ h.pn = false) → exec i s = .next (modStrand s fun x => stepPc { x with
        busy := coreTime s s.curCore + 1, ready := coreTime s s.curCore + max 1 h.stl.toNat, stall := none, park := none }))

/-- R130: a word that must wait for a queue does not issue: only its strand stalls; reading an unbound stream queue that holds no block raises QUEUE with subcause 1.
R309: a word that reads a register too early raises LATV before it issues with LATCHK; without, ADD completes with free values in place of its result. -/
def Obligations.OperandGates : Prop :=
  (∀ (i : Instr) (s : State), isWord i = true → csrsSettled s = true → fieldsPass i s = true → repliesIn i s = true → predTimely i s = true →
    predValue s (curBank s) i = 1 → operandsTimely i s = true →
    (∀ q ∈ popsOf s.curSt i, (tget (curBank s).q q {}).count = 0 → exec i s = .next (stallAs s .queue)) ∧
    (∀ q ∈ pushesOf s.curSt i, queueDepth q ≤ (tget (curBank s).q q {}).count →
      (∃ why, exec i s = .next (stallAs s why)) ∧
      ((∀ p ∈ popsOf s.curSt i, (tget (curBank s).q p {}).count ≠ 0 ∧ (queueHead (tget (curBank s).q p {})).landed = true) → exec i s = .next (stallAs s .other))) ∧
    (∀ q n, popsOf s.curSt i = [] → pushesOf s.curSt i = [] → streamPopsOf s.curSt i = [(q, n)] → 1 ≤ n → (tget (curBank s).sq q {}).count = 0 →
      (tget (curBank s).sq q {}).bound = none → exec i s = .next (stopWord i (.trap 0x0B 1 0) s))) ∧
  (∀ (i : Instr) (s : State), isWord i = true → csrsSettled s = true → fieldsPass i s = true → repliesIn i s = true → predTimely i s = true →
    predValue s (curBank s) i = 1 → ∀ sub spec, firstEarly (coreTime s s.curCore) (curStrand s) (readsAll (curBank s) s.curSt i) = some (sub, spec) →
    ((coreOf s s.curCore).latchk = true → exec i s = .next (stopWord i (.trap 0x0E sub spec) s)) ∧
    ((coreOf s s.curCore).latchk = false → queueGate (curBank s) s.curSt i = none → ∀ w : RR, i = .add w →
      exec i s = .next (complete i true { s := s, writes := wrS w.d ((rdS s w.a).v + (rdB s w).v) ((rdS s w.a).poi || (rdB s w).poi), bound := 2 } s)))

/-! ## What an issued word leaves (R307, R308, R116, R153) -/

/-- R307, R308: a word without queue operands that has issued with some results becomes the last of the strand's words in flight, with its results, its
flags and the end of its latency bound, until which its destinations hold undefined values of their own (`tag`, R307); the next word issues after STL cycles or one. The frame of every word: beside what its own effect left (`o.s`), an issued word
changes its own strand and the queues that it pops and pushes, as R128-R131 say, and nothing else: no other register or flag, no other core or bank, no byte of memory. A word whose result is
there at once (a CSR write, R142) lands it then. A word that waits changes only the note of why its strand stands. -/
def Obligations.IssuedWordLeaves : Prop :=
  (∀ (i : Instr) (s : State) (ws : List Write) (bound : Nat) (fl : Flags),
    popsOf s.curSt i = [] → pushesOf s.curSt i = [] → streamPopsOf s.curSt i = [] →
    let now := coreTime s s.curCore
    (ws ≠ [] ∨ fl ≠ 0 → done i s ws bound fl = (if ws = [] then id else useFresh) (modStrand s fun x => stepPc { x with
        flight := x.flight ++ [{ id := x.nextId, sent := s.cycle, ent := x.ent, dests := ws.map Write.dest, writes := ws, flags := fl, bound := now + bound,
                                 blocks := blocking i, tag := s.fresh }],
        nextId := x.nextId + 1, busy := now + 1, ready := now + stlOf i, stall := none, park := none })) ∧
    (ws = [] → fl = 0 → done i s ws bound fl = modStrand s fun x => stepPc { x with busy := now + 1, ready := now + stlOf i, stall := none, park := none })) ∧
  (∀ (i : Instr) (s : State) (o : Out), o.issued = true →
    let st := o.s.curSt
    let noted := popsOf st i ++ (streamPopsOf st i).map Prod.fst ++ pushesOf st i
    let moved := fun b : Bank => noted.foldl (noteQueue o.s.cycle b) ((pushesOf st i).foldl (fun c q => (pushSlot o.s.fresh c q).2) (popAll b st i))
    let quiet := o.dests.isEmpty && o.writes.isEmpty && o.flags == 0 && o.op.isNone
    ∃ x n, complete i false o s = { modBank o.s fun b =>
      let c := setStrand (moved b) st x
      if o.atOnce && !quiet then landFlight c st (strandSel b st).nextId (coreTime o.s o.s.curCore) else c with fresh := n }) ∧
  (∀ (b : Bank) (st : Strand) (i : Instr) (tag : Nat),
    (∀ q, q ∉ popsOf st i → tget (popAll b st i).q q {} = tget b.q q {}) ∧
    (∀ q, popsOf st i = [q] → tget (popAll b st i).q q {} = { tget b.q q {} with head := ((tget b.q q {}).head + 1) % queueDepth q, count := (tget b.q q {}).count - 1 }) ∧
    (∀ q, (∀ n, (q, n) ∉ streamPopsOf st i) → tget (popAll b st i).sq q {} = tget b.sq q {}) ∧
    (∀ q n, streamPopsOf st i = [(q, n)] → tget (popAll b st i).sq q {} = { tget b.sq q {} with head := ((tget b.sq q {}).head + n) % 8, count := (tget b.sq q {}).count - n }) ∧
    (∀ q, let k := tget b.q q {}
      (pushSlot tag b q).1 = k.tail ∧ (∀ p, p ≠ q → tget (pushSlot tag b q).2.q p {} = tget b.q p {}) ∧
      (tget (pushSlot tag b q).2.q q {}).count = k.count + 1 ∧ (tget (pushSlot tag b q).2.q q {}).tail = (k.tail + 1) % queueDepth q ∧ (tget (pushSlot tag b q).2.q q {}).head = k.head ∧
      (tget (tget (pushSlot tag b q).2.q q {}).slots k.tail {}).landed = false ∧
      ∀ j, j ≠ k.tail → tget (tget (pushSlot tag b q).2.q q {}).slots j {} = tget k.slots j {}) ∧
    (∀ (t : Nat) (c : Bank) (q p : Nat), let m := noteQueue t c b q
      (tget m.q p {}).slots = (tget b.q p {}).slots ∧ (tget m.q p {}).head = (tget b.q p {}).head ∧ (tget m.q p {}).tail = (tget b.q p {}).tail ∧
      (tget m.q p {}).count = (tget b.q p {}).count ∧ (tget m.sq p {}).slots = (tget b.sq p {}).slots ∧ (tget m.sq p {}).head = (tget b.sq p {}).head ∧
      (tget m.sq p {}).tail = (tget b.sq p {}).tail ∧ (tget m.sq p {}).count = (tget b.sq p {}).count ∧ (tget m.sq p {}).bound = (tget b.sq p {}).bound)) ∧
  (∀ (s : State) (why : StallWhy), ∃ v, stallAs s why = modStrand s fun x => { x with stall := v }) ∧
  (∀ (s : State) (f : Bank → Bank),
    let t := modBank s f
    t.mem = s.mem ∧ t.clusters = s.clusters ∧ t.dies = s.dies ∧ t.tasks = s.tasks ∧ t.launches = s.launches ∧ t.methods = s.methods ∧ t.pool = s.pool ∧
    (∀ a, memByte t.mem a = memByte s.mem a) ∧ (∀ c, c ≠ s.curCore → coreOf t c = coreOf s c) ∧ curBank t = f (curBank s) ∧
    bankOf t s.curCore (shadow (coreOf s s.curCore)) = bankOf s s.curCore (shadow (coreOf s s.curCore)) ∧
    (coreOf t s.curCore).pm = (coreOf s s.curCore).pm ∧ (coreOf t s.curCore).epc = (coreOf s s.curCore).epc ∧ (coreOf t s.curCore).cause = (coreOf s s.curCore).cause)

/-- R113, R365, R116, R153, R307: register 0 of A and of E reads as 0 with POI 0 and a result for it is discarded; a result for any other register, or for a
queue, is one write. A result that lands gives every destination its value, but those that a later word's landed result has given one; it ORs its flags into FPFLAGS, and every
other register of the bank stands. Of two words of one strand that write the same register, the register holds the result of the later-issued one when both have landed,
in whichever order they land. -/
def Obligations.RegisterWrites : Prop :=
  ((∀ (now : Nat) (b : Bank) (st : Strand), readReg now b st 0 = { v := 0, poi := false }) ∧
  (∀ (s : State), rdS s 0 = { v := 0, poi := false }) ∧
  (∀ (v : W64) (p : Bool), wrS 0 v p = []) ∧
  (∀ (b : Bank) (st : Strand) (r : Reg), applyWrite b st (.reg 0 r) = b) ∧
  (∀ (f : BitVec 7) (v : W64) (p : Bool), 0 < f.toNat → f.toNat < 64 → wrS f v p = [.reg f.toNat { v := v, poi := p }]) ∧
  (∀ (f : BitVec 7) (v : W64) (p : Bool), 64 ≤ f.toNat → wrS f v p = [.queue (f.toNat - 64) 0 { v := v, poi := p }])) ∧
  (∀ (b : Bank) (st : Strand) (id at_ : Nat) (f : Flight), (strandSel b st).flight.find? (fun g => g.id = id) = some f →
    let c := landFlight b st id at_
    c.fpflags = b.fpflags ||| f.flags ∧
    (∀ n v, n ≠ 0 → f.writes = [.reg n v] → f.killed = [] →
      tget (if st = .a then c.x else c.s) n {} = v ∧ (∀ m, m ≠ n → tget (if st = .a then c.x else c.s) m {} = tget (if st = .a then b.x else b.s) m {}) ∧
      (if st = .a then c.s = b.s else c.x = b.x) ∧ c.v = b.v ∧ c.k = b.k ∧ c.i = b.i ∧ c.q = b.q) ∧
    (∀ n v, f.writes = [.vec n v] → f.killed = [] → tget c.v n {} = v ∧ (∀ m, m ≠ n → tget c.v m {} = tget b.v m {}) ∧ c.x = b.x ∧ c.s = b.s ∧ c.k = b.k ∧ c.i = b.i) ∧
    (∀ w, f.writes = [w] → w.dest ∈ f.killed → c.x = b.x ∧ c.s = b.s ∧ c.v = b.v ∧ c.k = b.k ∧ c.i = b.i ∧
      ((∀ q sl, Dest.queue q sl ∉ f.killed) → c.q = b.q) ∧
      (∀ q sl, f.killed = [.queue q sl] → (tget (tget c.q q {}).slots sl {}).r = (tget (tget b.q q {}).slots sl {}).r ∧ (tget (tget c.q q {}).slots sl {}).landed = true))) ∧
  (∀ (b : Bank) (st : Strand) (f g : Flight) (t1 t2 : Nat), ((strandSel b st).flight.map (·.id)).Nodup → f ∈ (strandSel b st).flight → g ∈ (strandSel b st).flight → f.id < g.id →
    f.killed = [] → g.killed = [] → f.dests = f.writes.map Write.dest → g.dests = g.writes.map Write.dest →
    ∀ c, c = landFlight (landFlight b st f.id t1) st g.id t2 ∨ c = landFlight (landFlight b st g.id t1) st f.id t2 →
      (∀ n u v, n ≠ 0 → f.writes = [.reg n u] → g.writes = [.reg n v] → tget (if st = .a then c.x else c.s) n {} = v) ∧
      (∀ n u v, f.writes = [.vec n u] → g.writes = [.vec n v] → tget c.v n {} = v) ∧
      (∀ n u v, n ≠ 0 → f.writes = [.mask n u] → g.writes = [.mask n v] → tget c.k n {} = v) ∧
      (∀ n u v, f.writes = [.idx n u] → g.writes = [.idx n v] → tget c.i n {} = v))

/-! ## Scalar integer words -/

/-- The two-source words of the scalar ALU: result, poison, bound (R366, R372, R389, R426, R439, R442, R461, R466, R501). -/
def Obligations.ScalarTwoSourceResults : Prop :=
  ∀ (w : RR) (s : State),
    let a := (rdS s w.a).v
    let b := if w.bi then w.imm.signExtend 64 else (rdS s w.b).v
    let p := (rdS s w.a).poi || (!w.bi && (rdS s w.b).poi)
    (issues (.add w) s = true → exec (.add w) s = .next (done (.add w) s (wrS w.d (a + b) p) 2)) ∧
    (issues (.sub w) s = true → exec (.sub w) s = .next (done (.sub w) s (wrS w.d (a - b) p) 2)) ∧
    (issues (.mul w) s = true → exec (.mul w) s = .next (done (.mul w) s (wrS w.d (a * b) p) 4)) ∧
    (issues (.mulh w) s = true → exec (.mulh w) s = .next (done (.mulh w) s (wrS w.d (mulHigh (w.sub != 0) a b) p) 4)) ∧
    (issues (.and w) s = true → exec (.and w) s = .next (done (.and w) s (wrS w.d (a &&& b) p) 2)) ∧
    (issues (.or w) s = true → exec (.or w) s = .next (done (.or w) s (wrS w.d (a ||| b) p) 2)) ∧
    (issues (.xor w) s = true → exec (.xor w) s = .next (done (.xor w) s (wrS w.d (a ^^^ b) p) 2)) ∧
    (issues (.andn w) s = true → exec (.andn w) s = .next (done (.andn w) s (wrS w.d (a &&& ~~~b) p) 2)) ∧
    (issues (.shl w) s = true → exec (.shl w) s = .next (done (.shl w) s (wrS w.d (a <<< (b.toNat % 64)) p) 2)) ∧
    (issues (.shr w) s = true → exec (.shr w) s = .next (done (.shr w) s (wrS w.d (a >>> (b.toNat % 64)) p) 2)) ∧
    (issues (.sra w) s = true → exec (.sra w) s = .next (done (.sra w) s (wrS w.d (a.sshiftRight (b.toNat % 64)) p) 2)) ∧
    (issues (.rotr w) s = true → exec (.rotr w) s = .next (done (.rotr w) s (wrS w.d (a.rotateRight (b.toNat % 64)) p) 2)) ∧
    (issues (.min w) s = true → exec (.min w) s = .next (done (.min w) s (wrS w.d (if w.sub = 0 then (if a.toInt ≤ b.toInt then a else b) else (if a.toNat ≤ b.toNat then a else b)) p) 2)) ∧
    (issues (.max w) s = true → exec (.max w) s = .next (done (.max w) s (wrS w.d (if w.sub = 0 then (if a.toInt < b.toInt then b else a) else (if a.toNat < b.toNat then b else a)) p) 2)) ∧
    (issues (.hashr w) s = true → exec (.hashr w) s = .next (done (.hashr w) s (wrS w.d (hashr a b) p) 2)) ∧
    (issues (.cmp w) s = true → exec (.cmp w) s = .next (done (.cmp w) s (wrS w.d (if cmpCond w.sub.toNat a b then 1 else 0) p) 2))

/-- The other words of the scalar ALU (R367, R376, R388, R421, R442, R450, R462). -/
def Obligations.ScalarOtherResults : Prop :=
  (∀ (w : RR) (s : State),
    let a := rdS s w.a
    (issues (.clz w) s = true → exec (.clz w) s = .next (done (.clz w) s (wrS w.d (BitVec.ofNat 64 (countLead a.v)) a.poi) 2)) ∧
    (issues (.ctz w) s = true → exec (.ctz w) s = .next (done (.ctz w) s (wrS w.d (BitVec.ofNat 64 (countTrail a.v)) a.poi) 2)) ∧
    (issues (.popc w) s = true → exec (.popc w) s = .next (done (.popc w) s (wrS w.d (BitVec.ofNat 64 (countOnes a.v)) a.poi) 2)) ∧
    (issues (.bfx w) s = true → exec (.bfx w) s = .next (done (.bfx w) s
      (wrS w.d (BitVec.ofNat 64 (a.v.toNat / 2 ^ (w.imm.extractLsb' 10 6).toNat % 2 ^ ((w.imm.extractLsb' 4 6).toNat + 1))) a.poi) 2)) ∧
    (issues (.bfi w) s = true → exec (.bfi w) s = .next (done (.bfi w) s
      (wrS w.d (bfInsert (w.imm.extractLsb' 10 6).toNat ((w.imm.extractLsb' 4 6).toNat + 1) a.v (rdS s w.c).v) (a.poi || (rdS s w.c).poi)) 2)) ∧
    (issues (.sel w) s = true → exec (.sel w) s = .next (done (.sel w) s
      (let c := rdS s w.c
       let r := if c.v ≠ 0 then a else if w.bi then { v := w.imm.signExtend 64, poi := false } else rdS s w.b
       wrS w.d r.v (c.poi || r.poi)) 2)) ∧
    (issues (.qpush w) s = true → exec (.qpush w) s = .next (done (.qpush w) s (wrS w.d (if w.bi then a.v + w.imm.signExtend 64 else a.v) a.poi) 2))) ∧
  (∀ (w : RI) (s : State),
    let a := rdS s w.a
    (issues (.addi w) s = true → exec (.addi w) s = .next (done (.addi w) s (wrS w.d (a.v + w.imm.signExtend 64) a.poi) 2)) ∧
    (issues (.li w) s = true → exec (.li w) s = .next (done (.li w) s (wrS w.d (w.imm.signExtend 64) false) 2)) ∧
    (issues (.lih w) s = true → exec (.lih w) s = .next (done (.lih w) s
      (wrS w.d (BitVec.ofNat 64 (a.v.toNat % 2 ^ 48 + 2 ^ 48 * (w.imm.toNat % 2 ^ 16))) a.poi) 2)))

/-- R398, R457, R145: DIV and REM, with the flag of a division by zero; and R145, R439, R388, R442: what the arithmetic of DIV, REM, MULH, CLZ, CTZ and POPC is, on
numbers. -/
def Obligations.DivideAndIntegerLaws : Prop :=
  (∀ (w : RR) (s : State),
    let a := (rdS s w.a).v
    let b := if w.bi then w.imm.signExtend 64 else (rdS s w.b).v
    let p := (rdS s w.a).poi || (!w.bi && (rdS s w.b).poi)
    let fl : Flags := if b = 0 then (if s.curSt = .a then 0x100 else 0x002) else 0
    (issues (.div w) s = true → exec (.div w) s = .next (done (.div w) s (wrS w.d (divide (w.sub != 0) a b) p) 24 fl)) ∧
    (issues (.rem w) s = true → exec (.rem w) s = .next (done (.rem w) s (wrS w.d (remainder (w.sub != 0) a b) p) 24 fl))) ∧
  ((∀ (u : Bool) (a : W64), divide u a 0 = BitVec.allOnes 64 ∧ remainder u a 0 = a) ∧
  (∀ a b : W64, b ≠ 0 → (divide true a b).toNat = a.toNat / b.toNat ∧ (remainder true a b).toNat = a.toNat % b.toNat) ∧
  (∀ a b : W64, b ≠ 0 → ¬(a = 0x8000000000000000 ∧ b = BitVec.allOnes 64) →
    (divide false a b).toInt = a.toInt.tdiv b.toInt ∧ (remainder false a b).toInt = a.toInt.tmod b.toInt) ∧
  (divide false 0x8000000000000000 (BitVec.allOnes 64) = 0x8000000000000000 ∧ remainder false 0x8000000000000000 (BitVec.allOnes 64) = 0) ∧
  (∀ a b : W64, (mulHigh true a b).toNat * 2 ^ 64 + (a * b).toNat = a.toNat * b.toNat ∧
    (mulHigh false a b).toInt * 2 ^ 64 + (a * b).toNat = a.toInt * b.toInt) ∧
  (∀ a : W64, a ≠ 0 → countLead a < 64 ∧ a.getLsbD (63 - countLead a) = true ∧ (∀ j, 63 - countLead a < j → a.getLsbD j = false) ∧
    countTrail a < 64 ∧ a.getLsbD (countTrail a) = true ∧ ∀ j, j < countTrail a → a.getLsbD j = false) ∧
  (countLead 0 = 64 ∧ countTrail 0 = 64 ∧ countOnes 0 = 0) ∧
  (∀ a b : W64, a &&& b = 0 → countOnes (a ||| b) = countOnes a + countOnes b) ∧ (∀ j, j < 64 → countOnes (1#64 <<< j) = 1))

/-- R401, R409, R410, R406, R407, R402: the scalar floating-point words: each rounds its exact result once to its type, under its rounding mode and FTZ, and raises
the flags of that rounding and of an invalid operation or a division by zero. And R147-R150, R158: what that arithmetic is: the sum and the product are exact; a quotient and a root are
exact up to a sticky bit far below every format; NaNs and infinities give what IEEE 754 gives; rounding takes the two multiples of the quantum beside the value and chooses by the mode; a result
in range is the code of that multiple, with IX where it is inexact and UF where it is inexact and tiny after rounding; one above the range is infinity or the largest finite value, with OF and IX;
every code rounds to itself. -/
def Obligations.ScalarFloatResults : Prop :=
  (∀ (rdn x y : Bool) (m n : Nat) (e f : Int),
    (∃ z k q, vAdd rdn (.num x m e) (.num y n f) = (.num z k q, false) ∧ (k = 0 → z = if m = 0 ∧ n = 0 ∧ x = y then x else rdn) ∧
      ∀ r, r ≤ e → r ≤ f → r ≤ q → scaled z k q r = scaled x m e r + scaled y n f r) ∧
    vMul (.num x m e) (.num y n f) = (.num (x != y) (m * n) (e + f), false) ∧
    (n ≠ 0 → ∃ k g : Nat, vDiv (.num x m e) (.num y n f) = (.num (x != y) k (e - f - g - 1), false, false) ∧ 130 ≤ g ∧
      k / 2 * n ≤ m * 2 ^ g ∧ m * 2 ^ g < (k / 2 + 1) * n ∧ (k % 2 = 0 ↔ k / 2 * n = m * 2 ^ g)) ∧
    (vDiv (.num x m e) (.num y 0 f) = if m = 0 then (.nan false, true, false) else (.inf (x != y), false, true)) ∧
    (m ≠ 0 → ∃ k h : Nat, ∃ j : Int, vSqrt (.num false m e) = (.num false k j, false) ∧ 140 ≤ h ∧ 2 * (j + 1) + h = e ∧
      (k / 2) ^ 2 ≤ m * 2 ^ h ∧ m * 2 ^ h < (k / 2 + 1) ^ 2 ∧ (k % 2 = 0 ↔ (k / 2) ^ 2 = m * 2 ^ h)) ∧
    vSqrt (.num x m e) = (if m = 0 then (.num x 0 0, false) else if x then (.nan false, true) else vSqrt (.num false m e)) ∧
    vSqrt (.inf x) = (if x then (.nan false, true) else (.inf false, false)) ∧
    vAdd rdn (.inf x) (.inf y) = (if x = y then (.inf x, false) else (.nan false, true)) ∧ vAdd rdn (.inf x) (.num y n f) = (.inf x, false) ∧
    vAdd rdn (.num x m e) (.inf y) = (.inf y, false) ∧ vMul (.inf x) (.inf y) = (.inf (x != y), false) ∧
    vMul (.inf x) (.num y n f) = (if n = 0 then (.nan false, true) else (.inf (x != y), false)) ∧ vDiv (.inf x) (.inf y) = (.nan false, true, false) ∧
    vDiv (.inf x) (.num y n f) = (.inf (x != y), false, false) ∧ vDiv (.num x m e) (.inf y) = (.num (x != y) 0 0, false, false)) ∧
  (∀ (rdn : Bool) (a b c : Val),
    (a.isNan = true ∨ b.isNan = true → vAdd rdn a b = (.nan false, a.signalling || b.signalling) ∧ vMul a b = (.nan false, a.signalling || b.signalling) ∧
      vDiv a b = (.nan false, a.signalling || b.signalling, false)) ∧
    vMul a b = vMul b a ∧ vFma rdn a b c = ((vAdd rdn (vMul a b).1 c).1, (vMul a b).2 || (vAdd rdn (vMul a b).1 c).2 || c.signalling)) ∧
  (∀ (rm : Nat) (neg : Bool) (m k : Nat), rm ≤ 4 →
    let r := roundNat rm neg m k
    let rest := m % 2 ^ k
    (r.1 = m / 2 ^ k ∨ r.1 = m / 2 ^ k + 1) ∧ (r.2 = false ↔ rest = 0) ∧ (rest = 0 → r.1 = m / 2 ^ k) ∧
    (rest ≠ 0 → (rm = 1 → r.1 = m / 2 ^ k) ∧ (rm = 2 → (r.1 = m / 2 ^ k ↔ neg = true)) ∧ (rm = 3 → (r.1 = m / 2 ^ k ↔ neg = false)) ∧
      (rm = 0 ∨ rm = 4 → (2 * rest < 2 ^ k → r.1 = m / 2 ^ k) ∧ (2 ^ k < 2 * rest → r.1 = m / 2 ^ k + 1)) ∧
      (2 * rest = 2 ^ k → (rm = 0 → r.1 % 2 = 0) ∧ (rm = 4 → r.1 = m / 2 ^ k + 1)))) ∧
  (∀ f ∈ [fmtH, fmtBF, fmtS, fmtD, fmtACF], (∀ (rm : Nat) (c : Nat), c < 2 ^ f.width → (f.decode false c).isNan = false → f.round rm false (f.decode false c) = (c, 0)) ∧
    (∀ (rm : Nat) (ftz sig : Bool), f.round rm ftz (.nan sig) = (f.nan, 0)) ∧
    ∀ (rm : Nat) (n : Bool) (m : Nat) (e : Int), rm ≤ 4 → m ≠ 0 →
      let lo : Int := 1 - f.bias - f.mb
      let top : Int := Nat.log2 m + e
      let q := max (top - f.mb) lo
      let r := roundAt rm n m e q
      let u := roundAt rm n m e (top - f.mb)
      let c := f.round rm false (.num n m e)
      (2 ^ (2 * f.bias + f.mb) ≤ r.1 * 2 ^ (q - lo).toNat →
        c = (if rm = 0 ∨ rm = 4 ∨ (rm = 2 ∧ n = false) ∨ (rm = 3 ∧ n = true) then f.infBits n else f.infBits n - 1, flagOF ||| flagIX)) ∧
      (r.1 * 2 ^ (q - lo).toNat < 2 ^ (2 * f.bias + f.mb) → (∃ k g, f.decode false c.1 = .num n k g ∧ lo ≤ g ∧ scaled n k g lo = scaled n r.1 q lo) ∧
        c.2 = (if r.2 then flagIX else 0) ||| (if r.2 = true ∧ Nat.log2 u.1 + (top - f.mb) < 1 - f.bias then flagUF else 0)) ∧
      -- FTZ (R148): a result that would be subnormal is zero of its sign
      (f.round rm true (.num n m e) = if c.1 % 2 ^ (f.eb + f.mb) < 2 ^ f.mb ∧ c.1 % 2 ^ (f.eb + f.mb) ≠ 0 then (f.zeroBits n, flagUF ||| flagIX) else c)) ∧
  (∀ (f : FFmt) (c : Nat), f.decode true c = match f.decode false c with
    | .num n m e => if m < 2 ^ f.mb then .num n 0 e else .num n m e
    | v => v) ∧
  (∀ (rm : Nat) (lo hi : Int) (n sig : Bool) (m : Nat) (e : Int), lo ≤ hi →
    toIntRange rm lo hi (.nan sig) = (0, flagIO) ∧ toIntRange rm lo hi (.inf n) = (if n then lo else hi, flagIO) ∧
    let r := roundAt rm n m e 0
    let x : Int := if n then -(r.1 : Int) else r.1
    (x < lo → toIntRange rm lo hi (.num n m e) = (lo, flagIO)) ∧ (hi < x → toIntRange rm lo hi (.num n m e) = (hi, flagIO)) ∧
    (lo ≤ x → x ≤ hi → toIntRange rm lo hi (.num n m e) = (x, if r.2 then flagIX else 0))) ∧
  ∀ (w : RR) (s : State),
    let f := ftFmt w.ft.toNat
    let rm := roundMode (curBank s) w.rm
    let ftz := ftzOn (curBank s)
    let src := fun r : BitVec 7 => f.decode ftz ((rdS s r).v.toNat % 2 ^ f.width)
    let poi := fun r : BitVec 7 => (rdS s r).poi
    let out := fun (i : Instr) (v : Val) (bad dz : Bool) (p : Bool) =>
      done i s (wrS w.d (BitVec.ofNat 64 (f.round rm ftz v).1) p) 6 ((f.round rm ftz v).2 ||| (if bad then 0x001 else 0) ||| (if dz then 0x002 else 0))
    let a := src w.a
    let b := src w.b
    let p := poi w.a || poi w.b
    (issues (.fadd w) s = true → exec (.fadd w) s = .next (out (.fadd w) (vAdd (decide (rm = 3)) a b).1 (vAdd (decide (rm = 3)) a b).2 false p)) ∧
    (issues (.fsub w) s = true → exec (.fsub w) s = .next (out (.fsub w) (vAdd (decide (rm = 3)) a b.neg).1 (vAdd (decide (rm = 3)) a b.neg).2 false p)) ∧
    (issues (.fmul w) s = true → exec (.fmul w) s = .next (out (.fmul w) (vMul a b).1 (vMul a b).2 false p)) ∧
    (issues (.fdiv w) s = true → exec (.fdiv w) s = .next (out (.fdiv w) (vDiv a b).1 (vDiv a b).2.1 (vDiv a b).2.2 p)) ∧
    (issues (.ffma w) s = true → exec (.ffma w) s = .next (out (.ffma w) (vFma (decide (rm = 3)) a b (src w.c)).1 (vFma (decide (rm = 3)) a b (src w.c)).2 false (p || poi w.c))) ∧
    (issues (.fsqrt w) s = true → exec (.fsqrt w) s = .next (out (.fsqrt w) (vSqrt a).1 (vSqrt a).2 false (poi w.a))) ∧
    (issues (.fcmp w) s = true → exec (.fcmp w) s = .next (done (.fcmp w) s (wrS w.d (if vCond w.sub.toNat a b then 1 else 0) p) 6 (cmpFlags w.sub.toNat a b))) ∧
    (issues (.fmin w) s = true → ∃ v, exec (.fmin w) s = .next (done (.fmin w) s (wrS w.d (BitVec.ofNat 64 (f.round 0 false v).1) p) 6 (fMinMax false a b).2) ∧
      v = match (fMinMax false a b).1 with | none => .nan false | some t => if t then b else a) ∧
    (issues (.fmax w) s = true → ∃ v, exec (.fmax w) s = .next (done (.fmax w) s (wrS w.d (BitVec.ofNat 64 (f.round 0 false v).1) p) 6 (fMinMax true a b).2) ∧
      v = match (fMinMax true a b).1 with | none => .nan false | some t => if t then b else a) ∧
    (issues (.fcvt w) s = true → exec (.fcvt w) s = .next (done (.fcvt w) s
      (wrS w.d (BitVec.ofNat 64 (fcvtValue (curBank s) w.ft.toNat w.ft2.toNat rm (rdS s w.a).v).1) (poi w.a)) 6 (fcvtValue (curBank s) w.ft.toNat w.ft2.toNat rm (rdS s w.a).v).2)) ∧
    (issues (.fclass w) s = true → exec (.fclass w) s = .next (done (.fclass w) s (wrS w.d (BitVec.ofNat 64 (2 ^ classBit f ((rdS s w.a).v.toNat % 2 ^ f.width))) (poi w.a)) 6))

/-! ## Control -/

/-- R380, R382, R385, R413, R423, R459, R467, R440: where control goes, and what else the word does: a call's return address, LOOP's counter and rotation. After SYNCV no word of its
strand issues while a result of a word before it is still to land. -/
def Obligations.ControlWords : Prop :=
  (∀ (w : RI) (s : State),
    let a := rdS s w.a
    let b := rdS s w.b
    let rel := (curStrand s).pc + w.imm.signExtend 64
    (issues (.br w) s = true →
      ((a.poi || b.poi) = false → exec (.br w) s = .next (wentTo (.br w) s (if cmpCond w.sub.toNat a.v b.v then some rel else none))) ∧
      ((a.poi || b.poi) = true → exec (.br w) s = .next (stopWord (.br w) (.trap 0x15 1 0) s))) ∧
    (issues (.jmp w) s = true → exec (.jmp w) s = .next (wentTo (.jmp w) s (some rel))) ∧
    (issues (.jmpr w) s = true →
      (a.poi = false → exec (.jmpr w) s = .next (wentTo (.jmpr w) s (some (a.v + w.imm.signExtend 64)))) ∧
      (a.poi = true → exec (.jmpr w) s = .next (stopWord (.jmpr w) (.trap 0x15 0 0) s))) ∧
    (issues (.ret w) s = true →
      (a.poi = false → exec (.ret w) s = .next (wentTo (.ret w) s (some (a.v + w.imm.signExtend 64)))) ∧
      (a.poi = true → exec (.ret w) s = .next (stopWord (.ret w) (.trap 0x15 0 0) s))) ∧
    (issues (.call w) s = true → exec (.call w) s = .next (complete (.call w) false
      { s := s, writes := wrS w.d (afterWord (curStrand s)) false, bound := 2, target := some rel } s)) ∧
    (issues (.brq w) s = true →
      (a.poi = false → exec (.brq w) s = .next (wentTo (.brq w) s (if a.v ≠ 0 then some rel else none))) ∧
      (a.poi = true → exec (.brq w) s = .next (stopWord (.brq w) (.trap 0x15 1 0) s))) ∧
    (issues (.loop w) s = true →
      let d := rdS s w.d
      (d.poi = false → exec (.loop w) s = .next (complete (.loop w) false
        { s := modBank s fun k => { k with vrb := k.vrb - 1, krb := k.krb - 1 }, writes := wrS w.d (d.v - 1) false, bound := 2,
          target := if d.v ≠ 1 then some rel else none } s)) ∧
      (d.poi = true → exec (.loop w) s = .next (stopWord (.loop w) (.trap 0x15 1 0) s)))) ∧
  (∀ (w : SYS) (s : State),
    (issues (.nop w) s = true → exec (.nop w) s = .next (wentTo (.nop w) s none)) ∧
    (issues (.syncv w) s = true → exec (.syncv w) s = .next (complete (.syncv w) false { s := modStrand s fun x => { x with sync := x.nextId } } s))) ∧
  (∀ s : State, (∃ f ∈ (curStrand s).flight, f.landed = false ∧ f.dests.isEmpty = false ∧ f.id < (curStrand s).sync) → (heldBack s).isSome = true)

/-- R52, R381, R385: where a strand stands after a word: inside a section the next word; a transfer to a word of the section continues the execution, and any
other target is read as a slate; after the last word the section repeats, the strand ends, or the next slate is read. CALL saves the address at which a strand goes on
after it. -/
def Obligations.WhereControlGoes : Prop :=
  ∀ (x : StrandSt), x.rep = none → x.pc.toNat + 12 < 2 ^ 64 →
    (x.pc.toNat + 12 < sectionEnd x.base x.slate → goOn x none = { x with pc := x.pc + 12 } ∧ afterWord x = x.pc + 12) ∧
    (sectionEnd x.base x.slate ≤ x.pc.toNat + 12 →
      (x.repIdx < slateRepeat x.slate → (goOn x none).phase = .again ∧ (goOn x none).repIdx = x.repIdx + 1 ∧ (goOn x none).pc = BitVec.ofNat 64 x.base) ∧
      (slateRepeat x.slate ≤ x.repIdx → slateEnd x.slate = true → (goOn x none).phase = .ended) ∧
      (slateRepeat x.slate ≤ x.repIdx → slateEnd x.slate = false →
        (goOn x none).phase = .slate ∧ (goOn x none).pc = BitVec.ofNat 64 (nextSlate x.base x.slate) ∧ (goOn x none).pc = afterWord x)) ∧
    (∀ t : W64, inSection x.base x.slate t.toNat = true → goOn x (some t) = { x with pc := t }) ∧
    (∀ t : W64, inSection x.base x.slate t.toNat = false → (goOn x (some t)).phase = .slate ∧ (goOn x (some t)).pc = t)

/-- R336, R458: REP checks every issue before any of them, then the next word issues COUNT + 1 times, each issue after the one before it. -/
def Obligations.RepWord : Prop :=
  (∀ (w : REP) (s : State) (i : Instr), issues (.rep w) s = true →
    let x := curStrand s
    x.pc.toNat + 12 < sectionEnd x.base x.slate → nextWord s = some i →
    ((noStepC i = true ∧ w.sc ≠ 0) → exec (.rep w) s = .next (stopWord (.rep w) (.trap 0x01 1 0) s)) ∧
    ((noStepC i = false ∨ w.sc = 0) → (isBranch i = true ∨ isRep i = true) → exec (.rep w) s = .next (stopWord (.rep w) (.trap 0x0C 0 0) s)) ∧
    ((noStepC i = false ∨ w.sc = 0) → isBranch i = false → isRep i = false →
      ((∃ o ∈ operands s.curSt i, stepOk s.curSt w o = false) → exec (.rep w) s = .next (stopWord (.rep w) (.trap 0x0C 1 0) s)) ∧
      ((∀ o ∈ operands s.curSt i, stepOk s.curSt w o = true) → exec (.rep w) s = .next (modStrand s fun y => { advancePc y with
        rep := some { count := w.count.toNat, sd := w.sd.toInt, sa := w.sa.toInt, sb := w.sb.toInt, sc := w.sc.toInt }, ready := coreTime s s.curCore + 1, stall := none })))) ∧
  (∀ (w : REP) (s : State), issues (.rep w) s = true → sectionEnd (curStrand s).base (curStrand s).slate ≤ (curStrand s).pc.toNat + 12 →
    exec (.rep w) s = .next (stopWord (.rep w) (.trap 0x0C 0 0) s)) ∧
  (∀ (x : StrandSt) (r : RepSt), x.rep = some r →
    (r.j < r.count → stepPc x = { x with rep := some { r with j := r.j + 1 } }) ∧ (r.count ≤ r.j → stepPc x = advancePc { x with rep := none }))

/-! ## Memory -/

/-- R219, R222, R5: bytes at the homes. A write of `n` bytes is read back, lowest byte first; every other byte stands; poisoned data marks every atom that it touches,
clean data clears the atoms that it writes whole and leaves every other mark. -/
def Obligations.HomeBytesReadBack : Prop :=
  ∀ (m : Memory) (a n v : Nat) (p : Bool),
    let m' := homeWrite m a n v p
    (m.wf = true → memRead m' a n = v % 256 ^ n ∧ ∀ j, j < n → memByte m' (a + j) = BitVec.ofNat 8 (v / 256 ^ j)) ∧
    (∀ x, (x < a ∨ a + n ≤ x) → memByte m' x = memByte m x) ∧
    (∀ k, 0 < n → (m'.poison.contains k = true ↔
      if a / 32 ≤ k ∧ k ≤ (a + n - 1) / 32 then (p = true ∨ (m.poison.contains k = true ∧ ¬(a ≤ 32 * k ∧ 32 * k + 32 ≤ a + n))) else m.poison.contains k = true))

/-- Memory has one canonical form, and every operation on it keeps it: equal contents are equal data. Reset memory has it. -/
def Obligations.MemoryStaysCanonical : Prop :=
  State.reset.mem.wf = true ∧
  (∀ (m : Memory) (a n v lo hi tag k : Nat) (p : Bool) (b : Byte), m.wf = true →
    (memSetByte m a b).wf = true ∧ (homeWrite m a n v p).wf = true ∧ (memUndef m lo hi tag).wf = true ∧ (memZero m lo hi).wf = true ∧ (setPoison m k p).wf = true) ∧
  (∀ (m : Memory) (ln : Nat) (d : BitVec 1024) (w : BitVec 128) (q : BitVec 4), m.wf = true → (homeMerge m ln d w q).wf = true) ∧
  (∀ (c d : List Host.Cell), cellsFrom 0 c = true → cellsFrom 0 d = true → (∀ a, getCell c a = getCell d a) → c = d)

/-- R261, R217, R304: where a store and a load of one piece are performed. At DEV and SYS scope a LOCAL store changes exactly its bytes at the home, whose other bytes
change only where the host gives up a modified copy; at CORE and CLU scope, where the line displaces no other, no byte at any home changes and a later load of the
cluster at such a scope returns the stored bytes. R261, R264, R307, R418, R420, R464: performing an outstanding access reads or writes its pieces, in ascending order, at their points, with
the release before and the acquire after it, and lands the result in its registers, zero- or sign-extended, or as a tuple, with POI where an atom that it read is poisoned; a store leaves its data
and its poison; a fence orders and returns nothing; the access is then no longer outstanding. R268, R269: of two accesses of a strand, which must be performed first. -/
def Obligations.StoresAndLoadsAtTheirPoints : Prop :=
  (∀ (s : State) (core bank : Nat) (st : Strand) (o : MemOp), o.did = [] → o.pieces.head?.all (fun q => q.kind != .mmio) = true →
    let t := if o.rel then releaseAction s core o.scope else s
    let u := noteStrong t core bank st o
    let back := fun (r : (Nat × Bool) × State) => (r.1, if o.acq then acquireAction r.2 core o.scope else r.2)
    mixedSpans t core bank st o = [] →
      (o.kind = .load → performOp s core bank st o = back (readPieces u core o.scope o.pieces)) ∧
      (∀ q, o.kind = .ldro true → o.pieces = [q] → performOp s core bank st o = back (readRo u core q)) ∧
      (o.kind = .store → performOp s core bank st o = back ((0, false), noteStore (writePieces u core o.scope o.pdata o.pieces o.data) core bank o o.va o.n o.pdata)) ∧
      (o.kind = .fence ∨ o.kind = .qmark → performOp s core bank st o = back ((0, false), u)) ∧
      (o.ord = 0 → (o.kind = .load ∨ o.kind = .store ∨ o.kind = .ldro true) → u = s)) ∧
  (∀ (s : State) (core bank id : Nat) (st : Strand) (f : Flight) (o : MemOp), (strandOf s core bank st).flight.find? (fun f => f.id = id && !f.landed) = some f → f.op = some o →
    (∀ x, o.kind ≠ .vload x) →
      let r := performOp s core bank st o
      let ws := if f.writes.isEmpty then loadWrites f.dests o.n r.1.1 o.sx r.1.2 else f.writes
      performFlight s core bank st id = thaw (updBank (updStrand r.2 core bank st fun x => { x with flight := x.flight.map fun g => if g.id = id then { g with writes := ws } else g }) core bank
        fun b => landFlight b st id (coreTime s core)) core (freezeTime s core) ∧
      (∀ g ∈ (strandOf (performFlight s core bank st id) core bank st).flight, g.id = id → g.landed = true) ∧
      (o.torn = false ∨ o.left.length < 2 → performNext s core bank st id = performFlight s core bank st id)) ∧
  (∀ (k n v : Nat) (p : Bool), v < 256 ^ n →
    (n = 1 ∨ n = 2 ∨ n = 4 ∨ n = 8 → loadWrites [.reg k] n v false p = [.reg k { v := BitVec.ofNat 64 v, poi := p }] ∧
      loadWrites [.reg k] n v true p = [.reg k { v := (BitVec.ofNat (8 * n) v).signExtend 64, poi := p }]) ∧
    (8 < n → ∀ sx, loadWrites ((List.range (n / 8)).map fun j => .reg (k + j)) n v sx p =
      (List.range (n / 8)).map fun j => .reg (k + j) { v := BitVec.ofNat 64 (v / 2 ^ (64 * j)), poi := p })) ∧
  (∀ (p o : MemOp), (p.kind = .load ∨ p.kind = .store ∨ (∃ k, p.kind = .amo k) ∨ p.kind = .cas) → (o.kind = .load ∨ o.kind = .store ∨ (∃ k, o.kind = .amo k) ∨ o.kind = .cas) →
    (mustPrecede p o = true ↔ sameAtom p o = true ∨ p.acq = true ∨ o.rel = true ∨ (o.kind ≠ .load ∧ p.kind ≠ .store) ∨ (samePoint p o = true ∧ ¬(o.kind = .load ∧ p.kind = .store))) ∧
    (∀ f : MemOp, f.kind = .fence → (mustPrecede p f = true ↔ f.rel = true ∨ p.kind ≠ .store) ∧ (mustPrecede f o = true ↔ f.acq = true ∨ o.rel = true ∨ (f.rel = true ∧ o.kind ≠ .load))) ∧
    (∀ f : MemOp, f.kind = .qmark → mustPrecede p f = true ∧ mustPrecede f o = true)) ∧
  ∀ (s : State) (core scope v : Nat) (q : Piece), s.mem.wf = true → 0 < q.n → q.pa % 128 + q.n ≤ 128 →
    (q.kind = .loc → paLocal (q.pa + q.n) = true → 2 ≤ scope →
      (memRead (writePiece s core scope q v false).mem q.pa q.n = v % 256 ^ q.n) ∧
      (hostClean s q.pa q.n = true → ∀ x, (x < q.pa ∨ q.pa + q.n ≤ x) → memByte (writePiece s core scope q v false).mem x = memByte s.mem x) ∧
      ((scope = 2 ∨ hostClean s q.pa q.n = true) → (findLine (clusterOf s (clusterOfCore core)).cache (q.pa / 128)).isNone = true → (readPiece s core scope q).1.1 = memRead s.mem q.pa q.n)) ∧
    (q.kind ≠ .window → q.kind ≠ .mmio → scope ≤ 1 → roomFor s (clusterOfCore core) q = true →
      (writePiece s core scope q v false).mem = s.mem ∧
      (∀ core', clusterOfCore core' = clusterOfCore core → (readPiece (writePiece s core scope q v false) core' scope q).1.1 = v % 256 ^ q.n))

/-- R418, R420, R464: loads and stores issue: every page is checked first (R231, R285), the leaf's A, D and TSTALE are set, and the access stands outstanding, to be performed at its point; a poisoned base, a misaligned acquire or release and a failed check trap before anything. LDRO takes no account of its scope. And R228-R232, R285: what translating
an address is: the walk reads one entry a level, each check of the walk and of the leaf in its order, on each page in ascending order, then the regions of the pool pages (R419, R465), or, for a vector word, both on each page (R478); what it gives for each piece; and
which of A, D and TSTALE the use of a leaf sets. -/
def Obligations.LoadAndStoreWords : Prop :=
  (∀ (m : Memory) (va n base : Nat),
    let at_ := base + 8 * nbits va (12 + 9 * n) 9
    let e := memRead m at_ 8
    let none_ := fun _ : Nat => (none : Option Nat)
    (0 < n → walkFrom m none_ va n base =
      if paLocal base = false then .error ⟨0x05, 6, va, 0, n⟩
      else if memPoison m at_ 8 = true then .error ⟨0x05, 8, va, 0, n⟩
      else if e % 2 = 0 then .error ⟨0x05, 1, va, e, n⟩
      else if nbits e 1 3 = 0 then (if nbits e 52 12 ≠ 0 ∨ nbits e 1 11 ≠ 0 then .error ⟨0x05, 2, va, e, n⟩ else walkFrom m none_ va (n - 1) (nbits e 12 40 * 4096))
      else if nbit e 63 = true ∨ 3 ≤ n then .error ⟨0x05, 2, va, e, n⟩
      else .ok ⟨e, at_, if n = 2 then 2 ^ 30 else 2 ^ 21, n⟩) ∧
    (n = 0 → paLocal base = false → walkFrom m none_ va n base = .error ⟨0x05, 6, va, 0, 0⟩) ∧
    (n = 0 → paLocal base = true → memPoison m at_ 8 = true → walkFrom m none_ va n base = .error ⟨0x05, 8, va, 0, 0⟩) ∧
    (n = 0 → paLocal base = true → memPoison m at_ 8 = false →
      (e % 2 = 0 → walkFrom m none_ va n base = .error ⟨0x05, 1, va, e, 0⟩) ∧
      (e % 2 = 1 → nbits e 1 3 = 0 → walkFrom m none_ va n base = .error ⟨0x05, 2, va, e, 0⟩) ∧
      (e % 2 = 1 → nbits e 1 3 ≠ 0 → nbit e 11 = false → walkFrom m none_ va n base = if nbit e 63 then .error ⟨0x05, 2, va, e, 0⟩ else .ok ⟨e, at_, 4096, 0⟩) ∧
      (e % 2 = 1 → nbits e 1 3 ≠ 0 → nbit e 11 = true →
        let group := base + 8 * (nbits va 12 9 / 16 * 16)
        let g := memRead m group 8
        walkFrom m none_ va n base =
          if memPoison m group 8 = true then .error ⟨0x05, 8, va, e, 0⟩
          else if g % 2 = 0 then .error ⟨0x05, 1, va, g, 0⟩
          else if nbit e 63 = true then .error ⟨0x05, 2, va, e, 0⟩
          else if nbit g 63 = true ∨ nbits g 1 3 = 0 ∨ nbit g 11 = false then .error ⟨0x05, 2, va, g, 0⟩
          else .ok ⟨g, group, 65536, 0⟩))) ∧
  (∀ (s : State) (c : Ctx) (acc : Acc) (l : Leaf) (va n : Nat),
    let e := l.pte
    let pa := ptePfn e / l.size * l.size + va % l.size
    let own : Bool := winSpace pa = 0 && winCore pa = c.core
    let writes : Bool := acc = .write || acc = .atomic || acc = .copyWrite || acc = .rescue
    let checks : Kind → List (Bool × Nat × Nat) := fun k =>
      [(!pageRange s k e l.size, 0x05, 5), (nbit e 2 && !nbit e 1 || ptePfn e % l.size != 0, 0x05, 3), (!nbit e 4 && !c.sup, 0x06, 4), (nbits e 55 8 != 0 && nbits e 55 8 != c.key, 0x06, 5),
       (acc = .fetch && !nbit e 3, 0x06, 3), ((acc = .read || acc = .atomic || acc = .ldro || acc = .copyRead) && !nbit e 1, 0x06, 1),
       (acc = .ldro && k != .loc && k != .coh && k != .ror, 0x06, 6), (acc = .atomic && (k = .mmio || k = .window && !own), 0x06, 6), (acc = .rescue && k != .loc, 0x06, 6),
       (k = .mmio && (acc = .fetch || acc = .copyRead || acc = .copyWrite), 0x06, 6), (k = .mmio && !((n = 4 || n = 8) && pa % n = 0), 0x04, 1),
       (writes && k = .ror, 0x06, 7), (writes && nbit e 10, 0x07, 0), (writes && !nbit e 2, 0x06, 2)]
    checkLeaf s c acc l va n = match kindOf (nbits e 52 3) with
      | none => .error ⟨0x05, 5, va, e, l.level⟩
      | some k => match (checks k).find? (·.1) with | some x => .error ⟨x.2.1, x.2.2, va, e, l.level⟩ | none => .ok ()) ∧
  (∀ (s : State) (key : Nat) (x : Xlat),
    let bad := fun (cause sub : Nat) => (Except.error ⟨cause, sub, x.va, x.leaf.pte, x.leaf.level⟩ : Except PageFault Unit)
    (x.kind.pooled = false → regionCheck s key x = .ok ()) ∧
    (x.kind.pooled = true → regionOf s x.pa = none → regionCheck s key x = bad 0x06 9) ∧
    (x.kind.pooled = true → ∀ i e, regionOf s x.pa = some (i, e) → regionCheck s key x =
      if prtKind e ≠ (if x.kind = .coh then 0 else if x.kind = .ror then 1 else 2) ∨ prtKey e ≠ key then bad 0x06 9
      else if prtState e = 2 then bad 0x11 0 else if prtState e = 3 then bad 0x11 2 else if prtState e = 4 then bad 0x11 1 else .ok ())) ∧
  (∀ (s : State) (c : Ctx) (acc : Acc) (raw : Bool) (va n : Nat),
    (2 ^ 57 ≤ va → xlat s c acc raw va n = .error ⟨0x05, 7, va, 0, 4⟩) ∧
    (∀ l, xlat s c acc raw va n = .ok l → l.map (fun x => (x.va, x.n)) = pieces 4096 va n ∧ ∀ x ∈ l, leafOf s c acc raw x.va = .ok x.leaf ∧
      checkLeaf s c acc x.leaf x.va (if (pieces 4096 va n).length = 1 then n else 0) = .ok () ∧ regionCheck s c.key x = .ok () ∧
      x.pa = ptePfn x.leaf.pte / x.leaf.size * x.leaf.size + x.va % x.leaf.size ∧ kindOf (pteKind x.leaf.pte) = some x.kind ∧ x.sm = nbit x.leaf.pte 7 ∧ x.tagged = nbit x.leaf.pte 8) ∧
    (∀ f l₁ p l₂, va < 2 ^ 57 → pieces 4096 va n = l₁ ++ p :: l₂ →
      let one := fun q : Nat × Nat => do
        let x ← xlatPiece s c acc raw q.1 (if (pieces 4096 va n).length = 1 then n else 0)
        regionCheck s c.key { x with n := q.2 }
      (∀ q ∈ l₁, one q = .ok ()) → one p = .error f → xlatAscending s c acc raw va n = .error f) ∧
    (∀ l, xlatAscending s c acc raw va n = .ok l ↔ xlat s c acc raw va n = .ok l) ∧
    (∀ f l₁ p l₂, va < 2 ^ 57 → pieces 4096 va n = l₁ ++ p :: l₂ →
      let page := fun q : Nat × Nat => xlatPiece s c acc raw q.1 (if (pieces 4096 va n).length = 1 then n else 0)
      (∀ q ∈ l₁, ∃ x, page q = .ok x) → page p = .error f → xlatPages s c acc raw va n = .error f ∧ xlat s c acc raw va n = .error f) ∧
    (∀ f l l₁ x l₂, xlatPages s c acc raw va n = .ok l → l = l₁ ++ x :: l₂ → (∀ y ∈ l₁, regionCheck s c.key y = .ok ()) → regionCheck s c.key x = .error f →
      xlat s c acc raw va n = .error f) ∧
    (va < 2 ^ 57 → (tlbView s c).find? (fun t => t.root = c.root && t.va ≤ va && va < t.va + t.size) = none →
      leafOf s c acc raw va = walkFrom s.mem (walkCache s (dieOfCore c.core) c.root) va 4 c.root)) ∧
  (∀ (s : State) (c : Ctx) (acc : Acc) (raw : Bool) (x : Xlat), s.mem.wf = true → s.hostDirty = [] →
    let bits := 32 + (if acc.writes then 64 else 0) + (if raw && x.tagged then 512 else 0)
    let t := useXlat s c acc raw x
    (x.leaf.pte ||| bits = x.leaf.pte → t.mem = s.mem) ∧
    (x.leaf.pte ||| bits ≠ x.leaf.pte → memRead t.mem x.leaf.addr 8 = memRead s.mem x.leaf.addr 8 ||| bits ∧
      ∀ a, (a < x.leaf.addr ∨ x.leaf.addr + 8 ≤ a) → memByte t.mem a = memByte s.mem a)) ∧
  ∀ (w : MEM) (s : State),
    let n := 2 ^ w.sz.toNat
    let base := rdS s w.a
    let va := (base.v + w.off.signExtend 64).toNat
    let c := curCtx s
    (issues (.ld w) s = true →
      (base.poi = true → exec (.ld w) s = .next (stopWord (.ld w) (.trap 0x15 0 0) s)) ∧
      (base.poi = false → w.ord = 1 → va % n ≠ 0 → exec (.ld w) s = .next (stopWord (.ld w) (.trap 0x04 0 va) s)) ∧
      (base.poi = false → (w.ord = 1 → va % n = 0) →
        (∀ f, xlat s c .read false va n = .error f → exec (.ld w) s = .next (stopWord (.ld w) (.trap f.cause f.sub f.va) s)) ∧
        (∀ l, xlat s c .read false va n = .ok l →
          let u := useXlats s c .read false l
          let o : MemOp := { kind := .load, va := va, n := n, pieces := piecesOf l, scope := w.scope.toNat, ord := w.ord.toNat, sx := w.sx, dc := w.dc.toNat }
          fenced u o = false → exec (.ld w) s = .next (complete (.ld w) false { s := u, op := some o, dests := loadDests w.d n, bound := classBound w.dc.toNat } s)))) ∧
    (issues (.ldro w) s = true → base.poi = false → w.ord = 0 →
        (∀ f, xlat s c .ldro false va n = .error f → exec (.ldro w) s = .next (stopWord (.ldro w) (.trap f.cause f.sub f.va) s)) ∧
        (∀ l, xlat s c .ldro false va n = .ok l →
          let u := useXlats s c .ldro false l
          let o : MemOp := { kind := .ldro true, va := va, n := n, pieces := piecesOf l, scope := 0, ord := 0, sx := w.sx, dc := w.dc.toNat }
          fenced u o = false → exec (.ldro w) s = .next (complete (.ldro w) false { s := u, op := some o, dests := loadDests w.d n, bound := classBound w.dc.toNat } s))) ∧
    (issues (.st w) s = true →
      (base.poi = true → exec (.st w) s = .next (stopWord (.st w) (.trap 0x15 0 0) s)) ∧
      (base.poi = false → w.ord = 2 → va % n ≠ 0 → exec (.st w) s = .next (stopWord (.st w) (.trap 0x04 0 va) s)) ∧
      (base.poi = false → (w.ord = 2 → va % n = 0) →
        (∀ f, xlat s c .write true va n = .error f → exec (.st w) s = .next (stopWord (.st w) (.trap f.cause f.sub f.va) s)) ∧
        (∀ l, xlat s c .write true va n = .ok l →
          let u := useXlats s c .write true l
          let o : MemOp := { kind := .store, va := va, n := n, pieces := piecesOf l, scope := w.scope.toNat, ord := w.ord.toNat,
                             data := (tupleData s w.d n).1, pdata := (tupleData s w.d n).2, dc := w.dc.toNat }
          fenced u o = false → exec (.st w) s = .next (complete (.st w) false { s := u, op := some o, bound := classBound w.dc.toNat } s))))

/-- R368, R370, R386: the atomics issue: POISON, ALIGN, the page checks, the scope for the page's KIND (PROT 8), and then the access, to be performed in one action. -/
def Obligations.AtomicWords : Prop :=
  ∀ (w : MEM) (s : State),
    let n := 2 ^ w.sz.toNat
    let base := rdS s w.a
    let va := (base.v + w.off.signExtend 64).toNat
    let c := curCtx s
    let stops := fun i : Instr => issues i s = true →
      (base.poi = true → exec i s = .next (stopWord i (.trap 0x15 0 0) s)) ∧
      (base.poi = false → va % n ≠ 0 → exec i s = .next (stopWord i (.trap 0x04 0 va) s)) ∧
      (base.poi = false → va % n = 0 → ∀ f, xlatPages s c .atomic true va n = .error f → exec i s = .next (stopWord i (.trap f.cause f.sub f.va) s)) ∧
      (base.poi = false → va % n = 0 → ∀ l, xlatPages s c .atomic true va n = .ok l → l.all (scopeOk s.curCore w.scope.toNat) = false →
        exec i s = .next (stopWord i (.trap 0x06 8 va) s))
    let runs := fun (i : Instr) (o : List Piece → MemOp) => issues i s = true → base.poi = false → va % n = 0 →
      ∀ l, xlatPages s c .atomic true va n = .ok l → l.all (scopeOk s.curCore w.scope.toNat) = true → regionsOk s c l = .ok () →
        let u := useXlats s c .atomic true l
        fenced u (o (piecesOf l)) = false → exec i s = .next (complete i false { s := u, op := some (o (piecesOf l)), dests := loadDests w.d n, bound := classBound w.dc.toNat } s)
    stops (.amo w) ∧ stops (.cas w) ∧
    runs (.amo w) (fun ps => { kind := .amo w.sub.toNat, va := va, n := n, pieces := ps, scope := w.scope.toNat, ord := w.ord.toNat, sx := w.sx,
                               data := (tupleData s w.b n).1, pdata := (tupleData s w.b n).2, dc := w.dc.toNat }) ∧
    runs (.cas w) (fun ps => { kind := .cas, va := va, n := n, pieces := ps, scope := w.scope.toNat, ord := w.ord.toNat, sx := w.sx, data := (tupleData s w.b n).1,
                               pdata := (tupleData s w.b n).2, data2 := (tupleData s w.c n).1, pdata2 := (tupleData s w.c n).2, dc := w.dc.toNat })

/-- R369, R386, R387: what AMO and CAS make of the old value, on numbers of the access's width; and their performing: the old bytes are returned; AMO writes its new value, and CAS its second operand
when the old bytes are those of its first; the atoms written are poisoned where an old byte or an operand was. -/
def Obligations.AtomicValues : Prop :=
  (∀ (s : State) (core bank : Nat) (st : Strand) (o : MemOp), o.did = [] → o.pieces.head?.all (fun q => q.kind != .mmio) = true →
    let t := if o.rel then releaseAction s core o.scope else s
    let r := readPieces (noteStrong t core bank st o) core o.scope o.pieces
    let back := fun (v : Nat × Bool) (u : State) => (v, if o.acq then acquireAction u core o.scope else u)
    mixedSpans t core bank st o = [] →
      (∀ op, o.kind = .amo op → performOp s core bank st o =
        back r.1 (noteStore (writePieces r.2 core o.scope (r.1.2 || o.pdata) o.pieces (amoValue op (8 * o.n) r.1.1 o.data)) core bank o o.va o.n o.pdata)) ∧
      (o.kind = .cas → r.1.1 = o.data → performOp s core bank st o =
        back r.1 (noteStore (writePieces r.2 core o.scope (r.1.2 || o.pdata || o.pdata2) o.pieces o.data2) core bank o o.va o.n (o.pdata || o.pdata2))) ∧
      (o.kind = .cas → r.1.1 ≠ o.data → performOp s core bank st o = back r.1 r.2)) ∧
  (∀ (w old b : Nat), (w = 32 ∨ w = 64) → amoValue 9 w old b =
    let f := if w = 32 then fmtS else fmtD
    (f.round 0 false (vAdd false (f.decode false old) (f.decode false b)).1).1) ∧
  ∀ (w old b : Nat), (w = 32 ∨ w = 64 ∨ w = 128) → old < 2 ^ w → b < 2 ^ w →
    amoValue 0 w old b = b ∧ amoValue 1 w old b = (old + b) % 2 ^ w ∧
    (∀ j, (amoValue 2 w old b).testBit j = (old.testBit j && b.testBit j) ∧ (amoValue 3 w old b).testBit j = (old.testBit j || b.testBit j) ∧
      (amoValue 4 w old b).testBit j = (old.testBit j ^^ b.testBit j)) ∧
    sintN w (amoValue 5 w old b) = min (sintN w old) (sintN w b) ∧ sintN w (amoValue 6 w old b) = max (sintN w old) (sintN w b) ∧
    amoValue 7 w old b = min old b ∧ amoValue 8 w old b = max old b

/-- R408, R449, R460, R445: the words that order accesses or act on caches: FENCE and QMARK stand outstanding as orderings; QFENCE binds commands issued later to the
named queues behind those issued before; ROINV empties the core's read-only cache; PREF never traps. -/
def Obligations.OrderingAndCacheWords : Prop :=
  ∀ (w : MEM) (s : State),
    (issues (.fence w) s = true → exec (.fence w) s = .next (complete (.fence w) false { s := s, op := some { kind := .fence, scope := w.scope.toNat, ord := w.ord.toNat } } s)) ∧
    (issues (.qmark w) s = true → exec (.qmark w) s = .next (complete (.qmark w) false { s := s, op := some { kind := .qmark } } s)) ∧
    (issues (.qfence w) s = true →
      let before := ((coreOf s s.curCore).slots.filter fun e => (queuesOf w.sub).contains e.2.cq).map fun e => e.2.seq
      ∃ u, exec (.qfence w) s = .next (complete (.qfence w) false { s := u } s) ∧ (before = [] → u = s) ∧
        (before ≠ [] → (queuesOf w.sub, before) ∈ (coreOf u s.curCore).fences ∧ u.mem = s.mem ∧ (∀ c, c ≠ s.curCore → coreOf u c = coreOf s c))) ∧
    (issues (.roinv w) s = true → acquirePending (curStrand s) = false →
      ∃ u, exec (.roinv w) s = .next (complete (.roinv w) false { s := u } s) ∧ (coreOf u s.curCore).ro = [] ∧ u.mem = s.mem ∧ u.clusters = s.clusters ∧
        ∀ c, c ≠ s.curCore → coreOf u c = coreOf s c) ∧
    (issues (.roinv w) s = true → acquirePending (curStrand s) = true → exec (.roinv w) s = .next (stallAs s .other)) ∧
    (issues (.pref w) s = true → ∃ u, exec (.pref w) s = .next (complete (.pref w) false { s := u } s) ∧
      ((rdS s w.a).poi = true → u = s) ∧
      (∀ f, xlat s (curCtx s) (if w.sub = 0 then .read else .ldro) false (memAddr w (rdS s w.a).v) 1 = .error f → u = s))

/-- R404, R255, R499: FSET and FCLR issue as release stores of 8 bytes to the home point. FGET and WAITA, at the point and with no earlier access in their way, return the
word with acquire when their condition holds, poisoned or not, and else park on it; one that a write has woken while its bank was not to go on returns what that write left (R324). The word is what stands at the point, but for bytes that an earlier strong access of
another size and another strand overlaps (R267; log entry 22). -/
def Obligations.FutureWords : Prop :=
  ∀ (w : MEM) (s : State),
    (∀ va l, futureAddr w .write s = .ok (va, l) →
      let u := useXlats s (curCtx s) .write true l
      let o := fun (v : Nat) (p : Bool) => ({ kind := .store, va := va, n := 8, pieces := piecesOf l, scope := w.scope.toNat, ord := 2, data := v, pdata := p, dc := w.dc.toNat } : MemOp)
      (issues (.fset w) s = true → fenced u (o (2 ^ 63 + (rdS s w.d).v.toNat % 2 ^ 63) (rdS s w.d).poi) = false →
        exec (.fset w) s = .next (complete (.fset w) false
          { s := u, op := some (o (2 ^ 63 + (rdS s w.d).v.toNat % 2 ^ 63) (rdS s w.d).poi), bound := classBound w.dc.toNat } s)) ∧
      (issues (.fclr w) s = true → fenced u (o 0 false) = false →
        exec (.fclr w) s = .next (complete (.fclr w) false { s := u, op := some (o 0 false), bound := classBound w.dc.toNat } s))) ∧
    (∀ va l, futureAddr w .read s = .ok (va, l) →
      let o := futureOp w va l
      let u := drainFor (useXlats s (curCtx s) .read false l) o
      let woken := (curStrand u).park.bind Park.sat
      let r := match woken with | some v => (v, u) | none => strongRead u s.curCore (curFg u) u.curSt o
      let pa := (l.map Xlat.pa).headD 0
      let back := acquireAction (noteStrong r.2 s.curCore (curFg u) u.curSt o) s.curCore w.scope.toNat
      (woken = none → mixedSpans u s.curCore (curFg u) u.curSt o = [] → r = readPieces u s.curCore w.scope.toNat o.pieces) ∧ (waitsBehind s o = false → u.curCore = s.curCore →
      (issues (.fget w) s = true →
        (woken = none → r.1.1 < 2 ^ 63 → r.1.2 = false → exec (.fget w) s = .next (parkCur r.2 (.word pa) (waitTable s.curCore w.scope.toNat pa) .bit63 w.scope.toNat)) ∧
        ((2 ^ 63 ≤ r.1.1 ∨ r.1.2 = true ∨ woken.isSome = true) → r.1.1 < 2 ^ 64 →
          exec (.fget w) s = .next (complete (.fget w) false { s := back, writes := wrS w.d (BitVec.ofNat 64 (r.1.1 % 2 ^ 63)) r.1.2, atOnce := true } s))) ∧
      (issues (.waita w) s = true →
        let e := rdS s w.b
        (woken = none → r.1.1 = e.v.toNat → r.1.2 = false → e.poi = false → exec (.waita w) s = .next (parkCur r.2 (.word pa) (waitTable s.curCore w.scope.toNat pa) (.differs e.v.toNat) w.scope.toNat)) ∧
        ((r.1.1 ≠ e.v.toNat ∨ r.1.2 = true ∨ e.poi = true ∨ woken.isSome = true) →
          exec (.waita w) s = .next (complete (.waita w) false { s := back, writes := wrS w.d (BitVec.ofNat 64 r.1.1) (r.1.2 || e.poi), atOnce := true } s))))) ∧
    (∀ (i : Instr) (x : Stop), (i = .fset w ∨ i = .fclr w) → issues i s = true → futureAddr w .write s = .error x → exec i s = .next (stopWord i x s)) ∧
    (∀ (i : Instr) (x : Stop), (i = .fget w ∨ i = .waita w) → issues i s = true → futureAddr w .read s = .error x → exec i s = .next (stopWord i x s))

/-! ## Barriers and queues -/

/-- R373, R375, R377, R383: the barrier words on a barrier of the task: each change is noted for the end of the cycle, or, once the barrier has been read in the cycle, of the next (log entry 142), and stands behind an arrival or change of the strand that has not yet
reached the barrier (R378); BEXP waits, or traps, where PEND would overflow; BARR names a barrier of its task, or with .win one by its window address; BTEST and BWAIT return the phases passed with ERR
and UNDR, and BWAIT parks while there is none; a number outside BCNT is BARRIER 0. -/
def Obligations.BarrierWords : Prop :=
  ∀ (w : SYS) (s : State),
    let b := (w.imm.extractLsb' 0 11).toNat
    let k := curBank s
    let n := k.bbase.toNat + b
    let a := rdS s w.a
    (∀ i : Instr, (i = .binit w ∨ i = .bexp w ∨ i = .bwait w ∨ i = .btest w ∨ (i = .barr w ∧ w.sub = 0)) → issues i s = true → k.bcnt.toNat ≤ b →
      exec i s = .next (stopWord i (.trap 0x1C 0 0) s)) ∧
    (b < k.bcnt.toNat → a.poi = true → ∀ i : Instr, (i = .binit w ∨ i = .bexp w) → issues i s = true → exec i s = .next (stopWord i (.trap 0x15 0 0) s)) ∧
    (b < k.bcnt.toNat → a.poi = false →
      let e := a.v.toNat + (w.imm.extractLsb' 11 12).toNat
      let p := a.v.toNat + (w.imm.extractLsb' 11 24).toNat
      let changed := fun (k : BarKind) (v : Nat) =>
        let o : MemOp := { kind := .change s.curCore n k v }
        if (curStrand s).flight.any (fun f => !f.landed && f.op.any fun g => mustPrecede g o) then ({ s := s, op := some o } : Out) else { s := barChange s s.curCore n k v }
      (issues (.binit w) s = true → (e ≤ 4095 → exec (.binit w) s = .next (complete (.binit w) false (changed (if s.curSt = .a then .initA else .initE) e) s)) ∧
        (4095 < e → exec (.binit w) s = .next (stopWord (.binit w) (.trap 0x01 1 0) s))) ∧
      (issues (.bexp w) s = true →
        (2 ^ 24 ≤ p → exec (.bexp w) s = .next (stopWord (.bexp w) (.trap 0x1C 1 0) s)) ∧
        (0 < p → barPend s s.curCore n + p < 2 ^ 24 → exec (.bexp w) s = .next (complete (.bexp w) false (changed .expect p) s)) ∧
        (p = 0 → barPend s s.curCore n < 2 ^ 24 → exec (.bexp w) s = .next (complete (.bexp w) false { s := s } s)) ∧
        (p < 2 ^ 24 → 2 ^ 24 ≤ barPend s s.curCore n + p →
          (copyNames s s.curCore n = true → exec (.bexp w) s = .next (stallAs s .other)) ∧
          (copyNames s s.curCore n = false → exec (.bexp w) s = .next (stopWord (.bexp w) (.trap 0x1C 1 0) s))))) ∧
    (w.sub ≠ 0 → issues (.barr w) s = true →
      let r := rdS s w.b
      let va := r.v.toNat
      (r.poi = true → exec (.barr w) s = .next (stopWord (.barr w) (.trap 0x15 0 0) s)) ∧
      (r.poi = false → va % 16 ≠ 0 → exec (.barr w) s = .next (stopWord (.barr w) (.trap 0x04 0 va) s)) ∧
      (r.poi = false → va % 16 = 0 → ∀ f, xlatPages s (curCtx s) .write false va 8 = .error f → exec (.barr w) s = .next (stopWord (.barr w) (.trap f.cause f.sub f.va) s)) ∧
      (r.poi = false → va % 16 = 0 → ∀ x, xlatPages s (curCtx s) .write false va 8 = .ok [x] →
        let barrier := x.kind = .window ∧ winSpace x.pa = 5 ∧ winOff x.pa < 0x8000 ∧ nbits x.pa 44 4 = 0
        let u := useXlats s (curCtx s) .write false [x]
        let o : MemOp := { kind := .arrive (winCore x.pa) (winOff x.pa / 16), scope := (w.imm.extractLsb' 11 2).toNat, ord := 2 }
        (¬barrier → exec (.barr w) s = .next (stopWord (.barr w) (.trap 0x06 6 va) s)) ∧
        (barrier → fenced u o = false → exec (.barr w) s = .next (complete (.barr w) false { s := u, op := some o, bound := classBound 0 } s)))) ∧
    (b < k.bcnt.toNat → w.sub = 0 → issues (.barr w) s = true →
      let o : MemOp := { kind := .arrive s.curCore n, scope := (w.imm.extractLsb' 11 2).toNat, ord := 2 }
      fenced s o = false → exec (.barr w) s = .next (complete (.barr w) false { s := s, op := some o, bound := classBound 0 } s)) ∧
    (b < k.bcnt.toNat → (phaseArg w s).2 = false →
      let v := barView s s.curCore n
      let d := v.phase - (phaseArg w s).1
      let ws := if s.curSt = .m then [Write.idx w.d.toNat { v := d }] else wrS w.d (BitVec.ofNat 64 (d.toNat + v.err.toNat * 2 ^ 32 + v.undr.toNat * 2 ^ 33)) false
      (issues (.btest w) s = true → exec (.btest w) s = .next (complete (.btest w) false
        { s := if d = 0 then noteBar s s.curCore n else acquireAction (noteBar s s.curCore n) s.curCore 3, writes := ws, atOnce := true } s)) ∧
      (issues (.bwait w) s = true → v.phase ≠ (phaseArg w s).1 → exec (.bwait w) s = .next (complete (.bwait w) false
        { s := acquireAction (noteBar s s.curCore n) s.curCore 3, writes := ws, atOnce := true } s)) ∧
      (issues (.bwait w) s = true → v.phase = (phaseArg w s).1 → exec (.bwait w) s = .next
        (parkCur (noteBar s s.curCore n) (.bar s.curCore n) (.cluster (clusterOfCore s.curCore)) (.phaseNot (phaseArg w s).1) 0)))

/-- R249, R378: the changes of one cycle to one barrier are applied in the order BINIT of A, BINIT of E, BEXP, arrivals, subtractions, whatever the order in which they
came; what each change does alone, BINIT, BEXP, an arrival and a subtraction of PEND; then completion is decided once: a phase completes when an arrival or a subtraction left ARRV and PEND 0, PHASE increments modulo 2^32 and ARRV reloads from
EXP. -/
def Obligations.BarrierCycle : Prop :=
  ∀ (b : Bar) (l : List BarChg),
    (∀ l₁ l₂ x y, l = l₁ ++ x :: y :: l₂ → x.kind.rank ≠ y.kind.rank → barSettle b (l₁ ++ y :: x :: l₂) = barSettle b l) ∧
    ((barSettle b l).2 = true → (barSettle b l).1.phase = b.phase + 1 ∧ (barSettle b l).1.arrv = (barSettle b l).1.exp ∧ (barSettle b l).1.pend = 0) ∧
    ((barSettle b l).2 = false → (barSettle b l).1.phase = b.phase) ∧
    ((∀ x ∈ l, x.kind = .initA ∨ x.kind = .initE ∨ x.kind = .expect) → (barSettle b l).2 = false) ∧
    (∀ x, l = [x] → x.n ≤ 4095 → x.err = false → x.kind = .initA ∨ x.kind = .initE →
      barSettle b l = ({ b with exp := BitVec.ofNat 12 x.n, arrv := BitVec.ofNat 12 x.n, err := false, undr := false }, false)) ∧
    (∀ x, l = [x] → x.err = false → x.kind = .expect → barSettle b l = ({ b with pend := BitVec.ofNat 24 (b.pend.toNat + x.n) }, false)) ∧
    (∀ x, l = [x] → x.kind = .sub →
      let err := b.err || x.err
      (x.n < b.pend.toNat → barSettle b l = ({ b with pend := BitVec.ofNat 24 (b.pend.toNat - x.n), err := err }, false)) ∧
      (x.n = b.pend.toNat → b.arrv ≠ 0 → barSettle b l = ({ b with pend := 0, err := err }, false)) ∧
      (x.n = b.pend.toNat → b.arrv = 0 → barSettle b l = ({ b with pend := 0, err := err, phase := b.phase + 1, arrv := b.exp }, true)) ∧
      (b.pend.toNat < x.n → (barSettle b l).1.undr = true ∧ (barSettle b l).1.err = true ∧ (barSettle b l).1.pend = 0 ∧ ((barSettle b l).2 = true ↔ b.arrv = 0))) ∧
    (∀ x, l = [x] → x.kind = .arrive → x.n = 1 → x.err = false →
      (b.arrv = 1 → b.pend ≠ 0 → (barSettle b l).1 = { b with arrv := 0 } ∧ (barSettle b l).2 = false) ∧
      (b.arrv.toNat = 0 → (barSettle b l).1 = { b with undr := true, err := true } ∧ (barSettle b l).2 = false) ∧
      (1 < b.arrv.toNat → (barSettle b l).1 = { b with arrv := b.arrv - 1 } ∧ (barSettle b l).2 = false) ∧
      (b.arrv = 1 → b.pend = 0 → (barSettle b l).1 = { b with phase := b.phase + 1, arrv := b.exp } ∧ (barSettle b l).2 = true))

/-- R446, R448, R451: the queue words: QBIND binds a stream queue to the 32-byte descriptor that it reads, QUNB unbinds it and leaves its blocks, QSTAT reads its control
word; a refused descriptor is ILLEGAL 1. -/
def Obligations.QueueWords : Prop :=
  ∀ (w : RR) (s : State),
    let q := 8 + w.imm.toNat % 4
    (issues (.qunb w) s = true → ∃ u, exec (.qunb w) s = .next (complete (.qunb w) false { s := u } s) ∧ u = modBank s (fun b => unbind b q) ∧
      ∀ b : Bank, (tget (unbind b q).sq q {}).bound = none ∧ (tget (unbind b q).sq q {}).count = (tget b.sq q {}).count ∧ (tget (unbind b q).sq q {}).slots = (tget b.sq q {}).slots) ∧
    (issues (.qstat w) s = true → exec (.qstat w) s = .next (done (.qstat w) s (wrS w.d (BitVec.ofNat 64 (queueSeen s.cycle (curBank s) (w.imm.toNat % 16))) false) 2)) ∧
    (∀ (b : Bank) (t n : Nat), (if 8 ≤ n ∧ n < 12 then (tget b.sq n {}).was else (tget b.q n {}).was).all (fun e => e.1 != t) = true → queueSeen t b n = queueWord b n) ∧
    (∀ (old b : Bank) (t n : Nat), queueSeen t (noteQueue t old b n) n = queueSeen t old n) ∧
    (issues (.qbind w) s = true → (rdS s w.a).poi = false →
      let va := (rdS s w.a).v.toNat
      (va % 32 ≠ 0 → exec (.qbind w) s = .next (stopWord (.qbind w) (.trap 0x04 0 va) s)) ∧
      (va % 32 = 0 → ∀ l, xlat s (curCtx s) .read false va 32 = .ok l →
        let o : MemOp := { kind := .load, va := va, n := 32, pieces := piecesOf l, ord := 2 }
        let r := readPieces (drainFor (useXlats s (curCtx s) .read false l) o) s.curCore 0 (piecesOf l)
        (drainFor (useXlats s (curCtx s) .read false l) o).curCore = s.curCore → waitsBehind s o = false → r.1.2 = false →
        (sdOk (BitVec.ofNat 256 r.1.1) = false → exec (.qbind w) s = .next (stopWord (.qbind w) (.trap 0x01 1 0) s)) ∧
        (sdOk (BitVec.ofNat 256 r.1.1) = true → exec (.qbind w) s = .next (complete (.qbind w) false
          { s := modBank r.2 fun b => { b with sq := tset b.sq q { tget b.sq q {} with bound := some { descVa := va, desc := BitVec.ofNat 256 r.1.1 } } } } s))))

/-! ## Vector registers (R119-R127, R171-R173) -/

/-- R119-R121, R125: what a word writes to a vector group of `g` registers. A narrow element has zeros above its code. The canonical pairs hold the same elements, every count in range, equal neighbours only
where a run is longer than a count can say, and they are the only pairs that do. They are written exactly when they fit (else RUNOVF) and no member exceeds the longest
length (else VLEN); then reading the members gives the canonical pairs; RC and LL are the numbers of pairs and elements, CAN is set, and no member is stale. R127: a mask result alike, in one register; k0 discards it. -/
def Obligations.CanonicalVectorResults : Prop :=
  (∀ (s : State) (d : Nat) (l : List Run) (poi : Bool), (∀ r ∈ l, r.1 < 2) →
    let p := canonRuns 32767 l
    writeMask s 0 l poi = .ok [] ∧ spreadRuns p = spreadRuns l ∧
    (0 < d → 256 < p.length → writeMask s d l poi = .error (.trap 0x08 0 0)) ∧
    (0 < d → p.length ≤ 256 → (spreadRuns l).length ≤ 16777215 ∧ ∃ r : VReg, writeMask s d l poi = .ok [.mask (physK (curBank s).krb d) r] ∧ maskRuns r = p ∧
      r.rc.toNat = p.length ∧ r.ll.toNat = (spreadRuns l).length ∧ r.can = true ∧ r.poi = poi ∧ r.stale = false)) ∧
  ∀ (s : State) (d g et : Nat) (l : List Run) (poi : Bool), et < 15 → (∀ r ∈ l, r.1 < 2 ^ etWidth et) →
    let c := clean (curBank s) et l
    let p := canonRuns (etMaxCount et) c
    spreadRuns c = (spreadRuns l).map (· % 2 ^ (if etNarrow et then (fdOf (curBank s) et).width else etWidth et)) ∧
    spreadRuns p = spreadRuns c ∧ (∀ r ∈ p, 1 ≤ r.2 ∧ r.2 ≤ etMaxCount et) ∧
    (∀ j a b, p[j]? = some a → p[j + 1]? = some b → a.1 = b.1 → a.2 = etMaxCount et) ∧
    (∀ q : List Run, spreadRuns q = spreadRuns c → (∀ r ∈ q, 1 ≤ r.2 ∧ r.2 ≤ etMaxCount et) →
      (∀ j a b, q[j]? = some a → q[j + 1]? = some b → a.1 = b.1 → a.2 = etMaxCount et) → q = p) ∧
    (p.length ≤ g * etCap et → ∀ j, j < g → 16777215 < runsTotal ((p.drop (j * etCap et)).take (etCap et)) → writeGroup s d g et l poi = .error (.trap 0x09 1 0)) ∧
    (g * etCap et < p.length → writeGroup s d g et l poi = .error (.trap 0x08 0 0)) ∧
    (p.length ≤ g * etCap et → (∀ j, runsTotal ((p.drop (j * etCap et)).take (etCap et)) ≤ 16777215) → ∃ ws, writeGroup s d g et l poi = .ok ws ∧ ws.length = g ∧
      ∀ j, j < g → ∃ r : VReg, ws[j]? = some (.vec (physV (curBank s).vrb (d + j)) r) ∧ vecRuns et r = (p.drop (j * etCap et)).take (etCap et) ∧
        r.et.toNat = et ∧ r.rc.toNat = (vecRuns et r).length ∧ r.ll.toNat = (spreadRuns (vecRuns et r)).length ∧ r.can = true ∧ r.poi = poi ∧ r.stale = false)

/-- R172, R173: an elementwise word over usable sources of one length answers: element `i` of its content is the operation on the sources' elements `i` where the
predicate enables it, else the old destination's element, or zero under zeroing; its poison is the OR of its sources', and its flags those of the operation on the enabled elements (R152). The
destination is a vector group or a mask. -/
def Obligations.ElementwiseMeaning : Prop :=
  ∀ (s : State) (w : VEC) (a : ElemArgs) (old : Option (Grp × List Run)) (n : Nat) (vo : Option Nat),
    (a.groups ≠ [] ∨ a.masks ≠ []) → (∀ g ∈ a.groups, SoundGroup g.1 g.2 n) → (∀ m ∈ a.masks, SoundMask m n) →
    (∀ m, predMask s w = some m → SoundMask m n) → (predMask s w = none → old = none) →
    (∀ o, old = some o → match vo with | some et => SoundGroup o.1 et n ∧ o.2 = o.1.runs et | none => SoundMask o.1 n ∧ o.2 = o.1.bits) →
    let cols := a.groups.map (fun g => spreadRuns (g.1.runs g.2)) ++ a.masks.map fun m => spreadRuns m.bits
    let on := fun i : Nat => match predMask s w with | none => true | some m => ((spreadRuns m.bits).getD i 0 != 0) != w.hdr.pn
    ∃ l fl k p, elementwise s w a old vo = .ok (l, fl, k, p) ∧
      spreadRuns l = (List.range n).map (fun i =>
        if on i then (a.op (cols.map fun c => c.getD i 0)).1 else match old with | some o => (spreadRuns o.2).getD i 0 | none => 0) ∧
      fl = flagsOr (((List.range n).filter on).map fun i => (a.op (cols.map fun c => c.getD i 0)).2) ∧
      p = (a.poi || a.groups.any (·.1.poi) || a.masks.any Grp.poi || (predMask s w).any Grp.poi || old.any (·.1.poi))

/-- R477, R123, R172: the checks of an elementwise word in their order: a stale source, a wrong type, unequal lengths of groups (subcause 0), a mask or an old
destination of another length (subcause 2). -/
def Obligations.ElementwiseChecks : Prop :=
  ∀ (s : State) (w : VEC) (a : ElemArgs) (old : Option (Grp × List Run)) (et : Nat) (g : Grp) (e : Nat) (rest : List (Grp × Nat)), a.groups = (g, e) :: rest → old = none →
    (g.stale = true → elementwise s w a old (some et) = .error (.trap 0x0A 0 g.code)) ∧
    ((∀ x ∈ a.groups, x.1.stale = false) → (∀ m ∈ a.masks, m.stale = false) → (∀ m, predMask s w = some m → m.stale = false) →
      ((∃ x ∈ a.groups, x.1.etOk x.2 = false) → elementwise s w a old (some et) = .error (.trap 0x09 4 0)) ∧
      ((∀ x ∈ a.groups, x.1.etOk x.2 = true) →
        ((∃ x ∈ a.groups, x.1.ll ≠ g.ll) → elementwise s w a old (some et) = .error (.trap 0x09 0 0)) ∧
        ((∀ x ∈ a.groups, x.1.ll = g.ll) → ((∃ m ∈ a.masks, m.ll ≠ g.ll) ∨ ∃ m, predMask s w = some m ∧ m.ll ≠ g.ll) →
          elementwise s w a old (some et) = .error (.trap 0x09 2 0))))

/-- R479, R480, R481, R483, R498: the elementwise words: the operation on each piece, the result group or mask, the bound, and one pass for 32 pieces. R168: what a special function
gives is one of the codes that the table's bound allows; which of them is the device's (log entry 6). -/
def Obligations.ElementwiseWords : Prop :=
  ∀ (w : VEC) (s : State),
    let c := vctx s w
    let a := readGroup s w.a (vg w)
    let vecs := fun (i : Instr) (g bound : Nat) (e : ElemArgs) => issues i s = true →
      (∀ l fl n p, elementwise s w e (oldGroup s w g (vet w)) (some (vet w)) = .ok (l, fl, n, p) →
        (∀ ws, writeGroup s w.d.toNat g (vet w) l p = .ok ws →
          exec i s = .next (complete i false { s := s, writes := ws, flags := fl, bound := bound, passes := passesOf n 32 } s)) ∧
        (∀ x, writeGroup s w.d.toNat g (vet w) l p = .error x → exec i s = .next (stopWord i x s))) ∧
      (∀ x, elementwise s w e (oldGroup s w g (vet w)) (some (vet w)) = .error x → exec i s = .next (stopWord i x s))
    let two := fun (i : Instr) (bound : Nat) (f : Nat → Nat → Nat × Flags) =>
      (w.bsel = 0 → vecs i (vg w) bound { groups := [(a, vet w), (readGroup s w.b (vg w), vet w)], op := fun v => f (v.getD 0 0) (v.getD 1 0) }) ∧
      (w.bsel = 1 → vecs i (vg w) bound { groups := [(a, vet w)], poi := (rdS s w.b).poi, op := fun v => f (v.getD 0 0) ((rdS s w.b).v.toNat % 2 ^ valWidth (curBank s) (vet w)) }) ∧
      (w.bsel = 2 → vecs i (vg w) bound { groups := [(a, vet w)], op := fun v => f (v.getD 0 0) (w.imm.toNat % 2 ^ valWidth (curBank s) (vet w)) })
    let masks := fun (e : ElemArgs) => issues (.vcmp w) s = true →
      (∀ l fl n p, elementwise s w e (oldMask s w) none = .ok (l, fl, n, p) →
        (∀ ws, writeMask s w.d.toNat l p = .ok ws →
          exec (.vcmp w) s = .next (complete (.vcmp w) false { s := s, writes := ws, flags := fl, bound := 20, passes := passesOf n 32 } s)) ∧
        (∀ x, writeMask s w.d.toNat l p = .error x → exec (.vcmp w) s = .next (stopWord (.vcmp w) x s))) ∧
      (∀ x, elementwise s w e (oldMask s w) none = .error x → exec (.vcmp w) s = .next (stopWord (.vcmp w) x s))
    let third := readGroup s w.c (vg w)
    let m := readMask s w.c.toNat
    let value := fun (f : BitVec 7) => (rdS s f).v.toNat % 2 ^ valWidth (curBank s) (vet w)
    let k := if w.bsel = 1 then (value w.b, (rdS s w.b).poi) else (w.imm.toNat % 2 ^ valWidth (curBank s) (vet w), false)
    let one := fun (i : Instr) (bound : Nat) (f : Nat → Nat × Flags) => vecs i (vg w) bound { groups := [(a, vet w)], op := fun v => f (v.getD 0 0) }
    let arith := if etInt (vet w) then 20 else 28
    two (.vadd w) arith (vopAdd c) ∧ two (.vsub w) arith (vopSub c) ∧ two (.vmul w) arith (vopMul c) ∧ two (.vmin w) arith (vopMinMax false c) ∧
    two (.vmax w) arith (vopMinMax true c) ∧ two (.vand w) 20 (vopAnd c) ∧ two (.vor w) 20 (vopOr c) ∧ two (.vxor w) 20 (vopXor c) ∧
    two (.vshl w) 20 (vopShl c) ∧ two (.vshr w) 20 (vopShr c) ∧ one (.vabs w) arith (vopAbs c) ∧ one (.vneg w) arith (vopNeg c) ∧
    one (.vsfu w) 64 (sfuElem (vet w) w.sub.toNat (ftzOn (curBank s))) ∧
    (∀ fn x, let r := sfuRange fn (fmtS.decode false x)
      codeOrd 0xFF800000 ≤ r.1 → r.1 ≤ r.2 → r.2 ≤ codeOrd 0x7F800000 → r.1 ≤ codeOrd (sfuFixed fn x) ∧ codeOrd (sfuFixed fn x) ≤ r.2) ∧
    (w.bsel = 0 → vecs (.vfma w) (vg w) arith { groups := [(a, vet w), (readGroup s w.b (vg w), vet w), (third, vet w)], op := fun v => vopFma c (v.getD 0 0) (v.getD 1 0) (v.getD 2 0) }) ∧
    (w.bsel ≠ 0 → vecs (.vfma w) (vg w) arith { groups := [(a, vet w), (third, vet w)], poi := k.2, op := fun v => vopFma c (v.getD 0 0) k.1 (v.getD 1 0) }) ∧
    (w.bsel = 0 → w.c.toNat ≠ 0 → vecs (.vsel w) (vg w) 20
      { groups := [(a, vet w), (readGroup s w.b (vg w), vet w)], masks := m.toList, op := fun v => (if v.getD 2 0 = 1 then v.getD 0 0 else v.getD 1 0, 0) }) ∧
    (w.bsel = 0 → w.c.toNat = 0 → vecs (.vsel w) (vg w) 20 { groups := [(a, vet w), (readGroup s w.b (vg w), vet w)], op := fun v => (v.getD 0 0, 0) }) ∧
    (w.bsel ≠ 0 → w.c.toNat ≠ 0 → vecs (.vsel w) (vg w) 20 { groups := [(a, vet w)], masks := m.toList, poi := k.2, op := fun v => (if v.getD 1 0 = 1 then v.getD 0 0 else k.1, 0) }) ∧
    (w.bsel ≠ 0 → w.c.toNat = 0 → vecs (.vsel w) (vg w) 20 { groups := [(a, vet w)], poi := k.2, op := fun v => (v.getD 0 0, 0) }) ∧
    (w.bsel = 0 → vecs (.vclamp w) (vg w) arith { groups := [(a, vet w), (readGroup s w.b (vg w), vet w), (third, vet w)], op := fun v => vopClamp c (v.getD 0 0) (v.getD 1 0) (v.getD 2 0) }) ∧
    (w.bsel ≠ 0 → vecs (.vclamp w) (vg w) arith
      { groups := [(a, vet w)], poi := (rdS s w.b).poi || (rdS s w.c).poi, op := fun v => vopClamp c (v.getD 0 0) (value w.b) (value w.c) }) ∧
    vecs (.vcvt w) (vcvtGroup w.g.toNat (vet w) w.sub.toNat) (if etWidth (vet w) > etWidth w.sub.toNat then 40 else 28)
      { groups := [(a, w.sub.toNat)], op := fun v => cvtElem (curBank s) (roundMode (curBank s) w.rm) w.sat (vet w) w.sub.toNat (v.getD 0 0) } ∧
    (w.bsel = 0 → masks { groups := [(a, vet w), (readGroup s w.b (vg w), vet w)], op := fun v => vopCmp w.sub.toNat c (v.getD 0 0) (v.getD 1 0) }) ∧
    (w.bsel ≠ 0 → masks { groups := [(a, vet w)], poi := k.2, op := fun v => vopCmp w.sub.toNat c (v.getD 0 0) k.1 })

/-- R143, R144, R480: integer element arithmetic: the exact result modulo 2^w, or clamped under SAT with SATF; shifts by the low bits of the count; comparisons as signed or
unsigned numbers, as the element type says. R147-R150, R155-R158, R401, R406: float and narrow element arithmetic: the exact result of the decoded elements, rounded once; conversion to a narrow format; and
conversions between element types. -/
def Obligations.IntegerElementArithmetic : Prop :=
  (∀ (d : NDesc) (rm : Nat), d.legal = true → rm ≤ 4 →
    let lo : Int := if d.e = 0 then -(d.bias : Int) else 1 - d.bias - d.m
    let inf := (2 ^ d.e - 1) * 2 ^ d.m
    let sign := fun n : Bool => if n = true ∧ d.s = true then 2 ^ (d.e + d.m) else 0
    (∀ c, c < 2 ^ d.width → (d.decode c).isNan = false → ((d.decode c).isInf = true → d.ovs = true) → d.round rm (d.decode c) = (c, 0)) ∧
    (∀ sig, d.round rm (.nan sig) = if d.spv = 0 then (0, flagIO) else ((if d.spv = 1 then 2 ^ (d.e + d.m) else inf + 2 ^ (d.m - 1)), 0)) ∧
    (∀ n, d.round rm (.inf n) = if n = true ∧ d.s = false then (0, flagIO) else if d.ovs = true ∧ d.spv = 2 then (sign n + inf, 0) else (sign n + d.maxCode, flagOF ||| flagIX)) ∧
    (∃ k g, d.decode d.maxCode = .num false k g ∧ ∀ c n m e, d.decode c = .num n m e → ∀ q, q ≤ e → q ≤ g → scaled false m e q ≤ scaled false k g q) ∧
    (∀ n e, d.round rm (.num n 0 e) = (if d.spv = 1 then 0 else sign n, 0)) ∧
    ∀ (n : Bool) (m : Nat) (e : Int), m ≠ 0 →
      let top : Int := Nat.log2 m + e
      let q := if d.e = 0 then lo else max (top - d.m) lo
      let r := roundAt rm n m e q
      let u := roundAt rm n m e (top - d.m)
      let tiny : Bool := if d.e = 0 then top < lo else Nat.log2 u.1 + (top - d.m) < 1 - d.bias
      let fl := (if r.2 then flagIX else 0) ||| (if r.2 = true ∧ tiny = true then flagUF else 0)
      let c := d.round rm (.num n m e)
      let isOver : Bool := match d.decode d.maxCode with | .num _ k g => scaled false k g lo < scaled false r.1 q lo | _ => false
      (r.1 ≠ 0 → n = true → d.s = false → c = (0, flagIO)) ∧
      (r.1 = 0 → c = (if d.spv = 1 then 0 else sign n, fl)) ∧
      (r.1 ≠ 0 → (n = true → d.s = true) →
        (isOver = true → c = (sign n + (if d.ovs = true ∧ d.spv = 2 ∧ (rm = 0 ∨ rm = 4 ∨ (rm = 2 ∧ n = false) ∨ (rm = 3 ∧ n = true)) then inf else d.maxCode), flagOF ||| flagIX)) ∧
        (isOver = false → (∃ k g, d.decode c.1 = .num n k g ∧ lo ≤ g ∧ scaled n k g lo = scaled n r.1 q lo) ∧ c.2 = fl))) ∧
  (∀ (c : VCtx) (x y z : Nat), etInt c.et = false → c.et < 15 →
    let v := fun a => if etNarrow c.et then c.nd.decode a else (etFmt c.et).decode c.ftz a
    let out := fun (r : Val × Bool) =>
      let t := if etNarrow c.et then c.nd.round c.rm r.1 else (etFmt c.et).round c.rm c.ftz r.1
      (t.1, t.2 ||| if r.2 then flagIO else 0)
    let rdn := decide (c.rm = 3)
    vopAdd c x y = out (vAdd rdn (v x) (v y)) ∧ vopSub c x y = out (vAdd rdn (v x) (v y).neg) ∧ vopMul c x y = out (vMul (v x) (v y)) ∧
    vopFma c x y z = out (vFma rdn (v x) (v y) (v z)) ∧
    (∀ sub, vopCmp sub c x y = ((vCond sub (v x) (v y)).toNat, cmpFlags sub (v x) (v y))) ∧
    (c.ftz = false → etNarrow c.et = false → x < 2 ^ etWidth c.et → y < 2 ^ etWidth c.et → (v x).isNan = false → (v y).isNan = false →
      vopMinMax false c x y = (if vBelow (v y) (v x) then y else x, 0) ∧ vopMinMax true c x y = (if vBelow (v x) (v y) then y else x, 0)) ∧
    (etNarrow c.et = false → x < 2 ^ etWidth c.et → vopAbs c x = (x % 2 ^ (etWidth c.et - 1), 0) ∧
      (vopNeg c x).1 % 2 ^ (etWidth c.et - 1) = x % 2 ^ (etWidth c.et - 1) ∧ ((vopNeg c x).1 < 2 ^ (etWidth c.et - 1) ↔ 2 ^ (etWidth c.et - 1) ≤ x)) ∧
    (etNarrow c.et = true → vopNeg c x = c.nd.round c.rm (v x).neg ∧ vopAbs c x = c.nd.round c.rm (if (v x).sign then (v x).neg else v x))) ∧
  (∀ (b : Bank) (rm : Nat) (sat : Bool) (dst src x : Nat), dst < 15 → src < 15 →
    let i := etIntVal src x
    let v := etVal src (fdOf b src) (ftzOn b) x
    (etInt src = true → v = .num (decide (i < 0)) i.natAbs 0) ∧
    (etInt src = true → etInt dst = true → cvtElem b rm sat dst src x =
      if sat = true ∧ etWidth dst ≤ etWidth src ∧ i < etMin dst then ((etMin dst % 2 ^ etWidth dst).toNat, flagSATF)
      else if sat = true ∧ etWidth dst ≤ etWidth src ∧ etMax dst < i then ((etMax dst % 2 ^ etWidth dst).toNat, flagSATF) else ((i % 2 ^ etWidth dst).toNat, 0)) ∧
    (etInt src = false → etInt dst = true → cvtElem b rm sat dst src x =
      (((toIntRange rm (etMin dst) (etMax dst) v).1 % 2 ^ etWidth dst).toNat, (toIntRange rm (etMin dst) (etMax dst) v).2)) ∧
    (etFloat dst = true → cvtElem b rm sat dst src x =
      (((etFmt dst).round rm (ftzOn b) v).1, ((etFmt dst).round rm (ftzOn b) v).2 ||| if v.signalling then flagIO else 0)) ∧
    (etNarrow dst = true → (src ≠ dst ∨ v.isNan = true) → cvtElem b rm sat dst src x = (((fdOf b dst).round rm v).1, ((fdOf b dst).round rm v).2 ||| if v.signalling then flagIO else 0)) ∧
    (etNarrow dst = true → src = dst → v.isNan = false → cvtElem b rm sat dst src x = (x % 2 ^ (fdOf b src).width, 0))) ∧
  ∀ (c : VCtx) (x y : Nat), etInt c.et = true → c.et < 15 →
    let w := etWidth c.et
    let wrap := fun (v : Int) => if c.sat = false ∨ (etMin c.et ≤ v ∧ v ≤ etMax c.et) then (v % 2 ^ w).toNat else if v < etMin c.et then (etMin c.et % 2 ^ w).toNat else (etMax c.et % 2 ^ w).toNat
    let satf : Int → Flags := fun v => if c.sat = true ∧ ¬(etMin c.et ≤ v ∧ v ≤ etMax c.et) then flagSATF else 0
    (vopAdd c x y).1 = wrap (etIntVal c.et x + etIntVal c.et y) ∧ (vopSub c x y).1 = wrap (etIntVal c.et x - etIntVal c.et y) ∧
    (vopMul c x y).1 = wrap (etIntVal c.et x * etIntVal c.et y) ∧ (vopNeg c x).1 = wrap (-(etIntVal c.et x)) ∧
    (vopAdd c x y).2 = satf (etIntVal c.et x + etIntVal c.et y) ∧ (vopSub c x y).2 = satf (etIntVal c.et x - etIntVal c.et y) ∧
    (vopMul c x y).2 = satf (etIntVal c.et x * etIntVal c.et y) ∧ (vopNeg c x).2 = satf (-(etIntVal c.et x)) ∧
    (vopShl c x y).1 = wrap (etIntVal c.et x * 2 ^ (y % w)) ∧ (vopShr c x y).1 = (etIntVal c.et x / 2 ^ (y % w) % 2 ^ w).toNat ∧
    (vopMinMax false c x y).1 = (if etIntVal c.et x ≤ etIntVal c.et y then x else y) ∧ (vopMinMax true c x y).1 = (if etIntVal c.et y ≤ etIntVal c.et x then x else y) ∧
    (x < 2 ^ w → etMin c.et ≤ etIntVal c.et x ∧ etIntVal c.et x ≤ etMax c.et ∧ (etIntVal c.et x % 2 ^ w).toNat = x)

/-- R482, R484, R486, R492, R494: the words that build, rearrange, measure and repair vector registers, once their counts are not poisoned and their sources are not stale
and have the type. A content goes through the predicate and the old destination. -/
def Obligations.VectorBuildWords : Prop :=
  ∀ (w : VEC) (s : State),
    let et := vet w
    let g := vg w
    let a := readGroup s w.a g
    let n := (w.imm.extractLsb' 0 24).toNat
    let cnt := fun f => (rdS s f).v.toNat
    let sc := fun f => ((rdS s f).v.toNat % 2 ^ valWidth (curBank s) et, (rdS s f).poi)
    let fresh := contentStale s w g et [] = .ok ()
    let count := cnt w.b + n
    let some_ := fun (l : List Run) => if count = 0 then [] else l
    (∀ i : Instr, (i = .vsplat w ∨ i = .viota w) → issues i s = true →
      (∀ x, contentStale s w g et [] = .error x → exec i s = .next (stopWord i x s)) ∧
      (fresh → (rdS s w.b).poi = true → exec i s = .next (stopWord i (.trap 0x15 0 0) s)) ∧
      (fresh → (rdS s w.b).poi = false → 16777215 < count → exec i s = .next (stopWord i (.trap 0x09 1 0) s))) ∧
    (issues (.vsplat w) s = true → fresh → (rdS s w.b).poi = false → count ≤ 16777215 →
      Runs (.vsplat w) s (contentVec s w g et 20 (some_ [((sc w.a).1, count)]) none (sc w.a).2)) ∧
    (issues (.viota w) s = true → fresh → (rdS s w.b).poi = false → count ≤ 16777215 → ∃ l, Runs (.viota w) s (contentVec s w g et 20 l none ((sc w.a).2 || (sc w.c).2)) ∧
      spreadRuns l = (List.range count).map fun j => if (sc w.c).1 = 0 then (sc w.a).1 else ((sc w.a).1 + j * (sc w.c).1) % 2 ^ etWidth et) ∧
    (issues (.vcat w) s = true → contentStale s w g et [a, readGroup s w.b g] = .ok () → a.etOk et = true → (readGroup s w.b g).etOk et = true →
      Runs (.vcat w) s (contentVec s w g et 20 (a.runs et ++ (readGroup s w.b g).runs et) (a.rc + (readGroup s w.b g).rc) (a.poi || (readGroup s w.b g).poi))) ∧
    (issues (.vrev w) s = true → contentStale s w g et [a] = .ok () → a.etOk et = true → Runs (.vrev w) s (contentVec s w g et 20 (a.runs et).reverse (some a.rc) a.poi)) ∧
    (issues (.vslice w) s = true → contentStale s w g et [a] = .ok () → (rdS s w.b).poi = false → (rdS s w.c).poi = false → a.etOk et = true →
      (a.ll < cnt w.b + (cnt w.c + n) → exec (.vslice w) s = .next (stopWord (.vslice w) (.trap 0x09 0 0) s)) ∧
      (cnt w.b + (cnt w.c + n) ≤ a.ll → Runs (.vslice w) s (contentVec s w g et 20 (sliceRuns (a.runs et) (cnt w.b) (cnt w.c + n)) (some a.rc) a.poi))) ∧
    (issues (.vext w) s = true → a.stale = false → (rdS s w.b).poi = false → a.etOk et = true →
      (a.ll ≤ cnt w.b + n → exec (.vext w) s = .next (stopWord (.vext w) (.trap 0x09 0 0) s)) ∧
      (cnt w.b + n < a.ll → exec (.vext w) s = .next (complete (.vext w) false
        { s := s, writes := wrS w.d (elemScalar (curBank s) et (elemAt (a.runs et) (cnt w.b + n))) a.poi, bound := 20, passes := passesOf a.rc 32 } s))) ∧
    (issues (.vins w) s = true → a.stale = false → (rdS s w.c).poi = false → a.etOk et = true → cnt w.c + n < a.ll → ∀ ws,
      writeGroup s w.d.toNat g et (sliceRuns (a.runs et) 0 (cnt w.c + n) ++ [((sc w.b).1, 1)] ++ sliceRuns (a.runs et) (cnt w.c + n + 1) (a.ll - (cnt w.c + n) - 1)) (a.poi || (sc w.b).2) = .ok ws →
      exec (.vins w) s = .next (complete (.vins w) false { s := s, writes := ws, bound := 20, passes := passesOf a.rc 32 } s)) ∧
    (issues (.vsetl w) s = true → a.stale = false → (rdS s w.b).poi = false → a.etOk et = true → cnt w.b + n ≤ 16777215 → ∀ ws,
      writeGroup s w.d.toNat g et (if cnt w.b + n ≤ a.ll then sliceRuns (a.runs et) 0 (cnt w.b + n) else a.runs et ++ [(0, cnt w.b + n - a.ll)]) a.poi = .ok ws →
      exec (.vsetl w) s = .next (complete (.vsetl w) false { s := s, writes := ws, bound := 20, passes := passesOf a.rc 32 } s)) ∧
    (issues (.vlen w) s = true →
      let r := (readGroup s w.a 1).regs.headD {}
      exec (.vlen w) s = .next (done (.vlen w) s (wrS w.d (BitVec.ofNat 64 (if w.sub = 0 then r.ll.toNat else if w.sub = 1 then r.rc.toNat else if w.sub = 2 then r.et.toNat
        else if w.sub = 3 then statusWord r false else etCap et)) (if w.sub.toNat ≤ 2 then r.poi else false)) 20)) ∧
    (issues (.vrco w) s = true →
      let d := readGroup s w.d g
      let parts := d.regs.map fun r => clean (curBank s) et (vecRuns et r)
      let out := fun (ws : List Write) => exec (.vrco w) s = .next (complete (.vrco w) false { s := s, writes := ws, bound := 40, passes := passesOf (parts.foldl (fun a l => a + l.length) 0) 32 } s)
      ((∃ l ∈ parts, 16777215 < runsTotal l) → exec (.vrco w) s = .next (stopWord (.vrco w) (.trap 0x09 1 0) s)) ∧
      ((∀ l ∈ parts, runsTotal l ≤ 16777215) →
        (w.sub = 0 → (∀ ws, writeGroup s w.d.toNat g et parts.flatten d.poi = .ok ws → out ws) ∧
          ∀ x, writeGroup s w.d.toNat g et parts.flatten d.poi = .error x → exec (.vrco w) s = .next (stopWord (.vrco w) x s)) ∧
        (w.sub ≠ 0 → et < 15 → ∃ ws : List Write, out ws ∧ ws.length = g ∧ ∀ j r, d.regs[j]? = some r → ∃ v : VReg, ws[j]? = some (Write.vec (physV (curBank s).vrb (w.d.toNat + j)) v) ∧
          vecRuns et v = clean (curBank s) et (vecRuns et r) ∧ v.et = w.et ∧ v.rc.toNat = (vecRuns et v).length % 1024 ∧ v.ll.toNat = runsTotal (vecRuns et v) ∧
          v.can = decide (canonRuns (etMaxCount et) (vecRuns et v) = vecRuns et v) ∧ v.poi = r.poi ∧ v.stale = false)))

/-- R482, R495: elements of a list of runs, by their elements: a slice, one element, and an integer sum, maximum and minimum, whatever runs hold the elements. -/
def Obligations.RunListsByElements : Prop :=
  (∀ (l : List Run) (a n : Nat), (∀ r ∈ l, 0 < r.2) → a + n ≤ (spreadRuns l).length →
    spreadRuns (sliceRuns l a n) = ((spreadRuns l).drop a).take n ∧ (0 < n → elemAt l a = (spreadRuns l).getD a 0)) ∧
  (∀ (c : VCtx) (l : List Run), etInt c.et = true → (∀ r ∈ l, 0 < r.2) → l ≠ [] →
    l.foldl (fun a r => accSum c a r.1 r.2) .none_ = .int ((spreadRuns l).map (etIntVal c.et)).sum ∧
    (∃ m, l.foldl (fun a r => accExt true c a r.1) .none_ = .int m ∧ m ∈ (spreadRuns l).map (etIntVal c.et) ∧ ∀ x ∈ spreadRuns l, etIntVal c.et x ≤ m) ∧
    (∃ m, l.foldl (fun a r => accExt false c a r.1) .none_ = .int m ∧ m ∈ (spreadRuns l).map (etIntVal c.et) ∧ ∀ x ∈ spreadRuns l, m ≤ etIntVal c.et x))

/-- R489, R493, R136, R211, R212: the words between vector registers and accumulator tiles. VLDA reads a row of the tile that its accumulator maps, VSTA writes one, VPARK and
VUNPK move a register's 512 bytes to a park slot and back; VLDA stalls while a matrix command that writes the tile has not completed. A row that such a command still
writes or a drain still reads is undefined after VSTA and VPARK, and so are the row and the register after VUNPK. Each word completes on its conditions alone. -/
def Obligations.AccumulatorRowWords : Prop :=
  ∀ (w : VEC) (s : State) (n : Nat),
    let et := vet w
    let cl := clusterOfCore s.curCore
    let t := accTile (clusterOf s cl) n
    let map := fun a => nbits (curBank s).accmap.toNat (6 * a) 6
    let p := parkSlot w
    let row := p / 3 % 128
    let o := 512 * (p % 3)
    (issues (.vlda w) s = true → nbit (map (accOf w).toNat) 5 = true → map (accOf w).toNat % 32 = n →
      (tileBusy s s.curCore (curFg s) n = true → exec (.vlda w) s = .next (stallAs s .other)) ∧
      (tileBusy s s.curCore (curFg s) n = false → aftOk t et = true →
        let l := (List.range 256).map fun k => if t.aft then (vctx s w).round (acfVal (accElem t (rowOf w) k)) false else etWrap et w.sat (sintN 48 (accElem t (rowOf w) k))
        let q := canonRuns (etMaxCount et) (clean (curBank s) et (l.map fun x => (x.1, 1)))
        (vg w * etCap et < q.length → exec (.vlda w) s = .next (stopWord (.vlda w) (.trap 0x08 0 0) s)) ∧
        (q.length ≤ vg w * etCap et → ∃ ws, writeGroup s w.d.toNat (vg w) et (l.map fun x => (x.1, 1)) (accPoison t (1536 * rowOf w) 1536) = .ok ws ∧
          exec (.vlda w) s = .next (complete (.vlda w) false { s := s, writes := ws, flags := flagsOr (l.map (·.2)), bound := 32 } s)))) ∧
    (issues (.vsta w) s = true → nbit (map (accOf w).toNat) 5 = true → map (accOf w).toNat % 32 = n →
      let g := readGroup s w.d (vg w)
      let t' := accPut t (rowOf w) 0 1536 ((spreadRuns (g.runs et)).foldr (fun x a => accWiden (vctx s w) t.aft x + 2 ^ 48 * a) 0) g.poi
      g.stale = false → aftOk t et = true → g.etOk et = true → g.ll = 256 →
      (rowBusy s s.curCore (curFg s) n (rowOf w) = false →
        exec (.vsta w) s = .next (complete (.vsta w) false
          { s := updCluster s cl fun k => setTile k n { t' with poi := t'.poi || g.poi }, passes := passesOf g.rc 32 } s) ∧
        (SoundGroup g et 256 → ∀ k, k < 256 → accElem t' (rowOf w) k = accWiden (vctx s w) t.aft ((spreadRuns (g.runs et)).getD k 0))) ∧
      (rowBusy s s.curCore (curFg s) n (rowOf w) = true →
        ∃ u, exec (.vsta w) s = .next (complete (.vsta w) false { s := u, passes := passesOf g.rc 32 } s) ∧ (g.poi = false → u = clashRow s s.curCore (curFg s) n (rowOf w)) ∧
          (g.poi = true → accPoison (accTile (clusterOf u cl) n) (1536 * rowOf w) 1536 = true ∧ (accTile (clusterOf u cl) n).poi = true))) ∧
    (∀ i : Instr, (i = .vpark w ∨ i = .vunpk w) → issues i s = true → 3 * (curBank s).parkav.toNat ≤ p → exec i s = .next (stopWord i (.trap 0x06 0 0x400) s)) ∧
    (p < 3 * (curBank s).parkav.toNat → nbit (map (p / 384 % 8)) 5 = true → map (p / 384 % 8) % 32 = n →
      (issues (.vpark w) s = true →
        let r := (readGroup s w.a 1).regs.headD {}
        (rowBusy s s.curCore (curFg s) n row = false →
          exec (.vpark w) s = .next (complete (.vpark w) false { s := updCluster s cl fun k => setTile k n (accPut t row o 512 r.pairs.toNat r.poi) } s) ∧
          nbits (accRow (accPut t row o 512 r.pairs.toNat r.poi) row).toNat (8 * o) 4096 = r.pairs.toNat) ∧
        (rowBusy s s.curCore (curFg s) n row = true → ∃ u, exec (.vpark w) s = .next (complete (.vpark w) false { s := u } s) ∧
          (r.poi = false → u = clashRow s s.curCore (curFg s) n row) ∧ (r.poi = true → accPoison (accTile (clusterOf u cl) n) (1536 * row + o) 512 = true))) ∧
      (issues (.vunpk w) s = true →
        let l := vecRuns et { pairs := BitVec.ofNat 4096 (nbits (accRow t row).toNat (8 * o) 4096) }
        (rowBusy s s.curCore (curFg s) n row = true → exec (.vunpk w) s = .next (complete (.vunpk w) false
          { s := clashRow s s.curCore (curFg s) n row, bound := 32, writes := [.vec (physV (curBank s).vrb w.d.toNat) { undefVec s.fresh 3000000 with et := w.et }] } s)) ∧
        (rowBusy s s.curCore (curFg s) n row = false → 16777215 < runsTotal l → exec (.vunpk w) s = .next (stopWord (.vunpk w) (.trap 0x09 1 0) s)) ∧
        (rowBusy s s.curCore (curFg s) n row = false → runsTotal l ≤ 16777215 →
          ∃ r : VReg, exec (.vunpk w) s = .next (done (.vunpk w) s [.vec (physV (curBank s).vrb w.d.toNat) r] 32) ∧
            vecRuns et r = l ∧ r.et = w.et ∧ r.rc.toNat = l.length % 1024 ∧ r.ll.toNat = runsTotal l ∧ r.stale = false ∧ r.poi = accPoison t (1536 * row + o) 512)))

/-- R177-R179, R495-R497: reductions to a scalar, segment reductions and scans, over the enabled runs. -/
def Obligations.ReductionWords : Prop :=
  ∀ (w : VEC) (s : State),
    let c := vctx s w
    let a := readGroup s w.a (vg w)
    let red := fun (i : Instr) (gs : List Grp) (fn : Nat) (f : Acc1 → List Nat × Nat → Acc1) (k : Nat) => issues i s = true →
      (∀ l raw p, reducePieces s w gs = .ok (l, raw, p) →
        let r := l.foldl f .none_
        exec i s = .next (complete i false (reduceOut s w fn r (sigFlag c (l.flatMap fun e => e.1.take k)) raw p) s)) ∧
      (∀ x, reducePieces s w gs = .error x → exec i s = .next (stopWord i x s))
    red (.vrsum w) [a] 0 (fun x e => accSum c x (e.1.headD 0) e.2) 1 ∧
    red (.vrmax w) [a] 1 (fun x e => accExt true c x (e.1.headD 0)) 1 ∧
    red (.vrmin w) [a] 2 (fun x e => accExt false c x (e.1.headD 0)) 1 ∧
    red (.vrdot w) [a, readGroup s w.b (vg w)] 0 (fun x e => accDot c x (e.1.getD 0 0) (e.1.getD 1 0) e.2) 2 ∧
    (let m := readMask s w.c.toNat
     (∀ i : Instr, (i = .vsegsum w ∨ i = .vsegmax w ∨ i = .vscan w) → issues i s = true →
        (a.stale = true → exec i s = .next (stopWord i (.trap 0x0A 0 a.code) s)) ∧
        (a.stale = false → ∀ k, m = some k → k.stale = true → exec i s = .next (stopWord i (.trap 0x0A 0 k.code) s)) ∧
        (a.stale = false → (∀ k ∈ m, k.stale = false) → a.etOk (vet w) = false → exec i s = .next (stopWord i (.trap 0x09 4 0) s)) ∧
        (a.stale = false → (∀ k ∈ m, k.stale = false) → a.etOk (vet w) = true → (∃ k ∈ m, k.ll ≠ a.ll) → exec i s = .next (stopWord i (.trap 0x09 2 0) s)))) ∧
    (let m := readMask s w.c.toNat
     a.stale = false → a.etOk (vet w) = true → (∀ k ∈ m, k.stale = false ∧ k.ll = a.ll) →
      let l := a.canon (vet w)
      let poi := a.poi || m.any Grp.poi
      let passes := passesOf (piecesAligned (a.runs (vet w) :: m.toList.map Grp.bits)).length 32
      let seg := fun (i : Instr) (fn : Nat) => issues i s = true →
        let r := (segments (accOp fn c) none (segPieces l (m.map Grp.joined) 1)).map fun e => (accOut c fn e.1, e.2)
        ∀ ws, writeGroup s w.d.toNat (vg w) (vet w) (r.map fun e => (e.1.1, e.2)) poi = .ok ws →
          exec i s = .next (complete i false { s := s, writes := ws, flags := flagsOr (r.map (·.1.2)) ||| sigFlag c (l.map Prod.fst), bound := 48, passes := passes } s)
      seg (.vsegsum w) 0 ∧ seg (.vsegmax w) 1 ∧
      (issues (.vscan w) s = true →
        let r := (scanAll (fun x v => accOp w.sub.toNat c x v 1) 0 .none_ (segPieces l (m.map Grp.joined) 0)).map (accOut c w.sub.toNat)
        ∀ ws, writeGroup s w.d.toNat (vg w) (vet w) (r.map fun e => (e.1, 1)) poi = .ok ws →
          exec (.vscan w) s = .next (complete (.vscan w) false
            { s := s, writes := ws, flags := flagsOr (r.map (·.2)) ||| sigFlag c (l.map Prod.fst), bound := 48, passes := passes } s)))

/-- R414-R416, R396, R170: the mask words, with k0 enabling every element wherever it is a source, and DACC in both forms, each with its stops. -/
def Obligations.MaskWords : Prop :=
  ∀ (w : VEC) (s : State),
    let ma := readMask s w.a.toNat
    let mb := readMask s w.b.toNat
    let pred := predMask s w
    let stops := fun (i : Instr) (x : Stop) => exec i s = .next (stopWord i x s)
    let mask := fun (i : Instr) (ms : List Grp) (f : List Nat → Nat) => issues i s = true →
      let e := elementwise s w { groups := [], masks := ms, op := fun v => (f v % 2, 0) } (oldMask s w) none
      (∀ x, e = .error x → stops i x) ∧ ∀ l fl n p, e = .ok (l, fl, n, p) → (∀ x, writeMask s w.d.toNat l p = .error x → stops i x) ∧
        ∀ ws, writeMask s w.d.toNat l p = .ok ws → exec i s = .next (complete i false { s := s, writes := ws, flags := fl, bound := 20, passes := passesOf n 32 } s)
    let x := fun (v : List Nat) => if w.a.toNat = 0 then 1 else v.getD 0 0
    let y := fun (v : List Nat) => if w.b.toNat = 0 then 1 else v.getD (if w.a.toNat = 0 then 0 else 1) 0
    mask (.kand w) (ma.toList ++ mb.toList) (fun v => x v &&& y v) ∧ mask (.kor w) (ma.toList ++ mb.toList) (fun v => x v ||| y v) ∧
    mask (.kxor w) (ma.toList ++ mb.toList) (fun v => x v ^^^ y v) ∧ mask (.knot w) ma.toList (fun v => 1 - x v) ∧ mask (.kmov w) ma.toList x ∧
    (w.a.toNat = 0 → ma = none) ∧ (0 < w.a.toNat → ∃ m, ma = some m) ∧
    (∀ n, (ma = none → pred ≠ none) → (∀ m, ma = some m → SoundMask m n) → (∀ m, pred = some m → SoundMask m n) → ∃ l k, maskElems w s = .ok (l, k, ma.any Grp.poi || pred.any Grp.poi) ∧
      spreadRuns l = (List.range n).map fun i => if (ma.all fun m => (spreadRuns m.bits).getD i 0 != 0) && (pred.all fun m => ((spreadRuns m.bits).getD i 0 != 0) != w.hdr.pn) then 1 else 0) ∧
    (∀ i : Instr, (i = .kcnt w ∨ i = .kfirst w) → issues i s = true →
      (∀ x, staleCheck (ma.toList ++ pred.toList) = .error x → stops i x) ∧
      (staleCheck (ma.toList ++ pred.toList) = .ok () → (∃ a b, ma = some a ∧ pred = some b ∧ a.ll ≠ b.ll) → stops i (.trap 0x09 2 0)) ∧
      (ma = none → pred = none → stops i (.trap 0x01 1 0))) ∧
    (∀ l n p, maskElems w s = .ok (l, n, p) →
      (issues (.kcnt w) s = true → exec (.kcnt w) s = .next (complete (.kcnt w) false
        { s := s, writes := wrS w.d (BitVec.ofNat 64 (runsTotal (l.filter fun r => r.1 = 1))) p, bound := 32, passes := passesOf n 32 } s)) ∧
      (issues (.kfirst w) s = true → exec (.kfirst w) s = .next (complete (.kfirst w) false
        { s := s, writes := wrS w.d (BitVec.ofNat 64 (runsTotal (l.takeWhile fun r => r.1 = 0))) p, bound := 32, passes := passesOf n 32 } s))) ∧
    (issues (.dacc w) s = true →
      let gp := readGroup s (w.imm.extractLsb' 0 7) 1
      let gq := readGroup s (w.imm.extractLsb' 7 7) 1
      let gr := if w.sub = 0 then [] else [readGroup s w.c 1]
      let types := gp.etOk 14 = true ∧ gq.etOk 14 = true ∧ ∀ g ∈ gr, g.etOk 12 = true ∨ g.etOk 13 = true
      let lengths := gp.ll = gq.ll ∧ ∀ g ∈ gr, g.ll = gp.ll
      (∀ x, staleCheck ([gp, gq] ++ gr) = .error x → stops (.dacc w) x) ∧
      (staleCheck ([gp, gq] ++ gr) = .ok () →
        (¬types → stops (.dacc w) (.trap 0x09 4 0)) ∧ (types → ¬lengths → stops (.dacc w) (.trap 0x09 0 0)) ∧ (types → lengths → 64 < gp.ll → stops (.dacc w) (.trap 0x09 1 0)) ∧
        (types → lengths → gp.ll ≤ 64 →
          let ftz := ftzOn (curBank s)
          let draw := if w.sub = 0 then (List.range gp.ll).map fun i => nbits (hashr (rdS s w.a).v ((rdS s w.b).v + BitVec.ofNat 64 i)).toNat 40 24
            else (elementsOf ((readGroup s w.c 1).runs 12)).map (· % 2 ^ 24)
          let acc := (List.zip ((elementsOf (gp.runs 14)).map (fmtS.decode ftz)) (List.zip ((elementsOf (gq.runs 14)).map (fmtS.decode ftz)) draw)).map fun e => daccPos e.1 e.2.1 e.2.2
          let poi := gp.poi || gq.poi || gr.any Grp.poi || (decide (w.sub = 0) && ((rdS s w.a).poi || (rdS s w.b).poi))
          (∀ x, writeMask s (w.imm.extractLsb' 14 4).toNat (acc.map fun e => (e.1.toNat, 1)) poi = .error x → stops (.dacc w) x) ∧
          ∀ ws, writeMask s (w.imm.extractLsb' 14 4).toNat (acc.map fun e => (e.1.toNat, 1)) poi = .ok ws →
            exec (.dacc w) s = .next (complete (.dacc w) false
              { s := s, writes := wrS w.d (BitVec.ofNat 64 ((acc.map Prod.fst).takeWhile id).length) poi ++ ws, flags := flagsOr (acc.map Prod.snd), bound := 32 } s)))) ∧
    -- a position (R170): p and q finite and not negative; accepted when r q < p 2^24, or p is not below q
    (∀ (a b : Bool) (m n : Nat) (e f : Int) (r : Nat),
      daccPos (.num a m e) (.num b n f) r =
        if (a = true ∧ m ≠ 0) ∨ (b = true ∧ n ≠ 0) then (false, flagDIN)
        else (decide (scaled false n f (min e f) ≤ scaled false m e (min e f) ∨ r * scaled false n f (min e f) < scaled false m e (min e f) * 2 ^ 24), 0)) ∧
    (∀ (v u : Val) (r : Nat), (v.isNan = true ∨ v.isInf = true ∨ u.isNan = true ∨ u.isInf = true) → daccPos v u r = (false, flagDIN))

/-- R487, R485, R490, R491, R488: the vector memory words, in every form, under any predicate. What their bytes are as elements (R182, R184, R185, R485), which bytes a store writes and poisons (R183), that
every range is checked before any effect; then each word: its stops in order, what it reads at its issue and writes, or, of a free choice, reads later (R266, R268; log entry 10), and what it stores, in
pieces each to be performed at its point (R261, R266, R268). -/
def Obligations.VectorMemoryWords : Prop :=
  (∀ (wd v k n : Nat) (rows : List Nat) (l : List (Option Nat × Nat)) (x : Nat), 0 < wd →
    VForm.runs (.dense []) wd v = [] ∧
    VForm.runs (.dense (k :: rows)) wd v = unpackElems wd k (v % 256 ^ ceilDiv (k * wd) 8) ++ VForm.runs (.dense rows) wd (v / 256 ^ ceilDiv (k * wd) 8) ∧
    spreadRuns (unpackElems wd n v) = (List.range n).map (fun i => v / 2 ^ (wd * i) % 2 ^ wd) ∧
    (v / 2 ^ wd % 2 ^ wd = 0 → VForm.runs (.pairs (n + 1)) wd v = []) ∧ VForm.runs (.pairs 0) wd v = [] ∧
    (v / 2 ^ wd % 2 ^ wd ≠ 0 → VForm.runs (.pairs (n + 1)) wd v = (v % 2 ^ wd, v / 2 ^ wd % 2 ^ wd) :: VForm.runs (.pairs n) wd (v / 2 ^ (2 * wd))) ∧
    VForm.runs (.picks []) wd v = [] ∧ VForm.runs (.picks ((none, n) :: l)) wd v = (v % 2 ^ wd, n) :: VForm.runs (.picks l) wd (v / 2 ^ wd) ∧
    VForm.runs (.picks ((some x, n) :: l)) wd v = (x, n) :: VForm.runs (.picks l) wd v) ∧
  (∀ (l : List Run) (pred old : Option (List Run)) (pn : Bool) (n : Nat), (∀ r ∈ l, 0 < r.2) → (spreadRuns l).length = n →
    (∀ p, pred = some p → (∀ r ∈ p, 0 < r.2) ∧ (spreadRuns p).length = n) → (∀ o, old = some o → (∀ r ∈ o, 0 < r.2) ∧ (spreadRuns o).length = n) →
    (gathPicks l pred pn old).flatMap (fun e => List.replicate e.2 e.1) = (List.range n).map fun i =>
      if (match pred with | none => true | some p => ((spreadRuns p).getD i 0 != 0) != pn) then none else some (match old with | some o => (spreadRuns o).getD i 0 | none => 0)) ∧
  (∀ (g : Grp) (et wd n i : Nat) (pred : Option Grp) (pn : Bool), wd = etWidth et → et < 15 → SoundGroup g et n →
    (∀ p, pred = some p → SoundMask p n) →
    ((∃ e ∈ groupStretches wd g pred pn, e.1 ≤ i ∧ i < e.1 + e.2.1) ↔
      ∃ k, k < n ∧ (match pred with | none => true | some p => ((spreadRuns p.bits).getD k 0 != 0) != pn) = true ∧ k * wd / 8 ≤ i ∧ i < ceilDiv ((k + 1) * wd) 8)) ∧
  (∀ (w : VEC) (x : List Xlat) (va n v i : Nat) (en : List Stretch), (x.all fun p => p.kind != .mmio && p.kind != .window) = true →
    List.Pairwise (fun (a b : Stretch) => a.1 ≤ b.1 ∧ a.1 + a.2.1 ≤ b.1 + b.2.1) en → (∀ e ∈ en, 0 < e.2.1 ∧ e.1 + e.2.1 ≤ n) → i < n →
    let ops := storeOps w x va n v en
    let holds := fun (o : MemOp) => o.va ≤ va + i ∧ va + i < o.va + o.n
    ((∃ o ∈ ops, holds o) ↔ ∃ e ∈ en, e.1 ≤ i ∧ i < e.1 + e.2.1) ∧
    (∀ o ∈ ops, holds o → o.kind = .store ∧ o.scope = vmScope w ∧ o.ord = vmOrd w ∧ o.va / 32 = (va + i) / 32 ∧ o.data / 256 ^ (va + i - o.va) % 256 = v / 256 ^ i % 256 ∧
      (o.pdata = true ↔ ∃ e ∈ en, e.2.2 = true ∧ ∃ j, j < n ∧ (va + j) / 32 = (va + i) / 32 ∧ e.1 ≤ j ∧ j < e.1 + e.2.1))) ∧
  (∀ (s : State) (acc : Acc) (raw : Bool) (l : List (Nat × Nat)),
    (∀ x, xlatRanges s acc raw l = .ok x → x.length = l.length ∧
      ∀ (j : Nat) (r : Nat × Nat) (p : List Xlat), l[j]? = some r → x[j]? = some p → (r.2 = 0 → p = []) ∧ (r.2 ≠ 0 → xlatAscending s (curCtx s) acc raw r.1 r.2 = .ok p)) ∧
    (∀ l₁ r l₂ f, l = l₁ ++ r :: l₂ → (∀ q ∈ l₁, q.2 = 0 ∨ ∃ p, xlatAscending s (curCtx s) acc raw q.1 q.2 = .ok p) → r.2 ≠ 0 → xlatAscending s (curCtx s) acc raw r.1 r.2 = .error f →
      xlatRanges s acc raw l = .error (.trap f.cause f.sub f.va))) ∧
  (∀ (w : VEC) (s : State) (l : List (Nat × Nat)) (f : VForm) (poi : Bool) (va n passes : Nat),
    let load := vmLoad w s l f poi va n passes
    (∀ e, xlatRanges s .read false l = .error e → vmRead w s l = .error e ∧ load = .error e) ∧
    (∀ x, xlatRanges s .read false l = .ok x →
      let o := { vmOp w .load ((l.map Prod.fst).headD 0) ((l.map Prod.snd).foldl (· + ·) 0) [] with pieces := x.flatMap piecesOf }
      let u := x.foldl (fun s p => useXlats s (curCtx s) .read false p) s
      let d := drainFor u o
      let r := performOp d d.curCore (curFg d) d.curSt o
      (waitsBehind u o = true → vmRead w s l = .error (.stall .other) ∧ load = .error (.stall .other)) ∧
      (waitsBehind u o = false → vmRead w s l = .ok r ∧
        (∀ e, writeGroup s w.d.toNat (vg w) (vet w) (f.runs (etWidth (vet w)) r.1.1) (r.1.2 || poi) = .error e → load = .error e) ∧
        (∀ ws, writeGroup s w.d.toNat (vg w) (vet w) (f.runs (etWidth (vet w)) r.1.1) (r.1.2 || poi) = .ok ws →
          ∃ op, load = .ok (r.1.2, { s := r.2, writes := ws, op := op, bound := classBound (vmDc w), passes := passes }) ∧
            (op = vmReply w va n ∨ op = some { o with kind := .vload { et := vet w, wd := valWidth (curBank s) (vet w), g := vg w, form := f, poi := poi } }))))) ∧
  (∀ (s : State) (d g et v v0 : Nat) (f : VForm) (p poi p0 : Bool) (ws0 ws : List Write) (l0 : List Run), f ≠ .raw →
    writeGroup s d g et l0 p0 = .ok ws0 → writeGroup s d g et (f.runs (etWidth et) v) (p || poi) = .ok ws →
    VLoad.fill { et := et, wd := valWidth (curBank s) et, g := g, form := f, poi := poi } ws0 v p = ws) ∧
  (∀ (s : State) (core bank id : Nat) (st : Strand) (f : Flight) (o : MemOp) (x : VLoad),
    (strandOf s core bank st).flight.find? (fun f => f.id = id && !f.landed) = some f → f.op = some o → o.kind = .vload x →
      let r := performOp s core bank st o
      performFlight s core bank st id = thaw (updBank (updStrand r.2 core bank st fun y =>
        { y with flight := y.flight.map fun g => if g.id = id then { g with writes := x.fill f.writes r.1.1 r.1.2 } else g }) core bank fun b => landFlight b st id (coreTime s core)) core (freezeTime s core)) ∧
  ∀ (w : VEC) (s : State),
    let et := vet w
    let wd := etWidth et
    let base := rdS s w.a
    let va := (base.v + vmOff w).toNat
    let pred := predMask s w
    let even : Nat → Prop := fun a => vmOrd w = 0 ∨ a % 32 = 0
    let on := fun (k : Nat) (p : List Nat × Nat) => pred.isNone || (p.1.getD k 0 != 0) != w.hdr.pn
    let sends := fun (i : Instr) (u : State) (l : List MemOp) (loose : Bool) (passes : Nat) =>
      let ops := if l.isEmpty && vmOrd w = 2 then [vmOp w .store 0 0 []] else l
      (ops.any (fenced u) = true → exec i s = .next (stallAs s .other)) ∧
      (ops.any (fenced u) = false → exec i s = .next (complete i false { s := u, stores := ops, loose := loose, passes := passes } s))
    let stops := fun (i : Instr) (x : Stop) => exec i s = .next (stopWord i x s)
    -- VLD, plain
    (issues (.vld w) s = true → w.sub = 0 →
      let m := (rdS s w.b).v.toNat
      (base.poi = true ∨ (rdS s w.b).poi = true → stops (.vld w) (.trap 0x15 0 0)) ∧
      (base.poi = false → (rdS s w.b).poi = false →
        (¬even va → stops (.vld w) (.trap 0x04 0 va)) ∧ (even va → 16777215 < m → stops (.vld w) (.trap 0x09 1 0)) ∧
        (even va → m ≤ 16777215 → Runs (.vld w) s (Prod.snd <$> vmLoad w s [(va, ceilDiv (m * wd) 8)] (.dense [m]) false va (ceilDiv (m * wd) 8) (passesOf (ceilDiv (m * wd) 8) 512))))) ∧
    -- what the tensor forms ask of a tile, and its rows
    (∀ t : TForm,
      (t.rows wd = (List.range t.n).map fun r => ((tileBase t.e t.i wd + (t.row0 + r) * tdSdim1 t.e) % 2 ^ 64, ceilDiv (tileCols t.e t.i * wd) 8)) ∧
      (tagLay t.tag.tag ≠ 0 ∨ (tagSpc t.tag.tag ≠ 0 ∧ tagSpc t.tag.tag ≠ 4) → tformRows w t = .error (.trap 0x09 4 0)) ∧
      (tagLay t.tag.tag = 0 → tagSpc t.tag.tag = 4 → (t.row0 ≠ 0 ∨ t.n ≠ tdTr t.e ∨ tileClipped t.e t.i = true ∨ tdTcl t.e = 0) → tformRows w t = .error (.trap 0x09 4 0)) ∧
      (tagLay t.tag.tag = 0 → tagSpc t.tag.tag = 0 → tileRows t.e t.i < t.row0 + t.n → tformRows w t = .error (.trap 0x09 0 0)) ∧
      (tagLay t.tag.tag = 0 → (tagSpc t.tag.tag = 4 ∧ t.row0 = 0 ∧ t.n = tdTr t.e ∧ tileClipped t.e t.i = false ∧ 0 < tdTcl t.e) ∨ (tagSpc t.tag.tag = 0 ∧ t.row0 + t.n ≤ tileRows t.e t.i) →
        (∀ r ∈ t.rows wd, even r.1) → tformRows w t = .ok ())) ∧
    -- VLD, tensor
    (issues (.vld w) s = true → w.sub = 1 → (∀ x, tensorForm w s = .error x → stops (.vld w) x) ∧ ∀ t u, tensorForm w s = .ok (t, u) →
      let usable : Prop := tagFmt t.tag.tag = etFmtCode et ∧ (et = 4 → (curBank s).fd0 = tdNda t.e) ∧ (et = 5 → (curBank s).fd1 = tdNdb t.e) ∧ tagUnk t.tag.tag = false ∧ t.stale = false
      let n := ceilDiv (t.clip * wd) 8 * t.n
      (¬usable → stops (.vld w) (.trap 0x09 4 0)) ∧
      (usable → ∀ x, tformRows w t = .error x → stops (.vld w) x) ∧
      (usable → tformRows w t = .ok () →
        Runs (.vld w) s (Prod.snd <$> vmLoad w u (t.rows wd) (if tagSpc t.tag.tag = 4 then .pairs (t.n * t.clip / 2) else .dense (List.replicate t.n t.clip)) (tagPoi t.tag.tag || t.tag.poi)
          (((t.rows wd).map Prod.fst).headD 0) n (passesOf n 512)))) ∧
    -- VST, plain
    (issues (.vst w) s = true → w.sub = 0 →
      let g := readGroup s w.d (vg w)
      let n := ceilDiv (g.ll * wd) 8
      (g.stale = true → stops (.vst w) (.trap 0x0A 0 g.code)) ∧ (g.stale = false → ∀ p, pred = some p → p.stale = true → stops (.vst w) (.trap 0x0A 0 p.code)) ∧
      (g.stale = false → (∀ p, pred = some p → p.stale = false) →
        (base.poi = true → stops (.vst w) (.trap 0x15 0 0)) ∧ (base.poi = false → ¬even va → stops (.vst w) (.trap 0x04 0 va)) ∧
        (base.poi = false → even va →
          (g.etOk et = false → stops (.vst w) (.trap 0x09 4 0)) ∧ (g.etOk et = true → wd = 4 → g.ll % 2 = 1 → stops (.vst w) (.trap 0x09 0 0)) ∧
          (g.etOk et = true → (wd = 4 → g.ll % 2 = 0) →
            (∀ p, pred = some p → p.ll ≠ g.ll → stops (.vst w) (.trap 0x09 2 0)) ∧
            ((∀ p, pred = some p → p.ll = g.ll) →
              (∀ x, xlatRanges s .write true [(va, n)] = .error x → stops (.vst w) x) ∧
              (∀ x, xlatRanges s .write true [(va, n)] = .ok x →
                sends (.vst w) (useXlats s (curCtx s) .write true x.flatten) (storeOps w x.flatten va n (packElems wd (spreadRuns (g.runs et))) (groupStretches wd g pred w.hdr.pn)) true
                  (passesOf (piecesAligned (g.runs et :: pred.toList.map Grp.bits)).length 32)))))) ) ∧
    -- VST, tensor: the data of each row
    (∀ (t : TForm) (g : Grp),
      let nb := ceilDiv (t.clip * wd) 8
      let p := canonRuns (etMaxCount et) (g.runs et)
      let str := (p.map fun r => [r.1 % 2 ^ wd, r.2]).flatten ++ [0, 0]
      (tagSpc t.tag.tag = 4 → t.n * t.clip / 2 < p.length → tensorData s w t g = .error (.trap 0x08 1 0)) ∧
      (tagSpc t.tag.tag ≠ 4 → g.ll ≠ t.n * t.clip → tensorData s w t g = .error (.trap 0x09 0 0)) ∧
      (∀ d, tensorData s w t g = .ok d → d.length = t.n ∧ ∀ j r, d[j]? = some r →
        (tagSpc t.tag.tag ≠ 4 → r.1 % 2 ^ (t.clip * wd) = packElems wd (((spreadRuns (g.runs et)).drop (j * t.clip)).take t.clip)) ∧
        (tagSpc t.tag.tag = 4 → r.2 = [(0, nb, g.poi)] ∧ ∀ i, 8 * i + 8 ≤ min (2 * wd * (p.length + 1)) (2 * wd * (t.n * t.clip / 2)) - 8 * nb * j → i < nb →
          r.1 / 256 ^ i % 256 = packElems wd str / 256 ^ (nb * j + i) % 256))) ∧
    -- VST, tensor
    (issues (.vst w) s = true → w.sub = 1 →
      let g := readGroup s w.d (vg w)
      (g.stale = true → stops (.vst w) (.trap 0x0A 0 g.code)) ∧
      (g.stale = false → (∀ x, tensorForm w s = .error x → stops (.vst w) x) ∧ ∀ t u, tensorForm w s = .ok (t, u) →
        (∀ x, tformRows w t = .error x → stops (.vst w) x) ∧ (tformRows w t = .ok () → g.etOk et = false → stops (.vst w) (.trap 0x09 4 0)) ∧
        (tformRows w t = .ok () → g.etOk et = true → (∀ x, tensorData s w t g = .error x → stops (.vst w) x) ∧
          (∀ d, tensorData s w t g = .ok d →
            let rows := (List.zip (t.rows wd) d).filterMap fun (e : (Nat × Nat) × Nat × List Stretch) =>
              let n : Nat := (e.2.2.getLast?.map fun (q : Stretch) => q.1 + q.2.1).getD 0
              if n = 0 then none else some (e.1.1, n, e.2)
            (∀ x, xlatRanges u .write false (rows.map fun r => (r.1, r.2.1)) = .error x → stops (.vst w) x) ∧
            (∀ x, xlatRanges u .write false (rows.map fun r => (r.1, r.2.1)) = .ok x →
              let v := x.foldl (fun t p => useTyped t (curCtx t) ((curBank s).task.getD 0) wd p) u
              let ops := ((List.zip rows x).flatMap fun e => storeOps w e.2 e.1.1 e.1.2.1 e.1.2.2.1 e.1.2.2.2).map fun o => { o with typed := 1 + etFmtCode et + tagSpc t.tag.tag * 2 ^ 5 }
              (ops.any (fenced v) = true → exec (.vst w) s = .next (stallAs s .other)) ∧
              (ops ≠ [] → ops.any (fenced v) = false →
                exec (.vst w) s = .next (complete (.vst w) false { s := useFresh v, stores := ops, loose := true, passes := passesOf g.rc 32 } s))))))) ∧
    -- VLDP and VSTP
    (∀ i : Instr, (i = .vldp w ∨ i = .vstp w) → issues i s = true → (base.poi = true → stops i (.trap 0x15 0 0)) ∧ (base.poi = false → ¬even va → stops i (.trap 0x04 0 va)) ∧
      (base.poi = false → even va → ∀ x, xlatRanges s (if i = .vldp w then .read else .write) (decide (i = .vstp w)) [(va, 512 * vg w)] = .error x → stops i x)) ∧
    (issues (.vldp w) s = true → base.poi = false → even va → ∀ r, vmRead w s [(va, 512 * vg w)] = .ok r →
      ∃ ws op, exec (.vldp w) s = .next (complete (.vldp w) false { s := useFresh r.2, writes := ws, op := op, bound := classBound (vmDc w), passes := vg w } s) ∧
        ∀ j, j < vg w → ∃ v : VReg, ws[j]? = some (.vec (physV (curBank s).vrb (w.d.toNat + j)) v) ∧ v.pairs.toNat = r.1.1 / 2 ^ (4096 * j) % 2 ^ 4096 ∧ v.et = w.et ∧ v.poi = r.1.2 ∧
          v.stale = true) ∧
    (issues (.vstp w) s = true → base.poi = false → even va →
      let g := readGroup s w.d (vg w)
      ∀ x, xlatRanges s .write true [(va, 512 * vg w)] = .ok x →
        sends (.vstp w) (useXlats s (curCtx s) .write true x.flatten) (storeOps w x.flatten va (512 * vg w) (g.regs.foldr (fun r a => r.pairs.toNat + 2 ^ 4096 * a) 0)
          ((List.zip (List.range (vg w)) g.regs).map fun e => (512 * e.1, 512, e.2.poi))) true (vg w)) ∧
    -- VLDRG
    (issues (.vldrg w) s = true →
      (base.poi = true ∨ (rdS s w.b).poi = true ∨ (rdS s w.c).poi = true → stops (.vldrg w) (.trap 0x15 0 0)) ∧
      (base.poi = false → (rdS s w.b).poi = false → (rdS s w.c).poi = false →
        let n := nbits (rdS s w.c).v.toNat 0 16
        (¬even base.v.toNat → stops (.vldrg w) (.trap 0x04 0 base.v.toNat)) ∧
        (even base.v.toNat → (∀ x, vmRead w s [((rdS s w.b).v.toNat, 2 * n)] = .error x → stops (.vldrg w) x) ∧ ∀ t, vmRead w s [((rdS s w.b).v.toNat, 2 * n)] = .ok t →
          let lens := (List.range n).map fun j => nbits t.1.1 (16 * j) 16
          let rows := (List.zip (List.range n) lens).map fun e => (wrapN 64 (base.v.toNat + e.1 * sintN 32 (nbits (rdS s w.c).v.toNat 32 32)), ceilDiv (e.2 * wd) 8)
          let all := 2 * n + (rows.map Prod.snd).foldl (· + ·) 0
          let load := vmLoad w t.2 rows (.dense lens) t.1.2 (rdS s w.b).v.toNat all (passesOf all 512)
          ((∃ k ∈ lens, nbits (rdS s w.c).v.toNat 16 16 < k) → stops (.vldrg w) (.trap 0x09 3 0)) ∧
          ((∀ k ∈ lens, k ≤ nbits (rdS s w.c).v.toNat 16 16) → (∀ x, load = .error x → stops (.vldrg w) x) ∧
            ∀ r, load = .ok r →
              let starts := lens.flatMap fun k => if k = 0 then [] else [(1, 1), (0, k - 1)]
              (∀ x, writeMask s (w.imm.extractLsb' 0 4).toNat starts (t.1.2 || r.1) = .error x → stops (.vldrg w) x) ∧
              (∀ wm, writeMask s (w.imm.extractLsb' 0 4).toNat starts (t.1.2 || r.1) = .ok wm → exec (.vldrg w) s = .next (complete (.vldrg w) false { r.2 with writes := r.2.writes ++ wm } s)))))) ∧
    -- VGATH
    (issues (.vgath w) s = true →
      let b := readGroup s w.b (vg w)
      let old := oldGroup s w (vg w) et
      let ps := piecesAligned (b.runs 13 :: pred.toList.map Grp.bits)
      let l := (ps.filter (on 1)).map fun p => (idxAddr va wd (p.1.headD 0), wd / 8)
      (∀ x, staleCheck (old.toList.map Prod.fst ++ [b] ++ pred.toList) = .error x → stops (.vgath w) x) ∧
      (staleCheck (old.toList.map Prod.fst ++ [b] ++ pred.toList) = .ok () →
        (b.poi = true → stops (.vgath w) (.trap 0x01 1 0)) ∧ (b.poi = false → base.poi = true → stops (.vgath w) (.trap 0x15 0 0)) ∧
        (b.poi = false → base.poi = false →
          ((idxOk b = false ∨ ∃ o, old = some o ∧ o.1.etOk et = false) → stops (.vgath w) (.trap 0x09 4 0)) ∧
          (idxOk b = true → (∀ o, old = some o → o.1.etOk et = true) →
            (((∃ p, pred = some p ∧ p.ll ≠ b.ll) ∨ ∃ o, old = some o ∧ o.1.ll ≠ b.ll) → stops (.vgath w) (.trap 0x09 2 0)) ∧
            ((∀ p, pred = some p → p.ll = b.ll) → (∀ o, old = some o → o.1.ll = b.ll) →
              Runs (.vgath w) s (Prod.snd <$> vmLoad w s l (.picks (gathPicks (b.runs 13) (pred.map Grp.bits) w.hdr.pn (old.map Prod.snd))) (pred.any Grp.poi || old.any (·.1.poi))
                va (wd / 8 * l.length) (passesOf ps.length 32))))))) ∧
    -- VSCAT
    (issues (.vscat w) s = true →
      let b := readGroup s w.b (vg w)
      let d := readGroup s w.d (vg w)
      (∀ x, staleCheck ([d, b] ++ pred.toList) = .error x → stops (.vscat w) x) ∧
      (staleCheck ([d, b] ++ pred.toList) = .ok () →
        (b.poi = true → stops (.vscat w) (.trap 0x01 1 0)) ∧ (b.poi = false → base.poi = true → stops (.vscat w) (.trap 0x15 0 0)) ∧
        (b.poi = false → base.poi = false →
          (idxOk b = false ∨ d.etOk et = false → stops (.vscat w) (.trap 0x09 4 0)) ∧
          (idxOk b = true → d.etOk et = true →
            (d.ll ≠ b.ll → stops (.vscat w) (.trap 0x09 0 0)) ∧ (d.ll = b.ll → (∃ p, pred = some p ∧ p.ll ≠ b.ll) → stops (.vscat w) (.trap 0x09 2 0)) ∧
            (d.ll = b.ll → (∀ p, pred = some p → p.ll = b.ll) →
              let members : List Run := (d.regs.map fun r => (r.poi.toNat, r.ll.toNat)).filter fun r => r.2 != 0
              let ps := (piecesAligned ([b.runs 13, d.runs et, members] ++ pred.toList.map Grp.bits)).filter (on 3)
              let at_ := ps.map fun p => (idxAddr va wd (p.1.headD 0), wd / 8)
              (∀ x, xlatRanges s .write true at_ = .error x → stops (.vscat w) x) ∧
              (∀ x, xlatRanges s .write true at_ = .ok x →
                sends (.vscat w) (x.foldl (fun s p => useXlats s (curCtx s) .write true p) s)
                  ((List.zip ps (List.zip at_ x)).map fun e => { vmOp w .store e.2.1.1 e.2.1.2 e.2.2 with data := e.1.1.getD 1 0, pdata := e.1.1.getD 2 0 = 1 }) false
                  (passesOf (piecesAligned ([b.runs 13, d.runs et] ++ pred.toList.map Grp.bits)).length 32)))))))

/-! ## Matrix words (R187-R190, R425, R428-R437) -/

/-- R187, R190, R425, R429, R431: the matrix words that need no lease: MACQ completes when the core holds the lease and else asks for it and stalls; MREL releases the
lease at once, or after the commands in the array; MCFG sets MCONF; MIDX writes an index register. -/
def Obligations.LeaseAndIndexWords : Prop :=
  ∀ (w : MAT) (s : State),
    let cl := clusterOfCore s.curCore
    let k := clusterOf s cl
    let ix := fun n : BitVec 3 => readIdx (coreTime s s.curCore) (curBank s) n.toNat
    (issues (.macq w) s = true →
      (k.holder = some (s.curCore % 4) → exec (.macq w) s = .next (wentTo (.macq w) s none)) ∧
      (k.holder ≠ some (s.curCore % 4) → exec (.macq w) s = .next (stallAs (wantLease s s.curCore) .other) ∧
        (clusterOf (wantLease s s.curCore) cl).want.contains (s.curCore % 4) = true)) ∧
    (issues (.mrel w) s = true →
      (k.holder ≠ some (s.curCore % 4) → exec (.mrel w) s = .next (wentTo (.mrel w) s none)) ∧
      (k.holder = some (s.curCore % 4) → ∃ u, exec (.mrel w) s = .next (complete (.mrel w) false { s := u } s) ∧
        ((∀ m, k.running = some m ∨ k.behind = some m → m.core ≠ s.curCore) →
          (clusterOf u cl).holder = none ∧ (clusterOf u cl).lastHolder = s.curCore % 4 ∧ (clusterOf u cl).running = k.running ∧ (clusterOf u cl).behind = k.behind) ∧
        (∀ m, (k.running = some m ∨ k.behind = some m) → m.core = s.curCore → clusterOf u cl = { k with releasing := true }) ∧ u.mem = s.mem ∧ u.cores = s.cores)) ∧
    (issues (.mcfg w) s = true →
      ((ix w.ia).poi = true → exec (.mcfg w) s = .next (stopWord (.mcfg w) (.trap 0x15 0 0) s)) ∧
      ((ix w.ia).poi = false → (ix w.ib).poi = false →
        (mconfOk ((ix w.ia).v ++ (ix w.ib).v) = false → exec (.mcfg w) s = .next (stopWord (.mcfg w) (.trap 0x01 1 0) s)) ∧
        (mconfOk ((ix w.ia).v ++ (ix w.ib).v) = true →
          exec (.mcfg w) s = .next (complete (.mcfg w) false { s := modBank s fun b => { b with mconf := (ix w.ia).v ++ (ix w.ib).v } } s)))) ∧
    (issues (.midx w) s = true →
      (w.sub = 0 → exec (.midx w) s = .next (done (.midx w) s [.idx w.ia.toNat { v := midxImm w }] 2)) ∧
      (w.sub = 1 → exec (.midx w) s = .next (done (.midx w) s [.idx w.ia.toNat { v := (ix w.ia).v + midxImm w, poi := (ix w.ia).poi }] 2)) ∧
      (w.sub = 2 → exec (.midx w) s = .next (done (.midx w) s [.idx w.ia.toNat { v := (ix w.ia).v + (ix w.ib).v, poi := (ix w.ia).poi || (ix w.ib).poi }] 2)))

/-- R428, R432, R434-R437, R215: the array commands: each check of R428 in its order, with the trap that it raises, and, when all pass, the acceptance of the command. R187-R189, R199, R211: an absent
name is mapped again first; then M waits at the word for its slot to be filled and for the lease, which it asks for; the holder's command is accepted with budget left and no command behind the
running one, and runs at once or behind it; a command that stands issued goes on with what it latched. R161-R166, R192, R202, R204, R208, R430, R432, R434-R437: and what each unit of each
command computes, on the tile, its poison, and memory. -/
def Obligations.ArrayCommandWords : Prop :=
  (∀ (w : MAT) (s : State),
    let b := curBank s
    let ix := fun n : BitVec 3 => readIdx (coreTime s s.curCore) b n.toNat
    let clean := fun n : BitVec 3 => !(ix n).poi
    let e := nbits b.accmap.toNat (6 * w.acc.toNat) 6
    let tile := e % 32
    let poison := Stop.trap 0x15 0 0
    let prot := fun n : Nat => Stop.trap 0x06 0 n
    let mapped := (nbit e 5, prot w.acc.toNat)
    let rows := (decide (w.row0.toNat + w.mm1.toNat < 128), prot 0x400)
    let limit := fun k : Nat => (decide (k ≤ 4096), Stop.trap 0x01 1 0)
    let inside := fun (off n : Nat) => decide (off + n ≤ b.scrsize.toNat)
    let aRows := fun (m : MCmd) (k : Nat) => (decide (aRow m 0 % 32 = 0) && (List.range (mmaRows m)).all fun r => inside (aRow m r) (k * fmtWidth (mcAfmt m.mconf) / 8), prot 0x400)
    let new := fun i : Instr => issues i s = true ∧ ∀ m, b.mwait = some m → m.w ≠ i
    let bad := fun (l : List (Bool × Stop)) => l.find? fun c => !c.1
    let stops := fun (i : Instr) (x : Stop) => exec i s = .next (stopWord i x s)
    let goes := fun (i : Instr) (l : List (Bool × Stop)) (m : MCmd) => (∀ c, bad l = some c → stops i c.2) ∧ (bad l = none → Runs i s (acceptCmd s m))
    let slotted := fun (i : Instr) (pre : List (Bool × Stop)) (m : MCmd) (post : MCmd → WSlot → List (Bool × Stop)) => new i →
      (∀ c, bad pre = some c → stops i c.2) ∧ (bad pre = none →
        ((∃ x ∈ b.mldws, x.wn = w.ws.toNat ∧ x.took = none) → exec i s = .next (stallAs s .other)) ∧
        ((∀ x ∈ b.mldws, x.wn = w.ws.toNat → x.took ≠ none) →
          let wsrc := tfind (taskOf s m.task).wsrc w.ws.toNat
          ((slotName s m.task w.ws.toNat = none ∨ (slotName s m.task w.ws.toNat = some none ∧ wsrc = none)) → stops i (prot (0x600 + w.ws.toNat))) ∧
          (∀ n x, slotName s m.task w.ws.toNat = some (some n) → weightSlot (clusterOf s (clusterOfCore s.curCore)) n = some x → goes i (post { m with slot := some n } x) { m with slot := some n }) ∧
          (∀ x, slotName s m.task w.ws.toNat = some none → wsrc = some x → goes i (post { m with slot := none } x) { m with slot := none })))
    -- a command that stands issued
    (∀ i m, b.mwait = some m → m.w = i → i ∈ [.mma w, .mmas w, .mola w, .mrowsum w, .mset w, .mldacc w, .mdrain w] → issues i s = true → Runs i s (acceptCmd s m)) ∧
    (new (.mset w) → goes (.mset w) [mapped, rows] { newCmd s (.mset w) with ia := (ix w.ia).v, poi := (ix w.ia).poi, tile := tile }) ∧
    (let m := { newCmd s (.mldacc w) with ia := (ix w.ia).v, tile := tile }
     let off := 32 * w.offa.toNat + (ix w.ia).v.toNat
     new (.mldacc w) → goes (.mldacc w) [(clean w.ia, poison), mapped, rows, (decide (off % 32 = 0) && inside off (1536 * mmaRows m), prot 0x400)] m) ∧
    (let m := { newCmd s (.mrowsum w) with ia := (ix w.ia).v, ib := (ix w.ib).v }
     let k := mmaBlocks m * fmtKb (mcAfmt m.mconf)
     w.sub = 0 → new (.mrowsum w) → goes (.mrowsum w)
      [(clean w.ia, poison), (clean w.ib, poison), (fmtInt (mcAfmt m.mconf), prot 0x500), limit k, aRows m k, (decide ((ix w.ib).v.toNat % 4 = 0) && inside (ix w.ib).v.toNat (4 * mmaRows m), prot 0x400)] m) ∧
    (w.sub ≠ 0 → slotted (.mrowsum w) [(clean w.ib, poison)] { newCmd s (.mrowsum w) with ib := (ix w.ib).v } fun m x =>
      [(fmtInt x.fmt, prot 0x500), limit (mmaBlocks m * fmtKb x.fmt), (decide (m.ib.toNat % 4 = 0) && inside m.ib.toNat (4 * mmaCols m), prot 0x400)]) ∧
    (slotted (.mola w) [(clean w.ib, poison), mapped] { newCmd s (.mola w) with ib := (ix w.ib).v, tile := tile } fun m x =>
      [limit (mmaBlocks m * fmtKb x.fmt), (aftAhead s m, prot (0x100 + w.acc.toNat)), rows, (decide (m.ib.toNat % 8 = 0) && inside m.ib.toNat 8, prot 0x400),
       (inside m.ib.toNat (8 + 8 * molaCount s m), prot 0x400)]) ∧
    (∀ (i : Instr) (sparse : Bool), (i = .mma w ∧ sparse = false) ∨ (i = .mmas w ∧ sparse = true) →
      let asf := mcAsf b.mconf
      slotted i [(asf != 0 || decide (w.ib = 0), .trap 0x01 1 0), (clean w.ia, poison), (decide (asf = 0) || clean w.ib, poison), mapped]
        { newCmd s i with ia := (ix w.ia).v, ib := if asf = 0 then 0 else (ix w.ib).v, tile := tile } fun m x =>
          let k := mmaBlocks m * cmdKb m x.fmt
          [(afmtOk m.mconf && (decide (x.spc = 1) == sparse) && decide (k ≤ x.rows) && decide (mmaCols m ≤ x.cols), prot 0x500), limit k,
           (aftAhead s m == !intPath m x, prot (0x100 + w.acc.toNat)), rows, aRows m k, (decide (asf = 0) || inside m.ib.toNat (mmaRows m * aScales m.mconf k * scaleSize asf), prot 0x400)]) ∧
    (let raw := decide (drainVar w = 0)
     let m : MCmd := { newCmd s (.mdrain w) with ia := (ix w.ia).v, ib := if raw then 0 else (ix w.ib).v, tile := tile }
     let block := fun (u : State) (m : MCmd) => if raw then m else { m with blk := BitVec.ofNat 512 (scrRead u m m.ib.toNat 64) }
     let placed : Bool := raw || (decide (m.ib.toNat % 64 = 0) && inside m.ib.toNat 64)
     let pre : List (Bool × Stop) := [(clean w.ia, poison), (raw || clean w.ib, poison), mapped]
     let middle := fun (u : State) (m : MCmd) =>
       [(!(!raw && placed && decide (drainVar w = 2) && (decide (dpTfmt m.blk = 12) || decide (dpTfmt m.blk = 13))) || (drainNd m).legal, prot 0x500),
        (!((decide (drainVar w = 1) || decide (drainVar w = 3)) && aftAhead u m), prot (0x100 + w.acc.toNat)), rows, (placed, prot 0x400)]
     let dst := 32 * w.offa.toNat + m.ia.toNat
     let n := block s m
     (new (.mdrain w) → drainTensor w = false → goes (.mdrain w) (pre ++ middle s n ++
       [(decide (dst % 32 = 0) && inside dst (mmaRows n * mmaCols n * drainWidth w n.blk / 8), prot 0x400), (raw || drainBlockOk s n, prot 0x500)]) n) ∧
     -- the tensor form: its reference, its tile, the pages of its rows, all checked before any row is written
     (new (.mdrain w) → drainTensor w = true →
       let ref := m.ia.toNat
       (∀ c, bad pre = some c → stops (.mdrain w) c.2) ∧ (bad pre = none →
         (lrTdtn (taskLr s m.task) ≤ refTid ref → stops (.mdrain w) (prot 0x500)) ∧
         (refTid ref < lrTdtn (taskLr s m.task) →
           (∀ f, readTd s (curCtx s) b.tdtbase.toNat (refTid ref) = .error f → stops (.mdrain w) (.trap f.cause f.sub f.va)) ∧
           (∀ e x u, readTd s (curCtx s) b.tdtbase.toNat (refTid ref) = .ok (e, x, u) → u.curCore = s.curCore → curBank u = b →
             (¬(refIdx ref < tdTiles e ∧ mmaRows m ≤ tdTr e ∧ mmaCols m ≤ tdTc e) → stops (.mdrain w) (prot 0x500)) ∧
             (refIdx ref < tdTiles e → mmaRows m ≤ tdTr e → mmaCols m ≤ tdTc e →
               let n := block u { m with ref := ref, td := BitVec.ofNat 512 e }
               let l := middle u n ++ [(raw || drainBlockOk u n, prot 0x500)]
               (∀ c, bad l = some c → stops (.mdrain w) c.2) ∧
               (bad l = none → (∀ x, drainPages u n = .error x → stops (.mdrain w) x) ∧ (∀ n' v, drainPages u n = .ok (n', v) → Runs (.mdrain w) s (acceptCmd v n')))))))))) ∧
  -- where the slot of a command stands
  (∀ (s : State) (m : MCmd),
    let cl := clusterOfCore m.core
    let name := slotName s m.task m.mat.ws.toNat
    let b := fgBank (coreOf s m.core)
    let wsrc := tfind (taskOf s m.task).wsrc m.mat.ws.toNat
    (m.usesSlot = false → slotFor s m = (.ready m, s)) ∧
    (m.usesSlot = true →
      (∀ n x, name = some (some n) → weightSlot (clusterOf s cl) n = some x → slotFor s m = if x.filled then (.ready { m with slot := some n }, s) else (.waits, s)) ∧
      (name.getD none = none → wsrc = none → slotFor s m = (.ready m, s)) ∧
      (name.getD none = none → ∀ h, wsrc = some h →
        (b.mldwPosted = true → slotFor s m = (.waits, s)) ∧
        (b.mldwPosted = false →
          (∀ f, mldwReads s (bankCtx m.core b) b.tdtbase.toNat h.src.ref = .error f → ∃ u, slotFor s m = (.waits, u) ∧ (fgBank (coreOf u m.core)).mldwPosted = true) ∧
          (∀ e tag u, mldwReads s (bankCtx m.core b) b.tdtbase.toNat h.src.ref = .ok (e, tag, false, u) → slotFor s m = (.refused, u)) ∧
          (∀ e tag u, mldwReads s (bankCtx m.core b) b.tdtbase.toNat h.src.ref = .ok (e, tag, true, u) → ∃ n t, slotFor s m = (.waits, t) ∧
            ((tfind u.tasks m.task).isSome = true → slotName t m.task m.mat.ws.toNat = some (some n))))))) ∧
  -- acceptance
  (∀ (s : State) (m : MCmd),
    let cl := clusterOfCore s.curCore
    let r := slotFor s { m with bank := curFg s }
    let u := r.2
    let k := clusterOf u cl
    let b := curBank u
    let room := k.releasing = false ∧ budgetSpent u cl = false ∧ k.behind = none ∧ b.cut = none ∧ b.saved = none
    (r.1 = .refused → acceptCmd s m = .error (.trap 0x06 0 0x300)) ∧ (r.1 = .waits → acceptCmd s m = .ok (waitMatrix u m)) ∧
    (∀ n, r.1 = .ready n → u.curCore = s.curCore →
      (k.holder = some (s.curCore % 4) → room → ∃ t, acceptCmd s m = .ok { s := t } ∧
        (clusterOf t cl).cmds = k.cmds + 1 ∧ (curBank t).mwait = none ∧ t.mem = u.mem ∧ (∀ j, j ≠ cl → clusterOf t j = clusterOf u j) ∧
        (k.running = none → (clusterOf t cl).running = some { n with start := max k.freeAt (arrayClock u cl) } ∧ (clusterOf t cl).behind = none) ∧
        (k.running ≠ none → (clusterOf t cl).running = k.running ∧ (clusterOf t cl).behind = some n)) ∧
      (k.holder ≠ some (s.curCore % 4) → acceptCmd s m = .ok (waitMatrix (wantLease u s.curCore) n) ∧
        (clusterOf (wantLease u s.curCore) cl).want.contains (s.curCore % 4) = true ∧ (clusterOf (wantLease u s.curCore) cl).cmds = k.cmds ∧
        (clusterOf (wantLease u s.curCore) cl).running = k.running) ∧
      (k.holder = some (s.curCore % 4) → ¬room → acceptCmd s m = .ok (waitMatrix u n))) ∧
    ((waitMatrix s m).issued = false ∧ (curBank (waitMatrix s m).s).mwait = some m ∧ (waitMatrix s m).s.clusters = s.clusters ∧ (waitMatrix s m).s.mem = s.mem)) ∧
  -- the units of a command on its tile and on memory
  (∀ (s : State) (m : MCmd) (u : Nat) (bad : Bool),
    let a := m.mat
    let w := cmdSlot s m
    let t := cmdTile s m
    let v := runUnit s m u bad
    let t' := cmdTile v m
    let row0 := a.row0.toNat
    let afmt := mcAfmt m.mconf
    let asgn := mcAsgn m.mconf
    let bsgn := mcBsgn m.mconf
    let others := fun (n : Nat) => (∀ r, (r < row0 ∨ row0 + n ≤ r) → accRow t' r = accRow t r)
    let alone := v.mem = s.mem ∧ v.cores = s.cores ∧ v.tasks = s.tasks ∧ (∀ k, k ≠ clusterOfCore m.core → clusterOf v k = clusterOf s k) ∧
      (∀ n, n ≠ m.tile → accTile (clusterOf v (clusterOfCore m.core)) n = accTile (clusterOf s (clusterOfCore m.core)) n)
    let atoms := fun (r n : Nat) (p : Bool) => accPoison t' (1536 * r) n = p
    (m.w = .mma a ∨ m.w = .mmas a →
      let kb := cmdKb m w.fmt
      let kt := mmaBlocks m * kb
      let p := bad || mmaPoison s m w kb kt u
      let x := fun r c => mmaElem s m w r c kb kt u (accElem t (row0 + r) c)
      alone ∧ others (mmaRows m) ∧ t'.aft = t.aft ∧ t'.mola = t.mola ∧
      (∀ r c, r < mmaRows m → c < 256 → accElem t' (row0 + r) c = if c < mmaCols m then (x r c).1 else accElem t (row0 + r) c) ∧
      (t'.sat = true ↔ t.sat = true ∨ ∃ r c, r < mmaRows m ∧ c < mmaCols m ∧ (x r c).2 = true) ∧
      (p = false → t'.poi = t.poi ∧ t'.poison = t.poison) ∧ (p = true → t'.poi = true ∧ ∀ r c, r < mmaRows m → c < mmaCols m → accPoison t' (1536 * (row0 + r) + 6 * c) 6 = true) ∧
      (∀ r c acc,
        let pa := fun i => matVal afmt (mcAdesc m.mconf) asgn (aCode s m r (u * kb + i))
        (intPath m w = true →
          let sum := ((List.range kb).map fun i => matInt afmt asgn (aCode s m r (u * kb + i)) * slotInt w bsgn (u * kb + i) c).sum
          let z := sintN 48 acc + sum
          (mcAmode m.mconf = 0 → mmaElem s m w r c kb kt u acc = ((z % 2 ^ 48).toNat, false)) ∧
          (mcAmode m.mconf = 1 → mmaElem s m w r c kb kt u acc = (((if z < -(2 ^ 47) then -(2 ^ 47) else if 2 ^ 47 - 1 < z then 2 ^ 47 - 1 else z) % 2 ^ 48).toNat, false)) ∧
          (mcAmode m.mconf = 2 → mmaElem s m w r c kb kt u acc =
            (((if z < -(2 ^ 31) then -(2 ^ 31) else if 2 ^ 31 - 1 < z then 2 ^ 31 - 1 else z) % 2 ^ 48).toNat, decide (z < -(2 ^ 31) ∨ 2 ^ 31 - 1 < z)))) ∧
        (intPath m w = false → mmaElem s m w r c kb kt u acc =
          (roundACF (vAdd false (acfVal acc) (vMul (vMul (blockSum ((List.range kb).map fun i => (vMul (pa i) (slotVal w bsgn (u * kb + i) c)).1)) (aScale s m r (u * kb) kt)).1
            (slotScale w (u * kb) c)).1).1, false)))) ∧
    (m.w = .mola a →
      let e := scrRead s m (m.ib.toNat + 8 + 8 * u) 8
      let row := nbits e 0 16
      let k := nbits e 16 16
      (¬(row < mmaRows m ∧ k < mmaBlocks m * fmtKb w.fmt) → v = s) ∧
      (row < mmaRows m → k < mmaBlocks m * fmtKb w.fmt → alone ∧ t'.aft = t.aft ∧ t'.sat = t.sat ∧ (∀ r, r ≠ row0 + row → accRow t' r = accRow t r) ∧
        (∀ c, mmaCols m ≤ c → c < 256 → accElem t' (row0 + row) c = accElem t (row0 + row) c) ∧
        (∀ c, c < mmaCols m → k < w.rows → c < w.cols → accElem t' (row0 + row) c =
          roundACF (vAdd false (acfVal (accElem t (row0 + row) c)) (vMul (vMul (vMul (fmtBF.decode false (nbits e 32 16)) (slotVal w bsgn k c)).1 (Val.ofInt 1)).1 (slotScale w k c)).1).1) ∧
        (w.poison = false → scrPoison s m (m.ib.toNat + 8 + 8 * u) 8 = false → t'.poi = t.poi ∧ t'.poison = t.poison) ∧
        (w.poison = true ∨ scrPoison s m (m.ib.toNat + 8 + 8 * u) 8 = true → t'.poi = true ∧ ∀ c, c < mmaCols m → accPoison t' (1536 * (row0 + row) + 6 * c) 6 = true))) ∧
    (m.w = .mset a → alone ∧ (∀ r, r ≠ row0 + u → accRow t' r = accRow t r) ∧ atoms (row0 + u) 1536 m.poi ∧
      (∀ c, c < 256 → accElem t' (row0 + u) c = if a.sub = 0 then (m.ia.toInt % 2 ^ 48).toNat else roundACF (fmtS.decode false m.ia.toNat)) ∧
      (u = 0 → t'.aft = decide (a.sub = 1) ∧ t'.poi = m.poi ∧ t'.sat = false) ∧ (u ≠ 0 → t'.aft = t.aft ∧ t'.poi = t.poi ∧ t'.sat = t.sat)) ∧
    (m.w = .mldacc a →
      let off := 32 * a.offa.toNat + m.ia.toNat + 1536 * u
      off % 32 = 0 → alone ∧ (∀ r, r ≠ row0 + u → accRow t' r = accRow t r) ∧ (accRow t' (row0 + u)).toNat = scrRead s m off 1536 ∧
      (∀ i, i < 48 → accPoison t' (1536 * (row0 + u) + 32 * i) 32 = scrPoison s m (off + 32 * i) 32) ∧ (t'.poi = (t.poi || scrPoison s m off 1536)) ∧
      (u = 0 → t'.aft = decide (a.sub = 1) ∧ t'.sat = false) ∧ (u ≠ 0 → t'.aft = t.aft ∧ t'.sat = t.sat)) ∧
    (m.w = .mrowsum a → s.mem.wf = true → v.clusters = s.clusters ∧
      (a.sub = 0 →
        let k := mmaBlocks m * fmtKb afmt
        scrRead v m (m.ib.toNat + 4 * u) 4 = (((List.range k).map fun i => matInt afmt asgn (aCode s m u i)).sum % 2 ^ 32).toNat ∧
        (∀ x, (x < scrPa s m (m.ib.toNat + 4 * u) ∨ scrPa s m (m.ib.toNat + 4 * u) + 4 ≤ x) → memByte v.mem x = memByte s.mem x) ∧
        (scrPoison s m (aRow m u) (k * fmtWidth afmt / 8) = true → scrPoison v m (m.ib.toNat + 4 * u) 4 = true)) ∧
      (a.sub ≠ 0 →
        let k := mmaBlocks m * fmtKb w.fmt
        (∀ c, c < mmaCols m → k ≤ w.rows → c < w.cols → scrRead v m (m.ib.toNat + 4 * c) 4 = (((List.range k).map fun i => slotInt w bsgn i c).sum % 2 ^ 32).toNat) ∧
        (∀ x, (x < scrPa s m m.ib.toNat ∨ scrPa s m m.ib.toNat + 4 * mmaCols m ≤ x) → memByte v.mem x = memByte s.mem x) ∧
        (w.poison = true → ∀ c, c < mmaCols m → scrPoison v m (m.ib.toNat + 4 * c) 4 = true))) ∧
    (m.w = .mdrain a →
      let wd := drainWidth a m.blk
      let n := mmaCols m
      let l := (List.range n).map fun c => drainElem s m t u c
      let fl := flagsOr (l.map (·.2)) ||| if t.sat then flagSATF else 0
      let va := tileBase m.td.toNat (refIdx m.ref) wd + u * tdSdim1 m.td.toNat
      let f := updBank s m.core m.bank fun b => landFlags b fl (coreTime s m.core)
      let data := l.foldr (fun x a => x.1 % 2 ^ wd + 2 ^ wd * a) 0
      (bankOf f m.core m.bank).fpflags = ((bankOf s m.core m.bank).fpflags ||| fl) ∧
      (drainTensor a = false → s.mem.wf = true → wd % 8 = 0 →
        let off := 32 * a.offa.toNat + m.ia.toNat + u * (n * wd / 8)
        v.clusters = s.clusters ∧ (bankOf v m.core m.bank).fpflags = ((bankOf s m.core m.bank).fpflags ||| fl) ∧
        (∀ c, c < n → scrRead v m (off + c * wd / 8) (wd / 8) = (drainElem s m t u c).1 % 2 ^ wd) ∧
        (∀ x, (x < scrPa s m off ∨ scrPa s m off + n * wd / 8 ≤ x) → memByte v.mem x = memByte s.mem x) ∧ (t.poi = true → scrPoison v m off (n * wd / 8) = true)) ∧
      (drainTensor a = true →
        let x := writePieces (typedStore f m.task va (n * wd / 8) (if drainVar a = 0 then (if t.aft then 16 else 15) else dpTfmt m.blk) 0 0) m.core 1 t.poi (m.rows.getD u []) data
        v = if t.poi then notePoison x m.task va (n * wd / 8) else x) ∧
      -- one element
      (∀ c,
        let acc := accElem t (row0 + u) c
        let word := fun (off n : Nat) => scrRead s m off n
        let et := fmtEt (dpTfmt m.blk)
        (drainVar a = 0 → drainElem s m t u c = (acc, 0)) ∧
        (drainVar a = 1 → drainElem s m t u c =
          let z := sintN 48 acc
          if z < etMin et then ((etMin et % 2 ^ etWidth et).toNat, flagSATF) else if etMax et < z then ((etMax et % 2 ^ etWidth et).toNat, flagSATF) else ((z % 2 ^ etWidth et).toNat, 0)) ∧
        (drainVar a = 2 → drainElem s m t u c =
          let rm := if dpRm m.blk = 7 then m.rm else (dpRm m.blk).toNat
          let cs := if dpCs m.blk = 0xFFFFFFFF then Val.ofInt 1 else fmtS.decode false (word (dpCs m.blk + 4 * c) 4)
          let bias := if dpBias m.blk = 0xFFFFFFFF then Val.num false 0 0 else fmtS.decode false (word (dpBias m.blk + 4 * c) 4)
          let r := vFma (decide (rm = 3)) (if t.aft then acfVal acc else Val.ofInt (sintN 48 acc)) cs bias
          let o := if etNarrow et then (drainNd m).round rm r.1 else (etFmt et).round rm false r.1
          (o.1, o.2 ||| if r.2 then flagIO else 0)) ∧
        (drainVar a = 3 → ∃ y, drainElem s m t u c = ((y % 2 ^ fmtWidth (dpTfmt m.blk)).toNat, 0) ∧
          y = requant (sintN 48 acc) (dpZa m.blk) (dpZb m.blk) (dpZo m.blk) (sintN 32 (word (dpM0 m.blk + 4 * c) 4)) (sintN 32 (word (dpCsb m.blk + 4 * c) 4))
            (sintN 32 (word (dpRsa m.blk + 4 * u) 4)) (dpLo m.blk) (dpHi m.blk) (dpKsum m.blk) (sintN 8 (word (dpSh m.blk + c) 1)))))) ∧
  (∀ l : List Val,
    ((l.any Val.isNan = true ∨ (Val.inf false ∈ l ∧ Val.inf true ∈ l)) → blockSum l = .nan false) ∧
    (l.any Val.isNan = false → ∀ n, Val.inf n ∈ l → Val.inf (!n) ∉ l → blockSum l = .inf n) ∧
    ((∀ v ∈ l, v.isZero = true) → blockSum l = .num false 0 0) ∧
    ((∀ v ∈ l, ∃ n m e, v = .num n m e) → ∀ top : Int, (∃ n m e, Val.num n m e ∈ l ∧ m ≠ 0 ∧ (Nat.log2 m : Int) + e = top) → (∀ n m e, Val.num n m e ∈ l → m ≠ 0 → (Nat.log2 m : Int) + e ≤ top) →
      let q := top - 119
      let sum : Int := (l.map fun v => match v with
        | .num n m e => (if n then -1 else 1) * ((if q ≤ e then m * 2 ^ (e - q).toNat else m / 2 ^ (q - e).toNat : Nat) : Int)
        | _ => 0).sum
      blockSum l = if sum = 0 then .num false 0 0 else .num (decide (sum < 0)) sum.natAbs q)) ∧
  (∀ (acc za zb zo m0 csb rsa lo hi sh : Int) (k : Nat),
    let z := acc - za * csb - zb * rsa + k * za * zb
    let a1 := if z < -(2 ^ 47) then -(2 ^ 47) else if 2 ^ 47 - 1 < z then 2 ^ 47 - 1 else z
    let y := zo + roundShift (a1 * m0) (31 + sh).toNat
    requant acc za zb zo m0 csb rsa lo hi k sh = (if y < lo then lo else if hi < y then hi else y)) ∧
  (∀ (x : Int) (n : Nat), roundShift x 0 = x ∧ roundShift (-x) n = -(roundShift x n) ∧
    (0 ≤ x → 2 ^ n * roundShift x n ≤ x + 2 ^ (n - 1) ∧ (0 < n → x + 2 ^ (n - 1) < 2 ^ n * (roundShift x n + 1)))) ∧
  -- a command runs its units in order (R192, R213)
  (∀ (s : State) (m : MCmd) (n : Nat) (given : Option (List Mismatch)),
    (cmdUnits s m = match m.w with | .mma _ | .mmas _ => mmaBlocks m | .mola _ => nbits (scrRead s m m.ib.toNat 8) 0 16 | .mrowsum w => if w.sub = 0 then mmaRows m else 1 | _ => mmaRows m) ∧
    (m.checked = false → m.clash = [] → runUnits s m n given = (List.range (n - m.unit)).foldl (fun s j => runUnit s m (m.unit + j) false) s) ∧
    (m.checked = true → m.clash = [] → (coreOf s m.core).ccinj = 0 → (∀ r ∈ m.covers, tfind (cmdTile s m).mola r = none) →
      cmdTile (runUnits s m n (some [])) m = cmdTile ((List.range (n - m.unit)).foldl (fun s j => runUnit s m (m.unit + j) false) s) m ∧ (runUnits s m n (some [])).mem = s.mem))

/-- R197, R198, R430, R433: MLDW maps its name to a slot with the tile as its source, once the tile passes R198; where its reads fail it has issued all the same, has posted the record, and is to translate again; MDRAIN to a tensor
checks its reference against the task's table. -/
def Obligations.WeightLoadWord : Prop :=
  ∀ (w : MAT) (s : State),
    let b := curBank s
    let r := readIdx (coreTime s s.curCore) b w.ia.toNat
    let ref := r.v.toNat
    let named := b.task.isSome = true ∧ refTid ref < lrTdtn (taskLr s (b.task.getD 0))
    let reads := mldwReads s (bankCtx s.curCore b) b.tdtbase.toNat ref
    let mine : Mldw := { ent := b.sm.ent, seq := b.sm.nextId, wn := w.ws.toNat, ref := ref }
    let kept := fun (u : State) => (curBank u).mldws.filter fun y => y.wn != w.ws.toNat || y.took.isSome
    (issues (.mldw w) s = true → r.poi = true → exec (.mldw w) s = .next (stopWord (.mldw w) (.trap 0x15 0 0) s)) ∧
    (issues (.mldw w) s = true → r.poi = false →
      (¬ named → exec (.mldw w) s = .next (stopWord (.mldw w) (.trap 0x06 0 0x300) s)) ∧
      (named → (∀ f, reads = .error f → ∃ t, exec (.mldw w) s = .next (complete (.mldw w) false { s := t } s) ∧ (curBank t).mldws = kept (postFeed s (bankCtx s.curCore b) f) ++ [mine]) ∧
        (∀ e tag u, reads = .ok (e, tag, false, u) → exec (.mldw w) s = .next (stopWord (.mldw w) (.trap 0x06 0 0x300) s)) ∧
        (∀ e tag u, reads = .ok (e, tag, true, u) → refIdx ref < tdTiles e ∧ mldwTagOk e (refIdx ref) tag = true ∧
          ∃ t n x, exec (.mldw w) s = .next (complete (.mldw w) false { s := t } s) ∧ weightSlot (clusterOf t (clusterOfCore s.curCore)) n = some x ∧
            (curBank t).mldws = kept u ++ [{ mine with took := some (n, x.src) }] ∧ x.src.ref = ref ∧ x.src.tdt = b.tdtbase.toNat ∧ x.src.tag = BitVec.ofNat 16 tag.tag ∧
            ((tfind u.tasks (b.task.getD 0)).isSome = true → tfind (taskOf t (b.task.getD 0)).wmap w.ws.toNat = some (some n)) ∧
            ((∀ y ∈ (clusterOf u (clusterOfCore s.curCore)).slots, y.2.src.ref ≠ ref) → x.filled = false ∧ x.rows = tdTr e ∧ x.cols = tdTc e ∧ x.fmt = tagFmt tag.tag ∧ x.spc = tagSpc tag.tag)))) ∧
    (issues (.mdrain w) s = true → drainTensor w = true → r.poi = false → (drainVar w = 0 ∨ (readIdx (coreTime s s.curCore) b w.ib.toNat).poi = false) →
      nbit (nbits b.accmap.toNat (6 * w.acc.toNat) 6) 5 = true → lrTdtn (taskLr s (b.task.getD 0)) ≤ refTid ref → exec (.mdrain w) s = .next (stopWord (.mdrain w) (.trap 0x06 0 0x500) s))

/-! ## Copy words and reels (R239-R247, R390-R393, R444, R452-R456) -/

/-- R390-R392, R444, R238, R244, R245: the copy words build the 64-byte command of R239 from their fields and registers, and place it in a free slot; L is added to PEND. Without
a slot, or while an earlier access of the strand is held back, they stall. A placed command takes a free slot of the core, behind every command of its queue that was placed
before it; the other commands stand; nothing is copied yet: the bytes that change are those of the strand's earlier accesses, which are performed first. R392: the checks, in their order. -/
def Obligations.CopyWords : Prop :=
  (∀ (w : CPY) (s : State),
    let kinds : List (Instr × Nat) := [(.cpy w, 0), (.cpys w, 1), (.cpyg w, 2), (.cpysc w, 3), (.cpyr w, 4), (.cpyf w, 5), (.pflush w, 6), (.pinv w, 7), (.cpyn w, 8)]
    let reg := fun (f : BitVec 7) => (rdS s f).v.toNat
    ∀ i k, (i, k) ∈ kinds →
      -- the checks of R392 before the command is built, in their order, and the image
      (let used := (if k ≠ 8 then [w.dst] else []) ++ (if k ≤ 5 then [w.src] else []) ++ (if k ≠ 8 then [w.len] else []) ++ (if k = 1 ∨ k = 2 ∨ k = 3 then [w.aux] else []) ++
         (if k = 1 then [w.aux + 1] else []) ++ (if w.note then [w.nrg, w.nrg + 1] else [])
       let vas := (if k ≠ 8 then [w.dst] else []) ++ (if k ≤ 4 ∨ k = 6 ∨ k = 7 then (if k ≤ 5 then [w.src] else []) else []) ++ (if k = 2 ∨ k = 3 then [w.aux] else []) ++ (if w.note then [w.nrg] else [])
       let early : List (Bool × Stop) := [(used.all fun f => !(rdS s f).poi, .trap 0x15 0 0),
         ((decide (k = 8) || decide (reg w.len < 2 ^ 48)) && (decide (k ≠ 1) || decide (reg w.aux < 2 ^ 48)), .trap 0x01 1 0)] ++
         vas.map fun f => (decide (reg f < 2 ^ 57), .trap 0x05 7 (reg f))
       let bad := fun (l : List (Bool × Stop)) => l.find? fun c => !c.1
       (∀ c, bad early = some c → buildCopy k w s = .error c.2) ∧
       (bad early = none → ∃ img, ccKind img = k ∧ ccBar img = w.bar.toNat ∧
         let late : List (Bool × Stop) := [(decide (ccBar img < (curBank s).bcnt.toNat), .trap 0x1C 0 0), (decide (ccLen img < 2 ^ 24), .trap 0x1B 0 0), (ccOk img, .trap 0x01 1 0)]
         (∀ c, bad late = some c → buildCopy k w s = .error c.2) ∧ (bad late = none → buildCopy k w s = .ok img))) ∧
      (∀ x, buildCopy k w s = .error x → issues i s = true → exec i s = .next (stopWord i x s)) ∧
      (∀ img, buildCopy k w s = .ok img →
        (ccKind img = k ∧ ccCq img = w.cq.toNat ∧ ccScope img = w.scope.toNat ∧ ccNote img = w.note ∧ ccErrstop img = w.errstop ∧ ccTag img = w.tag ∧ ccBar img = w.bar.toNat ∧
          ccRtype img = w.rtype.toNat ∧ ccTagv img = w.tagv.toNat ∧ (k ≤ 5 → ccSrc img = reg w.src) ∧ (k ≠ 8 → ccDst img = reg w.dst ∧ nbits img 192 48 = reg w.len) ∧
          (k = 1 → nbits img 256 48 = reg w.aux ∧ nbits img 320 64 = reg (w.aux + 1)) ∧ (k = 2 ∨ k = 3 → ccX2 img = reg w.aux) ∧
          (w.note = true → ccNaddr img = reg w.nrg ∧ ccNval img = reg (w.nrg + 1)) ∧ ccOk img = true ∧ ccBar img < (curBank s).bcnt.toNat ∧ ccLen img < 2 ^ 24) ∧
        (issues i s = true →
          let b := curBank s
          let bar := b.bbase.toNat + w.bar.toNat
          ((freeSlots (coreOf s s.curCore) = [] ∨ waitsBehind s { kind := .store } = true) → exec i s = .next (stallAs s .other)) ∧
          (freeSlots (coreOf s s.curCore) ≠ [] → waitsBehind s { kind := .store } = false →
            (barPend s s.curCore bar + ccLen img < 2 ^ 24 →
              let c : CopyCmd := { cmd := BitVec.ofNat 512 img, task := b.task.getD 0, sup := (coreOf s s.curCore).pm, root := b.root, key := b.key, cq := w.cq.toNat, bar := bar, len := ccLen img }
              exec i s = .next (complete i false { s := placeCmd (drainCur s) s.curCore c } s)) ∧
            (2 ^ 24 ≤ barPend s s.curCore bar + ccLen img →
              exec i s = .next (if copyNames s s.curCore bar then stallAs s .other else stopWord i (.trap 0x1C 1 0) s)))))) ∧
  (∀ (s : State) (core : Nat) (c : CopyCmd), freeSlots (coreOf s core) ≠ [] →
    let k := coreOf s core
    let k' := coreOf (placeCmd s core c) core
    (∃ n ∈ freeSlots k, ∃ d, tfind k'.slots n = some d ∧ d.cmd = c.cmd ∧ d.seq = k.copySeq ∧ d.st = c.st ∧ d.len = c.len ∧ ∀ m, m ≠ n → tfind k'.slots m = tfind k.slots m) ∧
    k'.copySeq = k.copySeq + 1 ∧ (placeCmd s core c).mem = s.mem) ∧
  -- before a command is placed the strand's outstanding accesses are performed, one after the other in program order; without one nothing changes
  (∀ (s : State),
    let ids := outstanding (strandOf s s.curCore (curFg s) s.curSt) fun _ => true
    drainCur s = ids.foldl (fun t id => performFlight t s.curCore (curFg s) s.curSt id) s ∧
    (∀ id, id ∈ ids ↔ ∃ f ∈ (strandOf s s.curCore (curFg s) s.curSt).flight, f.id = id ∧ f.landed = false ∧ ∃ o, f.op = some o ∧ o.kind ≠ .reply ∧ o.kind ≠ .tlbinv ∧
      (∀ a b, o.kind ≠ .swap a b) ∧ ∀ a, o.kind ≠ .spill a) ∧
    (ids = [] → drainCur s = s))

/-- R452-R456: the reel words, once the RCB passes its checks: REELAPP appends an entry and then TAIL, REELLNK writes LINK, REELKICK binds the reel, REELSTAT reads the
counts with acquire. The entry of a ring that is not aligned as R252 demands gets undefined bytes (R1). -/
def Obligations.ReelWords : Prop :=
  ∀ (w : RR) (s : State),
    let a := rdS s w.a
    let b := rdS s w.b
    let va := a.v.toNat
    (∀ i : Instr, (i = .reelapp w ∨ i = .reellnk w ∨ i = .reelkick w ∨ i = .reelstat w) → issues i s = true →
      (a.poi = true → exec i s = .next (stopWord i (.trap 0x15 0 0) s)) ∧
      (a.poi = false → (b.poi = false ∨ i = .reelkick w ∨ i = .reelstat w) → va % 128 ≠ 0 → exec i s = .next (stopWord i (.trap 0x04 0 va) s))) ∧
    (a.poi = false → va % 128 = 0 →
      (∀ pa r p u, reelBlock s va .read = .ok (pa, (r, p), u) → issues (.reelstat w) s = true →
        exec (.reelstat w) s = .next (complete (.reelstat w) false
          { s := acquireAction u u.curCore 2, atOnce := true,
            writes := wrS w.d (BitVec.ofNat 64 (rcHead r + rcTail r * 2 ^ 32)) p ++ wrS (w.d + 1) (BitVec.ofNat 64 (rcDone r + rcErrn r * 2 ^ 32 + rcState r * 2 ^ 48)) p } s)) ∧
      (∀ pa r p u, reelBlock s va .write = .ok (pa, (r, p), u) →
        (issues (.reellnk w) s = true → b.poi = false →
          exec (.reellnk w) s = .next (complete (.reellnk w) false { s := rcbWrite u u.curCore pa 32 8 (b.v.toNat % 2 ^ 57) } s)) ∧
        (issues (.reelkick w) s = true →
          let t := releaseAction u u.curCore 2
          (rcState r = 1 → exec (.reelkick w) s = .next (complete (.reelkick w) false { s := t } s)) ∧
          (rcState r ≠ 1 → 64 ≤ (coreOf t t.curCore).reels.length → exec (.reelkick w) s = .next (stallAs s .other)) ∧
          (rcState r ≠ 1 → (coreOf t t.curCore).reels.length < 64 → exec (.reelkick w) s = .next (complete (.reelkick w) false
            { s := startReel t t.curCore { rcb := pa, task := (curBank t).task.getD 0, root := (curBank t).root, key := (curBank t).key, sup := supervisor t t.curCore } } s))) ∧
        (∀ x img, issues (.reelapp w) s = true → b.poi = false → b.v.toNat % 64 = 0 → xlatPages s (curCtx s) .write true va 128 = .ok x →
          xlat s (curCtx s) .read false b.v.toNat 64 = .ok img →
          ((rcTail r + 2 ^ 32 - rcHead r) % 2 ^ 32 = 2 ^ rcLog r → exec (.reelapp w) s = .next (stallAs s .other)) ∧
          ((rcTail r + 2 ^ 32 - rcHead r) % 2 ^ 32 ≠ 2 ^ rcLog r →
            let e := rcBase r + 64 * (rcTail r % 2 ^ rcLog r)
            (∀ f, xlatPages u (curCtx u) .write true e 64 = .error f → exec (.reelapp w) s = .next (stopWord (.reelapp w) (.trap f.cause f.sub f.va) s)) ∧
            (∀ l, xlatPages u (curCtx u) .write true e 64 = .ok l → (∃ y ∈ l, y.kind ≠ .loc ∧ y.kind ≠ .coh) → exec (.reelapp w) s = .next (stopWord (.reelapp w) (.trap 0x06 6 e) s)) ∧
            ∀ l, xlatPages u (curCtx u) .write true e 64 = .ok l → (∀ y ∈ l, y.kind = .loc ∨ y.kind = .coh) → regionsOk u (curCtx u) l = .ok () →
              let v := useXlats (useXlats u (curCtx u) .read false img) (curCtx u) .write true l
              let t := appendImage v v.curCore (if l.any (fun y => y.kind = .coh) then 3 else 2) ((curBank v).task.getD 0) e (piecesOf img) (piecesOf l)
              let y := scrambleEntry t t.curCore (if l.any (fun y => y.kind = .coh) then 3 else 2) r (piecesOf l)
              let z := releaseAction y y.curCore 2
              (ringOk r = true → y = t) ∧ exec (.reelapp w) s = .next (complete (.reelapp w) false { s := rcbWrite z z.curCore pa 20 4 (rcTail r + 1) } s)))))

/-! ## Task words (R422, R438, R468, R470, R472-R476, R500) -/

/-- R472-R474, R422, R476, R500, R470: the words of tasks. TSPAWN and LNCH read their records as releases do: the strand's earlier accesses are performed first, and what they wrote is made visible. -/
def Obligations.TaskWords : Prop :=
  (∀ (s : State) (va n : Nat),
    (∀ f, xlat s (curCtx s) .read false va n = .error f → readReleased s va n = .error (.trap f.cause f.sub f.va)) ∧
    (∀ l, xlat s (curCtx s) .read false va n = .ok l → heldByFence s = true → readReleased s va n = .error (.stall .other)) ∧
    (∀ l, xlat s (curCtx s) .read false va n = .ok l → heldByFence s = false →
      let u := drainCur (useXlats s (curCtx s) .read false l)
      readReleased s va n = .ok (readPieces (releaseAction u u.curCore 2) u.curCore 2 (piecesOf l)))) ∧
  ∀ (w : RR) (s : State),
    let a := rdS s w.a
    let va := a.v.toNat
    let me := (curBank s).task.getD 0
    (∀ i : Instr, (i = .tspawn w ∨ i = .lnch w ∨ i = .ttagr w) → issues i s = true → a.poi = true → exec i s = .next (stopWord i (.trap 0x15 0 0) s)) ∧
    (issues (.tspawn w) s = true → a.poi = false →
      (va % 64 ≠ 0 → exec (.tspawn w) s = .next (stopWord (.tspawn w) (.trap 0x04 0 va) s)) ∧
      (va % 64 = 0 → (∀ x, readReleased s va 64 = .error x → exec (.tspawn w) s = .next (stopWord (.tspawn w) x s)) ∧
        ∀ r u, readReleased s va 64 = .ok ((r, true), u) → exec (.tspawn w) s = .next (stopWord (.tspawn w) (.trap 0x15 0 0) s)) ∧
      (va % 64 = 0 → ∀ r u, readReleased s va 64 = .ok ((r, false), u) →
        let me := (curBank u).task.getD 0
        let h := (taskOf u me).launch
        let ok := me != 0 && spawnOk r (lrTdtn (taskLr u me)) && !launchOver (launchOf u h)
        (ok = false → exec (.tspawn w) s = .next (stopWord (.tspawn w) (.trap 0x01 1 0) s)) ∧
        (ok = true → 64 ≤ (dieOf u (dieOfCore u.curCore)).spawnBuf.length → exec (.tspawn w) s = .next (stallAs s .other)) ∧
        (ok = true → (dieOf u (dieOfCore u.curCore)).spawnBuf.length < 64 →
          ∃ t, exec (.tspawn w) s = .next (complete (.tspawn w) false { s := t, writes := wrS w.d (BitVec.ofNat 64 (u.nextTask % 2 ^ 32)) false, bound := 1500 } s) ∧
            tfind t.tasks u.nextTask = some (spawnTask u me r) ∧ (dieOf t (dieOfCore u.curCore)).spawnBuf = (dieOf u (dieOfCore u.curCore)).spawnBuf ++ [u.nextTask] ∧
            t.nextTask = u.nextTask + 1 ∧ t.mem = u.mem))) ∧
    (issues (.lnch w) s = true → a.poi = false →
      (va % 128 ≠ 0 → exec (.lnch w) s = .next (stopWord (.lnch w) (.trap 0x04 0 va) s)) ∧
      (va % 128 = 0 → (∀ x, readReleased s va 128 = .error x → exec (.lnch w) s = .next (stopWord (.lnch w) x s)) ∧
        ∀ r u, readReleased s va 128 = .ok ((r, true), u) → exec (.lnch w) s = .next (stopWord (.lnch w) (.trap 0x15 0 0) s))) ∧
    (issues (.lnch w) s = true → a.poi = false → va % 128 = 0 → ∀ r u, readReleased s va 128 = .ok ((r, false), u) →
      let d := dieOfCore u.curCore
      (64 ≤ (dieOf u d).launchBuf.length → exec (.lnch w) s = .next (stallAs s .other)) ∧
      ((dieOf u d).launchBuf.length < 64 → ∃ t x, exec (.lnch w) s = .next (complete (.lnch w) false { s := t } s) ∧ (dieOf t d).launchBuf = (dieOf u d).launchBuf ++ [x] ∧
        x.img = BitVec.ofNat 1024 r ∧ x.root = (curBank u).root ∧ x.key = (curBank u).key ∧ t.mem = u.mem)) ∧
    (issues (.tret w) s = true →
      let t := stallAs (modBank s fun b => { b with tretIssued := true }) .tret
      exec (.tret w) s = .next (if (curBank s).task.isSome then stopReels t s.curCore else t) ∧ (curBank t).tretIssued = true ∧ (curBank t).se.pc = (curBank s).se.pc) ∧
    (issues (.tyield w) s = true →
      let k := coreOf s s.curCore
      (((curBank s).task = none ∨ (taskOf s me).glev ≠ 7) → exec (.tyield w) s = .next (wentTo (.tyield w) s none)) ∧
      ((curBank s).task = some me → (taskOf s me).glev = 7 → (k.spillAt ≠ none ∨ classRoom s me = false) → exec (.tyield w) s = .next (stallAs s .other)) ∧
      ((curBank s).task = some me → (taskOf s me).glev = 7 → k.spillAt = none → classRoom s me = true → (bankSel k (shadow k)).task = none →
        ∃ t, exec (.tyield w) s = .next (complete (.tyield w) false { s := t } s) ∧ (coreOf t s.curCore).swapWant = true ∧ (bankOf t s.curCore k.fg).yielded = true ∧
          (coreOf t s.curCore).spillAt = none) ∧
      ((curBank s).task = some me → (taskOf s me).glev = 7 → k.spillAt = none → classRoom s me = true → (bankSel k (shadow k)).task ≠ none →
        (freeArea s (dieOfCore s.curCore) = none → exec (.tyield w) s = .next (wentTo (.tyield w) s none)) ∧
        (∀ n, freeArea s (dieOfCore s.curCore) = some n → ∃ t, exec (.tyield w) s = .next (complete (.tyield w) false { s := t } s) ∧ (coreOf t s.curCore).swapWant = true ∧
          (bankOf t s.curCore k.fg).yielded = true ∧ (coreOf t s.curCore).spillAt = some n))) ∧
    (issues (.ttagr w) s = true → a.poi = false → ∀ e u t v, operandRef s va = .ok (e, u) → readTagAcq u e (refIdx va) = .ok (t, v) →
      exec (.ttagr w) s = .next (complete (.ttagr w) false
        { s := v, writes := wrS w.d (BitVec.ofNat 64 (t.tag % 2 ^ 16 + (tileStale v (curBank v).root e (refIdx va) (fmtWidth (tagFmt t.tag))).toNat * 2 ^ 16)) t.poi, atOnce := true } s)) ∧
    (issues (.tqry w) s = true → exec (.tqry w) s = .next (done (.tqry w) s (wrS w.d (BitVec.ofNat 64 (taskFact (taskOf s me) w.imm.toNat)) false) 2)) ∧
    (issues (.widf w) s = true →
      let j := w.imm.toNat % 8
      let mode := w.imm.toNat / 8 % 4
      let x : Reg := if w.sub.toNat = 1 then a else { v := (curBank s).wid }
      let o := fmtFieldOff (curBank s).widfmt j
      let n := fmtFieldWidth (curBank s).widfmt j
      j ≤ 5 ∧ (mode = 0 → exec (.widf w) s = .next (done (.widf w) s (wrS w.d (BitVec.ofNat 64 (nbits x.v.toNat o n)) x.poi) 2)) ∧
        (mode = 1 → exec (.widf w) s = .next (done (.widf w) s (wrS w.d (BitVec.ofNat 64 o) false) 2)) ∧
        (mode = 2 → exec (.widf w) s = .next (done (.widf w) s (wrS w.d (BitVec.ofNat 64 n) false) 2)) ∧
        (mode = 3 → exec (.widf w) s = .next (done (.widf w) s (wrS w.d (BitVec.ofNat 64 (x.v.toNat / 2 ^ o * 2 ^ o)) x.poi) 2)))

/-- R438, R468, R475, R474: the words of tags, descriptors and the method table: TTAGW is a release write of two bytes at the tag's home; TDESC reads a word of a TDT entry;
MTINS and MTDEL change one entry of the method table and say how it went. -/
def Obligations.TableWords : Prop :=
  ∀ (w : RR) (s : State),
    let a := rdS s w.a
    let b := rdS s w.b
    (issues (.ttagw w) s = true → a.poi = false → b.poi = false →
      (2 ^ 16 ≤ b.v.toNat → exec (.ttagw w) s = .next (stopWord (.ttagw w) (.trap 0x01 1 0) s)) ∧
      (b.v.toNat < 2 ^ 16 → ∀ e u, operandRef s a.v.toNat = .ok (e, u) →
        ((tdTmap e = 0 ∨ tdRdonly e = true) → exec (.ttagw w) s = .next (stopWord (.ttagw w) (.trap 0x06 2 0) s)) ∧
        (tdTmap e ≠ 0 → tdRdonly e = false → ∀ l, xlat u (curCtx u) .write false (tdTmap e + 2 * refIdx a.v.toNat) 2 = .ok l → (∀ x ∈ l, tagKindOk e x.kind = true) →
          heldByFence u = false →
          let scope := if l.all fun x => x.kind = .loc then 2 else 3
          let v := drainCur (useXlats u (curCtx u) .write false l)
          let t := releaseAction v u.curCore scope
          t.curCore = u.curCore →
          exec (.ttagw w) s = .next (complete (.ttagw w) false { s := writePieces t u.curCore scope false (piecesOf l) b.v.toNat } s)))) ∧
    (issues (.tdesc w) s = true → a.poi = false →
      let n := match (curBank s).task with | some t => lrTdtn (taskLr s t) | none => 0
      ((1024 ≤ a.v.toNat ∨ n ≤ a.v.toNat) → exec (.tdesc w) s = .next (stopWord (.tdesc w) (.trap 0x01 1 0) s)) ∧
      (a.v.toNat < 1024 → a.v.toNat < n → 
        let tdt := (curBank s).tdtbase.toNat
        let k := w.imm.toNat % 8
        (∀ r, readTdWord s (curCtx s) tdt a.v.toNat k = .ok r →
          exec (.tdesc w) s = .next (complete (.tdesc w) false { s := r.2, writes := wrS w.d (BitVec.ofNat 64 r.1.1) r.1.2, bound := 1500 } s)) ∧
        (∀ r, readAt s (curCtx s) 2 (tdt + 64 * a.v.toNat + 8 * k) 8 = .ok r → tdWordOlds r.2.2 (curCtx s).root (tdt + 64 * a.v.toNat) k r.1.1 = [] →
          readTdWord s (curCtx s) tdt a.v.toNat k = .ok (r.1, r.2.2)))) ∧
    (issues (.mtins w) s = true → a.poi = false → b.poi = false → a.v.toNat % 32 = 0 → ∀ l, xlat s (curCtx s) .read false a.v.toNat 32 = .ok l →
      let o : MemOp := { kind := .load, va := a.v.toNat, n := 32, pieces := piecesOf l, scope := 2, ord := 1 }
      let d := drainFor (useXlats s (curCtx s) .read false l) o
      let r := readPieces d s.curCore 2 (piecesOf l)
      let u := acquireAction r.2 s.curCore 2
      waitsBehind s o = false → r.2.curCore = s.curCore →
      (65536 ≤ b.v.toNat → exec (.mtins w) s = .next (complete (.mtins w) false { s := u, writes := wrS w.d 2 false, bound := 1500 } s)) ∧
      (b.v.toNat < 65536 → (r.1.2 = true ∨ imageOk r.1.1 = false) → exec (.mtins w) s = .next (complete (.mtins w) false { s := u, writes := wrS w.d 1 false, bound := 1500 } s)) ∧
      (b.v.toNat < 65536 → r.1.2 = false → imageOk r.1.1 = true → exec (.mtins w) s = .next (complete (.mtins w) false
        { s := retryHeld { u with methods := tset u.methods b.v.toNat (BitVec.ofNat 256 r.1.1) } (mtOpid r.1.1), writes := wrS w.d 0 false, bound := 1500 } s))) ∧
    (issues (.mtdel w) s = true → b.poi = false →
      (65536 ≤ b.v.toNat → exec (.mtdel w) s = .next (done (.mtdel w) s (wrS w.d 2 false) 1500)) ∧
      (b.v.toNat < 65536 → mtVal (method s b.v.toNat) = false → exec (.mtdel w) s = .next (done (.mtdel w) s (wrS w.d 1 false) 1500)) ∧
      (b.v.toNat < 65536 → mtVal (method s b.v.toNat) = true → ∃ t, exec (.mtdel w) s = .next (complete (.mtdel w) false { s := t, writes := wrS w.d 0 false, bound := 1500 } s) ∧
        mtVal (method t b.v.toNat) = false ∧ mtOpid (method t b.v.toNat) = mtOpid (method s b.v.toNat) ∧ (∀ j, j ≠ b.v.toNat → method t j = method s j) ∧ t.mem = s.mem ∧ t.cores = s.cores))

/-! ## Pool words (R297, R301, R424, R441, R443) -/

/-- R297, R298, R441: NQPOST and NQTAKE once the header and its pages pass: a closed queue (or, under try, an empty one) answers all ones; otherwise an index is
claimed once, the entry's sequence word is waited for, and the payload is copied before the entry is released. R12, R313: a poisoned sequence word raises POISON with subcause 2,
and the claim stands. -/
def Obligations.NotifyQueueWords : Prop :=
  ∀ (w : RR) (s : State),
    (∀ x, queueHeader w .read s = .error x → issues (.nqpost w) s = true → exec (.nqpost w) s = .next (stopWord (.nqpost w) x s)) ∧
    (∀ x, queueHeader w .write s = .error x → issues (.nqtake w) s = true → exec (.nqtake w) s = .next (stopWord (.nqtake w) x s)) ∧
    -- the claim, and the wait at the claimed entry, whose page is looked at behind the claim
    (∀ (u : State) (va h idx off i : Nat),
      (∀ n, (curStrand u).claimed = some n → claimIndex u va h idx off i = .ok u) ∧
      ((curStrand u).claimed = none → (∀ x, queuePage u .atomic (va + off) 8 = .error x → claimIndex u va h idx off i = .error x) ∧
        (∀ l n, queuePage u .atomic (va + off) 8 = .ok (l, n) → ∃ v, claimIndex u va h idx off i = .ok v ∧ (curStrand v).claimed = some (i % 2 ^ 63) ∧ (curStrand v).claimOf = (nqLog h, idx) ∧
          v.mem = (writePieces (useXlats u (curCtx u) .atomic true l) u.curCore 3 false (piecesOf l) ((i + 1) % 2 ^ 64)).mem))) ∧
    (∀ (i : Instr) (dst : Acc), (i = .nqpost w ∧ dst = .read) ∨ (i = .nqtake w ∧ dst = .write) → issues i s = true → ∀ va h idx buf u, queueHeader w dst s = .ok (va, h, idx, buf, u) →
      let post := decide (i = .nqpost w)
      let c := (curStrand u).claimed
      let n := c.getD (if post then nqPi h else nqCi h)
      let want := if post then n else n + 1
      let off := if post then 0 else 8
      let try_ := w.imm.getLsbD 0
      -- what precedes the claim: a closed queue for NQPOST, an empty one for NQTAKE with try
      (post = true → c = none → nqClosed h = true → exec i s = .next (complete i false { s := u, writes := wrS w.d (BitVec.allOnes 64) false, atOnce := true } s)) ∧
      (post = false → c = none → try_ = true → (∀ x, queueEntry u va h n idx = .error x → exec i s = .next (stopWord i x s)) ∧ ∀ l, queueEntry u va h n idx = .ok l →
        let q := readPieces (useXlats u (curCtx u) .write true l) u.curCore 3 (entrySeq l)
        (q.1.2 = true → exec i s = .next (stopWord i (.trap 0x15 2 0) s)) ∧
        (q.1.2 = false → q.1.1 % 2 ^ 63 ≠ want % 2 ^ 63 →
          exec i s = .next (complete i false { s := acquireAction q.2 q.2.curCore 3, writes := wrS w.d (BitVec.allOnes 64) false, atOnce := true } s))) ∧
      -- then the claim and the wait
      ((c ≠ none ∨ (post = true ∧ nqClosed h = false) ∨ (post = false ∧ (try_ = false ∨ ∃ l, queueEntry u va h n idx = .ok l ∧
          let q := readPieces (useXlats u (curCtx u) .write true l) u.curCore 3 (entrySeq l)
          q.1.2 = false ∧ q.1.1 % 2 ^ 63 = want % 2 ^ 63))) →
        (∀ x, claimIndex u va h idx off n = .error x → exec i s = .next (stopWord i x s)) ∧
        ∀ v, claimIndex u va h idx off n = .ok v →
          (∀ x, queueEntry v va h n idx = .error x → exec i s = .next (stopWord i x v)) ∧
          ∀ l, queueEntry v va h n idx = .ok l →
            let x := useXlats v (curCtx v) .write true l
            let r := match (curStrand x).park.bind Park.sat with | some y => (y, x) | none => readPieces x x.curCore 3 (entrySeq l)
            let t := acquireAction r.2 x.curCore 3
            let pa := (l.map Xlat.pa).headD 0
            (r.1.2 = true → exec i s = .next (stopWord i (.trap 0x15 2 0) r.2)) ∧
            (r.1.2 = false → r.1.1 % 2 ^ 63 ≠ want % 2 ^ 63 → exec i s = .next (parkCur r.2 (.word pa) (waitTable x.curCore 3 pa) (.equals want) 3)) ∧
            (r.1.2 = false → r.1.1 % 2 ^ 63 = want % 2 ^ 63 → post = true → exec i s = .next (complete i false
              { s := releaseSeq (copyPayload t 1 3 (nqEntry va h n + 8) (piecesOf buf) (entryPayload l)) l (n + 1), writes := wrS w.d (BitVec.ofNat 64 (n % 2 ^ 63)) false, atOnce := true } s)) ∧
            (r.1.2 = false → r.1.1 % 2 ^ 63 = want % 2 ^ 63 → post = false → exec i s = .next (complete i false
              { s := releaseSeq (copyPayload t 3 1 (rdS t w.b).v.toNat (entryPayload l) (piecesOf buf)) l (n + 2 ^ nqLog h),
                writes := wrS w.d (BitVec.ofNat 64 (r.1.1 / 2 ^ 63 * 2 ^ 63 + n % 2 ^ 63)) false, atOnce := true } s))))

/-- R424, R443, R301: LRENEW sends a renewal for a COH entry in STATE 1 and else does nothing. ORPHX moves the first orphans that its selector names, in the order of R301 and
at most 256, into a LOCAL buffer, one entry of 160 bytes each, with plain stores at DEV scope and a DEV release behind them; it frees them, and D gets their number. A selector that
names nothing gives 0. -/
def Obligations.LeaseAndOrphanWords : Prop :=
  (∀ (w : RR) (s : State),
    let a := rdS s w.a
    let b := rdS s w.b
    let c := rdS s w.c
    let due := a.v.toNat < 1024 ∧ prtKind (prtEntry s a.v.toNat) = 0 ∧ prtState (prtEntry s a.v.toNat) = 1
    (issues (.lrenew w) s = true →
      (a.poi = true → exec (.lrenew w) s = .next (stopWord (.lrenew w) (.trap 0x15 0 0) s)) ∧
      (a.poi = false → due → exec (.lrenew w) s = .next (complete (.lrenew w) false { s := sendRenewal s a.v.toNat } s) ∧
        sendRenewal s a.v.toNat = { s with pool := { s.pool with leases := s.pool.leases.map fun l => if l.prt = a.v.toNat then { l with asked := l.asked ++ [s.cycle] } else l } }) ∧
      (a.poi = false → ¬ due → exec (.lrenew w) s = .next (complete (.lrenew w) false { s := s } s))) ∧
    (issues (.orphx w) s = true →
      ((a.poi = true ∨ b.poi = true ∨ c.poi = true) → exec (.orphx w) s = .next (stopWord (.orphx w) (.trap 0x15 0 0) s)) ∧
      (a.poi = false → b.poi = false → c.poi = false →
        (orphansFor s b.v.toNat = none → exec (.orphx w) s = .next (complete (.orphx w) false { s := s, writes := wrS w.d 0 false, bound := 6000 } s)) ∧
        (∀ o, orphansFor s b.v.toNat = some o →
          let n := min c.v.toNat 256
          let x := o.take n
          (a.v.toNat % 32 ≠ 0 → exec (.orphx w) s = .next (stopWord (.orphx w) (.trap 0x04 0 a.v.toNat) s)) ∧
          (a.v.toNat % 32 = 0 → (∀ f, xlat s (curCtx s) .rescue true a.v.toNat (160 * n) = .error f → exec (.orphx w) s = .next (stopWord (.orphx w) (.trap f.cause f.sub f.va) s)) ∧
            ∀ l, xlat s (curCtx s) .rescue true a.v.toNat (160 * n) = .ok l →
              (∀ p ∈ l, p.kind = .loc) ∧
              (heldByFence s = true → exec (.orphx w) s = .next (stallAs s .other)) ∧
              (heldByFence s = false →
                let d := drainCur (useXlats s (curCtx s) .rescue true l)
                let t := releaseAction (writePieces d d.curCore 2 false ((piecesOf l).take (5 * x.length)) (x.foldr (fun y v => orphanImage y + 2 ^ 1280 * v) 0)) d.curCore 2
                exec (.orphx w) s = .next (complete (.orphx w) false
                  { s := { t with pool := { t.pool with orphans := t.pool.orphans.filter fun y => !x.contains y } },
                    writes := wrS w.d (BitVec.ofNat 64 x.length) false, bound := 6000 } s))))))) ∧
  (∀ (s : State) (b : Nat), b < 2 ^ 64 →
    let sel := fun y : Orphan => if b < 2 ^ 63 then y.prt = b else headOfPa (128 * y.line) = b - 2 ^ 63
    (orphansFor s b = none ↔ (1024 ≤ b ∧ b < 2 ^ 63) ∨ 2 ^ 63 + 8 ≤ b) ∧
    (∀ o, orphansFor s b = some o → (∀ y, y ∈ o ↔ y ∈ s.pool.orphans ∧ sel y) ∧ o.Pairwise fun y z => lexLt (orphanKey z) (orphanKey y) = false)) ∧
  (∀ y : Orphan, y.line < 2 ^ 45 → y.die < 4 → y.cluster < 32 → y.prt < 1024 →
    let v := orphanImage y
    v < 2 ^ 1280 ∧ nbits v 7 45 = y.line ∧ nbits v 0 4 = y.poison.toNat ∧ nbits v 64 2 = y.die ∧ nbits v 66 5 = y.cluster ∧ nbit v 71 = y.pool ∧ nbits v 80 10 = y.prt ∧
      nbits v 128 128 = y.dirty.toNat ∧ ∀ j, j < 128 → nbits v (256 + 8 * j) 8 = if y.dirty.getLsbD j then (y.data.extractLsb' (8 * j) 8).toNat else 0)

/-! ## Control and status registers (R139-R142, R394, R395) -/

/-- R394, R395: CSRR returns the register; CSRW, CSRS and CSRC return the old value and write the new one, refused with ILLEGAL 1 when it sets a RsvdZ bit; MCTL and ENACC are
brought up to date first (R108, R207). R139-R142, R151, R152, R154, R320: a written value reads back, a read-only field stands, a flag that lands in the cycle of a write to FPFLAGS
is ORed in after it (R153), and nothing but the register is written; STATUS, the task's facts and the clocks read as the state has them. -/
def Obligations.CsrWords : Prop :=
  (∀ (w : SYS) (s : State),
    let n := w.csr.toNat
    let a := rdS s w.a
    let u := csrSync s n
    let old := BitVec.ofNat 64 (csrGet u n)
    let writes := fun (i : Instr) (new : W64) => issues i s = true →
      (a.poi = true → exec i s = .next (stopWord i (.trap 0x15 0 0) s)) ∧
      (a.poi = false → csrRefuses n new = true → exec i s = .next (stopWord i (.trap 0x01 1 0) s)) ∧
      (a.poi = false → csrRefuses n new = false →
        (csrLate n = none → exec i s = .next (complete i false { s := csrSet u n new, writes := wrS w.d old false, bound := 2 } s)) ∧
        (∀ d, csrLate n = some d → exec i s = .next (complete i false
          { s := modBank (csrSet u n new) fun b => { b with csrOld := b.csrOld ++ [(n, old, new, coreTime u u.curCore + d)] }, writes := wrS w.d old false, bound := 2 } s)))
    (n ≠ 0x71 → n ≠ 0x80 → u = s) ∧
    (issues (.csrr w) s = true → exec (.csrr w) s = .next (complete (.csrr w) false { s := u, writes := wrS w.d old false, bound := 2 } s)) ∧
    writes (.csrw w) a.v ∧ writes (.csrs w) (old ||| a.v) ∧ writes (.csrc w) (old &&& ~~~a.v)) ∧
  (∀ (s : State) (n : Nat) (v : W64), csrRefuses n v = false →
    let t := csrSet s n v
    (n ∈ [0x01, 0x02, 0x03, 0x05, 0x20, 0x21, 0x30, 0x31, 0x32, 0x33, 0x40, 0xA0] → csrGet t n = v.toNat) ∧
    (n = 0x41 → csrGet t n = v.toNat ||| (landedNow (curBank s) (coreTime s s.curCore)).toNat) ∧
    (n = 0x00 → csrGet t 0 = csrGet s 0 / 16 * 16 + v.toNat % 16 / 2 * 2 + csrGet s 0 % 2) ∧
    (n ∈ [0x04, 0x10, 0x11, 0x12, 0x13, 0x50, 0x51, 0x60, 0x61, 0x70, 0x80, 0x81, 0x90, 0x91, 0xB0, 0xB1, 0xC0] → t = s) ∧
    t.mem = s.mem ∧ t.clusters = s.clusters ∧ t.dies = s.dies ∧ t.tasks = s.tasks ∧ (∀ c, c ≠ s.curCore → coreOf t c = coreOf s c) ∧
    (∀ m, m ≠ n → m ≠ 0x80 → csrGet t m = csrGet s m) ∧
    (csrGet s 0x12 = (curBank s).taskid.toNat ∧ csrGet s 0x10 = (curBank s).wid.toNat ∧ csrGet s 0x90 = s.cycle % 2 ^ 64 ∧ csrGet s 0x91 = s.cycle / 15 % 2 ^ 64 ∧
      csrGet s 0x00 % 2 = (coreOf s s.curCore).pm.toNat ∧ nbit (csrGet s 0x00) 4 = (coreOf s s.curCore).sys))

/-! ## System words (R379, R399, R411, R463, R469, R471) and traps (R313-R320) -/

/-- R338, R379, R399, R411, R463, R469, R471: ILLEGAL in every state, and the system words in the mode that may run them. -/
def Obligations.SystemWords : Prop :=
  ∀ (w : SYS) (s : State),
    let a := rdS s w.a
    let b := rdS s w.b
    let c := s.curCore
    (issues (.trap w) s = true → exec (.trap w) s = .next (stopWord (.trap w) (.trap 0x18 (w.imm.extractLsb' 0 8).toNat 0) s)) ∧
    (issues (.bkpt w) s = true → exec (.bkpt w) s = .next (stopWord (.bkpt w) (.trap 0x17 0 0) s)) ∧
    (∀ body, exec (.illegal body) s = .next (stopWord (.illegal body) (.trap 0x01 0 0) s)) ∧
    (∀ (i : Instr), (i = .eret w ∨ i = .swapb w ∨ i = .spill w) → issues i s = true → a.poi = true → exec i s = .next (stopWord i (.trap 0x15 0 0) s)) ∧
    (issues (.eret w) s = true → a.poi = false →
      (a.v = 0 → s.curSt ≠ .e → exec (.eret w) s = .next (stopWord (.eret w) (.trap 0x01 2 0) s)) ∧
      (a.v = 0 → s.curSt = .e → ∃ u, exec (.eret w) s = .next u ∧ (coreOf u c).pm = (coreOf s c).ppm ∧ (coreOf u c).ie = (coreOf s c).pie ∧ (coreOf u c).amStopped = false ∧
        (strandOf u c (coreOf s c).fg .e).pc = (coreOf s c).epc.setWidth 64 ∧ u.mem = s.mem ∧ u.clusters = s.clusters ∧ u.dies = s.dies) ∧
      (a.v ≠ 0 → 2 ^ 34 ≤ a.v.toNat → ∃ u, exec (.eret w) s = .next (complete (.eret w) false { s := u } s) ∧ nbit (dieOf u (dieOfCore c)).trapctl.toNat 36 = true ∧
        u.cores = s.cores ∧ u.tasks = s.tasks ∧ u.mem = s.mem) ∧
      (a.v ≠ 0 → a.v.toNat < 2 ^ 34 → let d := nbits a.v.toNat 32 2
        let t := nbits a.v.toNat 0 32
        let ok := (trappedBank s t).isSome && (taskOf s t).die = d
        exec (.eret w) s = .next (complete (.eret w) false { s := settleTrap (trapErr s d (!ok)) d t 1 } s))) ∧
    (issues (.tlbinv w) s = true →
      (((w.sub ≠ 0 ∧ a.poi = true) ∨ (w.sub = 2 ∧ b.poi = true)) → exec (.tlbinv w) s = .next (stopWord (.tlbinv w) (.trap 0x15 0 0) s)) ∧
      ((w.sub ≠ 0 → a.poi = false) → (w.sub = 2 → b.poi = false) →
        let t := tlbDrop s w.sub.toNat (nbits a.v.toNat 12 40 * 4096) (b.v.toNat % 2 ^ 57)
        ((rowsOut t = true ∨ deviceHeld t = true) → exec (.tlbinv w) s = .next (complete (.tlbinv w) false { s := t, op := some { kind := .tlbinv } } s)) ∧
        (rowsOut t = false → deviceHeld t = false → exec (.tlbinv w) s = .next (complete (.tlbinv w) false { s := retryReads (drainDevice t) } s)))) ∧
    (∀ sub root va k : Nat, let t := tlbDrop s sub root va
      (coreOf t k).tlb = (coreOf s k).tlb.filter (fun e => !tlbHit sub root va e) ∧ (clusterOf t k).tlb = (clusterOf s k).tlb.filter (fun e => !tlbHit sub root va e) ∧
      (∀ x, x ∈ (dieOf t k).walks ↔ x ∈ (dieOf s k).walks ∧ sub ≠ 0 ∧ x.root ≠ root)) ∧
    (issues (.halt w) s = true → exec (.halt w) s = .next (complete (.halt w) false { s := updCore s c fun k => { k with halted := true } } s)) ∧
    (issues (.idle w) s = true →
      (((dieOf s (dieOfCore c)).intFq || (dieOf s (dieOfCore c)).intMc) = true → exec (.idle w) s = .next (wentTo (.idle w) s none)) ∧
      (((dieOf s (dieOfCore c)).intFq || (dieOf s (dieOfCore c)).intMc) = false → exec (.idle w) s = .next (stallAs s .other))) ∧
    (issues (.swapb w) s = true → a.poi = false →
      let v := a.v.toNat
      let none_ := selBad s v || ((bankOf s v 0).task.isNone && (bankOf s v 1).task.isNone)
      (none_ = true → exec (.swapb w) s = .next (done (.swapb w) s (wrS w.d 1 false) 6000)) ∧
      (none_ = false → (∀ t, forceSwaps s v = some t →
          exec (.swapb w) s = .next (complete (.swapb w) false { s := t, writes := wrS w.d 0 false, op := swapReply w v (swapCores s v), bound := 6000 } s)) ∧
        (forceSwaps s v = none → exec (.swapb w) s = .next (complete (.swapb w) false { s := s, writes := wrS w.d 0 false, op := swapReply w v [], bound := 6000 } s)))) ∧
    -- the cores that a swap takes: with each task of a gang, all of its group that leave or come (R35)
    (∀ v : Nat, v ∈ swapCores s v ∧ (swapCores s v).Nodup ∧
      (∀ x, gangTask s (fgBank (coreOf s x)) = none → gangTask s (bankSel (coreOf s x) (shadow (coreOf s x))) = none → gangLeaves s x = [] ∧ gangComes s x = []) ∧
      (gangLeaves s v = [] → gangComes s v = [] → swapCores s v = [v] ∧ forceSwaps s v = some (forceSwap s v))) ∧
    (∀ x, (coreOf (forceSwap s x) x).swapWant = true ∨ (coreOf (forceSwap s x) x).swapAt ≠ none) ∧
    -- the answers come when the swap, the spill or the dropping is done; a late one only after
    (∀ (r : ResultId) f o, powered s = true → flightOf s r = some f → f.op = some o → watchdogOut s r.core f = false →
      let run := if f.dests.isEmpty then exec (.storePerformed r) s else exec (.resultLand r) s
      (∀ v l, o.kind = .swap v l → (∃ x ∈ l, (coreOf s x).swapAt ≠ none ∨ (coreOf s x).swapWant = true) → run = .next s) ∧
      (∀ v l, o.kind = .swap v l → l ≠ [] → (∀ x ∈ l, (coreOf s x).swapAt = none ∧ (coreOf s x).swapWant = false) → run = .next (landAnswer s r 0)) ∧
      (∀ v, o.kind = .swap v [] → forceSwaps s v = none → run = .next s) ∧
      (∀ v, o.kind = .spill v → (spillAct s v = none → run = .next s) ∧ ∀ t, spillAct s v = some t → run = .next (landAnswer t.1 r t.2)) ∧
      (o.kind = .tlbinv → ((rowsOut s = true ∨ deviceHeld s = true) → run = .next s) ∧
        (rowsOut s = false → deviceHeld s = false → run = .next (landAnswer (retryReads (drainDevice s)) r 0)))) ∧
    (issues (.spill w) s = true → a.poi = false →
      let v := a.v.toNat
      let k := coreOf s v
      let empty := selBad s v || (bankSel k (shadow k)).task.isNone
      let busy := k.swapAt.isSome || k.swapWant
      let answer := fun (t : State) (n : W64) => exec (.spill w) s = .next (complete (.spill w) false { s := t, writes := wrS w.d n false, bound := 6000 } s)
      let later := exec (.spill w) s = .next (complete (.spill w) false { s := s, writes := wrS w.d 0 false, op := some { kind := .spill v, dc := 3 }, bound := 6000 } s)
      (empty = true → answer s 1) ∧
      (empty = false → k.shst = 1 → (busy = false → unstageRoom s v = true → answer (unstage s v) 2) ∧ ((busy = true ∨ unstageRoom s v = false) → later)) ∧
      (empty = false → k.shst = 3 → later) ∧
      (empty = false → k.shst ≠ 1 → k.shst ≠ 3 → (busy = true → later) ∧ (busy = false →
        (freeArea s (dieOfCore v) = none → answer s 3) ∧
        (∀ x, freeArea s (dieOfCore v) = some x → (bankLanded (bankSel k (shadow k)) = true → spillRoom s v = true → answer (spillBank s v x) 0) ∧
          ((bankLanded (bankSel k (shadow k)) = false ∨ spillRoom s v = false) → later)))))

/-- R319, R314, R315, R316: taking a trap. On a system core without a task: CAUSE, EPC (the address of the trapping word, of whichever strand) and TVAL (a free value where the spec states none) are written, PM and IE are saved and replaced, A and M stop, E restarts at
the slate of TVEC. In a task: a record is posted for the core's die, the bank is marked as trapped, and no register, no pc and no byte of memory changes. R320, R399: ERET after
a trap gives back what the trap saved: mode, interrupt enable, E's place, when the handler changed none of EPC, PPM and PIE. -/
def Obligations.TrapEntryAndReturn : Prop :=
  (∀ (s : State) (c : Nat) (st : Strand) (cause sub tv cursor estat : Nat),
    let tval := if tvalStated cause then tv else freeAt s 997
    let s0 := if tvalStated cause then s else useFresh s
    let k := coreOf s c
    let b := fgBank k
    let t := takeTrap s c st cause sub tv cursor estat
    (k.sys = true → b.task = none →
      let k' := coreOf t c
      k'.cause = BitVec.ofNat 64 (cause + 256 * sub) ∧ k'.epc = BitVec.ofNat 57 (strandSel b st).pc.toNat ∧ k'.tval = BitVec.ofNat 64 tval ∧ k'.ppm = k.pm ∧ k'.pie = k.ie ∧
      k'.pm = true ∧ k'.ie = false ∧ k'.amStopped = true ∧ (fgBank k').se.phase = .slate ∧ (fgBank k').se.pc = k.tvec.setWidth 64 ∧
      (fgBank k').s = b.s ∧ (fgBank k').x = b.x ∧ (fgBank k').v = b.v ∧ (fgBank k').k = b.k ∧ (fgBank k').sa = b.sa ∧ (fgBank k').sm = b.sm ∧
      t.mem = s.mem ∧ t.dies = s.dies ∧ t.tasks = s.tasks ∧ ∀ d, d ≠ c → coreOf t d = coreOf s d) ∧
    ((k.sys = false ∨ b.task ≠ none) →
      (dieOf t (dieOfCore c)).posts = (dieOf s (dieOfCore c)).posts ++ [{ img := trapRecord s0 c k.fg (strandNum st) cause sub tval cursor estat, core := some c }] ∧
      fgBank (coreOf t c) = { b with trap := some { cause := cause, sub := sub, st := strandNum st, cursor := cursor, at_ := s.cycle }, tretIssued := false } ∧
      (coreOf t c).pm = k.pm ∧ (coreOf t c).fg = k.fg ∧ t.mem = s.mem ∧ t.clusters = s.clusters ∧ (∀ d, d ≠ c → coreOf t d = coreOf s d) ∧
      ((cause ≠ 0x15 ∨ sub ≠ 1) → t.tasks = s.tasks) ∧
      (cause = 0x15 → sub = 1 → ∀ id x, b.task = some id → tfind s.tasks id = some x → taskOf t id = { x with failing := some 1 } ∧ ∀ j, j ≠ id → taskOf t j = taskOf s j))) ∧
  -- a trap of A or M waits for the passes of E's word; M's cuts the running command first (R176, R213)
  (∀ (s : State) (c sub tval stat : Nat),
    (midPass s = true → trapStrand s c sub tval stat = stallAs s .other) ∧
    (midPass s = false → s.curSt ≠ .m → trapStrand s c sub tval stat = takeTrap s s.curCore s.curSt c sub tval
      (match (curStrand s).claimed with | some n => 2 ^ 63 + n | none => 0) stat) ∧
    (midPass s = false → s.curSt = .m → let u := modBank (cutMatrix s s.curCore) fun b => { b with mwait := none }
      u.curCore = s.curCore → u.curSt = .m → trapStrand s c sub tval stat = takeTrap u u.curCore .m c sub tval (curBank u).cursor.toNat (leaseWord u u.curCore))) ∧
  (∀ (s : State) (c : Nat) (cause : W64) (tval : Nat), (fgBank (coreOf s c)).se.pc.toNat < 2 ^ 57 →
    let e := (fgBank (coreOf s c)).se
    let k := coreOf (leaveHandler (enterHandler s c cause e.pc.toNat tval) c) c
    k.pm = (coreOf s c).pm ∧ k.ie = (coreOf s c).ie ∧ k.amStopped = false ∧ k.savedE = (coreOf s c).savedE ∧ (fgBank k).se.pc = e.pc ∧
    ((e.phase = .run ∧ inSection e.base e.slate e.pc.toNat = true) ∨ e.phase = .again → (fgBank k).se = { e with stall := none, ready := 0 }) ∧
    (fgBank k).s = (fgBank (coreOf s c)).s ∧ (fgBank k).sa = (fgBank (coreOf s c)).sa ∧ (fgBank k).sm = (fgBank (coreOf s c)).sm)
/-! ## Events of the device: each has its effect where the device can make it, and elsewhere does nothing (log entry 1) -/

/-- R83-R90, R76, R82, R89, R98, R512: the events of launches and dispatch, with power on, what state each leaves, and the dispatcher's algorithm of R76 with its outcomes. R236: a
die's dispatcher that waits to post a record does none of them. -/
def Obligations.LaunchAndDispatchEvents : Prop :=
  (∀ (s : State),
    (∀ q v, q < 64 → barOn s = true →
      (∃ t, exec (.doorbell q v) s = .next t ∧ t.mgmt.psCur = 0 ∧ t.mem = s.mem ∧ t.cores = s.cores ∧ t.tasks = s.tasks ∧ (∀ j, j ≠ q → lqOf t j = lqOf s j) ∧
        lqOf t q = if lqEn (lqOf s q) = true ∧ (v.setWidth 32 - (lqOf s q).head).toNat ≤ 2 ^ lqLog (lqOf s q) then { lqOf s q with tail := v.setWidth 32 }
          else { lqOf s q with ovf := true }) ∧
      (∃ t, exec (.lqctlWrite q v) s = .next t ∧ t.mem = s.mem ∧ t.cores = s.cores ∧ (∀ j, j ≠ q → lqOf t j = lqOf s j) ∧
        lqOf t q = { lqOf s q with rot := 0, ctl := if lqEn (lqOf s q) then ((lqOf s q).ctl &&& ~~~1) ||| (v &&& 1) else v &&& 0xFF073F01 })) ∧
    (s.mgmt.psCur = 0 →
      -- acceptance: the sources in rotation, one record each
      (∀ die n, die < 4 → dispatcherOn s die = true → nextSource s die = some n →
        (n ≠ 64 →
          let q := lqOf s n
          let d := deviceRead s die 3 (q.base.toNat + 128 * (q.head.toNat % 2 ^ lqLog q)) 128
          let r := d.1.1
          let c := lrFirstFail d.2 r q.root.toNat (lqKey q) d.1.2
          ∃ t, exec (.launchRecordRead die) s = .next t ∧ t = readLaunch s die n ∧ (dieOf t die).rotSource = n ∧
            (c = 0 → lqOf t n = { lqOf d.2 n with rot := if lqDsel (lqOf d.2 n) = 4 then ((lqOf d.2 n).rot + 1) % 4 else (lqOf d.2 n).rot, head := (lqOf d.2 n).head + 1 } ∧
              launchOf t d.2.nextLaunch = { img := BitVec.ofNat 1024 r, root := q.root.toNat, key := lqKey q, die := die, src := n, prio := min (lrPrio r) (lqPmax q), total := lrTotal r } ∧
              (dieOf t die).accepted = (dieOf d.2 die).accepted ++ [d.2.nextLaunch] ∧ t.mem = d.2.mem) ∧
            (c ≠ 0 →
              let u := refuseLaunch d.2 die n q.head.toNat r q.root.toNat (lqKey q) c
              lqOf t n = { lqOf u n with ref := true, head := (lqOf u n).head + 1 } ∧ t.launches = u.launches ∧ t.mem = u.mem)) ∧
        (n = 64 → ∃ b l t, (dieOf s die).launchBuf = b :: l ∧ exec (.deviceLaunchAccept die) s = .next t ∧ t = takeDeviceLaunch s die ∧ (dieOf t die).launchBuf = l ∧ (dieOf t die).rotSource = 64 ∧
          let u := updDie s die fun d => { d with launchBuf := l, rotSource := 64 }
          let c := lrFirstFail u b.img.toNat b.root b.key false;
          (c = 0 → launchOf t s.nextLaunch = { img := b.img, root := b.root, key := b.key, die := die, src := 64, prio := min (lrPrio b.img.toNat) b.prio, total := lrTotal b.img.toNat } ∧
            (dieOf t die).accepted = (dieOf s die).accepted ++ [s.nextLaunch] ∧ t.mem = s.mem) ∧
          (c ≠ 0 → t = refuseLaunch u die 64 0 b.img.toNat b.root b.key c))) ∧
      (∀ die h l, dispatcherOn s die = true → (dieOf s die).accepted = h :: l → (dieOf s die).active.length < 16 → ∃ t, exec (.launchActivate die) s = .next t ∧
        (dieOf t die).accepted = l ∧ (dieOf t die).active = (dieOf s die).active ++ [h] ∧ t.launches = s.launches ∧ t.mem = s.mem) ∧
      -- expansion: one task of an active launch of the highest priority, none while a task of the launch has found no room (R90)
      (∀ die h l, dispatcherOn s die = true → nextLaunchOf s die = some h → tfind s.launches h = some l → ∃ t, exec (.taskExpand die) s = .next t ∧
        tfind t.tasks s.nextTask = some (expandedTask s h l.pos) ∧ t.nextTask = s.nextTask + 1 ∧ (launchOf t h).pos = l.pos + 1 ∧ (launchOf t h).outstanding = l.outstanding + 1 ∧
        t.dies = s.dies ∧ t.mem = s.mem) ∧
      -- dispatch
      (∀ task t, tfind s.tasks task = some t → dispatcherOn s t.die = true →
        (t.st = .dispatching → t.method = none → exec (.dispatch task) s = .next (turnLaunch (dispatchTask (unspawn s task) task) task)) ∧
        (t.st = .dispatching → t.method ≠ none → (∀ u, placeTask s task = some u → exec (.dispatch task) s = .next (turnLaunch u task)) ∧
          (placeTask s task = none → exec (.dispatch task) s = .next s)) ∧
        (∀ pa, t.st = .parked pa true → exec (.dispatch task) s = .next (dispatchTask s task)) ∧
        (t.st = .waitRead → t.runnable = true → exec (.dispatchReadRetry task) s = .next (dispatchTask (updTask s task fun t => { t with runnable := false }) task))) ∧
      (∀ task t, tfind s.tasks task = some t → ((∃ why, t.st = .held why) →
          exec (.holdctlRedispatch t.die task) s = .next (dispatchTask (holdctlSet s t.die task 1) task) ∧
          (dieOf (holdctlSet s t.die task 1) t.die).holdctl = holdctlWord task 1 false) ∧
        (((∃ why, t.st = .held why) ∨ t.st = .waitRead) → ∃ u, exec (.holdctlFail t.die task) s = .next u ∧ u = failTask (holdctlSet s t.die task 2) task ∧
          (taskOf u task).st = .retired 2 ∧ (taskOf u task).claims = [] ∧ (taskOf u task).arena = [])) ∧
      (∀ die, dispatcherOn s die = true → (dieOf s die).pollAt ≤ s.cycle → exec (.tagPoll die) s = .next (pollTags s die) ∧ pollTags s die = ((dieOf s die).pollList.foldl
        (fun s id => match (taskOf s id).st with | .parked _ _ => dispatchTask s id | _ => s) (updDie s die fun d => { d with pollList := [], pollAt := s.cycle + 1024 }))) ∧
      (∀ die, postWaits s die .dispatcher = true →
        ∀ i ∈ ([.launchRecordRead die, .deviceLaunchAccept die, .launchActivate die, .taskExpand die, .tagPoll die, .gangPlace die] : List Instr), exec i s = .next s) ∧
      (∀ h l, tfind s.launches h = some l → l.complete = false → h ∈ (dieOf s l.die).active → launchOver l = true → ∃ t, exec (.launchComplete h) s = .next t ∧ t = completeLaunch s h ∧
        let r := l.img.toNat
        let u := completeFuture (dropTds s l.root (lrTdtva r) (lrTdtn r)) l.die r l.root l.key
          ((if l.anyFailed then 2 else if l.anyPoisoned then 1 else 0) * 2 ^ 61 + min l.bad (2 ^ 48 - 1)) none
        t.mem = u.mem ∧ t.tasks = u.tasks ∧ (∀ x, tfind u.launches h = some x → launchOf t h = { x with complete := true }) ∧ h ∉ (dieOf t l.die).active))) ∧
  (∀ (s : State) die src r root key prio, let t := acceptLaunch s die src r root key prio;
    (dieOf t die).accepted = (dieOf s die).accepted ++ [s.nextLaunch] ∧ t.nextLaunch = s.nextLaunch + 1 ∧ (launchOf t s.nextLaunch).img = BitVec.ofNat 1024 r ∧
      (launchOf t s.nextLaunch).prio = min (lrPrio r) prio ∧ t.mem = s.mem ∧ t.tasks = s.tasks) ∧
  -- which source is next: the first in rotation that holds a record
  (∀ (s : State) die n, nextSource s die = some n →
    let ready := fun n => if n = 64 then (dieOf s die).launchBuf ≠ [] else lqEn (lqOf s n) = true ∧ (lqOf s n).head ≠ (lqOf s n).tail ∧ lqDie (lqOf s n) = die
    ready n ∧ ∃ i < 65, n = ((dieOf s die).rotSource + 1 + i) % 65 ∧ ∀ j, j < i → ¬ ready (((dieOf s die).rotSource + 1 + j) % 65)) ∧
  (∀ (s : State) die h, nextLaunchOf s die = some h → let can := fun h => h ∈ (dieOf s die).active ∧ (launchOf s h).pos < (launchOf s h).total ∧ launchBlocked s h = false
    can h ∧ ∀ g, can g → (launchOf s g).prio ≤ (launchOf s h).prio) ∧
  -- a completion word is stored with bit 63 set; a fault is recorded instead (R37, R38)
  (∀ (s : State) die r root key word,
    let c := agentCtx root key 0
    let u := completeFuture s die r root key word none;
    (∀ f, lrFutva r % 8 = 0 → futurePages s c (lrFutva r) (lrFscope r) = .error f → u.mem = s.mem ∧ (dieOf u die).posts.length = (dieOf s die).posts.length + 1) ∧
    (∀ l, lrFutva r % 8 = 0 → futurePages s c (lrFutva r) (lrFscope r) = .ok l → regionsOk s c l = .ok () →
      u = writePieces (useXlats s c .write true l) c.core (max 2 (lrFscope r)) false (piecesOf l) (2 ^ 63 + word))) ∧
  -- R76: the operands, then poisoned inputs, then pending ones, then the claims, then the method
  (∀ (s : State) (id : Nat),
    let t := taskOf s id
    let u := updTask s id fun t => { t with method := none, st := .dispatching };
    (∀ e, readOpnds u id [] (List.range t.nops) = .error e → dispatchTask s id = e) ∧
    (∀ ops v, readOpnds u id [] (List.range t.nops) = .ok (ops, v) →
      let inputs := ((List.range t.nops).zip ops).filter fun o => !o.2.out && !claimed v id o.2.ref;
      (∀ o, inputs.find? (fun o => tagPoi o.2.raw) = some o → dispatchTask s id = containTask v id o.1 ops) ∧
      ((∀ o ∈ inputs, tagPoi o.2.raw = false) →
        (∀ o, inputs.find? (fun o => !tagRdy o.2.raw) = some o → dispatchTask s id = parkTask v id o.2.pa o.2.sys) ∧
        ((∀ o ∈ inputs, tagRdy o.2.raw = true) →
          (∀ e, claimAll v id ops = .error e → dispatchTask s id = e) ∧
          (∀ w, claimAll v id ops = .ok w →
            let tags := (List.range 6).map fun n => match ops[n]? with | some o => o.tag | none => 0;
            (∀ m, lookup w t.opid tags = some m → dispatchTask s id = enqueueReady w id m) ∧ (lookup w t.opid tags = none → dispatchTask s id = convertOrHold w id tags ops)))))) ∧
  -- what those leave of the task
  (∀ (s : State) (id : Nat) (x : Task), tfind s.tasks id = some x →
    (∀ n ops, (taskOf (containTask s id n ops) id).st = .retired 1) ∧ (∀ pa sys, (taskOf (parkTask s id pa sys) id).st = .parked pa false) ∧
    (∀ reason opnd code tags, let u := holdTask s id reason opnd code tags;
      (taskOf u id).st = .held reason ∧ (dieOf u x.die).posts = (dieOf s x.die).posts ++ [{ img := holdRecord s id reason opnd code tags, unit := some .dispatcher }]) ∧
    (∀ f, (taskOf (waitTask s id f) id).st = .waitRead) ∧
    (∀ m, let v := updTask s id fun t => { t with method := some m, st := .dispatching };
      (∀ u, placeTask v id = some u → enqueueReady s id m = u) ∧ (placeTask v id = none → enqueueReady s id m = v)) ∧
    (chooseCluster s id = none → placeTask s id = none) ∧
    (∀ cl first, chooseCluster s id = some (cl, first) → ∃ u, placeTask s id = some u ∧ (taskOf u id).st = .ready ∧ (taskOf u id).cluster = cl ∧ (taskOf u id).die = cl / 32 ∧
      (taskOf u id).method = x.method ∧ queueOf (clusterOf u cl) x.prio = queueOf (clusterOf s cl) x.prio ++ [id] ∧ (dieOf u x.die).cursor = (cl % 32 + 1) % 32 ∧ u.mem = s.mem) ∧
    ((x.due = false ∨ x.st = .dispatching) → turnLaunch s id = s) ∧
    (x.due = true → x.st ≠ .dispatching → let u := turnLaunch s id
      let d := (launchOf s x.launch).die;
      (taskOf u id).due = false ∧ (x.launch ∈ (dieOf s d).active → (dieOf u d).active = (dieOf s d).active.filter (· != x.launch) ++ [x.launch]))) ∧
  -- the method: of the entries that match, the most care bits, of equals the lowest index (R75, R77)
  (∀ (s : State) (opid : Nat) (tags : List Nat),
    (lookup s opid tags = none ↔ ∀ e ∈ methodsOf s opid, allMatch e.2 tags = false) ∧
    (∀ m, (s.methods.map Prod.fst).Pairwise (· < ·) → lookup s opid tags = some m → ∃ e, (m, e) ∈ methodsOf s opid ∧ allMatch e tags = true ∧
      ∀ x ∈ methodsOf s opid, allMatch x.2 tags = true → careBits x.2 < careBits e ∨ (careBits x.2 = careBits e ∧ m ≤ x.1)))

/-- R92-R105, R305, R321, R322: the events of scheduling and banks, where their conditions hold, and what each leaves: selection and what it finds (R94, R95, R107), starting and staging
(R57, R102), ageing and reservation (R93, R96), gangs (R35, R97), stealing (R99-R101), pre-emption (R103, R104), swaps (R321) and save areas (R322). -/
def Obligations.SchedulingEvents : Prop :=
  (∀ (s : State), s.mgmt.psCur = 0 →
    -- TASK_SELECT and TASK_STAGE: the task that `select` gives takes the empty foreground bank, or is staged in the empty shadow bank
    (∀ core, coreOpen s core = true → (frontEmpty s core = true ∨ shadowEmpty s core = true) → ∃ t, exec (.taskSelect core) s = .next t ∧ t = selectCore s core ∧
      (frontEmpty s core = false → exec (.taskStage core) s = .next t) ∧
      let p := selectFor s core none 0
      let v := afterPick s (dieOfCore core) p;
      (p.task = none → t = v) ∧
      (∀ id f, p.task = some (id, some f) → (frontEmpty v core = true → t = startFront v core id f) ∧ (frontEmpty v core = false → t = stageTask v core id f)) ∧
      (∀ id, p.task = some (id, none) →
        (∀ a, (taskOf v id).st = .spilled a → t = restoreArea v core (if shadowEmpty v core then shadow (coreOf v core) else (coreOf v core).fg) a) ∧
        ((taskOf v id).st = .inBank → coreOf t core = { coreOf v core with swapWant := (coreOf v core).swapWant || frontEmpty v core } ∧ t.mem = v.mem))) ∧
    (∀ core t, (coreOf s core).stageAt = some t → t ≤ s.cycle → ∃ u, exec (.stagingComplete core) s = .next u ∧
      coreOf u core = { coreOf s core with stageAt := none, swapAt := if (coreOf s core).fgStart then some (s.cycle + 64) else (coreOf s core).swapAt } ∧ u.mem = s.mem ∧ u.tasks = s.tasks) ∧
    -- AGE_PROMOTE and RESERVE_TASK
    (∀ cl task t, tfind s.tasks task = some t → agel s (cl / 32) ≠ 0 → t.eff < 3 → (queueOf (clusterOf s cl) t.eff).contains task = true → agel s (cl / 32) ≤ waitedFor s t → 1 ≤ queueRoom s cl (t.eff + 1) →
      ∃ u, exec (.agePromote cl task) s = .next u ∧ taskOf u task = { t with eff := t.eff + 1, since := s.cycle, waited := 0, aged := t.eff + 1 = 3 } ∧
        queueOf (clusterOf u cl) (t.eff + 1) = queueOf (clusterOf s cl) (t.eff + 1) ++ [task] ∧ queueOf (clusterOf u cl) t.eff = (queueOf (clusterOf s cl) t.eff).filter (· != task) ∧
        u.mem = s.mem ∧ u.cores = s.cores) ∧
    (∀ cl id l, (clusterOf s cl).reserved = none → (clusterOf s cl).q3 = id :: l → agel s (cl / 32) ≠ 0 → (taskOf s id).aged = true →
      max (clusterOf s cl).headAt (taskOf s id).since + agel s (cl / 32) ≤ s.cycle → ∃ u, exec (.reserveTask cl) s = .next u ∧ clusterOf u cl = { clusterOf s cl with reserved := some id } ∧
        u.tasks = s.tasks ∧ u.mem = s.mem) ∧
    -- GANG_PLACE
    (∀ die, dispatcherOn s die = true → ∃ t, exec (.gangPlace die) s = .next t ∧ t = examineGangs s die ∧
      let ids := ([3, 2, 1, 0] : List Nat).flatMap fun q => (List.range 32).flatMap fun c => (queueOf (clusterOf s (die * 32 + c)) q).filter fun id =>
        (taskOf s id).glev != 7 && !(taskOf s id).started
      let out := (s.tasks.filter fun e => e.2.glev != 7 && e.2.started && e.2.die = die).map (·.1)
      let found := ids.filterMap (placeGang s die);
      (∀ u v l, found = l ++ (u, true) :: v → (∀ x ∈ l, x.2 = false) → t = u) ∧
      ((∀ x ∈ found, x.2 = false) → (∀ u v l w, out = l ++ v :: w → (∀ i ∈ l, returnGang s i = none) → returnGang s v = some u → t = u) ∧
        ((∀ i ∈ out, returnGang s i = none) → (found ≠ [] → t = energyStall s die) ∧ (found = [] → t = s)))) ∧
    -- STEAL
    (∀ cl, cl < 128 → (clusterOf s cl).reserved = none → (clusterOf s cl).stealAt ≤ s.cycle → ((List.range 4).any fun i => idleCore s (4 * cl + i)) = true →
      ∃ t, exec (.steal cl) s = .next t ∧ t = steal s cl ∧
        let dies := ([cl / 32, cl / 32 ^^^ 1, cl / 32 ^^^ 2, cl / 32 ^^^ 3] : List Nat);
        ((∀ d ∈ dies, victimOn s cl d = none) → t = updCluster s cl fun k => { k with stealAt := s.cycle + 1024 }) ∧
        (∀ l d m v, dies = l ++ d :: m → (∀ x ∈ l, victimOn s cl x = none) → victimOn s cl d = some v →
          let k := clusterOf s v
          let c := if k.q3 ≠ [] then 3 else if k.q2 ≠ [] then 2 else if k.q1 ≠ [] then 1 else 0
          let got := stealUnits s v (min 64 (((queueOf k c).length + 1) / 2)) (d != cl / 32) (queueOf k c).reverse []
          let order := (allQueued k).filter got.contains
          let fits := (List.range 4).all fun c => (order.filter fun i => (taskOf s i).eff = c).length ≤ queueRoom s cl c;
          t = stealFrom s cl v ∧ ((got = [] ∨ fits = false) → t = updCluster s cl fun k => { k with stealAt := s.cycle + 1024 }) ∧
          (got ≠ [] → fits = true → t = let u := order.foldl (fun s id => moveTask s cl id) s
            postDaily u (cl / 32) cl 3 [v / 32 + (v % 32) * 2 ^ 2, got.length, (taskOf u (got.headD 0)).wid.toNat, c]))) ∧
    -- PREEMPT and PARK_SWAP
    (∀ core, preemptOpen s core = true → ∃ t, exec (.preempt core) s = .next t ∧ t = preempt s core ∧ (frontTask s core = none → t = s) ∧
      ∀ f, frontTask s core = some f → ((taskOf s f).glev ≠ 7 → t = s) ∧ ((taskOf s f).glev = 7 →
        let k := coreOf s core
        let low := (taskOf s f).eff + 1;
        (∀ u, k.shst = 1 → (bankSel k (shadow k)).task = some u →
          (low ≤ (taskOf s u).eff → t = wantSwap s core) ∧
          ((taskOf s u).eff < low → (unstageRoom s core = false → t = s) ∧ (unstageRoom s core = true →
            let p := selectFor s core (some u) low
            let v := afterPick s (dieOfCore core) p;
            (p.task = none → t = v) ∧ (∀ id fit, p.task = some (id, some fit) → t = wantSwap (stageTask (unstage v core) core id fit) core) ∧
            (∀ id a, p.task = some (id, none) → (taskOf v id).st = .spilled a → t = wantSwap (restoreArea (unstage v core) core (shadow k) a) core)))) ∧
        ((k.shst ≠ 1 ∨ (bankSel k (shadow k)).task = none) →
          let p := selectFor s core none low
          let v := afterPick s (dieOfCore core) p;
          (p.task = none → t = v) ∧
          (∀ id fit, p.task = some (id, fit) →
            ((bankSel k (shadow k)).task = some id → t = wantSwap (unqueue v id) core) ∧
            ((bankSel k (shadow k)).task ≠ some id → (clearShadow v core = none → t = v) ∧ (∀ w, clearShadow v core = some (w, false) → t = w) ∧
              (∀ w, clearShadow v core = some (w, true) → t = wantSwap (placePick w core id fit) core)))))) ∧
    (∀ core, preemptOpen s core = true → frontParked s core = true → shadowSatisfied s core = true → ∃ u, exec (.parkSwap core) s = .next u ∧
      coreOf u core = { coreOf s core with swapWant := true } ∧ u.mem = s.mem ∧ u.tasks = s.tasks) ∧
    -- BANK_SWAP_BEGIN, BANK_SWAP_COMPLETE, CONTEXT_SPILL, CONTEXT_RESTORE, SYSMASK_APPLY
    (∀ core, swapAllowed s core = true → swapDue s core = true → boundaryClear s core = true → ∃ u t, exec (.bankSwapBegin core) s = .next u ∧ (coreOf u core).swapAt = some t ∧
      s.cycle + 64 ≤ t ∧ (coreOf u core).swapWant = false ∧ (coreOf u core).fg = (coreOf s core).fg) ∧
    (∀ core t, (coreOf s core).swapAt = some t → t ≤ s.cycle →
      let k := coreOf s core
      let b := updCore s core fun k =>
        let k := if k.fgStart then k else { k with fg := 1 - k.fg }
        { k with swapAt := none, fgStart := false, fgAt := coreTime s core, shst := if (bankSel k (shadow k)).task.isNone then 0 else if k.spillAt.isSome then 3 else 2 }
      exec (.bankSwapComplete core) s = .next (endSwap s core) ∧ endSwap s core = (enterFront (releaseHeld (updBank b core (coreOf b core).fg fun b => { b with yielded := false }) core) core) ∧
      (coreOf b core).swapAt = none ∧ (coreOf b core).fg = (if k.fgStart then k.fg else 1 - k.fg)) ∧
    (∀ core a id x, (coreOf s core).spillAt = some a → (coreOf s core).shst = 3 → (coreOf s core).swapAt = none → bankLanded (bankSel (coreOf s core) (shadow (coreOf s core))) = true →
      spillRoom s core = true → (bankSel (coreOf s core) (shadow (coreOf s core))).task = some id → tfind s.tasks id = some x → ∃ u, exec (.contextSpill core) s = .next u ∧ u = spillBank s core a ∧
        (taskOf u id).st = .spilled a ∧ tfind (dieOf u (dieOfCore core)).areas a = some id ∧ (bankSel (coreOf u core) (shadow (coreOf u core))).task = none ∧
        (coreOf u core).shst = 0 ∧ (coreOf u core).spillAt = none) ∧
    (∀ core a id x, tfind (dieOf s (dieOfCore core)).areas a = some id → tfind s.tasks id = some x → coreOpen s core = true → shadowEmpty s core = true →
      (selectFor s core none 0).task = some (id, none) → ∃ u, exec (.contextRestore core a) s = .next u ∧ u = restoreArea s core (shadow (coreOf s core)) a ∧
        (taskOf u id).st = .inBank ∧ (taskOf u id).bank = shadow (coreOf s core) ∧ (taskOf u id).keep = none ∧ tfind (dieOf u (dieOfCore core)).areas a = none ∧ (coreOf u core).shst = 2) ∧
    (∀ core v, (coreOf s core).sysWant = some v → (coreOf s core).sys ≠ v → (coreOf s core).b0.task = none → (coreOf s core).b1.task = none → (coreOf s core).stageAt = none →
      ∃ u, exec (.sysmaskApply core) s = .next u ∧ coreOf u core = { coreOf s core with sys := v, pm := v, sysWant := none })) ∧
  -- `select`: the reserved task alone, else the first 16 of each class from the highest down; the first that comes back or fits and is covered (R94, R96, R107)
  (∀ (s : State) core ign low,
    ((dieOf s (dieOfCore core)).thcap = 0 → selectFor s core ign low = {}) ∧
    ((dieOf s (dieOfCore core)).thcap ≠ 0 → let k := clusterOf s (clusterOfCore core);
      (∀ id, k.reserved = some id → selectFor s core ign low = if low ≤ (taskOf s id).eff then pickFrom s core ign [id] else {}) ∧
      (k.reserved = none → selectFor s core ign low = pickFrom s core ign (((([3, 2, 1, 0] : List Nat).filter fun c => low ≤ c).flatMap fun c => (queueOf k c).take 16)))) ∧
    pickFrom s core ign [] = {} ∧
    (∀ id l, let r := pickFrom s core ign l;
      (candidate s core id ign = .back → pickFrom s core ign (id :: l) = { task := some (id, none) }) ∧
      (∀ f, candidate s core id ign = .place f → pickFrom s core ign (id :: l) = if taskCovered s id then { task := some (id, some f) } else { r with stall := true }) ∧
      (candidate s core id ign = .gone → pickFrom s core ign (id :: l) = { r with gone := id :: r.gone }) ∧ (candidate s core id ign = .no → pickFrom s core ign (id :: l) = r)) ∧
    (∀ p : Pick, p.gone = [] → afterPick s core p = if p.task = none ∧ p.stall = true then energyStall s core else s)) ∧
  -- what fits: the lowest run of free scratchpad units, that of barriers, and free tiles of the cluster (R95)
  (∀ (s : State) core m ign f, fitOf s core m ign = some f →
    lowRun (unitsOf 65536 ((ownersOn s core ign).map Task.scr)) (mtScr (method s m)) = some f.scr ∧ lowRun (unitsOf 64 ((ownersOn s core ign).map Task.bars)) (mtBar (method s m)) = some f.bar ∧
      f.acc = (freeTiles s (clusterOfCore core) ign).take (mtAcc (method s m)) ∧ f.acc.length = mtAcc (method s m)) ∧
  (∀ (used : List Nat) (n : Nat), n ≤ 32 → (∀ b, lowRun used n = some b → b + n ≤ 32 ∧ (∀ i, i < n → b + i ∉ used) ∧ ∀ c, c < b → ∃ i < n, c + i ∈ used) ∧
    (lowRun used n = none → ∀ b, b + n ≤ 32 → ∃ i < n, b + i ∈ used)) ∧
  -- a bank is given: the allocations, the estimate and the start state of R57, written in 128 cycles (R102)
  (∀ (s : State) core bank id f x, tfind s.tasks id = some x →
    let m := match x.method with | some m => method s m | none => 0
    let u := giveBank s core bank id f;
    (taskOf u id).st = .inBank ∧ (taskOf u id).core = core ∧ (taskOf u id).bank = bank ∧ (taskOf u id).started = true ∧ (taskOf u id).scr = (65536 * f.scr, 65536 * mtScr m) ∧
      (taskOf u id).bars = (64 * f.bar, 64 * mtBar m) ∧ (taskOf u id).acc = f.acc ∧ bankOf u core bank = startBank (taskOf u id) id (taskLr u id) m ∧
      (bankOf u core bank).enest = BitVec.ofNat 64 (mtEnergy m) ∧ u.cycle = s.cycle) ∧
  (∀ (s : State) core id f,
    (let u := startFront s core id f;
      (coreOf u core).fgStart = true ∧ (coreOf u core).stageAt = some (s.cycle + 128) ∧ (coreOf u core).fg = (coreOf s core).fg ∧ (fgBank (coreOf u core)).task = some id) ∧
    (let u := stageTask s core id f;
      (coreOf u core).shst = 1 ∧ (coreOf u core).stageAt = some (s.cycle + 128) ∧ (coreOf u core).fg = (coreOf s core).fg ∧ (bankSel (coreOf u core) (shadow (coreOf u core))).task = some id)) ∧
  -- gangs: every assignment of distinct cores is tried, and a gang that is out comes back with all its tasks
  (∀ (s u : State) die got id l, gangAll s die got (id :: l) = some u → ∃ c v, c ∈ gangCores s die id ∧ (∀ g ∈ got, c ≠ g.2 ∧ gangPair s (id, c) g = true) ∧
    gangOn s c id = some v ∧ gangAll v die ((id, c) :: got) l = some u) ∧
  (∀ (s u : State) c id, gangOn s c id = some u → gangFront s c id = true ∧ ∃ f,
    (frontTask s c = none ∧ u = startFront s c id f) ∨ (frontTask s c ≠ none ∧ ∃ v, emptyShadow s c = some v ∧ u = wantSwap (stageTask v c id f) c)) ∧
  (∀ (s u : State) die id cov, placeGang s die id = some (u, cov) → let l := gangOf s id;
    (dieOf s die).thcap ≠ 0 ∧ (∀ i ∈ l, (taskOf s i).st = .ready ∧ (taskOf s i).die = die) ∧ ((∀ i ∈ l, methodValid s (taskOf s i) = true) → gangAll s die [] l = some u)) ∧
  (∀ (s u : State) id, returnGang s id = some u → ∃ out, out ≠ [] ∧ (∀ i ∈ out, gangOut s i = true) ∧
    (∀ i ∈ gangOf s id, i ∈ out ∨ gangStands s i = true ∨ trappedBank s i ≠ none ∨ (taskOf s i).failing ≠ none) ∧
    out.foldl (fun (a : Option State) i => a.bind fun s => gangBack s i) (some s) = some u) ∧
  -- stealing: the victim, the tail of its highest class, and what a move leaves
  (∀ (s : State) thief die v, victimOn s thief die = some v → let can := fun w => w ≠ thief ∧ w / 32 = die ∧ 2 ≤ ((allQueued (clusterOf s w)).filter fun id => movable s id (die != thief / 32)).length
    can v ∧ ∀ w, can w → (allQueued (clusterOf s w)).length ≤ (allQueued (clusterOf s v)).length) ∧
  (∀ (s : State) v target cross id l got,
    (target ≤ got.length → stealUnits s v target cross (id :: l) got = got) ∧
    (got.length < target → ((got.contains id = true ∨ movable s id cross = false) → stealUnits s v target cross (id :: l) got = stealUnits s v target cross l got) ∧
      (got.contains id = false → movable s id cross = true → stealUnits s v target cross (id :: l) got = stealUnits s v target cross l (got ++ (stealUnit s v id).reverse)))) ∧
  (∀ (s : State) thief id x, tfind s.tasks id = some x → let u := moveTask s thief id;
    (taskOf u id).cluster = thief ∧ (taskOf u id).die = thief / 32 ∧ (taskOf u id).st = x.st ∧ (∃ l, queueOf (clusterOf u thief) x.eff = l ++ [id]) ∧ u.mem = s.mem ∧ u.cores = s.cores) ∧
  -- the foreground bank is entered (R42, R43, R214)
  (∀ (s : State) core, let b := fgBank (coreOf s core);
    (b.task = none ∨ b.trap ≠ none → enterFront s core = s) ∧ (b.task ≠ none → b.trap = none → b.se.phase = .header → enterFront s core = startTask s core) ∧
    (b.task ≠ none → b.trap = none → b.se.phase ≠ .header → b.mldwPosted = false → (∀ x ∈ b.mldws, x.took ≠ none) → enterFront s core = resumeMatrix s core)) ∧
  (∀ (s : State) core h u, let v := startAcquire s core
    let ra := (fgBank (coreOf v core)).se.pc.toNat
    ra % 8 = 0 → fetchCode v (ctxOf v core (coreOf v core).fg) ra 32 = .ok (h, u) →
      (headerOk h = false → startTask s core = takeTrap u core .e 0x0D 0 0) ∧
      (headerOk h = true → let b := fgBank (coreOf u core)
        fgBank (coreOf (startTask s core) core) = { b with sa := firstSlate b.sa ra (nbits h 32 32), se := firstSlate b.se ra (nbits h 64 32), sm := firstSlate b.sm ra (nbits h 96 32) }))


/-- R46-R54, R311, R312, R317, R319, R236: the events of sections, of the end of tasks, of traps and of results, and what each leaves. What performing an access does to memory and to the
registers is stated in `StoresAndLoadsAtTheirPoints`, `AtomicValues` and `VectorMemoryWords`. -/
def Obligations.TaskEvents : Prop :=
  (∀ (s : State), s.mgmt.psCur = 0 →
    (∀ core st, let t := landCore { s with curCore := core, curSt := st } core;
      (∀ why, heldBack t = some why → exec (.sectionBegin core st) s = .next (stallAs t why)) ∧
      (heldBack t = none → (boundaryHeld t core = false → exec (.sectionBegin core st) s = .next (beginSection t core st)) ∧
        (boundaryHeld t core = true → exec (.sectionBegin core st) s = .next (probed t (beginSection t core st))) ∧
        ((curStrand t).phase = .slate →
          (∀ f, fetchCode t (curCtx t) (curStrand t).pc.toNat 8 = .error f → beginSection t core st = trapStrand t f.cause f.sub f.va) ∧
          ∀ v u, fetchCode t (curCtx t) (curStrand t).pc.toNat 8 = .ok (v, u) →
          (slateOk st (BitVec.ofNat 64 v) = false → beginSection t core st = trapStrand u 0x0D 1 0) ∧
          (slateOk st (BitVec.ofNat 64 v) = true → (2 ≤ (curStrand u).execs.length → beginSection t core st = stallAs u .other) ∧ ((curStrand u).execs.length < 2 →
            (depsOf u (curBank u) st (BitVec.ofNat 64 v) = .wait → beginSection t core st = stallAs u .dep) ∧
            (depsOf u (curBank u) st (BitVec.ofNat 64 v) = .never → beginSection t core st = trapStrand u 0x0D 2 0) ∧
            (depsOf u (curBank u) st (BitVec.ofNat 64 v) = .met →
              (countedHeld u st (BitVec.ofNat 64 v) = true → beginSection t core st = stallAs u .dep) ∧
              (countedHeld u st (BitVec.ofNat 64 v) = false → beginSection t core st =
                modStrand (drainCounted u st (BitVec.ofNat 64 v)) fun x => beginExecution x (curStrand t).pc.toNat (BitVec.ofNat 64 v)))))))) ∧
    -- an execution retires: in the foreground, or else behind it, or in a save area
    (∀ core st, let t := landCore s core
      let fg := (coreOf t core).fg
      let can := fun b => canRetire t core (openCmds t core b) (bankOf t core b) st;
      (can fg = true → exec (.sectionRetire core st) s = .next (retireExecution t core fg st)) ∧
      (can fg = false → can (1 - fg) = true → exec (.sectionRetire core st) s = .next (retireExecution t core (1 - fg) st)) ∧
      (can fg = false → can (1 - fg) = false → (∀ id, areaRetires t core st = some id → exec (.sectionRetire core st) s = .next (retireArea t core id st)) ∧
        (areaRetires t core st = none → exec (.sectionRetire core st) s = .next t))) ∧
    -- a task retires (R53) or is failed (R511): it holds its status, and its bank is free
    (∀ task, let t := landTask s task;
      (∀ core b, taskBank t task = some (core, b) → retireReady t task = true → ∃ u, exec (.taskRetire task) s = .next u ∧ u = retireTask t task ∧
        let d := drain (drain (drain t core b .a) core b .e) core b .m
        let w := meterTask (releaseAction d core (tagsScope d task)) task
        u = giveBack (setOutTags w task) task ∧ (taskOf u task).st = .retired (endStatus (taskOf (setOutTags w task) task)) ∧ (bankOf u core b).task = none) ∧
      (failReady t task = true → exec (.failedTaskRetire task) s = .next (retireTask (unqueue t task) task))) ∧
    (∀ die c, ((dieOf s die).intFq || (dieOf s die).intMc) = true → interruptCore s die = some c → interruptOk s c = true → ∃ t, exec (.interruptTake die) s = .next t ∧
      t = takeInterrupt s die c ∧
      (coreOf t c).cause = BitVec.ofNat 64 (2 ^ 63 + if (dieOf s die).intFq then 1 else 2) ∧ (coreOf t c).pm = true ∧ (coreOf t c).ie = false ∧ (coreOf t c).amStopped = true ∧
      (fgBank (coreOf t c)).se.phase = .slate ∧ (fgBank (coreOf t c)).se.pc = (coreOf t c).tvec.setWidth 64) ∧
    (∀ task t b, tfind s.tasks task = some t → trappedBank s task = some b →
      let u := fun n => trapctlSet s t.die task n;
      exec (.trapctlResume t.die task) s = .next (resumeTask (u 1) task false) ∧ exec (.trapctlResumeAfter t.die task) s = .next (resumeTask (u 3) task true) ∧
        exec (.trapctlFail t.die task) s = .next (failTask (u 2) task)) ∧
    -- an outstanding result: a word's own answer, an access performed at its point (R268), or one given up (R312)
    (∀ (r : ResultId) (f : Flight), flightOf s r = some f →
      (f.dests ≠ [] → exec (.resultLand r) s = .next (landResult s r)) ∧ (f.dests = [] → exec (.storePerformed r) s = .next (landResult s r)) ∧
      (f.op = none → watchdogOut s r.core f = false → landResult s r = updBank s r.core r.bank fun b => landFlight b r.st r.id (coreTime s r.core)) ∧
      (∀ o, f.op = some o → watchdogOut s r.core f = false → landBankOp s r o = none →
        (opHeld s r.core o = true → landResult s r = s) ∧
        (opHeld s r.core o = false → canPerform (strandOf s r.core r.bank r.st) r.id = true → matrixBehind s r.core r.bank r.st r.id = false →
          landResult s r = performNext s r.core r.bank r.st r.id) ∧
        (opHeld s r.core o = false → (canPerform (strandOf s r.core r.bank r.st) r.id = false ∨ matrixBehind s r.core r.bank r.st r.id = true) → landResult s r = s)) ∧
      (watchdogOut s r.core f = true → exec (.watchdogExpiry r) s = .next (abandon s r f) ∧ landResult s r = abandon s r f) ∧
      (watchdogOut s r.core f = false → exec (.watchdogExpiry r) s = .next s)) ∧
    (∀ core, let t := landCore s core;
      exec (.freezeBegin core) s = .next (updCore t core fun k => { k with frozen := freezeTime t core }) ∧
      ((coreOf t core).swapAt = none → (coreOf t core).fgAt ≤ rawTime t core → (fgBank (coreOf t core)).se.busy ≤ rawTime t core →
        (∃ f ∈ bankFlights (fgBank (coreOf t core)), f.awaits = true ∧ f.bound < rawTime t core) → frozenNow t core = true) ∧
      ((coreOf t core).frozen = none → (∀ f ∈ bankFlights (fgBank (coreOf t core)), f.awaits = true → rawTime t core ≤ f.bound) → frozenNow t core = false)) ∧
    (∀ core st p, let fg := (coreOf s core).fg
      p.table = .none_ → p.woken = false → p.since + 1024 ≤ s.cycle → ∃ u, exec (.waitPoll core st) s = .next u ∧ u.mem = s.mem ∧
        ((strandOf s core fg st).park = some p → (strandOf u core fg st).park = some { p with woken := true }) ∧
        ((strandOf s core (1 - fg) st).park = some p → fg ≤ 1 → (strandOf u core (1 - fg) st).park = some { p with woken := parkHolds s core p }) ∧
        (∀ id t b, tfind s.tasks id = some t → t.core = core → t.keep = some b → (strandSel b st).park = some p → ∃ t' b', tfind u.tasks id = some t' ∧ t'.keep = some b' ∧
          (strandSel b' st).park = some { p with woken := parkHolds s core p })) ∧
    (∀ die p l, (dieOf s die).posts = p :: l → ((dieOf s die).fqhead - (dieOf s die).fqtail).toNat ≠ 4096 → paMapped s (fqPlace (dieOf s die)) = true →
      paMapped s (fqPlace (dieOf s die) + 63) = true → ∃ u, exec (.faultRecordPost die) s = .next u ∧ (dieOf u die).posts = l ∧ (dieOf u die).fqhead = (dieOf s die).fqhead + 1 ∧
        (dieOf u die).intFq = true ∧ u.mem = (writePieces s 512 3 false (rcbPiece (fqPlace (dieOf s die)) 64) p.img.toNat).mem ∧
        ∀ c, p.core = some c → (coreOf u c).trec = (dieOf s die).fqhead + 1) ∧
    (∀ die, (dieOf s die).posts ≠ [] → ((dieOf s die).fqhead - (dieOf s die).fqtail).toNat = 4096 → ∃ u, exec (.faultRecordPost die) s = .next u ∧
      (dieOf u die).posts.map Post.img = (dieOf s die).posts.map Post.img ∧ (dieOf u die).fqhead = (dieOf s die).fqhead ∧ u.mem = s.mem ∧
      (dieOf u die).fullw.toNat = min (2 ^ 32 - 1) ((dieOf s die).fullw.toNat + ((dieOf s die).posts.filter fun p => !p.counted).length) ∧
      ∀ p ∈ (dieOf u die).posts, p.counted = true) ∧
    (∀ die, die < 4 → ∃ u, exec (.managementControllerMessage die) s = .next u ∧ dieOf u die = { dieOf s die with intMc := true } ∧ u.cores = s.cores ∧ u.mem = s.mem)) ∧
  -- the execution that begins, and what retiring one leaves: RET counts it, and the other strands see it in the next cycle (R48, R49, R51)
  (∀ (x : StrandSt) base w, let y := beginExecution x base w
    y.phase = .run ∧ y.ent = x.ent + 1 ∧ y.pc = BitVec.ofNat 64 (firstWord base) ∧ y.execs.map Exec.n = x.execs.map Exec.n ++ [x.ent + 1]) ∧
  (∀ (s : State) core bank st e l, (strandOf s core bank st).execs = e :: l →
    (e.lrel = false ∨ bank ≠ (coreOf s core).fg ∨ holdsLease s core = false) → e.last = false → let x := strandOf s core bank st
      let y := strandOf (retireExecution s core bank st) core bank st
      y.execs = l ∧ y.ret = x.ret + 1 ∧ y.retAt = s.cycle ∧ (x.retAt ≠ s.cycle → y.retPrev = x.ret)) ∧
  (∀ (s : State) core st e l, (strandOf s core (coreOf s core).fg st).execs = e :: l → e.lrel = true → holdsLease s core = true → e.last = false →
    (clusterOf (retireExecution s core (coreOf s core).fg st) (clusterOfCore core)).holder = none) ∧
  -- M's executions wait for their commands and fills, the others for their results (R51, R198)
  (∀ (s : State) core (l : List MCmd) (b : Bank) st e r, (strandSel b st).execs = e :: r →
    (canRetire s core l b st = true ↔ e.issued = true ∧ (st = .m → (∀ m ∈ l, m.ent ≠ e.n) ∧ ∀ x ∈ b.mldws, x.ent = e.n → mldwDone s core x = true) ∧
      (st ≠ .m → ∀ f ∈ (strandSel b st).flight, f.ent = e.n → f.landed = true ∨ f.dests = []))) ∧
  -- what a task gives back (R53), and its tags (R54, R72, R316)
  (∀ (s : State) id x, tfind s.tasks id = some x → let u := giveBack s id;
    (taskOf u id).st = .retired (endStatus x) ∧ (taskOf u id).scr = (0, 0) ∧ (taskOf u id).bars = (0, 0) ∧ (taskOf u id).acc = [] ∧ (taskOf u id).claims = [] ∧ (taskOf u id).wmap = [] ∧
      (taskOf u id).keep = none ∧
      (∀ core b, x.st = .inBank → x.core = core → x.bank = b → (bankOf u core b).task = none) ∧ (∀ a, x.st = .spilled a → tfind (dieOf u x.die).areas a = none) ∧
      (x.conv = false → ∀ l, tfind s.launches x.launch = some l → (launchOf u x.launch).outstanding = l.outstanding - 1 ∧
        (launchOf u x.launch).bad = l.bad + (if endStatus x = 0 then 0 else 1))) ∧
  (∀ x : Task, endStatus x = match x.failing with | some n => n | none => if x.poisoned = [] then 0 else 1) ∧
  -- TRAPCTL: the strand goes on at the trapping word, or after it; a spilled task is changed in its save area (R317)
  (∀ (s : State) task after,
    ((taskOf s task).st = .inBank → let t := taskOf s task
      let v := updBank s t.core t.bank fun b => retryStreams (resumeBank b after)
      resumeTask s task after = if (coreOf v t.core).fg = t.bank && (coreOf v t.core).swapAt.isNone then resumeMatrix v t.core else v) ∧
    (∀ a, (taskOf s task).st = .spilled a → resumeTask s task after = updTask (changeArea s task fun b => retryStreams (resumeBank b after)) task fun t => { t with runnable := true })) ∧
  (∀ (b : Bank) (t : TrapSt) after, b.trap = some t → t.st ≤ 2 →
    let st := if t.st = 0 then Strand.a else if t.st = 1 then .e else .m
    let x := strandSel b st
    let y := strandSel (resumeBank b after) st;
    (resumeBank b after).trap = none ∧
    (after = false → t.cause ≠ 0x18 → t.cause ≠ 0x17 → y = x) ∧ ((after = true ∨ t.cause = 0x18 ∨ t.cause = 0x17) → x.phase = .run → y = { stepPc x with claimed := none })) ∧
  (∀ (s : State) id x, tfind s.tasks id = some x → (x.st = .inBank ∨ ∃ a, x.st = .spilled a) → ∃ y, tfind (failTask s id).tasks id = some y ∧ y.failing = some 2 ∧ y.st = x.st) ∧
  -- an access given up: its destinations hold undefined values with POI, and its strand is to take LATE (R312)
  (∀ (s : State) (r : ResultId) (f : Flight) (o : MemOp), flightOf s r = some f → f.op = some o → (∀ op, o.kind ≠ .amo op) → o.kind ≠ .cas →
    let u := abandon s r f;
    (strandOf u r.core r.bank r.st).late = (strandOf s r.core r.bank r.st).late ++ [(o.dc, o.va)] ∧ u.mem = s.mem ∧
      flightOf u r = none ∧ ∀ n, n ≠ 0 → Dest.reg n ∈ f.dests → Dest.reg n ∉ f.killed → let b := bankOf u r.core r.bank;
        (if r.st = .a then tget b.x n {} else tget b.s n {}).poi = true)


/-- R188-R192, R197, R217, R222-R224, R239-R254, R433, R447: the events of the matrix arrays, the copy engines, the reels, the stream units, the windows and the homes, and what each
leaves. -/
def Obligations.UnitEvents : Prop :=
  (∀ (s : State), s.mgmt.psCur = 0 →
    (∀ cl c, (clusterOf s cl).freeAt ≤ arrayClock s cl → (clusterOf s cl).holder = none → nextWant (clusterOf s cl) (clusterOf s cl).lastHolder = some c →
      let v := updCluster s cl fun k => setHolder k (some c) s.cycle (dieClock s (cl / 32));
      exec (.matrixLeaseGrant cl) s = .next (loadCut v (4 * cl + c)) ∧ (clusterOf v cl).holder = some c ∧ (clusterOf v cl).cmds = 0 ∧ (clusterOf v cl).want = (clusterOf s cl).want.filter (· != c) ∧
        v.cores = s.cores ∧ v.mem = s.mem) ∧
    (∀ cl h, (clusterOf s cl).holder = some h → budgetSpent s cl = true → (clusterOf s cl).running = none → (clusterOf s cl).behind = none →
      let c := (nextWant (clusterOf s cl) h).getD h
      let v := updCluster s cl fun k => { setHolder k (some c) s.cycle (dieClock s (cl / 32)) with lastHolder := h };
      exec (.matrixBudgetSpent cl) s = .next (rearbitrate s cl) ∧ rearbitrate s cl = (if c = h then v else loadCut v (4 * cl + c)) ∧ (clusterOf v cl).holder = some c ∧ (clusterOf v cl).cmds = 0 ∧ (clusterOf v cl).lastHolder = h) ∧
    -- a command finishes: its units are made, the one behind it begins 8 cycles into its start, and the lease goes when MREL waits for this (R190, R192)
    (∀ cl m miss, arrayOn s cl = true → (clusterOf s cl).running = some m →
      (cmdDone s cl m miss = false → exec (.matrixCommandComplete cl miss) s = .next s) ∧
      (cmdDone s cl m miss = true → ∃ t, exec (.matrixCommandComplete cl miss) s = .next t ∧ t = finishCommand s cl miss ∧
        let v := runUnits s m (cmdUnits s m) (some miss)
        let w := updCluster v cl fun k => { k with running := k.behind.map fun n => { n with start := arrayClock v cl - 8 }, behind := none };
        (clusterOf w cl).behind = none ∧ w.mem = v.mem ∧ ((clusterOf w cl).holder = none → t = w) ∧
        ∀ h, (clusterOf w cl).holder = some h →
          t = if (clusterOf w cl).releasing && ((clusterOf w cl).running.toList.all fun m => m.core != 4 * cl + h) then releaseLease w cl else loadCut w (4 * cl + h))) ∧
    (∀ cl slot x, arrayOn s cl = true → weightSlot (clusterOf s cl) slot = some x → (x.waiting = false → exec (.slotFillComplete cl slot) s = .next (fillSlot s cl slot)) ∧
      (x.waiting = true → exec (.mldwRetranslate cl slot) s = .next (fillSlot s cl slot)) ∧
      (x.waiting = false → exec (.mldwRetranslate cl slot) s = .next ((List.range 4).foldl (fun s c => translateCore s (4 * cl + c)) s))) ∧
    -- the copy engine
    (∀ core slot, engineOn s core = true → exec (.copyCommandBegin core slot) s = .next (beginCopy s core slot) ∧ exec (.chunkPerform core slot) s = .next (chunkStep s core slot) ∧
      (∀ c, tfind (coreOf s core).slots slot = some c → c.st = .queued → ((aheadOf (coreOf s core) c).all fun x => x.st = .running) = true →
        (ccErrstop c.cmd.toNat = true → latched s core c.task c.cq = true → beginCopy s core slot = endCopy s core slot 3) ∧
        ((ccErrstop c.cmd.toNat = false ∨ latched s core c.task c.cq = false) → waitcMet s core c = false → beginCopy s core slot = s) ∧
        ((ccErrstop c.cmd.toNat = false ∨ latched s core c.task c.cq = false) → waitcMet s core c = true → c.len ≠ 0 →
          tfind (coreOf (beginCopy s core slot) core).slots slot = some { c with st := .running, sent := s.cycle })) ∧
      (∀ c, tfind (coreOf s core).slots slot = some c → c.st = .queued → (∃ x ∈ aheadOf (coreOf s core) c, x.st = .queued ∨ x.st = .parked) → beginCopy s core slot = s) ∧
      (∀ c, tfind (coreOf s core).slots slot = some c → c.st = .running →
        (aheadOf (coreOf s core) c = [] → gated (coreOf s core) c = false → chunkStep s core slot = performChunk s core slot c) ∧
        ((aheadOf (coreOf s core) c ≠ [] ∨ gated (coreOf s core) c = true) → chunkStep s core slot = s))) ∧
    (∀ (x : CopySel) c, parkedCopy s x = some c →
      let core := x.die * 128 + x.cluster * 4 + x.core;
      (∃ u, exec (.cpyresResume x) s = .next u ∧ tfind (coreOf u core).slots x.slot = some { c with st := .running, sent := s.cycle } ∧ u.mem = s.mem) ∧
      exec (.cpyresAbort x) s = .next (endCopy (cpyresSet s x 2) core x.slot 1)) ∧
    (∀ core rcb, engineOn s core = true → exec (.reelFetch core rcb) s = .next (reelStep s core rcb)) ∧
    -- the stream unit: the next block of a bound queue, or the fault that stops it (R447, R448)
    (∀ core bank q t, enabledNow s (dieOfCore core) = true → (tget (bankOf s core bank).sq q {}).bound = some t → t.failed = none → (tget (bankOf s core bank).sq q {}).count < 8 →
      let k := tget (bankOf s core bank).sq q {}
      let va := sdBlockVa t.desc t.next
      let x := xlat s (ctxOf s core bank) .read false va (sdBytes t.desc);
      ∃ u, exec (.streamBlockPush core bank q) s = .next u ∧ u = pushBlock s core bank q ∧
        let k' := tget (bankOf u core bank).sq q {};
        (∀ f, x = .error f → k' = { k with bound := some { t with failed := some (f.cause, f.sub, va) } } ∧ u.mem = s.mem) ∧
        (∀ l, x = .ok l → k'.tail = (k.tail + 1) % 8 ∧ k'.count = k.count + 1 ∧ k'.head = k.head ∧
          k'.bound = (if t.next + 1 = sdN0 t.desc * sdN1 t.desc then none else some { t with next := t.next + 1 }) ∧
          let r := readOp (useXlats s (ctxOf s core bank) .read false l) core { kind := .load, va := va, n := sdBytes t.desc, pieces := piecesOf l, scope := sdScope t.desc };
          tget k'.slots k.tail {} = canonReg (sdEt t.desc) (canonRuns (etMaxCount (sdEt t.desc))
            (clean (bankOf r.2 core bank) (sdEt t.desc) (unpackElems (etWidth (sdEt t.desc)) (sdLen t.desc) r.1.1))) r.1.2)) ∧
    -- the windows: one arrival, or a decrease of PEND, at a barrier (R250); the registers of a bank (R138)
    (∀ pa v poison, paWindow pa = true → winSpace pa = 5 →
      (pa % 8 = 0 → winOff pa < 0x8000 → nbits pa 44 4 = 0 →
        (pa % 16 = 0 → exec (.barrierWindowWrite pa v poison) s = .next (barChange s (winCore pa) (winOff pa / 16) .sub (v.toNat % 2 ^ 24) poison)) ∧
        (pa % 16 = 8 → exec (.barrierWindowWrite pa v poison) s = .next (barChange s (winCore pa) (winOff pa / 16) .arrive (v.toNat % 2 ^ 12) poison))) ∧
      ((pa % 8 ≠ 0 ∨ 0x8000 ≤ winOff pa ∨ nbits pa 44 4 ≠ 0) → exec (.barrierWindowWrite pa v poison) s = .next s)) ∧
    (∀ pa data poison, paWindow pa = true → 1 ≤ winSpace pa → winSpace pa ≤ 4 →
      exec (.windowRegisterWrite pa data poison) s = .next (wakeBytes (winWrite s pa data.length (bytesNat data) poison) pa data.length)) ∧
    -- caches and homes
    (∀ cl ln x, cl < 128 → findLine (clusterOf s cl).cache ln = some x → (x.dirty = 0 ∨ canOwn s ln = true) → ∃ u, exec (.cacheEvict cl ln) s = .next u ∧ findLine (clusterOf u cl).cache ln = none) ∧
    (∀ cl ln, cl = 128 ∨ cl = 129 → let p := if cl = 128 then Point.north else .south
      ∃ u, exec (.cacheEvict cl ln) s = .next u ∧ u = evict s cl ln ∧ (∀ x, findLine (agentCache s p) ln = some x → (x.dirty = 0 ∨ canSend s ln = true) → findLine (agentCache u p) ln = none)) ∧
    (∀ cl ln, 130 ≤ cl → cl < 642 → ∃ u, exec (.cacheEvict cl ln) s = .next u ∧ u = evict s cl ln ∧ findLine (coreOf u (cl - 130)).ro ln = none ∧ u.mem = s.mem ∧ u.clusters = s.clusters) ∧
    (∀ row, paLocal (1024 * row) = true → exec (.rowCapture row) s = .next { s with captured := captureRow s.captured row }) ∧
    (∀ atom, paLocal (32 * atom) = true → (∃ u, exec (.hbmScrub atom true) s = .next u ∧ u.mem.poison.contains atom = true ∧ u.mem.cells = s.mem.cells ∧ u.cores = s.cores) ∧
      (∃ u, exec (.hbmScrub atom false) s = .next u ∧ u.mem = s.mem ∧ (u.mgmt.ecc = s.mgmt.ecc ∨ u.mgmt.ecc = s.mgmt.ecc + 1))) ∧
    (∀ stack r, exec (.forcedRefresh stack r) s = .next s)) ∧
  (∀ (l : List Nat) (row : Nat), let mine := fun (l : List Nat) => l.filter fun r => homeStack (1024 * r) = homeStack (1024 * row);
    (captureRow l row).head? = some row ∧ (∀ r ∈ captureRow l row, r = row ∨ r ∈ l) ∧ (∀ r ∈ l, homeStack (1024 * r) ≠ homeStack (1024 * row) → r ∈ captureRow l row) ∧
    ((mine l).length ≤ 65536 → l.Nodup → (mine (captureRow l row)).length ≤ 65536)) ∧
  -- a weight slot is filled from memory, or waits after the read that failed, which is recorded (R198, R433)
  (∀ (s : State) cl n w, weightSlot (clusterOf s cl) n = some w → (w.filled = true → fillSlot s cl n = s) ∧ (w.filled = false →
    (∀ x v, slotContent s w = .ok (x, v) → x.filled = true ∧ let y := updCluster v cl fun k => { k with slots := tset k.slots n x };
      fillSlot s cl n = match (clusterOf y cl).holder with | some h => loadCut y (4 * cl + h) | none => y) ∧
    (∀ f, slotContent s w = .error f → let u := fillSlot s cl n
      weightSlot (clusterOf u cl) n = some { w with waiting := true } ∧ u.mem = s.mem ∧ (∀ d, (dieOf u d).posts = (dieOf (postFeed s (slotCtx s w) f) d).posts)))) ∧
  -- the places of a command's bytes (R239): a plain or REDUCE-ADD copy, a strided one, a fill
  (∀ (s : State) core (c : CopyCmd) pos, let m := c.cmd.toNat;
    ((ccKind m = 0 ∨ ccKind m = 4) → segAt s core c pos = .ok (⟨some (ccSrc m + pos), some (ccDst m + pos), c.len - pos⟩, s)) ∧
    (ccKind m = 1 → let e := ccE0 m
      let q : Int := (pos / e / ccRows m : Nat)
      let r : Int := (pos / e % ccRows m : Nat)
      let b : Int := (pos % e : Nat)
      segAt s core c pos = .ok (⟨some (wrapN 64 (ccSrc m + q * ccSs2 m + r * ccSs1 m + b)), some (wrapN 64 (ccDst m + q * ccDs2 m + r * ccDs1 m + b)), e - pos % e⟩, s)) ∧
    ((ccKind m = 2 ∨ ccKind m = 3) → ∀ i v, copyIndex s core c (pos / ccE0 m) = .ok (i, v) → let o := pos % ccE0 m
      segAt s core c pos = .ok (if ccKind m = 2 then ⟨i.map fun i => (ccSrc m + i * ccE0 m + o) % 2 ^ 64, some (ccDst m + pos), ccE0 m - o⟩
        else ⟨some (ccSrc m + pos), i.map fun i => (ccDst m + i * ccE0 m + o) % 2 ^ 64, ccE0 m - o⟩, v)) ∧
    (5 ≤ ccKind m → segAt s core c pos = .ok (⟨none, some (ccDst m + pos), c.len - pos⟩, s))) ∧
  -- the bytes of one destination atom: those of the source with their poison, or the pattern of a fill
  (∀ core c xs xd pos src dst n (s : State), let m := c.cmd.toNat;
    (∀ a x, src = some a → xs = some x → copyAtom core c xs xd pos src dst n s =
      let r := readPieces s core (ccScope m) (pagePieces x a n)
      let w := writePieces r.2 core (ccScope m) r.1.2 [pieceAt xd dst n] (overlapBytes (pieceAt x a n).pa (pieceAt xd dst n).pa n r.1.1)
      if r.1.2 then notePoison w c.task dst n else w) ∧
    (src = none → ccKind m = 5 → ∃ v, copyAtom core c xs xd pos src dst n s = writePieces s core (ccScope m) false [pieceAt xd dst n] v ∧
      ∀ j, j < n → nbits v (8 * j) 8 = nbits (ccSrc m) (8 * ((pos + j) % 8)) 8)) ∧
  -- a chunk: what is left of it, or a first stretch alone (log entry 209), at the pages of its sides; then PEND loses its bytes, and the last one ends the command (R242, R245, R246)
  (∀ (s : State) core slot (c : CopyCmd), c.done < c.len → let r := chunkLeft s core c
    let v := r.2.2
    let k := ccKind c.cmd.toNat
    let raw := !ccTag c.cmd.toNat || r.1.any fun g => match g.dst with | some d => rawPart v c.task (fmtWidth (nbits (ccTagv c.cmd.toNat) 0 5)) d g.n | none => false
    let sides := fun xs xd => chunkSide v core c .copyRead false c.srcPage (r.1.findSome? (·.src)) = .ok xs ∧ chunkSide v core c (dstAcc k) raw c.dstPage (r.1.findSome? (·.dst)) = .ok xd
    let used := fun (xs xd : Option Xlat) => if c.part = 0 then useXlats (useXlats v (copyCtx core c) .copyRead false xs.toList) (copyCtx core c) (dstAcc k) (raw && (dstAcc k).writes) xd.toList else v;
    (segBytes r.1 = 0 → c.part = 0 → ∀ f, r.2.1 = some f → performChunk s core slot c = parkCopy v core slot c .copyRead f) ∧
    (segBytes r.1 ≠ 0 →
      (∀ f, chunkSide v core c .copyRead false c.srcPage (r.1.findSome? (·.src)) = .error f → performChunk s core slot c = parkCopy v core slot c .copyRead f) ∧
      (∀ xs xd, sides xs xd → chunkHeld v core c r.1 xs xd = true → performChunk s core slot c = v) ∧
      (∀ xs xd, sides xs xd → chunkHeld v core c r.1 xs xd = false → nbit (freeAt (used xs xd) 658) 0 = false →
        performChunk s core slot c = copyOver (chunkDone (useFresh (chunkWrite (used xs xd) core c r.1 xs xd)) core slot { c with badIdx := c.badIdx || lostIdx c r.1 } (segBytes r.1)) core slot))) ∧
  (∀ (s : State) core slot (c : CopyCmd) n, let u := chunkDone s core slot c n
    tfind (coreOf u core).slots slot = some { c with done := c.done + c.part + n, part := 0, srcPage := none, dstPage := none, sent := s.cycle } ∧ u.mem = s.mem ∧
      (s.barRead.contains (core, c.bar) = false → u.barChg = s.barChg ++ [{ core := core, bar := c.bar, kind := .sub, n := c.part + n, own := true }])) ∧
  -- a command parks with a record, or ends: its slot is free, and a status that is not DONE sets ERR and its queue's latch (R242, R243, R246)
  (∀ (s : State) core slot (c : CopyCmd) acc f, (c.task = 0 ∨ (taskOf s c.task).failing = none) → let u := parkCopy s core slot c acc f
    tfind (coreOf u core).slots slot = some { c with st := .parked } ∧ (dieOf u (dieOfCore core)).posts.length = (dieOf s (dieOfCore core)).posts.length + 1 ∧ u.mem = s.mem) ∧
  (∀ (s : State) core slot (c : CopyCmd) status, tfind (coreOf s core).slots slot = some c → c.reel = none → let u := endCopy s core slot status
    tfind (coreOf u core).slots slot = none ∧ u.mem = s.mem ∧ (status = 0 → u.barChg = s.barChg ∧ latched u core c.task c.cq = latched s core c.task c.cq) ∧
      (status ≠ 0 → (c.task = 0 ∨ tfind s.tasks c.task ≠ none) → latched u core c.task c.cq = true ∧ ∃ x, (x ∈ u.barChg ∨ x ∈ u.barLate) ∧ x.core = core ∧ x.bar = c.bar ∧ x.err = true)) ∧
  (∀ (s : State) core slot c, tfind (coreOf s core).slots slot = some c → (c.badIdx = true → finishCopy s core slot = endCopy s core slot 6) ∧
    (c.badIdx = false → ccNote c.cmd.toNat = false → finishCopy s core slot = endCopy s core slot 0) ∧
    (c.badIdx = false → ccNote c.cmd.toNat = true → let m := c.cmd.toNat
      let x := xlat s (copyCtx core c) .copyWrite true (ccNaddr m) 8;
      (∀ f, x = .error f → finishCopy s core slot = parkCopy s core slot c .copyWrite f) ∧
      (∀ l, x = .ok l → opHeld s core { kind := .store, pieces := piecesOf l, scope := ccScope m, ord := 2 } = false → finishCopy s core slot =
        endCopy (writePieces (releaseAction (useXlats s (copyCtx core c) .copyWrite true l) core (ccScope m)) core (ccScope m) false (piecesOf l) (ccNval m)) core slot 0))) ∧
  -- a reel: the entry at HEAD becomes a command, or ends as a bad one; an empty ring follows its LINK (R253, R254)
  (∀ (s : State) core rcb r, (coreOf s core).reels.find? (fun r => r.rcb = rcb) = some r → let v := rcbRead s core rcb;
    (r.stopping = true → reelStep s core rcb = s) ∧
    (r.stopping = false → (rcHead v.1.1 = rcTail v.1.1 → reelStep s core rcb = if rcLink v.1.1 = 0 then s else followLink v.2 core r v.1.1) ∧
      (rcHead v.1.1 ≠ rcTail v.1.1 → reelStep s core rcb = if freeSlots (coreOf s core) = [] then s else fetchEntry v.2 core r v.1.1))) ∧
  (∀ (s : State) core r v l, ringOk v = true → let c : Ctx := { core := core, root := r.root, key := r.key, sup := r.sup, task := r.task }
    let e := rcBase v + 64 * (rcHead v % 2 ^ rcLog v)
    xlatEach s c .read false e 64 (fun x => if x.kind = .loc || x.kind = .coh then regionCheck s c.key x else .error (kindFault e (some x))) = .ok l →
      let d := readPieces (useXlats s c .read false l) core (if l.any (fun x => x.kind = .coh) then 3 else 2) (piecesOf l)
      let img := d.1.1
      let b := taskBars s core r.task
      let u := rcbWrite d.2 core r.rcb 16 4 (rcHead v + 1)
      let ok := !d.1.2 && ccOk img && decide (ccBar img < b.2) && decide (ccLen img < 2 ^ 24);
      (ok = false → fetchEntry s core r v = badEntry u core r (rcCq v) img) ∧
      (ok = true → barPend u core (b.1 + ccBar img) + ccLen img < 2 ^ 24 → fetchEntry s core r v = placeCmd u core
        { cmd := BitVec.ofNat 512 img, task := r.task, sup := r.sup, root := r.root, key := r.key, cq := rcCq v, bar := b.1 + ccBar img, len := ccLen img, reel := some r.rcb })) ∧
  (∀ (s : State) core rcb v, let u := leaveReel s core rcb v;
    (∀ r ∈ (coreOf u core).reels, r.rcb ≠ rcb) ∧ u.tasks = (rcbSetState s core rcb v).tasks ∧ u.mem = (rcbSetState s core rcb v).mem) ∧
  -- a scalar register of a bank through its window; a bank that is being swapped holds the write (R138)
  (∀ (s : State) pa v p n, winSpace pa = 3 ∨ winSpace pa = 4 → nbits pa 44 4 = 0 → winOff pa = 0x100 + 8 * n → 0 < n → n < 64 →
    let core := winCore pa
    let b := winSpace pa - 3
    let u := winWrite s pa 8 v p;
    (bankBusy (coreOf s core) b = true → (coreOf u core).held = (coreOf s core).held ++ [{ pa := pa, n := 8, v := v % 256 ^ 8, poison := p }] ∧ bankOf u core b = bankOf s core b) ∧
    (bankBusy (coreOf s core) b = false → pendingTo (bankOf (landCore s core) core b).se.flight (.reg n) = none →
      tget (bankOf u core b).s n {} = { v := BitVec.ofNat 64 v, poi := p } ∧ u.mem = s.mem ∧ u.clusters = s.clusters ∧ ∀ c, c ≠ core → coreOf u c = coreOf s c))


/-- R284, R289-R294, R299, R300, R303, R304, R361, R363: the events of the pool agents, the heads and the host, in PS0 and PS1 and while the agent of the head does not wait to post a
record (R236), with what the operations behind them leave. In PS1 what a head or the host asks of the device calls it (R351). -/
def Obligations.PoolAndHostEvents : Prop :=
  (∀ (s : State), s.mgmt.psCur.toNat ≤ 1 →
    -- PRTCMD: create, retire, rejoin
    (∀ i, i < 1024 → s.pool.prtBusy = false → agentOn s (prtHeadOf s i) = true →
      let u := fun a => { s with pool := prtcmdSet s.pool i a };
      (∃ t, exec (.prtcmdCreate i) s = .next t ∧ t = prtCreate (u 1) i) ∧ (∃ t, exec (.prtcmdRetire i) s = .next t ∧ t = prtRetire (u 2) i) ∧
      (∃ t, exec (.prtcmdRejoin i) s = .next t ∧ t = prtRejoin (u 3) i)) ∧
    (∀ i, agentOn s (prtHeadOf s i) = true →
      (∀ l, leaseOf s i = some l → l.waiting = true → ∃ t, exec (.leaseGrantAck i) s = .next t ∧
        let v := setPrtState (updLease (if prtState (prtEntry s i) = 0 then s else dropRegion s (prtEntry s i)) i fun l => { l with sent := l.asked.headD l.sent, asked := [], waiting := false }) i 1
        t = prtFinish v false ∧ leaseOf v i = some { l with sent := l.asked.headD l.sent, asked := [], waiting := false } ∧ (s.mem.wf = true → prtState (prtEntry v i) = 1)) ∧
      (∀ l, leaseLive s i = some l →
        (l.asked.getLastD l.sent + lmsCycles l.lms / 4 ≤ s.cycle → ∃ t, exec (.leaseRenewal i) s = .next t ∧ leaseOf t i = some { l with asked := l.asked ++ [s.cycle] } ∧ t.mem = s.mem) ∧
        (∀ c r, l.asked = c :: r → ∃ t, exec (.leaseRenewalAck i) s = .next t ∧ leaseOf t i = some { l with sent := c, asked := r } ∧ t.mem = s.mem) ∧
        (l.sent + 7 * lmsCycles l.lms / 8 ≤ s.cycle → ∃ t, exec (.leaseExpiryDevice i) s = .next t ∧ t = leaseOut s i)) ∧
      (prtState (prtEntry s i) = 1 → ∃ t, exec (.lapseNotice i) s = .next t ∧ t = callDevice (lapse s i 1 0 (prtBase (prtEntry s i))))) ∧
    (∀ ln r core slot, (∃ t, exec (.headRefusal (.writeBack ln)) s = .next t ∧ t = refuseLine s ln) ∧ (∃ t, exec (.headRefusal (.access r)) s = .next t ∧ t = refuseAccess s r) ∧
      ∃ t, exec (.headRefusal (.chunk core slot)) s = .next t ∧ t = refuseChunk s core slot) ∧
    -- snoops
    (∀ ln block down, ∃ t, exec (.biSnoop ln block down) s = .next t ∧ t = callDevice (((snoopLines ln block).filter fun l =>
      paPool (128 * l) && lineKind s l = .coh && !lineLinkDown s l).foldl (snoopLine down) s)) ∧
    (∀ ln down, s.mgmt.hostLink = true → paHost (128 * ln) = true → ∃ t, exec (.hostSnoop ln down) s = .next t ∧ t = callDevice (snoopLine down s ln)) ∧
    -- dynamic capacity
    (∀ h g n, headUp s h = true → agentOn s h = true →
      (0 < n → g + n ≤ 16384 → ∃ t, exec (.dcExtentOffer h g n) s = .next t ∧ (headOf t h).offered = (headOf s h).offered ++ [(g, n)] ∧ t.mem = s.mem ∧
        (∃ die, (dieOf t die).posts.length = (dieOf s die).posts.length + 1) ∧ (s.mgmt.psCur = 1 → t.mgmt.wake = true)) ∧
      (g + n ≤ 16384 → ∃ t, exec (.dcReleaseRequest h g n) s = .next t ∧ t = callDevice (postPool s h 0x20 1 (granulePa h g) (n % 2 ^ 14) 0))) ∧
    (∀ h g n, dcSane h g n = true → agentOn s h = true → s.pool.dcBusy = false →
      let u := fun a => { s with pool := dcaccSet s.pool (dcWord a h g n) };
      (∃ t, exec (.dcaccAccept h g n) s = .next t ∧ t = dcAnswer (u 1) 1 h g n) ∧ (∃ t, exec (.dcaccReject h g n) s = .next t ∧ t = dcAnswer (u 2) 2 h g n) ∧
      (∃ t, exec (.dcaccRelease h g n) s = .next t ∧ t = dcAnswer (u 3) 3 h g n)) ∧
    -- failed heads and links; head 8 and above is the host port
    (∀ h, h < 8 → agentOn s h = true →
      (∃ t, exec (.headDeclare h) s = .next t ∧ t = failHead (updHead s h fun k => { k with decl := true }) h 3) ∧
      (headUp s h = true → ((headOf s h).downAt = none → ∃ t, exec (.headFatalNotice h) s = .next t ∧ t = callDevice (failHead s h 1)) ∧
        (requestLate s h = true → ∃ t, exec (.requestTimeout h) s = .next t ∧ t = failHead s h 2) ∧ (requestLate s h = false → exec (.requestTimeout h) s = .next s)) ∧
      (∀ c, (headOf s h).downAt = some c → c + 15000000 ≤ s.cycle → ∃ t, exec (.linkRetrainTimeout h) s = .next t ∧ t = failHead s h 0)) ∧
    (∀ h, headUp s h = true → (headOf s h).downAt = none → ∃ t, exec (.linkDown h) s = .next t ∧ headOf t h = { headOf s h with downAt := some s.cycle } ∧ t.mem = s.mem) ∧
    (∀ h c half, (headOf s h).downAt = some c → s.cycle < c + 15000000 → ∃ t, exec (.linkRetrain h half) s = .next t ∧
      headOf t h = { headOf s h with downAt := none, state := if half then 3 else 1 } ∧ t.mem = s.mem) ∧
    (∀ h half, 8 ≤ h → (∃ t, exec (.linkDown h) s = .next t ∧ t.mgmt.hostLink = false ∧ t.mem = s.mem ∧ t.pool = s.pool) ∧
      (4 ≤ s.mgmt.stage → (headOf s h).downAt = none → ∃ t, exec (.linkRetrain h half) s = .next t ∧ t.mgmt.hostLink = true ∧ t.mem = s.mem ∧ t.pool = s.pool)) ∧
    (∀ port atoms beyond, ∃ t, exec (.ideIntegrityFail port atoms beyond) s = .next t ∧ t = if beyond then dropLink (atoms.foldl poisonAtom s) port else atoms.foldl poisonAtom s) ∧
    -- the host's reads and writes of local HBM: CXL.mem is enabled from stage 8 on
    (∀ pa, s.mgmt.hostLink = true → 8 ≤ s.mgmt.stage → paLocal pa = true →
      (s.mgmt.confidential.contains (pa / 2 ^ 21) = false → ∃ t, exec (.hostMemRead pa) s = .next t ∧ t.mem = s.mem ∧ t.hostLines.contains (pa / 64) = true) ∧
      (s.mgmt.confidential.contains (pa / 2 ^ 21) = true → exec (.hostMemRead pa) s = .next s ∧ ∀ data, pa / 64 = (pa + data.length - 1) / 64 → paHost pa = false →
        exec (.hostMemWrite pa data) s = .next s))) ∧
  (∀ (s : State) pa data, pa / 64 = (pa + data.length - 1) / 64 → paHost pa = true ∨ (cxlMem s = true ∧ paLocal pa = true ∧ confidential s pa = false) →
    (∃ t, exec (.hostMemWrite pa data) s = .next t ∧ t = hostWrite s pa data) ∧
    ((paLocal pa = false ∨ (s.hostLines.contains (pa / 64) = false ∧ hostClean s pa data.length = true)) →
      let u := hostWrite s pa data;
      (s.mem.wf = true → ∀ j, j < data.length → memByte u.mem (pa + j) = data.getD j 0) ∧ ∀ a, (a < pa ∨ pa + data.length ≤ a) → memByte u.mem a = memByte s.mem a) ∧
    (paLocal pa = true → s.hostLines.contains (pa / 64) = true → nbit (freeAt s 660) 0 = true →
      (hostWrite s pa data).mem = s.mem ∧ (hostWrite s pa data).hostDirty = hostModify s.hostDirty pa data.length (bytesNat data))) ∧
  -- an agent that waits to post a record does nothing meanwhile (R236)
  (∀ (s : State) h g n i, h < 8 → agentWaits s (4 ≤ h) = true → prtHeadOf s i = h →
    ∀ e ∈ ([.prtcmdCreate i, .prtcmdRetire i, .prtcmdRejoin i, .leaseGrantAck i, .leaseRenewal i, .leaseRenewalAck i, .leaseExpiryDevice i, .lapseNotice i, .dcExtentOffer h g n,
      .dcReleaseRequest h g n, .dcaccAccept h g n, .dcaccReject h g n, .dcaccRelease h g n, .headDeclare h, .headFatalNotice h, .linkRetrainTimeout h, .requestTimeout h] : List Instr),
      exec e s = .next s) ∧
  -- the entry's STATE is the one field that an agent writes (R282), and what the three actions of PRTCMD come to (R284)
  (∀ (s : State) i st, st < 8 → s.mem.wf = true → prtState (prtEntry (setPrtState s i st) i) = st) ∧
  (∀ (s : State) i, let e := prtEntry s i
    let v := useFresh s;
    (entryOk s i e = false ∨ nbit (freeAt s 620) 0 = true → prtCreate s i = prtFinish v true) ∧
    (entryOk s i e = true → nbit (freeAt s 620) 0 = false → (prtKind e = 0 → prtCreate s i = requestLease v i e) ∧ (prtKind e ≠ 0 → prtCreate s i = prtFinish (setPrtState v i 1) false)) ∧
    (prtState e = 0 ∨ hasOrphans s i = true → prtRetire s i = prtFinish s true) ∧
    (prtState e ≠ 0 → hasOrphans s i = false →
      (prtState e ≤ 2 → regionHeld s e = true → prtRetire s i = s) ∧
      (prtState e ≤ 2 → regionHeld s e = false → prtRetire s i = prtFinish (setPrtState (dropLease (dropRegion (cleanLines s (inPrt e)) e) i) i 0) false) ∧
      (2 < prtState e → prtRetire s i = prtFinish (setPrtState (dropLease (dropRegion s e) i) i 0) false)) ∧
    ((prtState e = 2 ∨ prtState e = 3) → hasOrphans s i = false → prtRejoin s i = requestLease s i e) ∧
    (¬(prtState e = 2 ∨ prtState e = 3) ∨ hasOrphans s i = true → prtRejoin s i = prtFinish s true)) ∧
  (∀ (s : State) i e, (headsFailed s e = true → requestLease s i e = prtFinish s true) ∧
    (headsFailed s e = false → let u := requestLease s i e
      leaseOf u i = some { prt := i, sent := s.cycle, asked := [s.cycle], waiting := true, lms := prtLms e } ∧ u.pool.prtBusy = true ∧ u.pool.prtErr = false ∧ u.mem = s.mem)) ∧
  -- a lease that runs out, a region that lapses, lines that lose their home (R292, R293, R301)
  (∀ (s : State) (hit : Nat → Bool) prt bad, let u := orphanLines s hit prt bad;
    (∀ k x, x ∈ (clusterOf u k).cache → hit (128 * x.line) = false) ∧ (∀ x, x ∈ u.pool.north ++ u.pool.south → hit (128 * x.line) = false) ∧
    (∀ k x, x ∈ (clusterOf s k).cache → hit (128 * x.line) = true → x.dirty ≠ 0 → ∃ o ∈ u.pool.orphans, o.line = x.line ∧ o.dirty = x.dirty ∧ o.data = x.data ∧
      o.prt = prt (128 * x.line) ∧ o.poison = if bad then 15 else x.poison) ∧
    (∀ o ∈ s.pool.orphans, o ∈ u.pool.orphans) ∧ u.mem = s.mem) ∧
  (∀ (s : State) i, let u := leaseOut s i
    let e := prtEntry s i
    u.pool.orphans = (orphanLines (setPrtState s i 2) (inPrt e) (fun _ => i) false).pool.orphans ∧ (∀ k x, x ∈ (clusterOf u k).cache → inPrt e (128 * x.line) = false) ∧ leaseOf u i = none ∧
      (s.mem.wf = true → prtState (prtEntry u i) = 2) ∧ ∃ die, (dieOf u die).posts.length = (dieOf s die).posts.length + 1) ∧
  (∀ (s : State) i sub pa, (prtState (prtEntry s i) ≠ 1 → ∀ task, lapse s i sub task pa = s) ∧
    (prtState (prtEntry s i) = 1 → let u := lapse s i sub 0 pa
      let v := postPool (dropLease (setPrtState s i 3) i) (headOfPa pa) 0x12 sub pa 0 i
      u = { v with pool := { v.pool with perms := v.pool.perms.filter fun e => !inPrt (prtEntry v i) (128 * e.1) } } ∧ leaseOf u i = none ∧ (s.mem.wf = true → prtState (prtEntry u i) = 3))) ∧
  (∀ (s : State) ln i, regionIdx s (128 * ln) = some i → let u := refuseLine s ln;
    (∀ o ∈ u.pool.orphans, o.line = ln → o.poison = 15) ∧ (∀ k, findLine (clusterOf u k).cache ln = none) ∧ leaseOf u i = none ∧ (s.mem.wf = true → prtState (prtEntry u i) = 3)) ∧
  (∀ (s : State) r f o p, flightOf s r = some f → f.op = some o → o.pieces.head? = some p →
    (paPool p.pa = false ∨ regionIdx s p.pa = none → refuseAccess s r = s) ∧
    (∀ i, paPool p.pa = true → regionIdx s p.pa = some i → let v := loseFlight s r.core r.bank r.st f
      let w := if f.dests.isEmpty then orphanLines v (fun pa => pa / 128 = p.pa / 128) (fun _ => i) false else v
      refuseAccess s r = lapse w i 2 ((bankOf w r.core r.bank).task.getD 0) (p.pa / 128 * 128))) ∧
  (∀ (s : State) core bank st f, (strandOf s core bank st).flight.find? (fun g => g.id = f.id) = some f → let u := loseFlight s core bank st f;
    (∀ g ∈ (strandOf u core bank st).flight, g.id = f.id → g.landed = true) ∧ u.mem = s.mem ∧
    ∀ n, 0 < n → n < 64 → .reg n ∈ f.dests → f.killed.contains (.reg n) = false → (tget (if st = .a then (bankOf u core bank).x else (bankOf u core bank).s) n {}).poi = true) ∧
  (∀ (s : State) core slot c, tfind (coreOf s core).slots slot = some c → let v := endCopy s core slot 5
    refuseChunk s core slot = v ∨ ∃ i pa, paPool pa = true ∧ regionIdx v pa = some i ∧ refuseChunk s core slot = lapse v i 2 c.task (pa / 128 * 128)) ∧
  -- a snooped line: no cache keeps it, unless it is downgraded, and the agent no longer owns it (R289)
  (∀ (s : State) ln, let u := snoopLine false s ln;
    (∀ k, findLine (clusterOf u k).cache ln = none) ∧ findLine (agentCache u (agentOf (128 * ln))) ln = none ∧ permitted u ln = false ∧ owned (snoopLine true s ln) ln = false) ∧
  -- the answers of DCACC: an accepted extent reads as zero (R299)
  (∀ (s : State) h g n, let lo := 0x8000000000000 + h * 0x100000000000 + g * 0x10000000;
    ((headOf s h).offered.contains (g, n) = true →
      (let u := dcAnswer s 1 h g n;
       (headOf u h).accepted = (headOf s h).accepted ++ [(g, n)] ∧ (headOf u h).offered = (headOf s h).offered.filter (· != (g, n)) ∧ u.pool.dcErr = false ∧ u.pool.dcBusy = false ∧
         (s.mem.wf = true → ∀ a, lo ≤ a → a < lo + n * 0x10000000 → memByte u.mem a = 0)) ∧
      (let u := dcAnswer s 2 h g n;
       (headOf u h).accepted = (headOf s h).accepted ∧ (headOf u h).offered = (headOf s h).offered.filter (· != (g, n)) ∧ u.pool.dcErr = false ∧ u.mem = s.mem)) ∧
    ((headOf s h).offered.contains (g, n) = false → dcAnswer s 1 h g n = dcDone s true ∧ dcAnswer s 2 h g n = dcDone s true) ∧
    (((List.range n).all fun i => granuleAccepted s h (g + i)) = true → coveredBy s none h g n = false → let u := dcAnswer s 3 h g n;
      (headOf u h).accepted = cutFrom (headOf s h).accepted (g, n) ∧ u.pool.dcErr = false ∧ u.mem = s.mem) ∧
    (((List.range n).all fun i => granuleAccepted s h (g + i)) = false ∨ coveredBy s none h g n = true → dcAnswer s 3 h g n = dcDone s true)) ∧
  -- a failed head (R300): STATE 2, the entries that lose their last replica at STATE 4, a record with the reason
  (∀ (s : State) h sub, ((headOf s h).state = 0 ∨ (headOf s h).state = 2 → failHead s h sub = s) ∧
    ((headOf s h).state ≠ 0 → (headOf s h).state ≠ 2 → ∃ v n, failHead s h sub = postPool v h 0x13 sub (0x8000000000000 + h * 0x100000000000) n 0 ∧
      (headOf v h).state = 2 ∧ ∀ j, j ≠ h → headOf v j = headOf s j)) ∧
  (∀ (s : State) a, let u := poisonAtom s a
    let c := agentCache s (agentOf (32 * a));
    (paPool (32 * a) = false ∨ findLine c (a / 4) = none → u.mem.poison.contains a = true ∧ u.mem.cells = s.mem.cells) ∧
    (∀ x, paPool (32 * a) = true → findLine c (a / 4) = some x → u.mem = s.mem ∧ ∃ y, findLine (agentCache u (agentOf (32 * a))) (a / 4) = some y ∧ y.poison.getLsbD (a % 4) = true ∧ y.data = x.data))

/-- R106, R111, R305, R348-R364: the events of the platform: registers, energy and temperature, power states, trust, reset and bring-up. Where an event of R351 or R364 has no effect is
stated too: a request while BUSY = 1, a wake that nothing asked for, a warm reset that no write of PS0 asked for. -/
def Obligations.PlatformEvents : Prop :=
  ∀ (s : State),
    (barOn s = true →
      (∀ off size v, barOk off size = true → exec (.registerWrite off size v) s = .next (runTodo (mmioWrite s off size v.toNat))) ∧
      (∀ die v, die < 4 → exec (.eshareWrite die false v) s = .next (runTodo (mmioWrite s (0x10000 * die + 0x418) 8 v.toNat)) ∧
        exec (.eshareWrite die true v) s = .next (runTodo (mmioWrite s (0x10000 * die + 0x420) 8 v.toNat)) ∧
        exec (.sysmaskWrite die false v) s = .next (runTodo (mmioWrite s (0x10000 * die + 0x4C0) 8 v.toNat)) ∧
        exec (.sysmaskWrite die true v) s = .next (runTodo (mmioWrite s (0x10000 * die + 0x4C8) 8 v.toNat)))) ∧
    (∀ off size v, s.mgmt.hostLink = false → exec (.registerWrite off size v) s = .next s) ∧
    (∀ off size wr, exec (.bar0UnsupportedAccess off size wr) s = .next s) ∧
    (∀ die watts, s.mgmt.psCur.toNat ≤ 1 → die < 4 → ((dieOf s die).refills + 1) * 15000 ≤ s.cycle → ∃ u, exec (.energyRefill die watts) s = .next u ∧
      (dieOf u die).refills = (dieOf s die).refills + 1 ∧ ∀ c, c < 16 → let d := beforeCaps s.cycle (dieOf s die)
        eacc (dieOf u die) c = min (eacc (dieOf s die) c + refillOf d c) (2 * refillOf d c)) ∧
    (∀ die temp, s.mgmt.psCur.toNat ≤ 2 → die < 6 → ∃ u, exec (.junctionTempThreshold die temp) s = .next u ∧ tget u.mgmt.temps die 0 = temp ∧
      (die < 4 → (105 ≤ temp → (dieOf u die).thcap = 0) ∧ (95 < temp → 3 ≤ (dieOf u die).curPoint.toNat))) ∧
    -- PSCTL: a request over the sideband, in a cycle without a BAR0 write of PSCTL
    (s.mgmt.psBusy = false → s.mgmt.barAt ≠ some s.cycle →
      (s.mgmt.psCur = 0 → ∃ u, exec .psctlReqPs1 s = .next u ∧ u.mgmt.psReq = 1 ∧ u.mgmt.psBusy = true ∧ u.mgmt.psCur = 0 ∧ u.cores = s.cores ∧ u.mem = s.mem) ∧
      (s.mgmt.psCur.toNat ≤ 1 → prtLive s = false → ∃ u, exec .psctlReqPs2 s = .next u ∧ u.mgmt.psCur = 2 ∧ u.mgmt.psReq = 2 ∧ u.mem = s.mem) ∧
      (s.mgmt.psCur.toNat ≤ 1 → prtLive s = true → ∃ u, exec .psctlReqPs2 s = .next u ∧ u.mgmt.psCur = s.mgmt.psCur ∧ u.mem = s.mem) ∧
      (s.mgmt.psCur = 1 → ∃ u, exec .psctlReqPs0 s = .next u ∧ u.mgmt.psCur = 0 ∧ u.mgmt.psReq = 0 ∧ u.mem = s.mem) ∧
      (s.mgmt.psCur = 2 → ∃ u, exec .psctlReqPs0 s = .next u ∧ u.mgmt.psCur = 2 ∧ u.mgmt.psReq = 0 ∧ u.mgmt.psBusy = true ∧ u.mem = s.mem) ∧
      (s.mgmt.psCur ≠ 3 → ∃ u, exec .psctlReqPs3 s = .next u ∧ u.mgmt.psCur = 3 ∧ u.cores = State.reset.cores ∧
        ∀ a, (∀ x ∈ s.mem.undef, ¬(x.lo ≤ a ∧ a < x.hi)) → paHost a = true ∨ paPool a = true → memByte u.mem a = memByte s.mem a)) ∧
    (s.mgmt.psBusy = true ∨ s.mgmt.psCur = 3 → ∀ i ∈ ([.psctlReqPs0, .psctlReqPs1, .psctlReqPs2, .psctlReqPs3] : List Instr), exec i s = .next s) ∧
    (s.mgmt.psBusy = false → s.mgmt.psCur = 2 → s.mgmt.hostLink = true → s.todo = [] → ∃ u, exec (.registerWrite 0x60010 8 0) s = .next u ∧ u.mgmt.psCur = 2 ∧ u.mgmt.psReq = 0 ∧
      u.mgmt.psBusy = true ∧ u.mem = s.mem) ∧
    (s.mgmt.psCur = 0 → s.mgmt.psBusy = true → s.mgmt.psReq = 1 → ps1Ready s = true → ∃ u, exec .ps1Enter s = .next u ∧ u.mgmt.psCur = 1 ∧ u.mgmt.psBusy = false ∧ u.cores = s.cores) ∧
    (s.mgmt.psCur = 1 → (s.mgmt.wake = true → ∃ u, exec .ps1Wake s = .next u ∧ u.mgmt.psCur = 0 ∧ u.cores = s.cores) ∧ (s.mgmt.wake = false → exec .ps1Wake s = .next s)) ∧
    -- the mailbox
    (s.mgmt.psCur.toNat ≤ 2 →
      (∀ m im, (manifestFault s m im = 0 → ∃ u, exec (.mailboxManifest m im) s = .next u ∧ u.mgmt.measures = im.map Config.sha256 ∧ u.mgmt.stored = some (m, im) ∧ u.cores = s.cores ∧ u.mem = s.mem) ∧
        (manifestFault s m im ≠ 0 → s.mgmt.fail = 0 → exec (.mailboxManifest m im) s = .next s) ∧
        (manifestFault s m im ≠ 0 → s.mgmt.fail ≠ 0 → ∃ u, exec (.mailboxManifest m im) s = .next u ∧ u.mgmt.fail = manifestFault s m im ∧ u.mgmt.measures = s.mgmt.measures ∧
          u.mgmt.stored = s.mgmt.stored ∧ u.mem = s.mem)) ∧
      (s.mgmt.fail = 0 →
        (∀ nonce, ∃ u, exec (.attestationReport nonce) s = .next u ∧ u.mgmt.mailbox = reportBody s nonce.toNat ++ [Config.sign (reportBody s nonce.toNat)] ∧ u.mem = s.mem) ∧
        (∀ sec g, 1 ≤ g → g ≤ 255 → ∃ u, exec (.mailboxSession sec g) s = .next u ∧ (g, sec) ∈ u.mgmt.groups ∧ u.mgmt.mailbox = [g] ∧ u.mem = s.mem) ∧
        (∀ g, paLocal (g * 2 ^ 21) = true →
          (∃ u, exec (.mailboxConfidentialSet g true) s = .next u ∧ u.mgmt.confidential.contains g = true ∧
            ((s.hostDirty.all fun h => h.line * 64 / 2 ^ 21 != g) = true → u.mem = s.mem) ∧
            (s.mgmt.confidential.contains g = false → (∀ l ∈ u.hostLines, l * 64 / 2 ^ 21 ≠ g) ∧ ∀ h ∈ u.hostDirty, h.line * 64 / 2 ^ 21 ≠ g)) ∧
          (granuleZero s g = true → ∃ u, exec (.mailboxConfidentialSet g false) s = .next u ∧ u.mgmt.confidential.contains g = false ∧ u.mem = s.mem) ∧
          (granuleZero s g = false → exec (.mailboxConfidentialSet g false) s = .next s)))) ∧
    -- reset and bring-up: every step passes, the stored manifest does not pass step 1, or the event's step fails
    (∀ heads,
      (storedFault s = 0 → ∃ u, exec (.coldReset heads none) s = .next u ∧ u.mgmt.stage = 8 ∧ u.mgmt.fail = 0 ∧ u.mgmt.runtime = true ∧ u.mgmt.hostLink = true ∧ u.tasks = [] ∧ u.launches = [] ∧
        (∀ h, (h < 8 ∧ h ∈ heads → (headOf u h).state = 1 ∨ (headOf u h).state = 3) ∧ (¬(h < 8 ∧ h ∈ heads) → (headOf u h).state = 0)) ∧
        (∀ c, (coreOf u c).sys = decide (c = 0 ∨ c = 128 ∨ c = 256 ∨ c = 384)) ∧ (fgBank (coreOf u 0)).se.phase = .slate) ∧
      (∀ fail, storedFault s ≠ 0 → ∃ u, exec (.coldReset heads fail) s = .next u ∧ u.mgmt.stage = 0 ∧ u.mgmt.fail = storedFault s ∧ u.mgmt.hostLink = true ∧ u.mgmt.runtime = false) ∧
      (∀ f, storedFault s = 0 → 1 ≤ f.stage → f.stage ≤ 8 → ∃ u, exec (.coldReset heads (some f)) s = .next u ∧ u.mgmt.stage = f.stage - 1 ∧ u.mgmt.fail = failCode f ∧ failCode f ≠ 0 ∧
        u.mgmt.hostLink = decide (f.stage = 1 ∨ 5 ≤ f.stage))) ∧
    (s.mgmt.psCur = 2 → s.mgmt.psBusy = true → s.mgmt.psReq = 0 →
      (∃ u, exec (.warmReset none) s = .next u ∧ u.mgmt.stage = 8 ∧ u.mgmt.psCur = 0 ∧ u.mgmt.hostLink = s.mgmt.hostLink ∧ u.tasks = [] ∧
        ∀ a, (∀ x ∈ s.mem.undef, ¬(x.lo ≤ a ∧ a < x.hi)) → paHost a = true ∨ paPool a = true → memByte u.mem a = memByte s.mem a) ∧
      (∀ f, f.stage ∈ [3, 6, 7, 8] → ∃ u, exec (.warmReset (some f)) s = .next u ∧ u.mgmt.fail = failCode f ∧ u.mgmt.stage < f.stage)) ∧
    (∀ f, ¬(s.mgmt.psCur = 2 ∧ s.mgmt.psBusy = true ∧ s.mgmt.psReq = 0) → exec (.warmReset f) s = .next s)

/-! ## An invariant -/

/-- Every step keeps the canonical form of memory: from every state whose memory has it, whatever word or event runs. That reset memory has it is a clause of
`MemoryStaysCanonical`. -/
def Obligations.StepKeepsMemoryCanonical : Prop := ∀ (s t : State), s.mem.wf = true → step s = .next t → t.mem.wf = true
end

