-- ==== Sys2Proof/Laws/Issue.lean ====
section
/-! SUPPORT. What issuing a word can do: one law for each way through the gate. -/
namespace Sys2Proof.Laws
open Sys2Proof.Machine Sys2Proof.Safety

/-- With no CSR write on its way a word runs on the state as it is. -/
theorem withCsrs_settled (i : Instr) (f : State → State) {s : State} (h : csrsSettled s = true) : withCsrs i f s = f s := by
  have h' : (curBank s).csrOld = [] := by simpa [csrsSettled] using h
  simp [withCsrs, h']

/-- A word that nothing holds back runs, and no register is read too early. -/
theorem gate_issues {i : Instr} {s : State} (h : issues i s = true) : gate i s = .run false := by
  simp only [issues, fieldsPass, repliesIn, predTimely, operandsTimely, Bool.and_eq_true, Option.isNone_iff_eq_none, beq_iff_eq, Bool.not_eq_true', curStrand] at h
  obtain ⟨⟨⟨⟨⟨⟨⟨_, ⟨⟨h1, h2⟩, h3⟩, h4⟩, hl⟩, h5⟩, h6⟩, h7⟩, h8⟩, h9⟩ := h
  simp only [gate, h1, h2, h3, h4, h5, h6, h7, h8, h9, hl]
  cases (coreOf s s.curCore).latchk <;> simp

theorem settled_of_issues {i : Instr} {s : State} (h : issues i s = true) : csrsSettled s = true := by
  simp only [issues, Bool.and_eq_true] at h; exact h.1.1.1.1.1.1.1

/-- A word that nothing holds back leaves what its body says. -/
theorem issue_ok {i : Instr} {s : State} {body : State → Except Stop Out} {o : Out} (h : issues i s = true) (hb : body s = .ok o) :
    issue i body s = .next (complete i false o s) := by
  simp [issue, withCsrs_settled i _ (settled_of_issues h), issueState, gate_issues h, hb]

/-- A word whose own checks fail stops there. -/
theorem issue_stop {i : Instr} {s : State} {body : State → Except Stop Out} {x : Stop} (h : issues i s = true) (hb : body s = .error x) :
    issue i body s = .next (stopWord i x s) := by
  simp [issue, withCsrs_settled i _ (settled_of_issues h), issueState, gate_issues h, hb]

/-- A word that the gate halts stops there, whatever its body is. -/
theorem issue_halt {i : Instr} {s : State} {x : Stop} (body : State → Except Stop Out) (hs : csrsSettled s = true) (hg : gate i s = .halt x) :
    issue i body s = .next (stopWord i x s) := by
  simp [issue, withCsrs_settled i _ hs, issueState, hg]

/-- A word whose predicate does not hold has no effect but its STL, whatever its body is; `early`: the predicate was read before its bound. -/
theorem issue_off {i : Instr} {s : State} {early : Bool} (body : State → Except Stop Out) (hs : csrsSettled s = true) (hg : gate i s = .off early) :
    issue i body s = .next (completeOff i early s) := by
  simp [issue, withCsrs_settled i _ hs, issueState, hg]

/-- Whatever a word does, a next state follows. -/
theorem issue_next (i : Instr) (body : State → Except Stop Out) (s : State) : ∃ t, issue i body s = .next t := ⟨_, rfl⟩

end Sys2Proof.Laws
end

