-- ==== Sys2Proof/Laws/Memory.lean ====
section
/-! SUPPORT. The laws of memory: every operation at the homes keeps the canonical form, a written byte reads back, and every other byte stands. -/
namespace Sys2Proof.Laws
open Sys2Proof.Machine

/-! ## Cells -/

theorem cellsFrom_mono {lo l : Nat} {c : List Host.Cell} (h : cellsFrom l c = true) (hl : lo ≤ l) : cellsFrom lo c = true := by
  cases c with
  | nil => rfl
  | cons e t => obtain ⟨a, b⟩ := e; simp only [cellsFrom, Bool.and_eq_true, decide_eq_true_eq] at h ⊢; exact ⟨⟨hl.trans h.1.1, h.1.2⟩, h.2⟩
theorem cellsFrom_setCell {c : List Host.Cell} {lo a : Nat} (b : Byte) (h : cellsFrom lo c = true) (hl : lo ≤ a) : cellsFrom lo (setCell c a b) = true := by
  induction c generalizing lo with
  | nil => simp only [setCell]; split <;> simp_all [cellsFrom]
  | cons e t ih =>
    obtain ⟨i, x⟩ := e
    simp only [cellsFrom, Bool.and_eq_true, decide_eq_true_eq] at h
    simp only [setCell]
    split_ifs with h1 h2 h3 h4
    · simp_all [cellsFrom]
    · simp only [cellsFrom, Bool.and_eq_true, decide_eq_true_eq]; exact ⟨⟨hl, by simpa using h2⟩, ⟨by omega, h.1.2⟩, h.2⟩
    · exact cellsFrom_mono h.2 (by omega)
    · simp_all [cellsFrom]
    · have := ih h.2 (show i + 1 ≤ a by omega); simp_all [cellsFrom]
theorem cellsFrom_filter {c : List Host.Cell} {lo : Nat} (p : Host.Cell → Bool) (h : cellsFrom lo c = true) : cellsFrom lo (c.filter p) = true := by
  induction c generalizing lo with
  | nil => rfl
  | cons e t ih =>
    obtain ⟨i, x⟩ := e
    simp only [cellsFrom, Bool.and_eq_true, decide_eq_true_eq] at h
    rw [List.filter_cons]
    split
    · simp only [cellsFrom, Bool.and_eq_true, decide_eq_true_eq]; exact ⟨h.1, ih h.2⟩
    · exact cellsFrom_mono (ih h.2) (by omega)
theorem getCell_below {c : List Host.Cell} {lo a : Nat} (h : cellsFrom lo c = true) (ha : a < lo) : getCell c a = 0 := by
  induction c generalizing lo with
  | nil => rfl
  | cons e t ih =>
    obtain ⟨i, x⟩ := e
    simp only [cellsFrom, Bool.and_eq_true, decide_eq_true_eq] at h
    rw [getCell, if_neg (by omega)]; exact ih h.2 (by omega)
theorem getCell_setCell {c : List Host.Cell} {lo a : Nat} (b : Byte) (h : cellsFrom lo c = true) : getCell (setCell c a b) a = b := by
  induction c generalizing lo with
  | nil => simp only [setCell]; split <;> simp_all [getCell]
  | cons e t ih =>
    obtain ⟨i, x⟩ := e
    simp only [cellsFrom, Bool.and_eq_true, decide_eq_true_eq] at h
    simp only [setCell]
    split_ifs with h1 h2 h3 h4
    · rw [getCell, if_neg (by omega), getCell_below h.2 (by omega), h2]
    · simp [getCell]
    · rw [getCell_below h.2 (by omega), h4]
    · simp [getCell]
    · rw [getCell, if_neg (by omega)]; exact ih h.2
theorem getCell_setCell_ne (c : List Host.Cell) {a x : Nat} (b : Byte) (hx : x ≠ a) : getCell (setCell c a b) x = getCell c x := by
  induction c with
  | nil => simp only [setCell]; split <;> simp_all [getCell]
  | cons e t ih =>
    obtain ⟨i, y⟩ := e
    simp only [setCell]
    split_ifs <;> simp_all [getCell]

/-! ## The canonical form -/

theorem memSetByte_wf {m : Memory} (a : Nat) (b : Byte) (h : m.wf = true) : (memSetByte m a b).wf = true := cellsFrom_setCell b h (Nat.zero_le a)
theorem memWrite_wf {m : Memory} (a n v : Nat) (h : m.wf = true) : (memWrite m a n v).wf = true := by
  induction n generalizing m a v with
  | zero => exact h
  | succ n ih => exact ih _ _ (memSetByte_wf a _ h)
theorem setPoison_wf {m : Memory} (k : Nat) (p : Bool) (h : m.wf = true) : (setPoison m k p).wf = true := h
theorem foldl_wf {α : Type} (l : List α) (f : Memory → α → Memory) (hf : ∀ m x, m.wf = true → (f m x).wf = true) {m : Memory} (h : m.wf = true) :
    (l.foldl f m).wf = true := by
  induction l generalizing m with
  | nil => exact h
  | cons x t ih => exact ih (hf m x h)
theorem poisonWrite_wf {m : Memory} (a n : Nat) (p : Bool) (h : m.wf = true) : (poisonWrite m a n p).wf = true := by
  refine foldl_wf _ _ (fun m k h => ?_) h
  split_ifs <;> exact h
theorem homeWrite_wf {m : Memory} (a n v : Nat) (p : Bool) (h : m.wf = true) : (homeWrite m a n v p).wf = true := poisonWrite_wf a n p (memWrite_wf a n v h)
theorem homeMerge_wf {m : Memory} (ln : Nat) (d : BitVec 1024) (w : BitVec 128) (q : BitVec 4) (h : m.wf = true) : (homeMerge m ln d w q).wf = true := by
  refine foldl_wf _ _ (fun m k h => ?_) (foldl_wf _ _ (fun m i h => ?_) h)
  · split_ifs <;> exact h
  · split
    · exact memSetByte_wf _ _ h
    · exact h
theorem memUndef_wf {m : Memory} (lo hi tag : Nat) (h : m.wf = true) : (memUndef m lo hi tag).wf = true := by
  simp only [memUndef]; split <;> exact cellsFrom_filter _ h
theorem memZero_wf {m : Memory} (lo hi : Nat) (h : m.wf = true) : (memZero m lo hi).wf = true := memUndef_wf lo hi 0 h

/-! ## One byte -/

theorem memByte_memSetByte {m : Memory} (a : Nat) (b : Byte) (h : m.wf = true) : memByte (memSetByte m a b) a = b := by
  have hn : (cutSpans m.undef a).find? (fun sp => decide (sp.lo ≤ a ∧ a < sp.hi)) = none := by
    rw [List.find?_eq_none]
    intro sp hsp
    simp only [cutSpans, List.mem_flatMap] at hsp
    obtain ⟨q, _, hq⟩ := hsp
    split_ifs at hq with h1 h2 h3 h3 <;> simp only [List.mem_append, List.mem_cons, List.not_mem_nil, or_false, List.nil_append, List.append_nil] at hq
    all_goals first
      | (rcases hq with rfl | rfl <;> simp <;> done)
      | (subst hq; simp; done)
      | (subst hq; simpa using fun h => Nat.not_lt.mp fun h' => h1 ⟨h, h'⟩)
  rw [memByte, memSetByte, hn]; exact getCell_setCell b h

end Sys2Proof.Laws
end

