-- ==== Sys2Proof/Laws/State.lean ====
section
/-! SUPPORT. The laws of the state's updates: what each leaves of each field, and what the accessors read after it. -/
namespace Sys2Proof.Laws
open Sys2Proof.Machine

/-! ## Tables -/

@[simp] theorem tfind_tset {α : Type} (t : Tbl α) (k : Nat) (v : α) : tfind (tset t k v) k = some v := by
  induction t with
  | nil => simp [tset, tfind]
  | cons e t ih => obtain ⟨i, w⟩ := e; simp only [tset]; split_ifs <;> simp_all [tfind]
theorem tfind_tset_ne {α : Type} (t : Tbl α) {j k : Nat} (v : α) (h : j ≠ k) : tfind (tset t k v) j = tfind t j := by
  induction t with
  | nil => simp [tset, tfind, Ne.symm h]
  | cons e t ih => obtain ⟨i, w⟩ := e; simp only [tset]; split_ifs <;> simp_all [tfind, Ne.symm h]
@[simp] theorem tget_tset {α : Type} (t : Tbl α) (k : Nat) (v d : α) : tget (tset t k v) k d = v := by simp [tget]
theorem tget_tset_ne {α : Type} (t : Tbl α) {j k : Nat} (v d : α) (h : j ≠ k) : tget (tset t k v) j d = tget t j d := by simp [tget, tfind_tset_ne t v h]

/-! ## Accessors after their updates -/

@[simp] theorem coreOf_updCore (s : State) (c : Nat) (f : Core → Core) : coreOf (updCore s c f) c = f (coreOf s c) := by simp [coreOf, updCore]
theorem coreOf_updCore_ne (s : State) {c d : Nat} (f : Core → Core) (h : d ≠ c) : coreOf (updCore s c f) d = coreOf s d := tget_tset_ne _ _ _ h
@[simp] theorem clusterOf_updCluster (s : State) (c : Nat) (f : Cluster → Cluster) : clusterOf (updCluster s c f) c = f (clusterOf s c) := by
  simp [clusterOf, updCluster]
theorem clusterOf_updCluster_ne (s : State) {c d : Nat} (f : Cluster → Cluster) (h : d ≠ c) : clusterOf (updCluster s c f) d = clusterOf s d :=
  tget_tset_ne _ _ _ h
@[simp] theorem dieOf_updDie (s : State) (c : Nat) (f : Die → Die) : dieOf (updDie s c f) c = f (dieOf s c) := by simp [dieOf, updDie]
theorem dieOf_updDie_ne (s : State) {c d : Nat} (f : Die → Die) (h : d ≠ c) : dieOf (updDie s c f) d = dieOf s d := tget_tset_ne _ _ _ h
theorem taskOf_updTask (s : State) (c : Nat) (f : Task → Task) (h : (tfind s.tasks c).isSome = true) : taskOf (updTask s c f) c = f (taskOf s c) := by
  obtain ⟨x, hx⟩ := Option.isSome_iff_exists.mp h; simp [taskOf, updTask, tget, hx]
theorem launchOf_updLaunch (s : State) (c : Nat) (f : Launch → Launch) (h : (tfind s.launches c).isSome = true) :
    launchOf (updLaunch s c f) c = f (launchOf s c) := by
  obtain ⟨x, hx⟩ := Option.isSome_iff_exists.mp h; simp [launchOf, updLaunch, tget, hx]
@[simp] theorem bankSel_setBank (k : Core) (n : Nat) (b : Bank) : bankSel (setBank k n b) n = b := by by_cases h : n = 0 <;> simp [bankSel, setBank, h]
theorem bankSel_setBank_ne (k : Core) {m n : Nat} (b : Bank) (h : (m = 0) ≠ (n = 0)) : bankSel (setBank k n b) m = bankSel k m := by
  by_cases hn : n = 0 <;> by_cases hm : m = 0 <;> simp_all [bankSel, setBank]
@[simp] theorem strandSel_setStrand (b : Bank) (st : Strand) (x : StrandSt) : strandSel (setStrand b st x) st = x := by cases st <;> rfl
theorem strandSel_setStrand_ne (b : Bank) {st t : Strand} (x : StrandSt) (h : t ≠ st) : strandSel (setStrand b st x) t = strandSel b t := by
  cases st <;> cases t <;> first | rfl | exact absurd rfl h
@[simp] theorem setStrand_strandSel (b : Bank) (st : Strand) : setStrand b st (strandSel b st) = b := by cases st <;> rfl
@[simp] theorem bankOf_updBank (s : State) (c n : Nat) (f : Bank → Bank) : bankOf (updBank s c n f) c n = f (bankOf s c n) := by simp [bankOf, updBank]
@[simp] theorem strandOf_updStrand (s : State) (c n : Nat) (st : Strand) (f : StrandSt → StrandSt) :
    strandOf (updStrand s c n st f) c n st = f (strandOf s c n st) := by simp [strandOf, updStrand]

/-! ## Fields of a core and of a bank -/

@[simp] theorem setBank_fg (k : Core) (n : Nat) (b : Bank) : (setBank k n b).fg = k.fg := by simp only [setBank]; split <;> rfl
@[simp] theorem setBank_shst (k : Core) (n : Nat) (b : Bank) : (setBank k n b).shst = k.shst := by simp only [setBank]; split <;> rfl
@[simp] theorem setBank_pm (k : Core) (n : Nat) (b : Bank) : (setBank k n b).pm = k.pm := by simp only [setBank]; split <;> rfl
@[simp] theorem setBank_ppm (k : Core) (n : Nat) (b : Bank) : (setBank k n b).ppm = k.ppm := by simp only [setBank]; split <;> rfl
@[simp] theorem setBank_ie (k : Core) (n : Nat) (b : Bank) : (setBank k n b).ie = k.ie := by simp only [setBank]; split <;> rfl
@[simp] theorem setBank_pie (k : Core) (n : Nat) (b : Bank) : (setBank k n b).pie = k.pie := by simp only [setBank]; split <;> rfl
@[simp] theorem setBank_sys (k : Core) (n : Nat) (b : Bank) : (setBank k n b).sys = k.sys := by simp only [setBank]; split <;> rfl
@[simp] theorem setBank_sysWant (k : Core) (n : Nat) (b : Bank) : (setBank k n b).sysWant = k.sysWant := by simp only [setBank]; split <;> rfl
@[simp] theorem setBank_cause (k : Core) (n : Nat) (b : Bank) : (setBank k n b).cause = k.cause := by simp only [setBank]; split <;> rfl
@[simp] theorem setBank_epc (k : Core) (n : Nat) (b : Bank) : (setBank k n b).epc = k.epc := by simp only [setBank]; split <;> rfl
@[simp] theorem setBank_tval (k : Core) (n : Nat) (b : Bank) : (setBank k n b).tval = k.tval := by simp only [setBank]; split <;> rfl
@[simp] theorem setBank_trec (k : Core) (n : Nat) (b : Bank) : (setBank k n b).trec = k.trec := by simp only [setBank]; split <;> rfl
@[simp] theorem setBank_tvec (k : Core) (n : Nat) (b : Bank) : (setBank k n b).tvec = k.tvec := by simp only [setBank]; split <;> rfl
@[simp] theorem setBank_mixchk (k : Core) (n : Nat) (b : Bank) : (setBank k n b).mixchk = k.mixchk := by simp only [setBank]; split <;> rfl
@[simp] theorem setBank_latchk (k : Core) (n : Nat) (b : Bank) : (setBank k n b).latchk = k.latchk := by simp only [setBank]; split <;> rfl
@[simp] theorem setBank_ccinj (k : Core) (n : Nat) (b : Bank) : (setBank k n b).ccinj = k.ccinj := by simp only [setBank]; split <;> rfl
@[simp] theorem setBank_rtk (k : Core) (n : Nat) (b : Bank) : (setBank k n b).rtk = k.rtk := by simp only [setBank]; split <;> rfl
@[simp] theorem setBank_swapAt (k : Core) (n : Nat) (b : Bank) : (setBank k n b).swapAt = k.swapAt := by simp only [setBank]; split <;> rfl
@[simp] theorem setBank_stageAt (k : Core) (n : Nat) (b : Bank) : (setBank k n b).stageAt = k.stageAt := by simp only [setBank]; split <;> rfl
@[simp] theorem setBank_spillAt (k : Core) (n : Nat) (b : Bank) : (setBank k n b).spillAt = k.spillAt := by simp only [setBank]; split <;> rfl
@[simp] theorem setBank_fgStart (k : Core) (n : Nat) (b : Bank) : (setBank k n b).fgStart = k.fgStart := by simp only [setBank]; split <;> rfl
@[simp] theorem setBank_swapWant (k : Core) (n : Nat) (b : Bank) : (setBank k n b).swapWant = k.swapWant := by simp only [setBank]; split <;> rfl
@[simp] theorem setBank_halted (k : Core) (n : Nat) (b : Bank) : (setBank k n b).halted = k.halted := by simp only [setBank]; split <;> rfl
@[simp] theorem setBank_amStopped (k : Core) (n : Nat) (b : Bank) : (setBank k n b).amStopped = k.amStopped := by simp only [setBank]; split <;> rfl
@[simp] theorem setBank_savedE (k : Core) (n : Nat) (b : Bank) : (setBank k n b).savedE = k.savedE := by simp only [setBank]; split <;> rfl
@[simp] theorem setBank_frozen (k : Core) (n : Nat) (b : Bank) : (setBank k n b).frozen = k.frozen := by simp only [setBank]; split <;> rfl
@[simp] theorem setBank_lag (k : Core) (n : Nat) (b : Bank) : (setBank k n b).lag = k.lag := by simp only [setBank]; split <;> rfl
@[simp] theorem setBank_fgAt (k : Core) (n : Nat) (b : Bank) : (setBank k n b).fgAt = k.fgAt := by simp only [setBank]; split <;> rfl
@[simp] theorem setBank_turn (k : Core) (n : Nat) (b : Bank) : (setBank k n b).turn = k.turn := by simp only [setBank]; split <;> rfl
@[simp] theorem setBank_bars (k : Core) (n : Nat) (b : Bank) : (setBank k n b).bars = k.bars := by simp only [setBank]; split <;> rfl
@[simp] theorem setBank_slots (k : Core) (n : Nat) (b : Bank) : (setBank k n b).slots = k.slots := by simp only [setBank]; split <;> rfl
@[simp] theorem setBank_copySeq (k : Core) (n : Nat) (b : Bank) : (setBank k n b).copySeq = k.copySeq := by simp only [setBank]; split <;> rfl
@[simp] theorem setBank_latches (k : Core) (n : Nat) (b : Bank) : (setBank k n b).latches = k.latches := by simp only [setBank]; split <;> rfl
@[simp] theorem setBank_fences (k : Core) (n : Nat) (b : Bank) : (setBank k n b).fences = k.fences := by simp only [setBank]; split <;> rfl
@[simp] theorem setBank_reels (k : Core) (n : Nat) (b : Bank) : (setBank k n b).reels = k.reels := by simp only [setBank]; split <;> rfl
@[simp] theorem setBank_ro (k : Core) (n : Nat) (b : Bank) : (setBank k n b).ro = k.ro := by simp only [setBank]; split <;> rfl
@[simp] theorem setBank_tlb (k : Core) (n : Nat) (b : Bank) : (setBank k n b).tlb = k.tlb := by simp only [setBank]; split <;> rfl
@[simp] theorem setBank_scrKey (k : Core) (n : Nat) (b : Bank) : (setBank k n b).scrKey = k.scrKey := by simp only [setBank]; split <;> rfl
@[simp] theorem setBank_held (k : Core) (n : Nat) (b : Bank) : (setBank k n b).held = k.held := by simp only [setBank]; split <;> rfl
@[simp] theorem setStrand_task (b : Bank) (st : Strand) (x : StrandSt) : (setStrand b st x).task = b.task := by cases st <;> rfl
@[simp] theorem setStrand_root (b : Bank) (st : Strand) (x : StrandSt) : (setStrand b st x).root = b.root := by cases st <;> rfl
@[simp] theorem setStrand_key (b : Bank) (st : Strand) (x : StrandSt) : (setStrand b st x).key = b.key := by cases st <;> rfl
@[simp] theorem setStrand_x (b : Bank) (st : Strand) (x : StrandSt) : (setStrand b st x).x = b.x := by cases st <;> rfl
@[simp] theorem setStrand_s (b : Bank) (st : Strand) (x : StrandSt) : (setStrand b st x).s = b.s := by cases st <;> rfl
@[simp] theorem setStrand_i (b : Bank) (st : Strand) (x : StrandSt) : (setStrand b st x).i = b.i := by cases st <;> rfl
@[simp] theorem setStrand_v (b : Bank) (st : Strand) (x : StrandSt) : (setStrand b st x).v = b.v := by cases st <;> rfl
@[simp] theorem setStrand_k (b : Bank) (st : Strand) (x : StrandSt) : (setStrand b st x).k = b.k := by cases st <;> rfl
@[simp] theorem setStrand_q (b : Bank) (st : Strand) (x : StrandSt) : (setStrand b st x).q = b.q := by cases st <;> rfl
@[simp] theorem setStrand_sq (b : Bank) (st : Strand) (x : StrandSt) : (setStrand b st x).sq = b.sq := by cases st <;> rfl
@[simp] theorem setStrand_trap (b : Bank) (st : Strand) (x : StrandSt) : (setStrand b st x).trap = b.trap := by cases st <;> rfl
@[simp] theorem setStrand_tretIssued (b : Bank) (st : Strand) (x : StrandSt) : (setStrand b st x).tretIssued = b.tretIssued := by cases st <;> rfl
@[simp] theorem setStrand_wid (b : Bank) (st : Strand) (x : StrandSt) : (setStrand b st x).wid = b.wid := by cases st <;> rfl
@[simp] theorem setStrand_widfmt (b : Bank) (st : Strand) (x : StrandSt) : (setStrand b st x).widfmt = b.widfmt := by cases st <;> rfl
@[simp] theorem setStrand_taskid (b : Bank) (st : Strand) (x : StrandSt) : (setStrand b st x).taskid = b.taskid := by cases st <;> rfl
@[simp] theorem setStrand_opid (b : Bank) (st : Strand) (x : StrandSt) : (setStrand b st x).opid = b.opid := by cases st <;> rfl
@[simp] theorem setStrand_vrb (b : Bank) (st : Strand) (x : StrandSt) : (setStrand b st x).vrb = b.vrb := by cases st <;> rfl
@[simp] theorem setStrand_krb (b : Bank) (st : Strand) (x : StrandSt) : (setStrand b st x).krb = b.krb := by cases st <;> rfl
@[simp] theorem setStrand_fd0 (b : Bank) (st : Strand) (x : StrandSt) : (setStrand b st x).fd0 = b.fd0 := by cases st <;> rfl
@[simp] theorem setStrand_fd1 (b : Bank) (st : Strand) (x : StrandSt) : (setStrand b st x).fd1 = b.fd1 := by cases st <;> rfl
@[simp] theorem setStrand_fd2 (b : Bank) (st : Strand) (x : StrandSt) : (setStrand b st x).fd2 = b.fd2 := by cases st <;> rfl
@[simp] theorem setStrand_fd3 (b : Bank) (st : Strand) (x : StrandSt) : (setStrand b st x).fd3 = b.fd3 := by cases st <;> rfl
@[simp] theorem setStrand_fpctl (b : Bank) (st : Strand) (x : StrandSt) : (setStrand b st x).fpctl = b.fpctl := by cases st <;> rfl
@[simp] theorem setStrand_fpflags (b : Bank) (st : Strand) (x : StrandSt) : (setStrand b st x).fpflags = b.fpflags := by cases st <;> rfl
@[simp] theorem setStrand_parkav (b : Bank) (st : Strand) (x : StrandSt) : (setStrand b st x).parkav = b.parkav := by cases st <;> rfl
@[simp] theorem setStrand_accmap (b : Bank) (st : Strand) (x : StrandSt) : (setStrand b st x).accmap = b.accmap := by cases st <;> rfl
@[simp] theorem setStrand_bbase (b : Bank) (st : Strand) (x : StrandSt) : (setStrand b st x).bbase = b.bbase := by cases st <;> rfl
@[simp] theorem setStrand_bcnt (b : Bank) (st : Strand) (x : StrandSt) : (setStrand b st x).bcnt = b.bcnt := by cases st <;> rfl
@[simp] theorem setStrand_scrbase (b : Bank) (st : Strand) (x : StrandSt) : (setStrand b st x).scrbase = b.scrbase := by cases st <;> rfl
@[simp] theorem setStrand_scrsize (b : Bank) (st : Strand) (x : StrandSt) : (setStrand b st x).scrsize = b.scrsize := by cases st <;> rfl
@[simp] theorem setStrand_tdtbase (b : Bank) (st : Strand) (x : StrandSt) : (setStrand b st x).tdtbase = b.tdtbase := by cases st <;> rfl
@[simp] theorem setStrand_enest (b : Bank) (st : Strand) (x : StrandSt) : (setStrand b st x).enest = b.enest := by cases st <;> rfl
@[simp] theorem setStrand_mconf (b : Bank) (st : Strand) (x : StrandSt) : (setStrand b st x).mconf = b.mconf := by cases st <;> rfl
@[simp] theorem setStrand_mwait (b : Bank) (st : Strand) (x : StrandSt) : (setStrand b st x).mwait = b.mwait := by cases st <;> rfl
@[simp] theorem setStrand_mldws (b : Bank) (st : Strand) (x : StrandSt) : (setStrand b st x).mldws = b.mldws := by cases st <;> rfl
@[simp] theorem setStrand_mldwPosted (b : Bank) (st : Strand) (x : StrandSt) : (setStrand b st x).mldwPosted = b.mldwPosted := by cases st <;> rfl
@[simp] theorem setStrand_yielded (b : Bank) (st : Strand) (x : StrandSt) : (setStrand b st x).yielded = b.yielded := by cases st <;> rfl
@[simp] theorem setStrand_cut (b : Bank) (st : Strand) (x : StrandSt) : (setStrand b st x).cut = b.cut := by cases st <;> rfl
@[simp] theorem setStrand_saved (b : Bank) (st : Strand) (x : StrandSt) : (setStrand b st x).saved = b.saved := by cases st <;> rfl
@[simp] theorem setStrand_cursor (b : Bank) (st : Strand) (x : StrandSt) : (setStrand b st x).cursor = b.cursor := by cases st <;> rfl
@[simp] theorem setStrand_csrOld (b : Bank) (st : Strand) (x : StrandSt) : (setStrand b st x).csrOld = b.csrOld := by cases st <;> rfl
@[simp] theorem setStrand_fpNew (b : Bank) (st : Strand) (x : StrandSt) : (setStrand b st x).fpNew = b.fpNew := by cases st <;> rfl

@[simp] theorem fgBank_setBank (k : Core) (b : Bank) : fgBank (setBank k k.fg b) = b := by simp [fgBank]
@[simp] theorem curBank_modBank (s : State) (f : Bank → Bank) : curBank (modBank s f) = f (curBank s) := by
  show fgBank (coreOf (updCore s s.curCore _) s.curCore) = _
  simp [curFg, curBank, fgBank]
@[simp] theorem curStrand_modStrand (s : State) (f : StrandSt → StrandSt) : curStrand (modStrand s f) = f (curStrand s) := by
  show strandSel (fgBank (coreOf (updCore s s.curCore _) s.curCore)) s.curSt = _
  simp [curFg, curBank, curStrand, fgBank]

/-! ## Fields of the state after each update -/

@[simp] theorem updCore_agenda (s : State) (c : Nat) (f : Core → Core) : (updCore s c f).agenda = s.agenda := rfl
@[simp] theorem updCore_fresh (s : State) (c : Nat) (f : Core → Core) : (updCore s c f).fresh = s.fresh := rfl
@[simp] theorem updCore_curCore (s : State) (c : Nat) (f : Core → Core) : (updCore s c f).curCore = s.curCore := rfl
@[simp] theorem updCore_curSt (s : State) (c : Nat) (f : Core → Core) : (updCore s c f).curSt = s.curSt := rfl
@[simp] theorem updCore_cycle (s : State) (c : Nat) (f : Core → Core) : (updCore s c f).cycle = s.cycle := rfl
@[simp] theorem updCore_mem (s : State) (c : Nat) (f : Core → Core) : (updCore s c f).mem = s.mem := rfl
@[simp] theorem updCore_clusters (s : State) (c : Nat) (f : Core → Core) : (updCore s c f).clusters = s.clusters := rfl
@[simp] theorem updCore_dies (s : State) (c : Nat) (f : Core → Core) : (updCore s c f).dies = s.dies := rfl
@[simp] theorem updCore_tasks (s : State) (c : Nat) (f : Core → Core) : (updCore s c f).tasks = s.tasks := rfl
@[simp] theorem updCore_nextTask (s : State) (c : Nat) (f : Core → Core) : (updCore s c f).nextTask = s.nextTask := rfl
@[simp] theorem updCore_launches (s : State) (c : Nat) (f : Core → Core) : (updCore s c f).launches = s.launches := rfl
@[simp] theorem updCore_nextLaunch (s : State) (c : Nat) (f : Core → Core) : (updCore s c f).nextLaunch = s.nextLaunch := rfl
@[simp] theorem updCore_methods (s : State) (c : Nat) (f : Core → Core) : (updCore s c f).methods = s.methods := rfl
@[simp] theorem updCore_queues (s : State) (c : Nat) (f : Core → Core) : (updCore s c f).queues = s.queues := rfl
@[simp] theorem updCore_pool (s : State) (c : Nat) (f : Core → Core) : (updCore s c f).pool = s.pool := rfl
@[simp] theorem updCore_hostLines (s : State) (c : Nat) (f : Core → Core) : (updCore s c f).hostLines = s.hostLines := rfl
@[simp] theorem updCore_hostDirty (s : State) (c : Nat) (f : Core → Core) : (updCore s c f).hostDirty = s.hostDirty := rfl
@[simp] theorem updCore_hwSet (s : State) (c : Nat) (f : Core → Core) : (updCore s c f).hwSet = s.hwSet := rfl
@[simp] theorem updCore_captured (s : State) (c : Nat) (f : Core → Core) : (updCore s c f).captured = s.captured := rfl
@[simp] theorem updCore_strong (s : State) (c : Nat) (f : Core → Core) : (updCore s c f).strong = s.strong := rfl
@[simp] theorem updCore_barChg (s : State) (c : Nat) (f : Core → Core) : (updCore s c f).barChg = s.barChg := rfl
@[simp] theorem updCore_barLate (s : State) (c : Nat) (f : Core → Core) : (updCore s c f).barLate = s.barLate := rfl
@[simp] theorem updCore_barRead (s : State) (c : Nat) (f : Core → Core) : (updCore s c f).barRead = s.barRead := rfl
@[simp] theorem updCore_winOld (s : State) (c : Nat) (f : Core → Core) : (updCore s c f).winOld = s.winOld := rfl
@[simp] theorem updCore_codeOf (s : State) (c : Nat) (f : Core → Core) : (updCore s c f).codeOf = s.codeOf := rfl
@[simp] theorem updCore_codeOld (s : State) (c : Nat) (f : Core → Core) : (updCore s c f).codeOld = s.codeOld := rfl
@[simp] theorem updCore_todo (s : State) (c : Nat) (f : Core → Core) : (updCore s c f).todo = s.todo := rfl
@[simp] theorem updCore_mgmt (s : State) (c : Nat) (f : Core → Core) : (updCore s c f).mgmt = s.mgmt := rfl
@[simp] theorem updCluster_agenda (s : State) (c : Nat) (f : Cluster → Cluster) : (updCluster s c f).agenda = s.agenda := rfl
@[simp] theorem updCluster_fresh (s : State) (c : Nat) (f : Cluster → Cluster) : (updCluster s c f).fresh = s.fresh := rfl
@[simp] theorem updCluster_curCore (s : State) (c : Nat) (f : Cluster → Cluster) : (updCluster s c f).curCore = s.curCore := rfl
@[simp] theorem updCluster_curSt (s : State) (c : Nat) (f : Cluster → Cluster) : (updCluster s c f).curSt = s.curSt := rfl
@[simp] theorem updCluster_cycle (s : State) (c : Nat) (f : Cluster → Cluster) : (updCluster s c f).cycle = s.cycle := rfl
@[simp] theorem updCluster_mem (s : State) (c : Nat) (f : Cluster → Cluster) : (updCluster s c f).mem = s.mem := rfl
@[simp] theorem updCluster_cores (s : State) (c : Nat) (f : Cluster → Cluster) : (updCluster s c f).cores = s.cores := rfl
@[simp] theorem updCluster_dies (s : State) (c : Nat) (f : Cluster → Cluster) : (updCluster s c f).dies = s.dies := rfl
@[simp] theorem updCluster_tasks (s : State) (c : Nat) (f : Cluster → Cluster) : (updCluster s c f).tasks = s.tasks := rfl
@[simp] theorem updCluster_nextTask (s : State) (c : Nat) (f : Cluster → Cluster) : (updCluster s c f).nextTask = s.nextTask := rfl
@[simp] theorem updCluster_launches (s : State) (c : Nat) (f : Cluster → Cluster) : (updCluster s c f).launches = s.launches := rfl
@[simp] theorem updCluster_nextLaunch (s : State) (c : Nat) (f : Cluster → Cluster) : (updCluster s c f).nextLaunch = s.nextLaunch := rfl
@[simp] theorem updCluster_methods (s : State) (c : Nat) (f : Cluster → Cluster) : (updCluster s c f).methods = s.methods := rfl
@[simp] theorem updCluster_queues (s : State) (c : Nat) (f : Cluster → Cluster) : (updCluster s c f).queues = s.queues := rfl
@[simp] theorem updCluster_pool (s : State) (c : Nat) (f : Cluster → Cluster) : (updCluster s c f).pool = s.pool := rfl
@[simp] theorem updCluster_hostLines (s : State) (c : Nat) (f : Cluster → Cluster) : (updCluster s c f).hostLines = s.hostLines := rfl
@[simp] theorem updCluster_hostDirty (s : State) (c : Nat) (f : Cluster → Cluster) : (updCluster s c f).hostDirty = s.hostDirty := rfl
@[simp] theorem updCluster_hwSet (s : State) (c : Nat) (f : Cluster → Cluster) : (updCluster s c f).hwSet = s.hwSet := rfl
@[simp] theorem updCluster_captured (s : State) (c : Nat) (f : Cluster → Cluster) : (updCluster s c f).captured = s.captured := rfl
@[simp] theorem updCluster_strong (s : State) (c : Nat) (f : Cluster → Cluster) : (updCluster s c f).strong = s.strong := rfl
@[simp] theorem updCluster_barChg (s : State) (c : Nat) (f : Cluster → Cluster) : (updCluster s c f).barChg = s.barChg := rfl
@[simp] theorem updCluster_barLate (s : State) (c : Nat) (f : Cluster → Cluster) : (updCluster s c f).barLate = s.barLate := rfl
@[simp] theorem updCluster_barRead (s : State) (c : Nat) (f : Cluster → Cluster) : (updCluster s c f).barRead = s.barRead := rfl
@[simp] theorem updCluster_winOld (s : State) (c : Nat) (f : Cluster → Cluster) : (updCluster s c f).winOld = s.winOld := rfl
@[simp] theorem updCluster_codeOf (s : State) (c : Nat) (f : Cluster → Cluster) : (updCluster s c f).codeOf = s.codeOf := rfl
@[simp] theorem updCluster_codeOld (s : State) (c : Nat) (f : Cluster → Cluster) : (updCluster s c f).codeOld = s.codeOld := rfl
@[simp] theorem updCluster_todo (s : State) (c : Nat) (f : Cluster → Cluster) : (updCluster s c f).todo = s.todo := rfl
@[simp] theorem updCluster_mgmt (s : State) (c : Nat) (f : Cluster → Cluster) : (updCluster s c f).mgmt = s.mgmt := rfl
@[simp] theorem updDie_agenda (s : State) (c : Nat) (f : Die → Die) : (updDie s c f).agenda = s.agenda := rfl
@[simp] theorem updDie_fresh (s : State) (c : Nat) (f : Die → Die) : (updDie s c f).fresh = s.fresh := rfl
@[simp] theorem updDie_curCore (s : State) (c : Nat) (f : Die → Die) : (updDie s c f).curCore = s.curCore := rfl
@[simp] theorem updDie_curSt (s : State) (c : Nat) (f : Die → Die) : (updDie s c f).curSt = s.curSt := rfl
@[simp] theorem updDie_cycle (s : State) (c : Nat) (f : Die → Die) : (updDie s c f).cycle = s.cycle := rfl
@[simp] theorem updDie_mem (s : State) (c : Nat) (f : Die → Die) : (updDie s c f).mem = s.mem := rfl
@[simp] theorem updDie_cores (s : State) (c : Nat) (f : Die → Die) : (updDie s c f).cores = s.cores := rfl
@[simp] theorem updDie_clusters (s : State) (c : Nat) (f : Die → Die) : (updDie s c f).clusters = s.clusters := rfl
@[simp] theorem updDie_tasks (s : State) (c : Nat) (f : Die → Die) : (updDie s c f).tasks = s.tasks := rfl
@[simp] theorem updDie_nextTask (s : State) (c : Nat) (f : Die → Die) : (updDie s c f).nextTask = s.nextTask := rfl
@[simp] theorem updDie_launches (s : State) (c : Nat) (f : Die → Die) : (updDie s c f).launches = s.launches := rfl
@[simp] theorem updDie_nextLaunch (s : State) (c : Nat) (f : Die → Die) : (updDie s c f).nextLaunch = s.nextLaunch := rfl
@[simp] theorem updDie_methods (s : State) (c : Nat) (f : Die → Die) : (updDie s c f).methods = s.methods := rfl
@[simp] theorem updDie_queues (s : State) (c : Nat) (f : Die → Die) : (updDie s c f).queues = s.queues := rfl
@[simp] theorem updDie_pool (s : State) (c : Nat) (f : Die → Die) : (updDie s c f).pool = s.pool := rfl
@[simp] theorem updDie_hostLines (s : State) (c : Nat) (f : Die → Die) : (updDie s c f).hostLines = s.hostLines := rfl
@[simp] theorem updDie_hostDirty (s : State) (c : Nat) (f : Die → Die) : (updDie s c f).hostDirty = s.hostDirty := rfl
@[simp] theorem updDie_hwSet (s : State) (c : Nat) (f : Die → Die) : (updDie s c f).hwSet = s.hwSet := rfl
@[simp] theorem updDie_captured (s : State) (c : Nat) (f : Die → Die) : (updDie s c f).captured = s.captured := rfl
@[simp] theorem updDie_strong (s : State) (c : Nat) (f : Die → Die) : (updDie s c f).strong = s.strong := rfl
@[simp] theorem updDie_barChg (s : State) (c : Nat) (f : Die → Die) : (updDie s c f).barChg = s.barChg := rfl
@[simp] theorem updDie_barLate (s : State) (c : Nat) (f : Die → Die) : (updDie s c f).barLate = s.barLate := rfl
@[simp] theorem updDie_barRead (s : State) (c : Nat) (f : Die → Die) : (updDie s c f).barRead = s.barRead := rfl
@[simp] theorem updDie_winOld (s : State) (c : Nat) (f : Die → Die) : (updDie s c f).winOld = s.winOld := rfl
@[simp] theorem updDie_codeOf (s : State) (c : Nat) (f : Die → Die) : (updDie s c f).codeOf = s.codeOf := rfl
@[simp] theorem updDie_codeOld (s : State) (c : Nat) (f : Die → Die) : (updDie s c f).codeOld = s.codeOld := rfl
@[simp] theorem updDie_todo (s : State) (c : Nat) (f : Die → Die) : (updDie s c f).todo = s.todo := rfl
@[simp] theorem updDie_mgmt (s : State) (c : Nat) (f : Die → Die) : (updDie s c f).mgmt = s.mgmt := rfl
@[simp] theorem updBank_agenda (s : State) (c n : Nat) (f : Bank → Bank) : (updBank s c n f).agenda = s.agenda := rfl
@[simp] theorem updBank_fresh (s : State) (c n : Nat) (f : Bank → Bank) : (updBank s c n f).fresh = s.fresh := rfl
@[simp] theorem updBank_curCore (s : State) (c n : Nat) (f : Bank → Bank) : (updBank s c n f).curCore = s.curCore := rfl
@[simp] theorem updBank_curSt (s : State) (c n : Nat) (f : Bank → Bank) : (updBank s c n f).curSt = s.curSt := rfl
@[simp] theorem updBank_cycle (s : State) (c n : Nat) (f : Bank → Bank) : (updBank s c n f).cycle = s.cycle := rfl
@[simp] theorem updBank_mem (s : State) (c n : Nat) (f : Bank → Bank) : (updBank s c n f).mem = s.mem := rfl
@[simp] theorem updBank_clusters (s : State) (c n : Nat) (f : Bank → Bank) : (updBank s c n f).clusters = s.clusters := rfl
@[simp] theorem updBank_dies (s : State) (c n : Nat) (f : Bank → Bank) : (updBank s c n f).dies = s.dies := rfl
@[simp] theorem updBank_tasks (s : State) (c n : Nat) (f : Bank → Bank) : (updBank s c n f).tasks = s.tasks := rfl
@[simp] theorem updBank_nextTask (s : State) (c n : Nat) (f : Bank → Bank) : (updBank s c n f).nextTask = s.nextTask := rfl
@[simp] theorem updBank_launches (s : State) (c n : Nat) (f : Bank → Bank) : (updBank s c n f).launches = s.launches := rfl
@[simp] theorem updBank_nextLaunch (s : State) (c n : Nat) (f : Bank → Bank) : (updBank s c n f).nextLaunch = s.nextLaunch := rfl
@[simp] theorem updBank_methods (s : State) (c n : Nat) (f : Bank → Bank) : (updBank s c n f).methods = s.methods := rfl
@[simp] theorem updBank_queues (s : State) (c n : Nat) (f : Bank → Bank) : (updBank s c n f).queues = s.queues := rfl
@[simp] theorem updBank_pool (s : State) (c n : Nat) (f : Bank → Bank) : (updBank s c n f).pool = s.pool := rfl
@[simp] theorem updBank_hostLines (s : State) (c n : Nat) (f : Bank → Bank) : (updBank s c n f).hostLines = s.hostLines := rfl
@[simp] theorem updBank_hostDirty (s : State) (c n : Nat) (f : Bank → Bank) : (updBank s c n f).hostDirty = s.hostDirty := rfl
@[simp] theorem updBank_hwSet (s : State) (c n : Nat) (f : Bank → Bank) : (updBank s c n f).hwSet = s.hwSet := rfl
@[simp] theorem updBank_captured (s : State) (c n : Nat) (f : Bank → Bank) : (updBank s c n f).captured = s.captured := rfl
@[simp] theorem updBank_strong (s : State) (c n : Nat) (f : Bank → Bank) : (updBank s c n f).strong = s.strong := rfl
@[simp] theorem updBank_barChg (s : State) (c n : Nat) (f : Bank → Bank) : (updBank s c n f).barChg = s.barChg := rfl
@[simp] theorem updBank_barLate (s : State) (c n : Nat) (f : Bank → Bank) : (updBank s c n f).barLate = s.barLate := rfl
@[simp] theorem updBank_barRead (s : State) (c n : Nat) (f : Bank → Bank) : (updBank s c n f).barRead = s.barRead := rfl
@[simp] theorem updBank_winOld (s : State) (c n : Nat) (f : Bank → Bank) : (updBank s c n f).winOld = s.winOld := rfl
@[simp] theorem updBank_codeOf (s : State) (c n : Nat) (f : Bank → Bank) : (updBank s c n f).codeOf = s.codeOf := rfl
@[simp] theorem updBank_codeOld (s : State) (c n : Nat) (f : Bank → Bank) : (updBank s c n f).codeOld = s.codeOld := rfl
@[simp] theorem updBank_todo (s : State) (c n : Nat) (f : Bank → Bank) : (updBank s c n f).todo = s.todo := rfl
@[simp] theorem updBank_mgmt (s : State) (c n : Nat) (f : Bank → Bank) : (updBank s c n f).mgmt = s.mgmt := rfl
@[simp] theorem updStrand_agenda (s : State) (c n : Nat) (st : Strand) (f : StrandSt → StrandSt) : (updStrand s c n st f).agenda = s.agenda := rfl
@[simp] theorem updStrand_fresh (s : State) (c n : Nat) (st : Strand) (f : StrandSt → StrandSt) : (updStrand s c n st f).fresh = s.fresh := rfl
@[simp] theorem updStrand_curCore (s : State) (c n : Nat) (st : Strand) (f : StrandSt → StrandSt) : (updStrand s c n st f).curCore = s.curCore := rfl
@[simp] theorem updStrand_curSt (s : State) (c n : Nat) (st : Strand) (f : StrandSt → StrandSt) : (updStrand s c n st f).curSt = s.curSt := rfl
@[simp] theorem updStrand_cycle (s : State) (c n : Nat) (st : Strand) (f : StrandSt → StrandSt) : (updStrand s c n st f).cycle = s.cycle := rfl
@[simp] theorem updStrand_mem (s : State) (c n : Nat) (st : Strand) (f : StrandSt → StrandSt) : (updStrand s c n st f).mem = s.mem := rfl
@[simp] theorem updStrand_clusters (s : State) (c n : Nat) (st : Strand) (f : StrandSt → StrandSt) : (updStrand s c n st f).clusters = s.clusters := rfl
@[simp] theorem updStrand_dies (s : State) (c n : Nat) (st : Strand) (f : StrandSt → StrandSt) : (updStrand s c n st f).dies = s.dies := rfl
@[simp] theorem updStrand_tasks (s : State) (c n : Nat) (st : Strand) (f : StrandSt → StrandSt) : (updStrand s c n st f).tasks = s.tasks := rfl
@[simp] theorem updStrand_nextTask (s : State) (c n : Nat) (st : Strand) (f : StrandSt → StrandSt) : (updStrand s c n st f).nextTask = s.nextTask := rfl
@[simp] theorem updStrand_launches (s : State) (c n : Nat) (st : Strand) (f : StrandSt → StrandSt) : (updStrand s c n st f).launches = s.launches := rfl
@[simp] theorem updStrand_nextLaunch (s : State) (c n : Nat) (st : Strand) (f : StrandSt → StrandSt) : (updStrand s c n st f).nextLaunch = s.nextLaunch := rfl
@[simp] theorem updStrand_methods (s : State) (c n : Nat) (st : Strand) (f : StrandSt → StrandSt) : (updStrand s c n st f).methods = s.methods := rfl
@[simp] theorem updStrand_queues (s : State) (c n : Nat) (st : Strand) (f : StrandSt → StrandSt) : (updStrand s c n st f).queues = s.queues := rfl
@[simp] theorem updStrand_pool (s : State) (c n : Nat) (st : Strand) (f : StrandSt → StrandSt) : (updStrand s c n st f).pool = s.pool := rfl
@[simp] theorem updStrand_hostLines (s : State) (c n : Nat) (st : Strand) (f : StrandSt → StrandSt) : (updStrand s c n st f).hostLines = s.hostLines := rfl
@[simp] theorem updStrand_hostDirty (s : State) (c n : Nat) (st : Strand) (f : StrandSt → StrandSt) : (updStrand s c n st f).hostDirty = s.hostDirty := rfl
@[simp] theorem updStrand_hwSet (s : State) (c n : Nat) (st : Strand) (f : StrandSt → StrandSt) : (updStrand s c n st f).hwSet = s.hwSet := rfl
@[simp] theorem updStrand_captured (s : State) (c n : Nat) (st : Strand) (f : StrandSt → StrandSt) : (updStrand s c n st f).captured = s.captured := rfl
@[simp] theorem updStrand_strong (s : State) (c n : Nat) (st : Strand) (f : StrandSt → StrandSt) : (updStrand s c n st f).strong = s.strong := rfl
@[simp] theorem updStrand_barChg (s : State) (c n : Nat) (st : Strand) (f : StrandSt → StrandSt) : (updStrand s c n st f).barChg = s.barChg := rfl
@[simp] theorem updStrand_barLate (s : State) (c n : Nat) (st : Strand) (f : StrandSt → StrandSt) : (updStrand s c n st f).barLate = s.barLate := rfl
@[simp] theorem updStrand_barRead (s : State) (c n : Nat) (st : Strand) (f : StrandSt → StrandSt) : (updStrand s c n st f).barRead = s.barRead := rfl
@[simp] theorem updStrand_winOld (s : State) (c n : Nat) (st : Strand) (f : StrandSt → StrandSt) : (updStrand s c n st f).winOld = s.winOld := rfl
@[simp] theorem updStrand_codeOf (s : State) (c n : Nat) (st : Strand) (f : StrandSt → StrandSt) : (updStrand s c n st f).codeOf = s.codeOf := rfl
@[simp] theorem updStrand_codeOld (s : State) (c n : Nat) (st : Strand) (f : StrandSt → StrandSt) : (updStrand s c n st f).codeOld = s.codeOld := rfl
@[simp] theorem updStrand_todo (s : State) (c n : Nat) (st : Strand) (f : StrandSt → StrandSt) : (updStrand s c n st f).todo = s.todo := rfl
@[simp] theorem updStrand_mgmt (s : State) (c n : Nat) (st : Strand) (f : StrandSt → StrandSt) : (updStrand s c n st f).mgmt = s.mgmt := rfl
@[simp] theorem modBank_agenda (s : State) (f : Bank → Bank) : (modBank s f).agenda = s.agenda := rfl
@[simp] theorem modBank_fresh (s : State) (f : Bank → Bank) : (modBank s f).fresh = s.fresh := rfl
@[simp] theorem modBank_curCore (s : State) (f : Bank → Bank) : (modBank s f).curCore = s.curCore := rfl
@[simp] theorem modBank_curSt (s : State) (f : Bank → Bank) : (modBank s f).curSt = s.curSt := rfl
@[simp] theorem modBank_cycle (s : State) (f : Bank → Bank) : (modBank s f).cycle = s.cycle := rfl
@[simp] theorem modBank_mem (s : State) (f : Bank → Bank) : (modBank s f).mem = s.mem := rfl
@[simp] theorem modBank_clusters (s : State) (f : Bank → Bank) : (modBank s f).clusters = s.clusters := rfl
@[simp] theorem modBank_dies (s : State) (f : Bank → Bank) : (modBank s f).dies = s.dies := rfl
@[simp] theorem modBank_tasks (s : State) (f : Bank → Bank) : (modBank s f).tasks = s.tasks := rfl
@[simp] theorem modBank_nextTask (s : State) (f : Bank → Bank) : (modBank s f).nextTask = s.nextTask := rfl
@[simp] theorem modBank_launches (s : State) (f : Bank → Bank) : (modBank s f).launches = s.launches := rfl
@[simp] theorem modBank_nextLaunch (s : State) (f : Bank → Bank) : (modBank s f).nextLaunch = s.nextLaunch := rfl
@[simp] theorem modBank_methods (s : State) (f : Bank → Bank) : (modBank s f).methods = s.methods := rfl
@[simp] theorem modBank_queues (s : State) (f : Bank → Bank) : (modBank s f).queues = s.queues := rfl
@[simp] theorem modBank_pool (s : State) (f : Bank → Bank) : (modBank s f).pool = s.pool := rfl
@[simp] theorem modBank_hostLines (s : State) (f : Bank → Bank) : (modBank s f).hostLines = s.hostLines := rfl
@[simp] theorem modBank_hostDirty (s : State) (f : Bank → Bank) : (modBank s f).hostDirty = s.hostDirty := rfl
@[simp] theorem modBank_hwSet (s : State) (f : Bank → Bank) : (modBank s f).hwSet = s.hwSet := rfl
@[simp] theorem modBank_captured (s : State) (f : Bank → Bank) : (modBank s f).captured = s.captured := rfl
@[simp] theorem modBank_strong (s : State) (f : Bank → Bank) : (modBank s f).strong = s.strong := rfl
@[simp] theorem modBank_barChg (s : State) (f : Bank → Bank) : (modBank s f).barChg = s.barChg := rfl
@[simp] theorem modBank_barLate (s : State) (f : Bank → Bank) : (modBank s f).barLate = s.barLate := rfl
@[simp] theorem modBank_barRead (s : State) (f : Bank → Bank) : (modBank s f).barRead = s.barRead := rfl
@[simp] theorem modBank_winOld (s : State) (f : Bank → Bank) : (modBank s f).winOld = s.winOld := rfl
@[simp] theorem modBank_codeOf (s : State) (f : Bank → Bank) : (modBank s f).codeOf = s.codeOf := rfl
@[simp] theorem modBank_codeOld (s : State) (f : Bank → Bank) : (modBank s f).codeOld = s.codeOld := rfl
@[simp] theorem modBank_todo (s : State) (f : Bank → Bank) : (modBank s f).todo = s.todo := rfl
@[simp] theorem modBank_mgmt (s : State) (f : Bank → Bank) : (modBank s f).mgmt = s.mgmt := rfl
@[simp] theorem modStrand_agenda (s : State) (f : StrandSt → StrandSt) : (modStrand s f).agenda = s.agenda := rfl
@[simp] theorem modStrand_fresh (s : State) (f : StrandSt → StrandSt) : (modStrand s f).fresh = s.fresh := rfl
@[simp] theorem modStrand_curCore (s : State) (f : StrandSt → StrandSt) : (modStrand s f).curCore = s.curCore := rfl
@[simp] theorem modStrand_curSt (s : State) (f : StrandSt → StrandSt) : (modStrand s f).curSt = s.curSt := rfl
@[simp] theorem modStrand_cycle (s : State) (f : StrandSt → StrandSt) : (modStrand s f).cycle = s.cycle := rfl
@[simp] theorem modStrand_mem (s : State) (f : StrandSt → StrandSt) : (modStrand s f).mem = s.mem := rfl
@[simp] theorem modStrand_clusters (s : State) (f : StrandSt → StrandSt) : (modStrand s f).clusters = s.clusters := rfl
@[simp] theorem modStrand_dies (s : State) (f : StrandSt → StrandSt) : (modStrand s f).dies = s.dies := rfl
@[simp] theorem modStrand_tasks (s : State) (f : StrandSt → StrandSt) : (modStrand s f).tasks = s.tasks := rfl
@[simp] theorem modStrand_nextTask (s : State) (f : StrandSt → StrandSt) : (modStrand s f).nextTask = s.nextTask := rfl
@[simp] theorem modStrand_launches (s : State) (f : StrandSt → StrandSt) : (modStrand s f).launches = s.launches := rfl
@[simp] theorem modStrand_nextLaunch (s : State) (f : StrandSt → StrandSt) : (modStrand s f).nextLaunch = s.nextLaunch := rfl
@[simp] theorem modStrand_methods (s : State) (f : StrandSt → StrandSt) : (modStrand s f).methods = s.methods := rfl
@[simp] theorem modStrand_queues (s : State) (f : StrandSt → StrandSt) : (modStrand s f).queues = s.queues := rfl
@[simp] theorem modStrand_pool (s : State) (f : StrandSt → StrandSt) : (modStrand s f).pool = s.pool := rfl
@[simp] theorem modStrand_hostLines (s : State) (f : StrandSt → StrandSt) : (modStrand s f).hostLines = s.hostLines := rfl
@[simp] theorem modStrand_hostDirty (s : State) (f : StrandSt → StrandSt) : (modStrand s f).hostDirty = s.hostDirty := rfl
@[simp] theorem modStrand_hwSet (s : State) (f : StrandSt → StrandSt) : (modStrand s f).hwSet = s.hwSet := rfl
@[simp] theorem modStrand_captured (s : State) (f : StrandSt → StrandSt) : (modStrand s f).captured = s.captured := rfl
@[simp] theorem modStrand_strong (s : State) (f : StrandSt → StrandSt) : (modStrand s f).strong = s.strong := rfl
@[simp] theorem modStrand_barChg (s : State) (f : StrandSt → StrandSt) : (modStrand s f).barChg = s.barChg := rfl
@[simp] theorem modStrand_barLate (s : State) (f : StrandSt → StrandSt) : (modStrand s f).barLate = s.barLate := rfl
@[simp] theorem modStrand_barRead (s : State) (f : StrandSt → StrandSt) : (modStrand s f).barRead = s.barRead := rfl
@[simp] theorem modStrand_winOld (s : State) (f : StrandSt → StrandSt) : (modStrand s f).winOld = s.winOld := rfl
@[simp] theorem modStrand_codeOf (s : State) (f : StrandSt → StrandSt) : (modStrand s f).codeOf = s.codeOf := rfl
@[simp] theorem modStrand_codeOld (s : State) (f : StrandSt → StrandSt) : (modStrand s f).codeOld = s.codeOld := rfl
@[simp] theorem modStrand_todo (s : State) (f : StrandSt → StrandSt) : (modStrand s f).todo = s.todo := rfl
@[simp] theorem modStrand_mgmt (s : State) (f : StrandSt → StrandSt) : (modStrand s f).mgmt = s.mgmt := rfl
@[simp] theorem useFresh_agenda (s : State) : (useFresh s).agenda = s.agenda := rfl
@[simp] theorem useFresh_curCore (s : State) : (useFresh s).curCore = s.curCore := rfl
@[simp] theorem useFresh_curSt (s : State) : (useFresh s).curSt = s.curSt := rfl
@[simp] theorem useFresh_cycle (s : State) : (useFresh s).cycle = s.cycle := rfl
@[simp] theorem useFresh_mem (s : State) : (useFresh s).mem = s.mem := rfl
@[simp] theorem useFresh_cores (s : State) : (useFresh s).cores = s.cores := rfl
@[simp] theorem useFresh_clusters (s : State) : (useFresh s).clusters = s.clusters := rfl
@[simp] theorem useFresh_dies (s : State) : (useFresh s).dies = s.dies := rfl
@[simp] theorem useFresh_tasks (s : State) : (useFresh s).tasks = s.tasks := rfl
@[simp] theorem useFresh_nextTask (s : State) : (useFresh s).nextTask = s.nextTask := rfl
@[simp] theorem useFresh_launches (s : State) : (useFresh s).launches = s.launches := rfl
@[simp] theorem useFresh_nextLaunch (s : State) : (useFresh s).nextLaunch = s.nextLaunch := rfl
@[simp] theorem useFresh_methods (s : State) : (useFresh s).methods = s.methods := rfl
@[simp] theorem useFresh_queues (s : State) : (useFresh s).queues = s.queues := rfl
@[simp] theorem useFresh_pool (s : State) : (useFresh s).pool = s.pool := rfl
@[simp] theorem useFresh_hostLines (s : State) : (useFresh s).hostLines = s.hostLines := rfl
@[simp] theorem useFresh_hostDirty (s : State) : (useFresh s).hostDirty = s.hostDirty := rfl
@[simp] theorem useFresh_hwSet (s : State) : (useFresh s).hwSet = s.hwSet := rfl
@[simp] theorem useFresh_captured (s : State) : (useFresh s).captured = s.captured := rfl
@[simp] theorem useFresh_strong (s : State) : (useFresh s).strong = s.strong := rfl
@[simp] theorem useFresh_barChg (s : State) : (useFresh s).barChg = s.barChg := rfl
@[simp] theorem useFresh_barLate (s : State) : (useFresh s).barLate = s.barLate := rfl
@[simp] theorem useFresh_barRead (s : State) : (useFresh s).barRead = s.barRead := rfl
@[simp] theorem useFresh_winOld (s : State) : (useFresh s).winOld = s.winOld := rfl
@[simp] theorem useFresh_codeOf (s : State) : (useFresh s).codeOf = s.codeOf := rfl
@[simp] theorem useFresh_codeOld (s : State) : (useFresh s).codeOld = s.codeOld := rfl
@[simp] theorem useFresh_todo (s : State) : (useFresh s).todo = s.todo := rfl
@[simp] theorem useFresh_mgmt (s : State) : (useFresh s).mgmt = s.mgmt := rfl
@[simp] theorem addTodo_agenda (s : State) (o v : Nat) : (addTodo s o v).agenda = s.agenda := rfl
@[simp] theorem addTodo_fresh (s : State) (o v : Nat) : (addTodo s o v).fresh = s.fresh := rfl
@[simp] theorem addTodo_curCore (s : State) (o v : Nat) : (addTodo s o v).curCore = s.curCore := rfl
@[simp] theorem addTodo_curSt (s : State) (o v : Nat) : (addTodo s o v).curSt = s.curSt := rfl
@[simp] theorem addTodo_cycle (s : State) (o v : Nat) : (addTodo s o v).cycle = s.cycle := rfl
@[simp] theorem addTodo_mem (s : State) (o v : Nat) : (addTodo s o v).mem = s.mem := rfl
@[simp] theorem addTodo_cores (s : State) (o v : Nat) : (addTodo s o v).cores = s.cores := rfl
@[simp] theorem addTodo_clusters (s : State) (o v : Nat) : (addTodo s o v).clusters = s.clusters := rfl
@[simp] theorem addTodo_dies (s : State) (o v : Nat) : (addTodo s o v).dies = s.dies := rfl
@[simp] theorem addTodo_tasks (s : State) (o v : Nat) : (addTodo s o v).tasks = s.tasks := rfl
@[simp] theorem addTodo_nextTask (s : State) (o v : Nat) : (addTodo s o v).nextTask = s.nextTask := rfl
@[simp] theorem addTodo_launches (s : State) (o v : Nat) : (addTodo s o v).launches = s.launches := rfl
@[simp] theorem addTodo_nextLaunch (s : State) (o v : Nat) : (addTodo s o v).nextLaunch = s.nextLaunch := rfl
@[simp] theorem addTodo_methods (s : State) (o v : Nat) : (addTodo s o v).methods = s.methods := rfl
@[simp] theorem addTodo_queues (s : State) (o v : Nat) : (addTodo s o v).queues = s.queues := rfl
@[simp] theorem addTodo_pool (s : State) (o v : Nat) : (addTodo s o v).pool = s.pool := rfl
@[simp] theorem addTodo_hostLines (s : State) (o v : Nat) : (addTodo s o v).hostLines = s.hostLines := rfl
@[simp] theorem addTodo_hostDirty (s : State) (o v : Nat) : (addTodo s o v).hostDirty = s.hostDirty := rfl
@[simp] theorem addTodo_hwSet (s : State) (o v : Nat) : (addTodo s o v).hwSet = s.hwSet := rfl
@[simp] theorem addTodo_captured (s : State) (o v : Nat) : (addTodo s o v).captured = s.captured := rfl
@[simp] theorem addTodo_strong (s : State) (o v : Nat) : (addTodo s o v).strong = s.strong := rfl
@[simp] theorem addTodo_barChg (s : State) (o v : Nat) : (addTodo s o v).barChg = s.barChg := rfl
@[simp] theorem addTodo_barLate (s : State) (o v : Nat) : (addTodo s o v).barLate = s.barLate := rfl
@[simp] theorem addTodo_barRead (s : State) (o v : Nat) : (addTodo s o v).barRead = s.barRead := rfl
@[simp] theorem addTodo_winOld (s : State) (o v : Nat) : (addTodo s o v).winOld = s.winOld := rfl
@[simp] theorem addTodo_codeOf (s : State) (o v : Nat) : (addTodo s o v).codeOf = s.codeOf := rfl
@[simp] theorem addTodo_codeOld (s : State) (o v : Nat) : (addTodo s o v).codeOld = s.codeOld := rfl
@[simp] theorem addTodo_mgmt (s : State) (o v : Nat) : (addTodo s o v).mgmt = s.mgmt := rfl
@[simp] theorem postRecord_agenda (s : State) (d : Nat) (r : BitVec 512) (c : Option Nat) : (postRecord s d r c).agenda = s.agenda := rfl
@[simp] theorem postRecord_fresh (s : State) (d : Nat) (r : BitVec 512) (c : Option Nat) : (postRecord s d r c).fresh = s.fresh := rfl
@[simp] theorem postRecord_curCore (s : State) (d : Nat) (r : BitVec 512) (c : Option Nat) : (postRecord s d r c).curCore = s.curCore := rfl
@[simp] theorem postRecord_curSt (s : State) (d : Nat) (r : BitVec 512) (c : Option Nat) : (postRecord s d r c).curSt = s.curSt := rfl
@[simp] theorem postRecord_cycle (s : State) (d : Nat) (r : BitVec 512) (c : Option Nat) : (postRecord s d r c).cycle = s.cycle := rfl
@[simp] theorem postRecord_mem (s : State) (d : Nat) (r : BitVec 512) (c : Option Nat) : (postRecord s d r c).mem = s.mem := rfl
@[simp] theorem postRecord_cores (s : State) (d : Nat) (r : BitVec 512) (c : Option Nat) : (postRecord s d r c).cores = s.cores := rfl
@[simp] theorem postRecord_clusters (s : State) (d : Nat) (r : BitVec 512) (c : Option Nat) : (postRecord s d r c).clusters = s.clusters := rfl
@[simp] theorem postRecord_tasks (s : State) (d : Nat) (r : BitVec 512) (c : Option Nat) : (postRecord s d r c).tasks = s.tasks := rfl
@[simp] theorem postRecord_nextTask (s : State) (d : Nat) (r : BitVec 512) (c : Option Nat) : (postRecord s d r c).nextTask = s.nextTask := rfl
@[simp] theorem postRecord_launches (s : State) (d : Nat) (r : BitVec 512) (c : Option Nat) : (postRecord s d r c).launches = s.launches := rfl
@[simp] theorem postRecord_nextLaunch (s : State) (d : Nat) (r : BitVec 512) (c : Option Nat) : (postRecord s d r c).nextLaunch = s.nextLaunch := rfl
@[simp] theorem postRecord_methods (s : State) (d : Nat) (r : BitVec 512) (c : Option Nat) : (postRecord s d r c).methods = s.methods := rfl
@[simp] theorem postRecord_queues (s : State) (d : Nat) (r : BitVec 512) (c : Option Nat) : (postRecord s d r c).queues = s.queues := rfl
@[simp] theorem postRecord_pool (s : State) (d : Nat) (r : BitVec 512) (c : Option Nat) : (postRecord s d r c).pool = s.pool := rfl
@[simp] theorem postRecord_hostLines (s : State) (d : Nat) (r : BitVec 512) (c : Option Nat) : (postRecord s d r c).hostLines = s.hostLines := rfl
@[simp] theorem postRecord_hostDirty (s : State) (d : Nat) (r : BitVec 512) (c : Option Nat) : (postRecord s d r c).hostDirty = s.hostDirty := rfl
@[simp] theorem postRecord_hwSet (s : State) (d : Nat) (r : BitVec 512) (c : Option Nat) : (postRecord s d r c).hwSet = s.hwSet := rfl
@[simp] theorem postRecord_captured (s : State) (d : Nat) (r : BitVec 512) (c : Option Nat) : (postRecord s d r c).captured = s.captured := rfl
@[simp] theorem postRecord_strong (s : State) (d : Nat) (r : BitVec 512) (c : Option Nat) : (postRecord s d r c).strong = s.strong := rfl
@[simp] theorem postRecord_barChg (s : State) (d : Nat) (r : BitVec 512) (c : Option Nat) : (postRecord s d r c).barChg = s.barChg := rfl
@[simp] theorem postRecord_barLate (s : State) (d : Nat) (r : BitVec 512) (c : Option Nat) : (postRecord s d r c).barLate = s.barLate := rfl
@[simp] theorem postRecord_barRead (s : State) (d : Nat) (r : BitVec 512) (c : Option Nat) : (postRecord s d r c).barRead = s.barRead := rfl
@[simp] theorem postRecord_winOld (s : State) (d : Nat) (r : BitVec 512) (c : Option Nat) : (postRecord s d r c).winOld = s.winOld := rfl
@[simp] theorem postRecord_codeOf (s : State) (d : Nat) (r : BitVec 512) (c : Option Nat) : (postRecord s d r c).codeOf = s.codeOf := rfl
@[simp] theorem postRecord_codeOld (s : State) (d : Nat) (r : BitVec 512) (c : Option Nat) : (postRecord s d r c).codeOld = s.codeOld := rfl
@[simp] theorem postRecord_todo (s : State) (d : Nat) (r : BitVec 512) (c : Option Nat) : (postRecord s d r c).todo = s.todo := rfl
@[simp] theorem postRecord_mgmt (s : State) (d : Nat) (r : BitVec 512) (c : Option Nat) : (postRecord s d r c).mgmt = s.mgmt := rfl
@[simp] theorem stallAs_agenda (s : State) (w : StallWhy) : (stallAs s w).agenda = s.agenda := by unfold stallAs; split <;> rfl
@[simp] theorem stallAs_fresh (s : State) (w : StallWhy) : (stallAs s w).fresh = s.fresh := by unfold stallAs; split <;> rfl
@[simp] theorem stallAs_curCore (s : State) (w : StallWhy) : (stallAs s w).curCore = s.curCore := by unfold stallAs; split <;> rfl
@[simp] theorem stallAs_curSt (s : State) (w : StallWhy) : (stallAs s w).curSt = s.curSt := by unfold stallAs; split <;> rfl
@[simp] theorem stallAs_cycle (s : State) (w : StallWhy) : (stallAs s w).cycle = s.cycle := by unfold stallAs; split <;> rfl
@[simp] theorem stallAs_mem (s : State) (w : StallWhy) : (stallAs s w).mem = s.mem := by unfold stallAs; split <;> rfl
@[simp] theorem stallAs_clusters (s : State) (w : StallWhy) : (stallAs s w).clusters = s.clusters := by unfold stallAs; split <;> rfl
@[simp] theorem stallAs_dies (s : State) (w : StallWhy) : (stallAs s w).dies = s.dies := by unfold stallAs; split <;> rfl
@[simp] theorem stallAs_tasks (s : State) (w : StallWhy) : (stallAs s w).tasks = s.tasks := by unfold stallAs; split <;> rfl
@[simp] theorem stallAs_nextTask (s : State) (w : StallWhy) : (stallAs s w).nextTask = s.nextTask := by unfold stallAs; split <;> rfl
@[simp] theorem stallAs_launches (s : State) (w : StallWhy) : (stallAs s w).launches = s.launches := by unfold stallAs; split <;> rfl
@[simp] theorem stallAs_nextLaunch (s : State) (w : StallWhy) : (stallAs s w).nextLaunch = s.nextLaunch := by unfold stallAs; split <;> rfl
@[simp] theorem stallAs_methods (s : State) (w : StallWhy) : (stallAs s w).methods = s.methods := by unfold stallAs; split <;> rfl
@[simp] theorem stallAs_queues (s : State) (w : StallWhy) : (stallAs s w).queues = s.queues := by unfold stallAs; split <;> rfl
@[simp] theorem stallAs_pool (s : State) (w : StallWhy) : (stallAs s w).pool = s.pool := by unfold stallAs; split <;> rfl
@[simp] theorem stallAs_hostLines (s : State) (w : StallWhy) : (stallAs s w).hostLines = s.hostLines := by unfold stallAs; split <;> rfl
@[simp] theorem stallAs_hostDirty (s : State) (w : StallWhy) : (stallAs s w).hostDirty = s.hostDirty := by unfold stallAs; split <;> rfl
@[simp] theorem stallAs_hwSet (s : State) (w : StallWhy) : (stallAs s w).hwSet = s.hwSet := by unfold stallAs; split <;> rfl
@[simp] theorem stallAs_captured (s : State) (w : StallWhy) : (stallAs s w).captured = s.captured := by unfold stallAs; split <;> rfl
@[simp] theorem stallAs_strong (s : State) (w : StallWhy) : (stallAs s w).strong = s.strong := by unfold stallAs; split <;> rfl
@[simp] theorem stallAs_barChg (s : State) (w : StallWhy) : (stallAs s w).barChg = s.barChg := by unfold stallAs; split <;> rfl
@[simp] theorem stallAs_barLate (s : State) (w : StallWhy) : (stallAs s w).barLate = s.barLate := by unfold stallAs; split <;> rfl
@[simp] theorem stallAs_barRead (s : State) (w : StallWhy) : (stallAs s w).barRead = s.barRead := by unfold stallAs; split <;> rfl
@[simp] theorem stallAs_winOld (s : State) (w : StallWhy) : (stallAs s w).winOld = s.winOld := by unfold stallAs; split <;> rfl
@[simp] theorem stallAs_codeOf (s : State) (w : StallWhy) : (stallAs s w).codeOf = s.codeOf := by unfold stallAs; split <;> rfl
@[simp] theorem stallAs_codeOld (s : State) (w : StallWhy) : (stallAs s w).codeOld = s.codeOld := by unfold stallAs; split <;> rfl
@[simp] theorem stallAs_todo (s : State) (w : StallWhy) : (stallAs s w).todo = s.todo := by unfold stallAs; split <;> rfl
@[simp] theorem stallAs_mgmt (s : State) (w : StallWhy) : (stallAs s w).mgmt = s.mgmt := by unfold stallAs; split <;> rfl
@[simp] theorem updTask_agenda (s : State) (c : Nat) (f : Task → Task) : (updTask s c f).agenda = s.agenda := by simp only [updTask]; split <;> rfl
@[simp] theorem updTask_fresh (s : State) (c : Nat) (f : Task → Task) : (updTask s c f).fresh = s.fresh := by simp only [updTask]; split <;> rfl
@[simp] theorem updTask_curCore (s : State) (c : Nat) (f : Task → Task) : (updTask s c f).curCore = s.curCore := by simp only [updTask]; split <;> rfl
@[simp] theorem updTask_curSt (s : State) (c : Nat) (f : Task → Task) : (updTask s c f).curSt = s.curSt := by simp only [updTask]; split <;> rfl
@[simp] theorem updTask_cycle (s : State) (c : Nat) (f : Task → Task) : (updTask s c f).cycle = s.cycle := by simp only [updTask]; split <;> rfl
@[simp] theorem updTask_mem (s : State) (c : Nat) (f : Task → Task) : (updTask s c f).mem = s.mem := by simp only [updTask]; split <;> rfl
@[simp] theorem updTask_cores (s : State) (c : Nat) (f : Task → Task) : (updTask s c f).cores = s.cores := by simp only [updTask]; split <;> rfl
@[simp] theorem updTask_clusters (s : State) (c : Nat) (f : Task → Task) : (updTask s c f).clusters = s.clusters := by simp only [updTask]; split <;> rfl
@[simp] theorem updTask_dies (s : State) (c : Nat) (f : Task → Task) : (updTask s c f).dies = s.dies := by simp only [updTask]; split <;> rfl
@[simp] theorem updTask_nextTask (s : State) (c : Nat) (f : Task → Task) : (updTask s c f).nextTask = s.nextTask := by simp only [updTask]; split <;> rfl
@[simp] theorem updTask_launches (s : State) (c : Nat) (f : Task → Task) : (updTask s c f).launches = s.launches := by simp only [updTask]; split <;> rfl
@[simp] theorem updTask_nextLaunch (s : State) (c : Nat) (f : Task → Task) : (updTask s c f).nextLaunch = s.nextLaunch := by simp only [updTask]; split <;> rfl
@[simp] theorem updTask_methods (s : State) (c : Nat) (f : Task → Task) : (updTask s c f).methods = s.methods := by simp only [updTask]; split <;> rfl
@[simp] theorem updTask_queues (s : State) (c : Nat) (f : Task → Task) : (updTask s c f).queues = s.queues := by simp only [updTask]; split <;> rfl
@[simp] theorem updTask_pool (s : State) (c : Nat) (f : Task → Task) : (updTask s c f).pool = s.pool := by simp only [updTask]; split <;> rfl
@[simp] theorem updTask_hostLines (s : State) (c : Nat) (f : Task → Task) : (updTask s c f).hostLines = s.hostLines := by simp only [updTask]; split <;> rfl
@[simp] theorem updTask_hostDirty (s : State) (c : Nat) (f : Task → Task) : (updTask s c f).hostDirty = s.hostDirty := by simp only [updTask]; split <;> rfl
@[simp] theorem updTask_hwSet (s : State) (c : Nat) (f : Task → Task) : (updTask s c f).hwSet = s.hwSet := by simp only [updTask]; split <;> rfl
@[simp] theorem updTask_captured (s : State) (c : Nat) (f : Task → Task) : (updTask s c f).captured = s.captured := by simp only [updTask]; split <;> rfl
@[simp] theorem updTask_strong (s : State) (c : Nat) (f : Task → Task) : (updTask s c f).strong = s.strong := by simp only [updTask]; split <;> rfl
@[simp] theorem updTask_barChg (s : State) (c : Nat) (f : Task → Task) : (updTask s c f).barChg = s.barChg := by simp only [updTask]; split <;> rfl
@[simp] theorem updTask_barLate (s : State) (c : Nat) (f : Task → Task) : (updTask s c f).barLate = s.barLate := by simp only [updTask]; split <;> rfl
@[simp] theorem updTask_barRead (s : State) (c : Nat) (f : Task → Task) : (updTask s c f).barRead = s.barRead := by simp only [updTask]; split <;> rfl
@[simp] theorem updTask_winOld (s : State) (c : Nat) (f : Task → Task) : (updTask s c f).winOld = s.winOld := by simp only [updTask]; split <;> rfl
@[simp] theorem updTask_codeOf (s : State) (c : Nat) (f : Task → Task) : (updTask s c f).codeOf = s.codeOf := by simp only [updTask]; split <;> rfl
@[simp] theorem updTask_codeOld (s : State) (c : Nat) (f : Task → Task) : (updTask s c f).codeOld = s.codeOld := by simp only [updTask]; split <;> rfl
@[simp] theorem updTask_todo (s : State) (c : Nat) (f : Task → Task) : (updTask s c f).todo = s.todo := by simp only [updTask]; split <;> rfl
@[simp] theorem updTask_mgmt (s : State) (c : Nat) (f : Task → Task) : (updTask s c f).mgmt = s.mgmt := by simp only [updTask]; split <;> rfl
@[simp] theorem updLaunch_agenda (s : State) (c : Nat) (f : Launch → Launch) : (updLaunch s c f).agenda = s.agenda := by simp only [updLaunch]; split <;> rfl
@[simp] theorem updLaunch_fresh (s : State) (c : Nat) (f : Launch → Launch) : (updLaunch s c f).fresh = s.fresh := by simp only [updLaunch]; split <;> rfl
@[simp] theorem updLaunch_curCore (s : State) (c : Nat) (f : Launch → Launch) : (updLaunch s c f).curCore = s.curCore := by simp only [updLaunch]; split <;> rfl
@[simp] theorem updLaunch_curSt (s : State) (c : Nat) (f : Launch → Launch) : (updLaunch s c f).curSt = s.curSt := by simp only [updLaunch]; split <;> rfl
@[simp] theorem updLaunch_cycle (s : State) (c : Nat) (f : Launch → Launch) : (updLaunch s c f).cycle = s.cycle := by simp only [updLaunch]; split <;> rfl
@[simp] theorem updLaunch_mem (s : State) (c : Nat) (f : Launch → Launch) : (updLaunch s c f).mem = s.mem := by simp only [updLaunch]; split <;> rfl
@[simp] theorem updLaunch_cores (s : State) (c : Nat) (f : Launch → Launch) : (updLaunch s c f).cores = s.cores := by simp only [updLaunch]; split <;> rfl
@[simp] theorem updLaunch_clusters (s : State) (c : Nat) (f : Launch → Launch) : (updLaunch s c f).clusters = s.clusters := by simp only [updLaunch]; split <;> rfl
@[simp] theorem updLaunch_dies (s : State) (c : Nat) (f : Launch → Launch) : (updLaunch s c f).dies = s.dies := by simp only [updLaunch]; split <;> rfl
@[simp] theorem updLaunch_tasks (s : State) (c : Nat) (f : Launch → Launch) : (updLaunch s c f).tasks = s.tasks := by simp only [updLaunch]; split <;> rfl
@[simp] theorem updLaunch_nextTask (s : State) (c : Nat) (f : Launch → Launch) : (updLaunch s c f).nextTask = s.nextTask := by simp only [updLaunch]; split <;> rfl
@[simp] theorem updLaunch_nextLaunch (s : State) (c : Nat) (f : Launch → Launch) : (updLaunch s c f).nextLaunch = s.nextLaunch := by simp only [updLaunch]; split <;> rfl
@[simp] theorem updLaunch_methods (s : State) (c : Nat) (f : Launch → Launch) : (updLaunch s c f).methods = s.methods := by simp only [updLaunch]; split <;> rfl
@[simp] theorem updLaunch_queues (s : State) (c : Nat) (f : Launch → Launch) : (updLaunch s c f).queues = s.queues := by simp only [updLaunch]; split <;> rfl
@[simp] theorem updLaunch_pool (s : State) (c : Nat) (f : Launch → Launch) : (updLaunch s c f).pool = s.pool := by simp only [updLaunch]; split <;> rfl
@[simp] theorem updLaunch_hostLines (s : State) (c : Nat) (f : Launch → Launch) : (updLaunch s c f).hostLines = s.hostLines := by simp only [updLaunch]; split <;> rfl
@[simp] theorem updLaunch_hostDirty (s : State) (c : Nat) (f : Launch → Launch) : (updLaunch s c f).hostDirty = s.hostDirty := by simp only [updLaunch]; split <;> rfl
@[simp] theorem updLaunch_hwSet (s : State) (c : Nat) (f : Launch → Launch) : (updLaunch s c f).hwSet = s.hwSet := by simp only [updLaunch]; split <;> rfl
@[simp] theorem updLaunch_captured (s : State) (c : Nat) (f : Launch → Launch) : (updLaunch s c f).captured = s.captured := by simp only [updLaunch]; split <;> rfl
@[simp] theorem updLaunch_strong (s : State) (c : Nat) (f : Launch → Launch) : (updLaunch s c f).strong = s.strong := by simp only [updLaunch]; split <;> rfl
@[simp] theorem updLaunch_barChg (s : State) (c : Nat) (f : Launch → Launch) : (updLaunch s c f).barChg = s.barChg := by simp only [updLaunch]; split <;> rfl
@[simp] theorem updLaunch_barLate (s : State) (c : Nat) (f : Launch → Launch) : (updLaunch s c f).barLate = s.barLate := by simp only [updLaunch]; split <;> rfl
@[simp] theorem updLaunch_barRead (s : State) (c : Nat) (f : Launch → Launch) : (updLaunch s c f).barRead = s.barRead := by simp only [updLaunch]; split <;> rfl
@[simp] theorem updLaunch_winOld (s : State) (c : Nat) (f : Launch → Launch) : (updLaunch s c f).winOld = s.winOld := by simp only [updLaunch]; split <;> rfl
@[simp] theorem updLaunch_codeOf (s : State) (c : Nat) (f : Launch → Launch) : (updLaunch s c f).codeOf = s.codeOf := by simp only [updLaunch]; split <;> rfl
@[simp] theorem updLaunch_codeOld (s : State) (c : Nat) (f : Launch → Launch) : (updLaunch s c f).codeOld = s.codeOld := by simp only [updLaunch]; split <;> rfl
@[simp] theorem updLaunch_todo (s : State) (c : Nat) (f : Launch → Launch) : (updLaunch s c f).todo = s.todo := by simp only [updLaunch]; split <;> rfl
@[simp] theorem updLaunch_mgmt (s : State) (c : Nat) (f : Launch → Launch) : (updLaunch s c f).mgmt = s.mgmt := by simp only [updLaunch]; split <;> rfl

end Sys2Proof.Laws
end

