-- ==== Sys2Proof/Tests/Slice0.lean ====
section
/-! SUPPORT. The model's own tests: ill-formed words, words written out from the spec, single steps with the results of the spec's examples, and concrete states and
operands that meet the hypotheses of each statement. -/
namespace Sys2Proof.Tests
open Sys2Proof.Machine Sys2Proof.Safety
set_option Elab.async false

/-! ## Helpers -/

def hdr0 : Hdr := ⟨0, 0, false⟩
def rr (d a b : BitVec 7) : RR := ⟨hdr0, d, a, b, 0, 0, 0, false, 0, 0, 0, 0⟩
def ri (d a b : BitVec 7) (imm : BitVec 48) : RI := ⟨hdr0, d, a, b, 0, imm⟩
def me (d a b c : BitVec 7) (sz : BitVec 3) : MEM := ⟨hdr0, d, a, b, c, 0, sz, 0, 0, 0, false, 0, 0⟩
def ve (d a b c : BitVec 7) (et : BitVec 4) : VEC := ⟨hdr0, d, a, b, c, et, 0, false, false, 0, 0, 0, 0⟩
def ma : MAT := ⟨hdr0, 0, 0, 0, 0, 0, 0, 0, 0, 0, 0, 0⟩
def cp (dst src len : BitVec 7) : CPY := ⟨hdr0, dst, src, len, 0, 0, 0, 0, 0, false, false, false, 0, 0, 0⟩
def sy (d a : BitVec 7) : SYS := ⟨hdr0, d, a, 0, 0, 0, 0⟩

/-- Core 0 of D0, a system core in supervisor mode, with one strand running a section of one word in mapped memory; `f` changes its bank. -/
def at0 (st : Strand) (f : Bank → Bank) : State :=
  let k := placeCore sysCore st
  { State.reset with curSt := st, cores := [(0, { k with b0 := f k.b0 })], mem := placeMem {} st 0 }
/-- The same with `f` applied to the core. -/
def at0k (st : Strand) (f : Core → Core) : State := updCore (at0 st id) 0 f
/-- With some scalar registers of E. -/
def atS (l : Tbl Reg) : State := at0 .e fun b => { b with s := l }
def val (v : W64) : Reg := { v := v, poi := false }
def bad : Reg := { v := 0, poi := true }

/-- Either side of an answer. -/
def isOk {ε α : Type} (r : Except ε α) : Bool := match r with | .ok _ => true | .error _ => false
/-- The state of a next state. -/
def nextOf (o : Host.Outcome State Fault Refusal) : State := match o with | .next t => t | _ => {}
/-- The writes of the word that issued last. -/
def wrote (s : State) : List Write := ((curStrand s).flight.getLast?.map (·.writes)).getD []
/-- The trap of the current bank, or of a system core its CAUSE. -/
def causeOf (s : State) : Nat := (coreOf s s.curCore).cause.toNat
/-- The words all issue at a state. -/
def allIssue (l : List Instr) (s : State) : Bool := l.all fun i => issues i s

/-! ## Ill-formed words: one for each check, which the check refuses (R45, R338, R339) -/

theorem test_ill_formed_events_and_illegal : (Instr.mailboxManifest [] []).wellFormed .e = false ∧ (Instr.illegal 0).wellFormed .e = false ∧ (Instr.tagPoll 0).wellFormed .e = false := by
  decide +kernel
theorem test_ill_formed_strands : (Instr.add (rr 1 2 3)).wellFormed .m = false ∧ (Instr.mset ma).wellFormed .e = false ∧ (Instr.vadd (ve 1 2 3 0 1)).wellFormed .a = false ∧
    (Instr.tret (rr 0 0 0)).wellFormed .a = false ∧ (Instr.loop (ri 3 0 0 0)).wellFormed .a = false ∧ (Instr.qpush (rr 64 1 0)).wellFormed .e = false := by decide +kernel
theorem test_ill_formed_reserved_fields : (Instr.add { rr 1 2 3 with z := 1 }).wellFormed .e = false ∧ (Instr.clz { rr 1 2 0 with b := 1 }).wellFormed .e = false ∧
    (Instr.ld { me 1 2 0 0 3 with z := 1 }).wellFormed .e = false ∧ (Instr.addi (ri 1 2 1 0)).wellFormed .e = false ∧ (Instr.vpark { ve 0 2 0 0 0 with imm := 0x1000 }).wellFormed .e = false ∧
    (Instr.cpy { cp 1 2 3 with z := 1 }).wellFormed .a = false ∧ (Instr.halt { sy 0 0 with imm := 1 }).wellFormed .e = false ∧ (Instr.mset { ma with kbm1 := 1 }).wellFormed .m = false := by
  decide +kernel
theorem test_ill_formed_reserved_codes : (Instr.cmp { rr 1 2 3 with sub := 10 }).wellFormed .e = false ∧ (Instr.ld (me 1 2 0 0 6)).wellFormed .e = false ∧
    (Instr.ld { me 1 2 0 0 3 with ord := 2 }).wellFormed .e = false ∧ (Instr.fadd { rr 1 2 3 with rm := 5 }).wellFormed .e = false ∧ (Instr.vadd (ve 1 2 3 0 15)).wellFormed .e = false ∧
    (Instr.vadd { ve 1 2 3 0 1 with g := 3 }).wellFormed .e = false ∧ (Instr.vadd { ve 1 2 3 0 1 with bsel := 3 }).wellFormed .e = false ∧
    (Instr.fadd { rr 1 2 3 with ft := 4 }).wellFormed .e = false ∧ (Instr.fcvt { rr 1 2 0 with ft := 2, ft2 := 6 }).wellFormed .e = false ∧
    (Instr.fence (me 0 0 0 0 0)).wellFormed .e = false := by decide +kernel
theorem test_ill_formed_specifiers : (Instr.add (rr 1 40 3)).wellFormed .a = false ∧ (Instr.add (rr 72 1 3)).wellFormed .e = false ∧ (Instr.add (rr 64 1 3)).wellFormed .e = false ∧
    (Instr.add (rr 1 0x4C 3)).wellFormed .e = false ∧ (Instr.call (ri 0 0 0 0)).wellFormed .e = false ∧ (Instr.kand (ve 1 16 3 0 0)).wellFormed .e = false ∧
    (Instr.vadd (ve 72 2 3 0 1)).wellFormed .e = false := by decide +kernel
theorem test_ill_formed_groups_and_tuples : (Instr.vadd { ve 2 5 6 0 1 with g := 1 }).wellFormed .e = false ∧ (Instr.ld (me 3 2 0 0 4)).wellFormed .e = false ∧
    (Instr.st (me 2 1 0 0 5)).wellFormed .e = false ∧ (Instr.ld (me 64 1 0 0 4)).wellFormed .a = false ∧ (Instr.reelstat (rr 3 1 0)).wellFormed .a = false := by decide +kernel
theorem test_well_formed_words : (Instr.add (rr 5 0x40 0x40)).wellFormed .e = true ∧ (Instr.add (rr 0x40 1 2)).wellFormed .a = true ∧ (Instr.ld (me 2 1 0 0 4)).wellFormed .a = true ∧
    (Instr.vadd { ve 4 6 8 0 1 with g := 1 }).wellFormed .e = true ∧ (Instr.mset ma).wellFormed .m = true := by decide +kernel

/-! ## Words written out in the spec decode to what their assembly says (R174, R341, R366-R501) -/

theorem test_decode_rr : decodeWord 0x010001604000000000000000 = some (.add (rr 5 0x40 0x40)) ∧ decodeWord 0x020000818400000000000000 = some (.sub (rr 2 3 4)) ∧
    decodeWord 0x0B0000818000000009000000 = some (.shl { rr 2 3 0 with imm := 4, bi := true }) ∧ decodeWord 0x170001020012004060000000 = some (.bfi { rr 4 4 0 with c := 9, imm := 0x2030 }) ∧
    decodeWord 0xD20000000000000000000000 = some (.tret (rr 0 0 0)) ∧ decodeWord 0xD80000800000000002000000 = some (.widf { rr 2 0 0 with imm := 1 }) ∧
    decodeWord 0xE40000820500000002000000 = some (.nqtake { rr 2 4 5 with imm := 1 }) ∧ decodeWord 0xE5000081840A000000000000 = some (.orphx { rr 2 3 4 with c := 5 }) := by decide +kernel
theorem test_decode_ri : decodeWord 0x180000C08000FFFFFFFFFFF0 = some (.addi (ri 3 1 0 (-16))) ∧ decodeWord 0x190800400000000000000005 = some (.li { ri 1 0 0 5 with hdr := ⟨2, 0, false⟩ }) ∧
    decodeWord 0x300000018402FFFFFFFFFFDC = some (.br { ri 0 3 4 (-36) with sub := 2 }) := by decide +kernel
theorem test_decode_mem : decodeWord 0x400000C3000000E600000040 = some (.ld { me 3 6 0 0 3 with scope := 2, ord := 1, dc := 2, off := 0x40 }) ∧
    decodeWord 0x410000C3000000EA00000040 = some (.st { me 3 6 0 0 3 with scope := 2, ord := 2, dc := 2, off := 0x40 }) ∧
    decodeWord 0x44000085030002A200000010 = some (.amo { me 2 10 3 0 2 with sub := 1, scope := 2, dc := 2, off := 0x10 }) ∧
    decodeWord 0x460000000000002C00000000 = some (.fence { me 0 0 0 0 0 with scope := 2, ord := 3 }) ∧
    decodeWord 0x530000C4090000E200000000 = some (.waita { me 3 8 9 0 3 with scope := 2, dc := 2 }) := by decide +kernel
theorem test_decode_vec : decodeWord 0x700081840A00400000000000 = some (.vadd { ve 6 8 10 0 2 with hdr := ⟨0, 2, false⟩ }) ∧
    decodeWord 0x7D0001040001002200000000 = some (.vcmp { ve 4 8 0 0 8 with bsel := 2, sub := 2 }) ∧
    decodeWord 0x800002010001C1C200000000 = some (.vcvt { ve 8 2 0 0 14 with rm := 7, sub := 2 }) ∧
    decodeWord 0x900001850400600048000020 = some (.vld { ve 6 10 4 0 3 with imm := 0x48000020 }) ∧
    decodeWord 0xA00081018001800000000000 = some (.vrsum { ve 4 3 0 0 12 with hdr := ⟨0, 2, false⟩ }) ∧ decodeWord 0xA80001410300000000000000 = some (.kand (ve 5 2 3 0 0)) ∧
    decodeWord 0xE60001C0002DC0010000CA94 = some (.dacc { ve 7 0 0 22 14 with sub := 1, imm := 0xCA94 }) := by decide +kernel
theorem test_decode_mat_cpy_sys : decodeWord 0xB4000000003C3C0000000002 = some (.mma { ma with mm1 := 15, nm1 := 15, str := 2 }) ∧
    decodeWord 0xC0000102860028011A000000 = some (.cpy { cp 4 5 6 with nrg := 10, bar := 2, cq := 1, scope := 2, note := true }) ∧
    decodeWord 0xF40000000000000000000007 = some (.trap { sy 0 0 with imm := 7 }) ∧ decodeWord 0x570003000000000000000000 = some (.btest (sy 12 0)) ∧
    decodeWord 0xF80000000000000000000000 = some (.halt (sy 0 0)) ∧ decodeWord 0x430000000000000000000000 = some (.roinv (me 0 0 0 0 0)) := by decide +kernel
/-- The families without an example word, from R329 and R335: REELAPP x1, x2 (0xC8) and CSRW s1, 0x040 with a in s2 (0xF1). -/
theorem test_decode_reel_csr : decodeWord 0xC80000008200000000000000 = some (.reelapp (rr 0 1 2)) ∧ decodeWord 0xF10000410000040000000000 = some (.csrw { sy 1 2 with csr := 0x40 }) := by
  decide +kernel
/-- The stored bytes of `add s5, q0, q0` (R325, R341). -/
theorem test_decode_bytes : (decode [0x00, 0x00, 0x00, 0x00, 0x00, 0x00, 0x00, 0x40, 0x60, 0x01, 0x00, 0x01] |>.toOption) = some (.add (rr 5 0x40 0x40)) := by decide +kernel

/-! ## Single steps with the results of the spec's examples -/

/-- A step fetches and runs the word placed for it: `li x1, 5` runs on E's file here, as s1 (R421). -/
theorem test_step_li : wrote (nextOf (step (State.reset.withFetchWord 96 0x190800400000000000000005))) = [.reg 1 (val 5)] := by decide +kernel
/-- The all-zero word raises ILLEGAL 0, the all-ones word as well; a trap of a system core saves and restarts (R319, R339). -/
theorem test_step_illegal : causeOf (nextOf (step (State.reset.withFetchWord 96 0))) = 1 ∧ causeOf (nextOf (step (State.reset.withFetchWord 96 (2 ^ 96 - 1)))) = 1 ∧
    (coreOf (nextOf (step (State.reset.withFetchWord 96 0))) 0).epc = BitVec.ofNat 57 (placeBase + 8) := by decide +kernel
theorem test_step_trap_7 : causeOf (nextOf (step (State.reset.withFetchWord 96 0xF40000000000000000000007))) = 0x718 := by decide +kernel
theorem test_bit_fields : wrote (nextOf (exec (.bfi { rr 4 4 0 with c := 9, imm := 0x2030 }) (atS [(4, val 0x1234), (9, val 0xAB)]))) = [.reg 4 (val 0x1B34)] ∧
    wrote (nextOf (exec (.bfx { rr 5 4 0 with imm := 0x2030 }) (atS [(4, val 0x1B34)]))) = [.reg 5 (val 0xB)] ∧
    wrote (nextOf (exec (.lih (ri 3 3 0 0x1234)) (atS [(3, val 0x56789ABCDEF0)]))) = [.reg 3 (val 0x123456789ABCDEF0)] := by decide +kernel
theorem test_divide : wrote (nextOf (exec (.div (rr 2 3 4)) (atS [(3, val (-7)), (4, val 2)]))) = [.reg 2 (val (-3))] ∧
    wrote (nextOf (exec (.rem (rr 2 3 4)) (atS [(3, val (-7)), (4, val 2)]))) = [.reg 2 (val (-1))] ∧
    (curStrand (nextOf (exec (.div { rr 2 3 4 with sub := 1 }) (atS [(3, val 7)])))).flight.map (fun f => (f.writes, f.flags)) = [([.reg 2 (val (-1))], 0x002)] := by decide +kernel
theorem test_multiply_high : wrote (nextOf (exec (.mulh { rr 2 3 4 with sub := 1 }) (atS [(3, val 0x8000000000000000), (4, val 4)]))) = [.reg 2 (val 2)] ∧
    wrote (nextOf (exec (.mulh (rr 2 3 4)) (atS [(3, val (-1)), (4, val 5)]))) = [.reg 2 (val (-1))] := by decide +kernel
theorem test_counts_and_shifts : wrote (nextOf (exec (.clz (rr 2 3 0)) (atS [(3, val 0x10000)]))) = [.reg 2 (val 47)] ∧
    wrote (nextOf (exec (.ctz (rr 2 3 0)) (atS [(3, val 0x10000)]))) = [.reg 2 (val 16)] ∧
    wrote (nextOf (exec (.sra { rr 2 3 0 with imm := 4, bi := true }) (atS [(3, val 0xFFFFFFFFFFFFFF00)]))) = [.reg 2 (val 0xFFFFFFFFFFFFFFF0)] ∧
    wrote (nextOf (exec (.rotr { rr 2 3 0 with imm := 1, bi := true }) (atS [(3, val 1)]))) = [.reg 2 (val 0x8000000000000000)] ∧
    wrote (nextOf (exec (.min { rr 2 3 0 with sub := 1, imm := -1, bi := true }) (atS [(3, val 9)]))) = [.reg 2 (val 9)] := by decide +kernel
/-- FADD.S of 1.0 and 2^-24 under RUP and RNE; FCLASS.H of the smallest subnormal (R401, R402). -/
theorem test_float : (curStrand (nextOf (exec (.fadd { rr 3 4 5 with ft := 2, rm := 2 }) (atS [(4, val 0x3F800000), (5, val 0x33800000)])))).flight.map (fun f => (f.writes, f.flags)) =
      [([.reg 3 (val 0x3F800001)], 0x010)] ∧
    wrote (nextOf (exec (.fadd { rr 3 4 5 with ft := 2 }) (atS [(4, val 0x3F800000), (5, val 0x33800000)]))) = [.reg 3 (val 0x3F800000)] ∧
    wrote (nextOf (exec (.fclass (rr 2 3 0)) (atS [(3, val 1)]))) = [.reg 2 (val 0x20)] := by decide +kernel
/-- The LOOP of R423: s9 from 3 to 2, VRB from 0 to 31, and the branch is taken. -/
theorem test_loop : let t := nextOf (exec (.loop (ri 9 0 0 (-48))) (atS [(9, val 3)]))
    wrote t = [.reg 9 (val 2)] ∧ (curBank t).vrb = 31 ∧ (curStrand t).pc = BitVec.ofNat 64 (placeBase + 8 - 48) := by decide +kernel
/-- CSRC of FPFLAGS 0x14 by 0x10 (R395). -/
theorem test_csrc : let t := nextOf (exec (.csrc { sy 3 4 with csr := 0x41 }) (at0 .e fun b => { b with s := [(4, val 0x10)], fpflags := 0x14 }))
    wrote t = [.reg 3 (val 0x14)] ∧ (curBank t).fpflags = 0x04 := by decide +kernel
/-- WIDF of WID 0x29 with W0 = 4 and W1 = 3 (R500). -/
theorem test_widf : let s := at0 .e fun b => { b with wid := 0x29, widfmt := 0xC4 }
    wrote (nextOf (exec (.widf { rr 2 0 0 with imm := 1 }) s)) = [.reg 2 (val 2)] ∧ wrote (nextOf (exec (.widf { rr 2 0 0 with imm := 0x19 }) s)) = [.reg 2 (val 0x20)] ∧
    wrote (nextOf (exec (.widf { rr 2 0 0 with imm := 9 }) s)) = [.reg 2 (val 4)] := by decide +kernel

/-- A vector register that holds runs under an element type, and a mask. -/
def vreg (et : Nat) (l : List Run) : VReg :=
  { pairs := packPairs (etWidth et) (etWidth et) l, et := BitVec.ofNat 4 et, rc := BitVec.ofNat 10 l.length, ll := BitVec.ofNat 24 (runsTotal l), can := true, poi := false, stale := false }
def mreg (l : List Run) : VReg :=
  { pairs := packPairs 1 15 l, et := 0, rc := BitVec.ofNat 10 l.length, ll := BitVec.ofNat 24 (runsTotal l), can := true, poi := false, stale := false }
def atV (v k : Tbl VReg) : State := at0 .e fun b => { b with v := v, k := k }
/-- The runs that the word wrote, and the length. -/
def wroteRuns (et : Nat) (s : State) : List (List Run × Nat) :=
  (wrote s).filterMap fun w => match w with | .vec _ r => some (vecRuns et r, r.ll.toNat) | .mask _ r => some (maskRuns r, r.ll.toNat) | _ => none

/-- The stored form of R125's example: 300 fives, two of -1, one 7, as INT8, and the same elements joined from other runs. -/
theorem test_canonical : canonRuns 255 [(5, 300), (0xFF, 2), (7, 1)] = [(5, 255), (5, 45), (0xFF, 2), (7, 1)] ∧
    canonRuns 255 [(5, 200), (5, 100), (0xFF, 2), (7, 1)] = [(5, 255), (5, 45), (0xFF, 2), (7, 1)] ∧
    nbits (vreg 2 [(5, 255), (5, 45), (0xFF, 2), (7, 1)]).pairs.toNat 0 64 = 0x010702FF2D05FF05 ∧ statusWord (vreg 2 [(5, 255), (5, 45), (0xFF, 2), (7, 1)]) false = 0x00000040004BC042 := by
  decide +kernel
theorem test_vcmp : wroteRuns 0 (nextOf (exec (.vcmp { ve 4 8 0 0 8 with bsel := 2, sub := 2 }) (atV [(8, vreg 8 [(5, 3), (0xFFFE, 4), (7, 1)])] []))) = [([(0, 3), (1, 4), (0, 1)], 8)] := by
  decide +kernel
theorem test_vrev : wroteRuns 2 (nextOf (exec (.vrev (ve 6 5 0 0 2)) (atV [(5, vreg 2 [(5, 255), (5, 45), (7, 1)])] []))) = [([(7, 1), (5, 255), (5, 45)], 301)] := by decide +kernel
theorem test_vcvt : wroteRuns 14 (nextOf (exec (.vcvt { ve 8 2 0 0 14 with rm := 7, sub := 2 }) (atV [(2, vreg 2 [(0xFD, 200), (5, 56)])] []))) =
    [([(0xC0400000, 200), (0x40A00000, 56)], 256), ([], 0), ([], 0), ([], 0)] := by decide +kernel
theorem test_vrsum : let s := atV [(3, vreg 12 [(7, 10), (0xFFFFFFFD, 6)])] [(2, mreg [(1, 4), (0, 8), (1, 4)])]
    let w : VEC := { ve 4 3 0 0 12 with hdr := ⟨0, 2, false⟩ }
    wrote (nextOf (exec (.vrsum w) s)) = [.reg 4 (val 16)] ∧ wrote (nextOf (exec (.vrsum (ve 4 3 0 0 12)) s)) = [.reg 4 (val 52)] ∧
    wrote (nextOf (exec (.vrmax w) s)) = [.reg 4 (val 7)] ∧ wrote (nextOf (exec (.vrmin w) s)) = [.reg 4 (val (-3))] := by decide +kernel
theorem test_kand : wroteRuns 0 (nextOf (exec (.kand (ve 5 2 3 0 0)) (atV [] [(2, mreg [(1, 6), (0, 4)]), (3, mreg [(1, 3), (0, 2), (1, 5)])]))) = [([(1, 3), (0, 2), (1, 1), (0, 4)], 10)] ∧
    nbits (mreg [(1, 3), (0, 2), (1, 1), (0, 4)]).pairs.toNat 0 64 = 0x0008000300040007 := by decide +kernel

/-- Bytes of memory at an address. -/
def lay (s : State) (a n v : Nat) : State := { s with mem := layBytes s.mem a n v }
/-- The current strand's last access is performed. -/
def performLast (s : State) : State :=
  match (curStrand s).flight.getLast? with
  | some f => nextOf (exec (if f.dests.isEmpty then .storePerformed ⟨s.curCore, curFg s, s.curSt, f.id⟩ else .resultLand ⟨s.curCore, curFg s, s.curSt, f.id⟩) s)
  | none => s
/-- AMO.MIN of 0xFFFFFFFF and 5 leaves -1 and returns it zero-extended, or sign-extended with .sx; AMO.MINU writes 5 (R371). -/
theorem test_amo : let s := lay (atS [(3, val 5), (10, val 0x20000)]) 0x20010 4 0xFFFFFFFF
    let run := fun (sub : BitVec 8) (sx : Bool) => performLast (nextOf (exec (.amo { me 2 10 3 0 2 with sub := sub, sx := sx, scope := 2, dc := 2, off := 0x10 }) s))
    ((curBank (run 5 false)).s, memRead (run 5 false).mem 0x20010 4) = ([(2, val 0xFFFFFFFF), (3, val 5), (10, val 0x20000)], 0xFFFFFFFF) ∧
    tget (curBank (run 5 true)).s 2 {} = val 0xFFFFFFFFFFFFFFFF ∧ memRead (run 7 false).mem 0x20010 4 = 5 := by decide +kernel
/-- CAS of 0 by 7 returns 0 and writes 7; the second one returns 7 and writes nothing (R386). -/
theorem test_cas : let s := at0 .a fun b => { b with x := [(4, val 0x20000), (6, val 7)] }
    let run := fun s => performLast (nextOf (exec (.cas { me 2 4 5 6 3 with scope := 2, dc := 2 }) s))
    tget (curBank (run s)).x 2 {} = val 0 ∧ memRead (run s).mem 0x20000 8 = 7 ∧ tget (curBank (run (lay s 0x20000 8 7))).x 2 {} = val 7 ∧ memRead (run (lay s 0x20000 8 7)).mem 0x20000 8 = 7 := by
  decide +kernel
/-- VLD of the sixteen bytes of R487 finds four runs. -/
theorem test_vld : wroteRuns 3 (nextOf (exec (.vld { ve 6 10 4 0 3 with imm := 0x48000020 }) (lay (atS [(4, val 16), (10, val 0x20000)]) 0x20020 16 0x09000000050505050505050500000000))) =
    [([(0, 4), (5, 8), (0, 3), (9, 1)], 16)] := by decide +kernel
/-- MCONF of R429: i2 above i3. -/
theorem test_mcfg : (curBank (nextOf (exec (.mcfg { ma with ia := 2, ib := 3 }) (at0 .m fun b => { b with i := [(2, { v := 2 }), (3, { v := 0x84 })] })))).mconf = 0x0000000200000084 := by
  decide +kernel
/-- BTEST's and BWAIT's difference with PHASE 9 and 7 (R251); the barrier of R249 completes with its last arrival. -/
theorem test_barriers : let s := updCore (at0 .e fun b => { b with bcnt := 1, s := [(1, val 7)] }) 0 fun k => { k with bars := [(0, { phase := 9 })] }
    wrote (nextOf (exec (.btest (sy 2 1)) s)) = [] ∧ tget (curBank (nextOf (exec (.btest (sy 2 1)) s))).s 2 {} = val 2 ∧
    barSettle { arrv := 1, exp := 3, phase := 9 } [{ kind := .arrive, core := 0, bar := 0, n := 1 }] = ({ arrv := 3, exp := 3, phase := 10 }, true) := by decide +kernel
/-- Reset (R364, R236): ENCAP, AGECTL and THCAP read their reset values, and nothing of the tasks exists. -/
theorem test_reset : (dieOf State.reset 3).encap = 650 ∧ (coreOf State.reset 128).pm = true ∧ (coreOf State.reset 1).pm = false ∧ State.reset.tasks = [] := by decide +kernel
/-- The codes that R168 allows: one ulp either side of 1/3, of the square root of 2 and of the logarithm of 10, and of the exact 1/4. -/
theorem test_special_bounds : let at_ := fun fn c => sfuRange fn (fmtS.decode false c)
    at_ 2 0x40400000 = (0x3EAAAAAA, 0x3EAAAAAB) ∧ at_ 0 0x3F000000 = (0x3FB504F3, 0x3FB504F4) ∧ at_ 1 0x41200000 = (0x40549A78, 0x40549A79) ∧ at_ 2 0x40800000 = (0x3E7FFFFF, 0x3E800001) ∧
    codeOrd 0xFF800000 ≤ 0x3EAAAAAA ∧ (0x3EAAAAAB : Int) ≤ codeOrd 0x7F800000 := by decide +kernel

/-! ## Concrete states and operands that meet the hypotheses of the statements -/

def placedAdd : State := State.reset.withFetchWord 96 0x018000000000000000000000
/-- The state in which the turn's strand is looked at. -/
def turnAt (s : State) (st : Strand) : State := turnState (tick { s with agenda := s.agenda.tail } 0) 0 st
/-- The word that a turn fetches. -/
def fetched (t : State) : Option Nat := match fetchCode t (curCtx t) (curStrand t).pc.toNat 12 with | .ok r => some r.1 | .error _ => none
/-- The strand of E of core 0's foreground bank is changed. -/
def withE (s : State) (f : StrandSt → StrandSt) : State := updStrand s 0 0 .e f

theorem test_meets_encodings : (encode (.add (rr 1 2 3))).isSome = true ∧ isWord (.mset ma) = true ∧ isEvent (.tagPoll 0) = true ∧ (decodeWord 0x020000818400000000000000).isSome = true := by
  decide +kernel
theorem test_meets_step : placedAdd.agenda = [.strand 0 0 .e] ∧ heldBack (turnAt placedAdd .e) = none ∧ (curStrand (turnAt placedAdd .e)).late = [] ∧
    (curStrand (turnAt placedAdd .e)).phase = .run ∧ (curStrand (turnAt placedAdd .e)).rep = none ∧ (fetched (turnAt placedAdd .e)).bind (fun v => decodeWord (BitVec.ofNat 96 v)) = some (.add { rr 0 0 0 with hdr := ⟨32, 0, false⟩ }) := by
  decide +kernel
theorem test_meets_step_repeated : let s := withE placedAdd fun x => { x with rep := some { count := 1, sd := 0, sa := 0, sb := 0, sc := 0 } }
    heldBack (turnAt s .e) = none ∧ (curStrand (turnAt s .e)).rep.isSome = true ∧
    (fetched (turnAt s .e)).bind (fun v => decodeWord (stepWord (BitVec.ofNat 96 v) { count := 1, sd := 0, sa := 0, sb := 0, sc := 0 })) = some (.add { rr 0 0 0 with hdr := ⟨32, 0, false⟩ }) := by
  decide +kernel
theorem test_meets_step_without_word : (heldBack (turnAt { State.reset with agenda := [.strand 0 0 .e] } .e)).isSome = true ∧
    heldBack (turnAt (withE placedAdd fun x => { x with pc := 0x4000000000 }) .e) = none ∧ fetched (turnAt (withE placedAdd fun x => { x with pc := 0x4000000000 }) .e) = none ∧
    (fetched (turnAt (State.reset.withFetchWord 96 (2 ^ 96 - 1)) .e)).map (fun v => decodeWord (BitVec.ofNat 96 v)) = some none ∧
    heldBack (turnAt (withE placedAdd fun x => { x with phase := .slate }) .e) = none ∧ (curStrand (turnAt (withE placedAdd fun x => { x with phase := .slate }) .e)).phase = .slate ∧
    State.reset.agenda = [] := by decide +kernel
theorem test_meets_step_events : isEvent (.tagPoll 0) = true ∧ isEvent (.add (rr 1 2 3)) = false ∧ ({ State.reset with agenda := [.event 3 (.tagPoll 0)] } : State).agenda = [.event 3 (.tagPoll 0)] := by
  decide +kernel
theorem test_meets_agenda_ok : AgendaOk State.reset := by intro e h; cases h

/-- Task mode on the same core. -/
def taskMode (s : State) : State := updCore s 0 fun k => { k with pm := false }
theorem test_meets_checks_in_order : isWord (.add (rr 1 2 3)) = true ∧ csrsSettled (at0 .m id) = true ∧ strandOk .m (.add (rr 1 2 3)) = false ∧ strandOk .e (.halt (sy 0 0)) = true ∧
    (coreOf (taskMode (at0 .e id)) 0).pm = false ∧ supervisorOnly (.halt (sy 0 0)) = true ∧ csrOf (.csrr { sy 1 0 with csr := 6 }) = some (6, false) ∧ csrMode 6 = none ∧
    csrOf (.csrw { sy 1 2 with csr := 0xA0 }) = some (0xA0, true) ∧ csrMode 0xA0 = some 1 ∧ csrOf (.csrr { sy 1 0 with csr := 5 }) = some (5, false) ∧ csrMode 5 = some 2 ∧
    privilege true (.add { rr 1 2 3 with z := 1 }) = none ∧ wordOk .e (.add { rr 1 2 3 with z := 1 }) = false ∧
    wordOk .e (.vadd (ve 1 2 3 0 4)) = true ∧ narrowOk (curBank (at0 .e id)) (.vadd (ve 1 2 3 0 4)) = false := by decide +kernel
theorem test_meets_scalar_predicates : let i : Instr := .add { rr 1 2 3 with hdr := ⟨0, 4, false⟩ }
    let j : Instr := .add { rr 1 2 3 with hdr := ⟨0, 4, true⟩ }
    hdrOf i = some ⟨0, 4, false⟩ ∧ maskPredicated i = false ∧ fieldsPass i (atS []) = true ∧ predTimely i (atS []) = true ∧ (rdS (atS [(4, bad)]) 4).poi = true ∧
    ((rdS (atS []) 4).v = 0 ∧ (rdS (atS []) 4).poi = false) ∧ fieldsPass j (atS [(4, val 1)]) = true ∧ predTimely j (atS [(4, val 1)]) = true ∧ (rdS (atS [(4, val 1)]) 4).v ≠ 0 := by decide +kernel
/-- The bank whose queue q0 is full, for A; q0 empty, for E; a bound stream queue for none. -/
theorem test_meets_operand_gates : let pop : Instr := .add (rr 5 0x40 0x40)
    let push : Instr := .add (rr 0x40 1 2)
    let full := at0 .a fun b => { b with q := [(0, { count := queueDepth 0 })] }
    let blk : Instr := .vadd (ve 1 0x48 0x48 0 1)
    (fieldsPass pop (atS []) && predTimely pop (atS []) && operandsTimely pop (atS []) && (predValue (atS []) (curBank (atS [])) pop == 1)) = true ∧ popsOf .e pop = [0] ∧
    (tget (curBank (atS [])).q 0 {}).count = 0 ∧ (fieldsPass push full && predTimely push full && operandsTimely push full && (predValue full (curBank full) push == 1)) = true ∧
    pushesOf .a push = [0] ∧ queueDepth 0 ≤ (tget (curBank full).q 0 {}).count ∧
    (fieldsPass blk (atS []) && predTimely blk (atS []) && operandsTimely blk (atS []) && (predValue (atS []) (curBank (atS [])) blk == 1)) = true ∧
    popsOf .e blk = [] ∧ pushesOf .e blk = [] ∧ streamPopsOf .e blk = [(8, 1)] ∧ (tget (curBank (atS [])).sq 8 {}).bound = none := by decide +kernel
/-- A result for s2 in flight: reading it is early (R309). -/
def early (f : Core → Core) : State := updCore (withE (at0 .e id) fun x => { x with flight := [{ id := 0, dests := [.reg 2], writes := [.reg 2 (val 1)], bound := 5 }], nextId := 1 }) 0 f
theorem test_meets_early_reads : let i : Instr := .add (rr 1 2 3)
    (firstEarly (coreTime (early id) 0) (curStrand (early id)) (readsAll (curBank (early id)) .e i)).isSome = true ∧ fieldsPass i (early id) = true ∧ predTimely i (early id) = true ∧
    predValue (early id) (curBank (early id)) i = 1 ∧ queueGate (curBank (early id)) .e i = none ∧ (coreOf (early id) 0).latchk = false ∧
    (coreOf (early fun k => { k with latchk := true }) 0).latchk = true ∧
    causeOf (nextOf (exec i (early fun k => { k with latchk := true }))) % 256 = 0x0E := by decide +kernel
theorem test_meets_issued_words : popsOf .e (.add (rr 1 2 3)) = [] ∧ pushesOf .e (.add (rr 1 2 3)) = [] ∧ streamPopsOf .e (.add (rr 1 2 3)) = [] ∧
    ({ s := at0 .e id } : Out).issued = true ∧ ({ s := at0 .e id } : Out).atOnce = false := by decide +kernel
/-- Two words of E in flight that write s2, v2, k2 or i2; and one whose destination a later word has written. -/
theorem test_meets_register_writes : let f := fun (w : Write) (n : Nat) => ({ id := n, dests := [w.dest], writes := [w] } : Flight)
    let two := fun (u v : Write) => (strandSel { se := { flight := [f u 0, f v 1] } } .e).flight
    (two (.reg 2 (val 1)) (.reg 2 (val 2))).map (·.id) = [0, 1] ∧ (two (.vec 2 {}) (.vec 2 {})).map (·.dests) = [[.vec 2], [.vec 2]] ∧ (two (.mask 2 {}) (.mask 2 {})).map (·.killed) = [[], []] ∧
    (two (.idx 2 {}) (.idx 2 {})).map (·.writes) = [[.idx 2 {}], [.idx 2 {}]] ∧ (two (.reg 2 (val 1)) (.reg 2 (val 2))).find? (fun g => g.id = 0) = some (f (.reg 2 (val 1)) 0) ∧
    Dest.reg 2 ∈ ({ f (.reg 2 (val 1)) 0 with killed := [.reg 2] } : Flight).killed := by decide +kernel

theorem test_meets_scalar_two_source : allIssue [.add (rr 1 2 3), .sub (rr 1 2 3), .mul (rr 1 2 3), .mulh (rr 1 2 3), .and (rr 1 2 3), .or (rr 1 2 3), .xor (rr 1 2 3), .andn (rr 1 2 3),
    .shl (rr 1 2 3), .shr (rr 1 2 3), .sra (rr 1 2 3), .rotr (rr 1 2 3), .min (rr 1 2 3), .max (rr 1 2 3), .hashr (rr 1 2 3), .cmp { rr 1 2 3 with sub := 9 }] (atS [(2, bad)]) = true := by decide +kernel
theorem test_meets_scalar_other : allIssue [.clz (rr 1 2 0), .ctz (rr 1 2 0), .popc (rr 1 2 0), .bfx { rr 1 2 0 with imm := 0xFFF0 }, .bfi { rr 1 2 0 with imm := 0xFFF0 }, .sel { rr 1 2 3 with c := 4 },
    .addi (ri 1 2 0 5), .li (ri 1 0 0 5), .lih (ri 1 2 0 5)] (atS []) = true ∧ issues (.qpush (rr 0x40 1 0)) (at0 .a id) = true := by decide +kernel
theorem test_meets_divide : allIssue [.div (rr 1 2 3), .rem { rr 1 2 3 with sub := 1 }] (atS []) = true ∧ allIssue [.div (rr 1 2 3), .rem (rr 1 2 3)] (at0 .a id) = true ∧ (5 : W64) ≠ 0 ∧
    ¬((5 : W64) = 0x8000000000000000 ∧ (3 : W64) = BitVec.allOnes 64) ∧ (4 : W64) &&& 3 = 0 := by decide +kernel
theorem test_meets_scalar_float : allIssue [.fadd { rr 1 2 3 with rm := 7 }, .fsub (rr 1 2 3), .fmul (rr 1 2 3), .fdiv (rr 1 2 3), .ffma { rr 1 2 3 with c := 4 }, .fsqrt (rr 1 2 0),
    .fcmp { rr 1 2 3 with sub := 6 }, .fmin (rr 1 2 3), .fmax (rr 1 2 3), .fcvt { rr 1 2 0 with ft := 3, ft2 := 5 }, .fclass (rr 1 2 0)] (atS []) = true := by decide +kernel
theorem test_meets_control : allIssue [.br (ri 0 2 3 24), .jmp (ri 0 0 0 24), .jmpr (ri 0 2 0 0), .ret (ri 0 2 0 0), .call (ri 31 0 0 24), .loop (ri 2 0 0 24), .nop (sy 0 0), .syncv (sy 0 0)] (atS []) = true ∧
    allIssue [.br (ri 0 2 3 24), .jmpr (ri 0 2 0 0), .ret (ri 0 2 0 0), .loop (ri 2 0 0 24)] (atS [(2, bad)]) = true ∧ (rdS (atS [(2, bad)]) 2).poi = true ∧
    (let q := fun r => at0 .e fun b => { b with q := [(0, { count := 1, tail := 1, slots := [(0, { r := r, landed := true })] })] }
     issues (.brq (ri 0 0x40 0 24)) (q (val 1)) = true ∧ issues (.brq (ri 0 0x40 0 24)) (q bad) = true ∧ (rdS (q bad) 0x40).poi = true) ∧
    issues (.syncv (sy 0 0)) (early id) = true ∧ ((curStrand (early id)).flight.all fun f => f.landed || f.dests.isEmpty) = false := by decide +kernel
/-- A section of two words, once repeated, at address 256: its first and its last word, with repetitions left, with END, and without. -/
theorem test_meets_where_control_goes : let x := fun (pc : W64) (slate : W64) (n : Nat) => ({ pc := pc, base := 256, slate := slate, repIdx := n } : StrandSt)
    let two : W64 := BitVec.ofNat 64 (10 * 2 ^ 60 + 2 ^ 58 + 2 * 2 ^ 50)
    let y := x 264 two 0
    y.rep = none ∧ y.pc.toNat + 12 < sectionEnd y.base y.slate ∧ sectionEnd 256 two ≤ (x 276 two 0).pc.toNat + 12 ∧ inSection 256 two 276 = true ∧ inSection 256 two 256 = false ∧
    slateRepeat two ≤ (x 276 two 1).repIdx ∧ slateEnd two = false ∧ (x 276 (two + 2 ^ 24) 0).repIdx < slateRepeat (two + 2 ^ 24) ∧ slateEnd (two + 2 ^ 23) = true := by decide +kernel
/-- A section of two words, REP and the word after it. -/
def repThen (v : Nat) : State :=
  let slate : W64 := BitVec.ofNat 64 (10 * 2 ^ 60 + 2 ^ 58 + 2 * 2 ^ 50)
  lay (withE (at0 .e id) fun x => { x with slate := slate }) (placeBase + 20) 12 v
theorem test_meets_rep : let r : REP := ⟨hdr0, 1, 1, 0, 0, 0, 0⟩
    let add := repThen 0x010001604000000000000000
    allIssue [.rep r, .rep { r with sc := 1 }] add = true ∧ nextWord add = some (.add (rr 5 0x40 0x40)) ∧ (curStrand add).pc.toNat + 12 < sectionEnd (curStrand add).base (curStrand add).slate ∧
    noStepC (.add (rr 5 0x40 0x40)) = false ∧ isBranch (.add (rr 5 0x40 0x40)) = false ∧ isRep (.add (rr 5 0x40 0x40)) = false ∧
    ((operands .e (.add (rr 5 6 7))).all fun o => stepOk .e r o) = true ∧ ((operands .e (.add (rr 63 6 7))).all fun o => stepOk .e r o) = false ∧
    (nextWord (repThen 0x300000018402FFFFFFFFFFDC)).map isBranch = some true ∧ (nextWord (repThen 0x180000C08000FFFFFFFFFFF0)).map noStepC = some true ∧
    issues (.rep r) (at0 .e id) = true ∧ sectionEnd (curStrand (at0 .e id)).base (curStrand (at0 .e id)).slate ≤ (curStrand (at0 .e id)).pc.toNat + 12 := by decide +kernel

/-- The registers of a strand's scalar file. -/
def atX (st : Strand) (l : Tbl Reg) : State := at0 st fun b => { b with x := l, s := l }
/-- The second GiB maps host memory for every access (R228, R229). -/
def hostPage (s : State) : State := lay s 0x3008 8 (0x7F + 2 ^ 52 + 0x4000000000000)
def xl (s : State) (acc : Acc) (raw : Bool) (va n : Nat) : Except PageFault (List Xlat) := xlat s (curCtx s) acc raw va n
/-- The access translates, and no fence stands before it. -/
def clearTo (s : State) (acc : Acc) (raw : Bool) (va n : Nat) (o : List Piece → MemOp) : Bool :=
  match xl s acc raw va n with | .ok l => !fenced (useXlats s (curCtx s) acc raw l) (o (piecesOf l)) | .error _ => false

theorem test_meets_home_bytes : ({} : Memory).wf = true ∧ (0 < 4) ∧ (0x20 ≤ 0x20 + 4) := by decide +kernel
theorem test_meets_canonical : cellsFrom 0 [(3, 5), (7, 1)] = true ∧ cellsFrom 0 [] = true ∧ (homeWrite {} 30 4 0x01020304 true).wf = true := by decide +kernel
theorem test_meets_points : let q : Piece := { pa := 0x20000, n := 8 }
    (at0 .e id).mem.wf = true ∧ 0 < q.n ∧ q.pa % 128 + q.n ≤ 128 ∧ q.kind = .loc ∧ paLocal (q.pa + q.n) = true ∧ (findLine (clusterOf (at0 .e id) 0).cache (q.pa / 128)).isNone = true ∧
    clusterOfCore 3 = clusterOfCore 0 := by decide +kernel
theorem test_meets_load_and_store : let ok := atX .e [(2, val 0x20000)]
    let far := atX .e [(2, val 0x4000000000)]
    let odd := atX .e [(2, val 0x20001)]
    let ld : Instr := .ld (me 1 2 0 0 3)
    let acq : Instr := .ld { me 1 2 0 0 3 with ord := 1 }
    let st : Instr := .st (me 1 2 0 0 3)
    let rel : Instr := .st { me 1 2 0 0 3 with ord := 2 }
    allIssue [ld, acq, .ldro (me 1 2 0 0 3), st, rel] ok = true ∧ allIssue [ld, .ldro (me 1 2 0 0 3), st] far = true ∧ allIssue [acq, rel] odd = true ∧
    allIssue [ld, st] (atX .e [(2, bad)]) = true ∧ (rdS ok 2).poi = false ∧ isOk (xl far .read false 0x4000000000 8) = false ∧ isOk (xl far .ldro false 0x4000000000 8) = false ∧
    isOk (xl far .write true 0x4000000000 8) = false ∧
    clearTo ok .read false 0x20000 8 (fun p => { kind := .load, va := 0x20000, n := 8, pieces := p }) = true ∧
    clearTo ok .ldro false 0x20000 8 (fun p => { kind := .ldro true, va := 0x20000, n := 8, pieces := p }) = true ∧
    clearTo ok .write true 0x20000 8 (fun p => { kind := .store, va := 0x20000, n := 8, pieces := p, ord := 2 }) = true := by decide +kernel
theorem test_meets_atomics : let ok := atX .e [(2, val 0x20000)]
    let host := hostPage (atX .e [(2, val 0x40000000)])
    let l := [Instr.amo (me 1 2 3 0 3), .cas (me 1 2 3 4 3)]
    let pages := fun s va => xlatPages s (curCtx s) .atomic true va 8
    allIssue l ok = true ∧ allIssue l host = true ∧ allIssue l (atX .e [(2, bad)]) = true ∧ allIssue l (atX .e [(2, val 0x20004)]) = true ∧ allIssue l (atX .e [(2, val 0x4000000000)]) = true ∧
    isOk (pages ok 0x4000000000) = false ∧ (match pages host 0x40000000 with | .ok x => !x.all (scopeOk 0 0) && x.all (scopeOk 0 3) | .error _ => false) = true ∧
    (match pages ok 0x20000 with
     | .ok x => x.all (scopeOk 0 0) && isOk (regionsOk ok (curCtx ok) x) &&
                !fenced (useXlats ok (curCtx ok) .atomic true x) { kind := .amo 0, va := 0x20000, n := 8, pieces := piecesOf x } &&
                !fenced (useXlats ok (curCtx ok) .atomic true x) { kind := .cas, va := 0x20000, n := 8, pieces := piecesOf x }
     | .error _ => false) = true := by decide +kernel
theorem test_meets_atomic_values : (0xFFFFFFFF : Nat) < 2 ^ 32 ∧ (5 : Nat) < 2 ^ 32 := by decide
/-- A copy command in a slot of the core. -/
def oneCopy : CopyCmd := { cmd := 0, task := 0, sup := true, root := placeRoot, key := 0, cq := 0, bar := 0, len := 64 }
theorem test_meets_ordering : let w := me 0 0 0 0 0
    let fence : Instr := .fence { w with ord := 3, scope := 2 }
    let s := at0 .a id
    let held := updStrand s 0 0 .a fun x => { x with flight := [{ id := 0, op := some { kind := .fence, ord := 1 } }], nextId := 1 }
    allIssue [fence, .qmark w, .qfence { w with sub := 1 }, .roinv w, .pref (me 0 2 0 0 0)] s = true ∧ acquirePending (curStrand s) = false ∧ issues (.roinv w) held = true ∧
    acquirePending (curStrand held) = true ∧ issues (.qfence { w with sub := 1 }) (at0k .a fun k => { k with slots := [(3, oneCopy)] }) = true ∧ (queuesOf 1).contains oneCopy.cq = true ∧
    issues (.pref (me 0 2 0 0 0)) (atX .a [(2, bad)]) = true ∧ isOk (xl (atX .a [(2, val 0x4000000000)]) .read false 0x4000000000 1) = false := by decide +kernel
theorem test_meets_futures : let w := me 1 2 0 0 3
    let s := atX .e [(2, val 0x20000)]
    let full := lay s 0x20000 8 (2 ^ 63 + 42)
    let free := fun (s : State) (o : Nat → List Xlat → MemOp) (acc : Acc) => match futureAddr w acc s with
      | .ok r => !fenced (useXlats s (curCtx s) acc acc.writes r.2) (o r.1 r.2) && !waitsBehind s (o r.1 r.2) | .error _ => false
    let word := fun (s : State) => match futureAddr w .read s with
      | .ok r => some (let u := drainFor (useXlats s (curCtx s) .read false r.2) (futureOp w r.1 r.2); strongRead u s.curCore (curFg u) u.curSt (futureOp w r.1 r.2)).1 | .error _ => none
    allIssue [.fset w, .fclr { w with d := 0 }, .fget w, .waita { w with b := 3 }] s = true ∧ free s (fun va l => { kind := .store, va := va, n := 8, pieces := piecesOf l, ord := 2 }) .write = true ∧
    free s (futureOp w) .read = true ∧ mixedSpans s s.curCore (curFg s) s.curSt (futureOp w 0 []) = [] ∧ s.strong = [] ∧ word s = some (0, false) ∧ word full = some (2 ^ 63 + 42, false) ∧ isOk (futureAddr w .read (atX .e [(2, val 0x20004)])) = false ∧
    isOk (futureAddr w .write (atX .e [(2, bad)])) = false ∧ allIssue [.fget w, .waita { w with b := 3 }] full = true ∧
    wrote (nextOf (exec (.fget w) s)) = [] ∧ (curStrand (nextOf (exec (.fget w) s))).park.isSome = true := by decide +kernel
theorem test_meets_barriers : let s := at0 .e fun b => { b with bcnt := 1, s := [(1, val 4)] }
    let l := [Instr.binit (sy 0 1), .bexp (sy 0 1), .bwait (sy 2 1), .btest (sy 2 1), .barr (sy 0 0)]
    allIssue l s = true ∧ allIssue l (at0 .e id) = true ∧ (curBank (at0 .e id)).bcnt.toNat ≤ 0 ∧ 0 < (curBank s).bcnt.toNat ∧ (rdS s 1).poi = false ∧ 4 + 0 ≤ 4095 ∧
    (barView s 0 0).pend.toNat + 4 < 2 ^ 24 ∧ fenced s { kind := .arrive 0 0, ord := 2 } = false ∧ (phaseArg (sy 2 1) s).2 = false ∧ (barView s 0 0).phase ≠ (phaseArg (sy 2 1) s).1 ∧
    (barView (at0 .e fun b => { b with bcnt := 1 }) 0 0).phase = (phaseArg (sy 2 1) (at0 .e fun b => { b with bcnt := 1 })).1 ∧
    issues (.btest { sy 2 1 with imm := 0 }) (at0 .m fun b => { b with bcnt := 1 }) = true := by decide +kernel
theorem test_meets_barrier_cycle : let c := fun (k : BarKind) (n : Nat) => ({ core := 0, bar := 0, kind := k, n := n } : BarChg)
    (c .arrive 1).kind.rank ≠ (c .expect 4).kind.rank ∧ (barSettle { arrv := 1 } [c .arrive 1]).2 = true ∧ (barSettle { arrv := 2 } [c .arrive 1]).2 = false ∧
    (barSettle {} [c .arrive 1]).1 = { ({} : Bar) with undr := true, err := true } ∧ (c .expect 4).kind = .expect := by decide +kernel
/-- A stream descriptor of blocks of 16 INT8 elements, one per row (R446). -/
def stream16 : Nat := 0x20000 + 2 * 2 ^ 64 + 15 * 2 ^ 68 + 16 * 2 ^ 128 + 2 ^ 192
theorem test_meets_queues : let w : RR := rr 0 2 0
    let s := atX .a [(2, val 0x20000)]
    let read := fun (s : State) => match xl s .read false 0x20000 32 with
      | .ok l => let o : MemOp := { kind := .load, va := 0x20000, n := 32, pieces := piecesOf l, ord := 2 }
                 if waitsBehind s o then none else some (readPieces (drainFor (useXlats s (curCtx s) .read false l) o) s.curCore 0 (piecesOf l)).1
      | .error _ => none
    allIssue [.qunb { rr 0 0 0 with imm := 3 }, .qstat { rr 1 0 0 with imm := 8 }, .qbind w] s = true ∧ issues (.qbind w) (atX .a [(2, val 0x20008)]) = true ∧ read s = some (0, false) ∧
    sdOk 0 = false ∧ read (lay s 0x20000 32 stream16) = some (stream16, false) ∧ sdOk (BitVec.ofNat 256 stream16) = true ∧ issues (.qbind w) (lay s 0x20000 32 stream16) = true := by decide +kernel

theorem test_meets_canonical_results : let p := fun et l => canonRuns (etMaxCount et) l
    let long : List Run := (List.range 300).map fun i => (i % 2, 1)
    (p 2 [(5, 300)]).length ≤ 1 * etCap 2 ∧ (∀ r ∈ [((5, 300) : Run)], r.1 < 2 ^ etWidth 2) ∧ 1 * etCap 2 < (p 2 long).length ∧ (p 2 long).length ≤ 2 * etCap 2 ∧
    16777215 < runsTotal (((p 14 [(0, 16777216)]).drop 0).take (etCap 14)) ∧ (p 14 [(0, 16777216)]).length ≤ 1 * etCap 14 := by decide +kernel
/-- INT8 registers v2 to v5, each of 4 elements, and masks k2 and k3 of the same length. -/
def vecs : State := at0 .e fun b => { b with
  v := [(2, vreg 2 [(5, 3), (7, 1)]), (3, vreg 2 [(0xFE, 2), (1, 2)]), (4, vreg 2 [(1, 4)]), (5, vreg 2 [(9, 4)])], k := [(2, mreg [(1, 2), (0, 2)]), (3, mreg [(0, 1), (1, 3)])], s := [(9, val 3)] }
def maskK2 : Hdr := ⟨0, 2, false⟩
/-- The word's elementwise answer exists and fits its group. -/
def answers (s : State) (w : VEC) (a : ElemArgs) (g : Nat) : Bool :=
  match elementwise s w a (oldGroup s w g (vet w)) (some (vet w)) with
  | .ok r => isOk (writeGroup s w.d.toNat g (vet w) r.1 r.2.2.2)
  | .error _ => false
theorem test_meets_elementwise : let a := readGroup vecs 2 1
    let m := readMask vecs 2
    (SoundGroup a 2 4 ∧ SoundGroup (readGroup vecs 3 1) 2 4 ∧ (∀ k, m = some k → SoundMask k 4)) ∧ (predMask vecs { ve 5 2 3 0 2 with hdr := maskK2 }).isSome = true ∧
    predMask vecs (ve 5 2 3 0 2) = none ∧ (oldGroup vecs { ve 5 2 3 0 2 with hdr := maskK2 } 1 2).isSome = true := by
  refine ⟨⟨?_, ?_, ?_⟩, ?_⟩
  · simp only [SoundGroup]; decide +kernel
  · simp only [SoundGroup]; decide +kernel
  · intro k h; cases h; simp only [SoundMask]; decide +kernel
  · decide +kernel
theorem test_meets_elementwise_checks : let a := readGroup vecs 2 1
    let stale := readGroup (at0 .e fun b => { b with v := [(2, { vreg 2 [(5, 4)] with stale := true })] }) 2 1
    stale.stale = true ∧ a.stale = false ∧ a.etOk 2 = true ∧ a.etOk 3 = false ∧ (readGroup (at0 .e fun b => { b with v := [(4, vreg 2 [(1, 5)])] }) 4 1).ll ≠ a.ll ∧
    ((predMask (at0 .e fun b => { b with k := [(2, mreg [(1, 5)])] }) { ve 5 2 3 0 2 with hdr := maskK2 }).map Grp.ll) = some 5 := by decide +kernel
theorem test_meets_elementwise_words : let w := ve 5 2 3 0 2
    let u := { w with bsel := 1, b := 9 }
    let i := { w with bsel := 2, b := 0, imm := 3 }
    let two := fun (w : VEC) => [Instr.vadd w, .vsub w, .vmul w, .vmin w, .vmax w, .vand w, .vor w, .vxor w, .vshl w, .vshr w]
    allIssue (two w ++ two u ++ two i) vecs = true ∧
    allIssue [.vabs { w with b := 0 }, .vneg { w with b := 0 }, .vsfu (ve 5 2 0 0 14), .vfma { w with c := 4 }, .vsel { w with c := 2 }, .vclamp { w with c := 4 }, .vcvt { ve 5 2 0 0 2 with sub := 2 }, .vcmp { w with d := 4 }] vecs = true ∧
    answers vecs w { groups := [(readGroup vecs 2 1, 2), (readGroup vecs 3 1, 2)], op := fun v => vopAdd (vctx vecs w) (v.getD 0 0) (v.getD 1 0) } 1 = true ∧
    answers vecs { w with hdr := maskK2 } { groups := [(readGroup vecs 2 1, 2)], op := fun v => vopNeg (vctx vecs w) (v.getD 0 0) } 1 = true ∧
    answers vecs w { groups := [(readGroup vecs 2 1, 2), (readGroup vecs 3 1, 2)], masks := (readMask vecs 2).toList, op := fun v => (if v.getD 2 0 = 1 then v.getD 0 0 else v.getD 1 0, 0) } 1 = true ∧
    isOk (elementwise vecs (ve 5 2 3 0 3) { groups := [(readGroup vecs 2 1, 3)], op := fun v => (v.getD 0 0, 0) } none (some 3)) = false ∧
    (elementwise vecs { w with d := 4 } { groups := [(readGroup vecs 2 1, 2), (readGroup vecs 3 1, 2)], op := fun v => vopCmp 0 (vctx vecs w) (v.getD 0 0) (v.getD 1 0) } (oldMask vecs { w with d := 4 }) none |>.toOption.map
      fun r => isOk (writeMask vecs 4 r.1 r.2.2.2)) = some true := by decide +kernel
theorem test_meets_integer_elements : etInt (vctx vecs (ve 5 2 3 0 2)).et = true ∧ (vctx vecs (ve 5 2 3 0 2)).et < 15 := by decide +kernel
theorem test_meets_vector_build : let g := fun (f : BitVec 7) => readGroup vecs f 1
    allIssue [.vsplat (ve 6 9 9 0 2), .viota { ve 6 9 9 9 2 with imm := 1 }, .vcat (ve 6 2 3 0 2), .vrev (ve 6 2 0 0 2), .vslice { ve 6 2 9 9 2 with imm := 1 }, .vext { ve 6 2 9 0 2 with imm := 0 },
      .vins { ve 6 2 9 9 2 with imm := 0 }, .vsetl { ve 6 2 9 0 2 with imm := 1 }, .vlen { ve 6 2 0 0 0 with sub := 3 }, .vrco (ve 2 0 0 0 2)] vecs = true ∧
    isOk (contentStale vecs (ve 6 2 3 0 2) 1 2 [g 2, g 3]) = true ∧ isOk (contentStale vecs (ve 6 2 3 0 2) 1 2 []) = true ∧ (g 2).stale = false ∧ (g 2).etOk 2 = true ∧ (rdS vecs 9).poi = false ∧
    (0 < (rdS vecs 9).v.toNat + 0 ∧ (rdS vecs 9).v.toNat + 0 ≤ 16777215) ∧ (rdS vecs 9).v.toNat % 256 ≠ 0 ∧ (g 2).ll < 3 + (3 + 1) ∧ 0 + (3 + 1) ≤ (g 2).ll ∧ (g 2).ll ≤ 3 + 1 ∧ 3 + 0 < (g 2).ll ∧
    isOk (writeGroup vecs 6 1 2 (sliceRuns ((g 2).runs 2) 0 3 ++ [(3, 1)] ++ sliceRuns ((g 2).runs 2) 4 0) false) = true ∧
    isOk (writeGroup vecs 2 1 2 (((readGroup vecs 2 1).regs.map fun r => clean (curBank vecs) 2 (vecRuns 2 r)).flatten) false) = true := by decide +kernel
theorem test_meets_run_lists : (∀ r ∈ [((5, 3) : Run), (7, 1)], 0 < r.2) ∧ 1 + 3 ≤ (spreadRuns [(5, 3), (7, 1)]).length := by decide +kernel
/-- Tile 3 of cluster 0 is acc0 of the bank, with one vector of 256 elements, and park slots. -/
def tiles : State := at0 .e fun b => { b with accmap := 32 + 3, parkav := 128, v := [(2, vreg 12 [(5, 255), (6, 1)])] }
theorem test_meets_accumulator_rows : let w : VEC := ve 2 0 0 0 12
    (accTileOf (curBank tiles) (accOf w)).toOption = some 3 ∧ allIssue [.vlda w, .vsta w, .vpark (ve 0 2 0 0 0), .vunpk (ve 2 0 0 0 2)] tiles = true ∧ tileBusy tiles 0 0 3 = false ∧
    tileBusy (updCluster tiles 0 fun k => { k with running := some { w := .mset ma, core := 0, task := 0, bank := 0, ent := 0, tile := 3 } }) 0 0 3 = true ∧
    aftOk (accTile (clusterOf tiles 0) 3) 12 = true ∧ (readGroup tiles 2 1).stale = false ∧ (readGroup tiles 2 1).etOk 12 = true ∧ (readGroup tiles 2 1).ll = 256 ∧
    isOk (parkPlace (curBank tiles) (parkSlot (ve 0 2 0 0 0))) = true ∧ isOk (writeGroup tiles 2 1 12 ((List.range 256).map fun _ => (0, 1)) false) = true := by decide +kernel
theorem test_meets_reductions : let w := ve 6 2 0 0 2
    allIssue [.vrsum w, .vrmax w, .vrmin w, .vrdot { w with b := 3 }, .vsegsum { w with c := 2 }, .vsegmax { w with c := 2 }, .vscan { w with c := 2, sub := 1 }] vecs = true ∧
    isOk (reducePieces vecs w [readGroup vecs 2 1]) = true ∧ isOk (reducePieces vecs w [readGroup vecs 2 1, readGroup vecs 3 1]) = true ∧
    isOk (reducePieces vecs { w with et := 3 } [readGroup vecs 2 1]) = false ∧ (readMask vecs 2).map (fun m => (m.stale, m.ll)) = some (false, (readGroup vecs 2 1).ll) ∧
    (wroteRuns 2 (nextOf (exec (.vsegsum { w with c := 2 }) vecs))).length = 1 ∧ (wroteRuns 2 (nextOf (exec (.vscan { w with c := 2, sub := 1 }) vecs))).length = 1 := by decide +kernel
/-- Two FP32 vectors of 4 probabilities. -/
def drafts : State := at0 .e fun b => { b with v := [(20, vreg 14 [(0x3F000000, 4)]), (21, vreg 14 [(0x3F000000, 4)])] }
theorem test_meets_masks : let w := ve 5 2 3 0 0
    let d : VEC := { ve 7 0 0 0 14 with imm := 20 + 21 * 2 ^ 7 + 3 * 2 ^ 14 }
    allIssue [.kand w, .kor w, .kxor w, .knot { w with b := 0 }, .kmov { w with b := 0 }, .kcnt { w with b := 0 }, .kfirst { w with b := 0 }] vecs = true ∧ isOk (maskElems { w with b := 0 } vecs) = true ∧
    (wroteRuns 0 (nextOf (exec (.kxor w) vecs))).length = 1 ∧ (wroteRuns 0 (nextOf (exec (.knot { w with b := 0 }) vecs))).length = 1 ∧
    issues (.dacc d) drafts = true ∧ (readGroup drafts 20 1).stale = false ∧ (readGroup drafts 20 1).etOk 14 = true ∧ (readGroup drafts 20 1).ll = (readGroup drafts 21 1).ll ∧ (readGroup drafts 20 1).ll ≤ 64 ∧
    (wrote (nextOf (exec (.dacc d) drafts))).length = 2 := by decide +kernel

/-- The word completes: no trap, and the strand stands past its one-word section. -/
def completes (i : Instr) (s : State) : Bool := causeOf (nextOf (exec i s)) == 0 && (curStrand (nextOf (exec i s))).phase == .slate
/-- A tensor of 4 rows of 16 INT8 elements, one tile, at 0x40000, in the table at 0x30000 of the launch of task 1, which runs on the core. -/
def tdInt8 : Nat := 0x40000 + 2 ^ 57 + 16 * 2 ^ 64 + 4 * 2 ^ 88 + 0x2003 * 2 ^ 112 + 2 * 2 ^ 176 + 4 * 2 ^ 184 + 16 * 2 ^ 192
def tasked (st : Strand) (f : Bank → Bank) : State :=
  let s := at0 st fun b => f { b with task := some 1, tdtbase := 0x30000 }
  { lay s 0x30000 64 tdInt8 with tasks := [(1, { launch := 1 })], nextTask := 2, nextLaunch := 2, launches := [(1, { img := BitVec.ofNat 1024 (2 ^ 192), root := placeRoot, key := 0, die := 0, src := 0, prio := 0, outstanding := 1 })] }
/-- Address 0x20000 in s2, a count of 4 in s3, and the row lengths' pitch and number in s4. -/
def vmem : State :=
  let s := at0 .e fun b => { b with s := [(2, val 0x20000), (3, val 4), (4, val (2 + 8 * 2 ^ 16 + 16 * 2 ^ 32)), (5, val 0x21000)], v := [(2, vreg 2 [(5, 3), (7, 1)]), (3, vreg 13 [(1, 2), (4, 1)]), (4, vreg 2 [(1, 2), (2, 1)])] }
  lay s 0x21000 4 0x00030002
theorem test_meets_vector_memory : let w := ve 6 2 3 0 2
    let t := tasked .e fun b => { b with s := [(2, val 0)] }
    let tf := tensorForm { w with b := 3, sub := 1 } t
    allIssue [.vld w, .vst { w with d := 2, b := 0 }, .vldp { w with b := 0 }, .vstp { ve 2 2 0 0 0 with b := 0 }, .vldrg { w with b := 5, c := 4, imm := 3 }, .vgath w, .vscat { w with d := 4 }] vmem = true ∧
    ((rdS vmem 2).poi = false ∧ (vmOrd w = 0 ∨ (0x20000 : Nat) % 32 = 0) ∧ (rdS vmem 3).poi = false ∧ (rdS vmem 3).v.toNat ≤ 16777215) ∧
    isOk (vmRead w vmem [(0x20000, 4)]) = true ∧ issues (.vld { w with b := 3, sub := 1 }) t = true ∧
    (match tf with
     | .ok r => decide (tagFmt r.1.tag.tag = etFmtCode 2) && !tagUnk r.1.tag.tag && !r.1.stale && decide (tagSpc r.1.tag.tag = 0) && isOk (tformRows { w with b := 3, sub := 1 } r.1) && isOk (vmRead w r.2 (r.1.rows 8))
     | .error _ => false) = true ∧
    completes (.vld w) vmem = true ∧ (curStrand (nextOf (exec (.vld { w with b := 3, sub := 1 }) t))).phase = .slate ∧ completes (.vst { w with d := 2, b := 0 }) vmem = true ∧ completes (.vldp { w with b := 0 }) vmem = true ∧
    completes (.vstp { ve 2 2 0 0 0 with b := 0 }) vmem = true ∧ completes (.vldrg { w with b := 5, c := 4, imm := 3 }) vmem = true ∧ completes (.vgath w) vmem = true ∧ completes (.vscat { w with d := 4 }) vmem = true ∧
    causeOf (nextOf (exec (.vldrg { w with b := 5, c := 3, imm := 3 }) vmem)) = 0x309 ∧ (readGroup vmem 2 1).ll = 4 ∧ idxOk (readGroup vmem 3 1) = true ∧
    (readGroup vmem 4 1).ll = (readGroup vmem 3 1).ll := by decide +kernel

/-! The matrix array: core 0 holds the lease of its cluster; acc0 is tile 3; w0 of task 1 is slot 7. -/

/-- A slot that holds a filled tile of 64 by 16 INT8 weights. -/
def slot7 (fmt spc : Nat) : WSlot := { src := { root := placeRoot, key := 0, tdt := 0x30000, ref := 0, fbase := 0x40000, tag := 0x2003 }, filled := true, fmt := fmt, spc := spc, rows := 64, cols := 16 }
def matS (fmt spc : Nat) (mconf : W64) (f : Cluster → Cluster) (g : Bank → Bank) : State :=
  let s := tasked .m fun b => g { b with accmap := 32 + 3, scrsize := 0x10000, mconf := mconf }
  updTask (updCluster s 0 fun k => f { k with holder := some 0, slots := [(7, slot7 fmt spc)] }) 1 fun t => { t with wmap := [(0, some 7)] }
theorem test_meets_lease_and_index : let s := at0 .m id
    let held := updCluster s 0 fun k => { k with holder := some 0 }
    let poisoned := at0 .m fun b => { b with i := [(1, { v := 0, poi := true })] }
    allIssue [.macq ma, .mrel ma, .mcfg { ma with ia := 1, ib := 2 }, .midx ma, .midx { ma with sub := 1 }, .midx { ma with sub := 2 }] s = true ∧ allIssue [.macq ma, .mrel ma] held = true ∧
    (clusterOf held 0).holder = some (0 % 4) ∧ (clusterOf s 0).holder ≠ some (0 % 4) ∧ (clusterOf held 0).running = none ∧ issues (.mcfg { ma with ia := 1, ib := 2 }) poisoned = true ∧
    (readIdx (coreTime poisoned 0) (curBank poisoned) 1).poi = true ∧ mconfOk 0 = true ∧ mconfOk (BitVec.allOnes 64) = false ∧
    issues (.mrel ma) (updCluster held 0 fun k => { k with running := some { w := .mset ma, core := 0, task := 0, bank := 0, ent := 0 } }) = true := by decide +kernel
/-- The word issues, and its command is accepted as the running one. -/
def accepted (i : Instr) (s : State) : Bool := issues i s && (clusterOf (nextOf (exec i s)) 0).running.isSome
theorem test_meets_array_commands : let int := matS 3 0 0x84 id id
    let fp := matS 9 0 0x9 (fun k => { k with acc := [(3, { aft := true })] }) id
    let mm : MAT := { ma with mm1 := 15, nm1 := 15, str := 2 }
    accepted (.mset ma) int = true ∧ accepted (.mldacc ma) int = true ∧ accepted (.mrowsum { mm with nm1 := 0, ib := 1 }) int = true ∧ accepted (.mma mm) int = true ∧
    accepted (.mmas mm) (matS 3 1 0x84 id id) = true ∧ accepted (.mola { mm with str := 0 }) fp = true ∧ accepted (.mrowsum { ma with nm1 := 15, sub := 1 }) int = true ∧
    accepted (.mdrain { ma with mm1 := 15, nm1 := 15 }) int = true ∧ nbit (nbits (curBank int).accmap.toNat 0 6) 5 = true := by decide +kernel
/-- Whether an answer is that of a word that issues. -/
def takes (r : Except Stop Out) : Option Bool := match r with | .ok o => some o.issued | .error _ => none
theorem test_meets_acceptance : let s := matS 3 0 0x84 id id
    let m : MCmd := { newCmd s (.mma { ma with mm1 := 15, nm1 := 15, str := 2 }) with slot := some 7 }
    let k := clusterOf s 0
    (weightSlot k 7).map WSlot.filled = some true ∧ k.holder = some (0 % 4) ∧ (k.releasing = false ∧ budgetSpent s 0 = false ∧ k.behind = none ∧ (curBank s).cut = none ∧ (curBank s).saved = none) ∧
    k.running = none ∧ takes (acceptCmd s m) = some true ∧ takes (acceptCmd (updCluster s 0 fun k => { k with running := some m }) m) = some true ∧
    takes (acceptCmd (updCluster s 0 fun k => { k with running := some m, behind := some m }) m) = some false ∧ takes (acceptCmd (updCluster s 0 fun k => { k with holder := some 1 }) m) = some false ∧
    takes (acceptCmd (updCluster s 0 fun k => { k with slots := [(7, { slot7 3 0 with filled := false })] }) m) = some false := by decide +kernel
/-- A weight tensor of one INT8 tile of 64 by 16, in the array's layout (R66, R198). -/
def tdWeights : Nat := 0x40000 + 2 ^ 57 + 16 * 2 ^ 64 + 64 * 2 ^ 88 + 0x2803 * 2 ^ 112 + 6 * 2 ^ 176 + 4 * 2 ^ 184 + 16 * 2 ^ 192
/-- What MLDW reads for a reference (R197). -/
def loads (s : State) (ref : Nat) : Except PageFault (Nat × TagRead × Bool × State) := mldwReads s (bankCtx s.curCore (curBank s)) (curBank s).tdtbase.toNat ref
theorem test_meets_weight_load : let s := (fun s => lay s 0x30000 64 tdWeights) <| matS 3 0 0x84 id fun b => { b with i := [(1, { v := 0 }), (2, { v := 0x400000 }), (3, { v := 1 }), (4, { v := 0x400000 })] }
    let gone := lay (matS 3 0 0x84 id id) 0x2000 8 0
    allIssue [.mldw { ma with ia := 1 }, .mldw { ma with ia := 2 }, .mldw { ma with ia := 3 }, .mdrain { ma with ia := 4, sub := 4 }] s = true ∧ (curBank s).task.isSome = true ∧
    refTid 0 < lrTdtn (taskLr s 1) ∧ ¬refTid 0x400000 < lrTdtn (taskLr s 1) ∧ (match loads s 1 with | .ok r => decide (tdTiles r.1 ≤ refIdx 1) | .error _ => false) = true ∧
    (match loads s 0 with | .ok r => decide (refIdx 0 < tdTiles r.1) && mldwTagOk r.1 0 r.2.1 && r.2.2.1 | .error _ => false) = true ∧ isOk (loads gone 0) = false ∧
    drainTensor { ma with ia := 4, sub := 4 } = true ∧ nbit (nbits (curBank s).accmap.toNat 0 6) 5 = true := by decide +kernel

/-! Copy words and reels. -/

/-- Destination, source, length, an offset or stride pair, and a notify pair, in x4 to x11; one barrier. -/
def copyS (dst len : Nat) : State :=
  at0 .a fun b => { b with bcnt := 1, x := [(4, val (BitVec.ofNat 64 dst)), (5, val 0x21000), (6, val (BitVec.ofNat 64 len)), (8, val 0x40000040), (9, val 0), (10, val 0x22000), (11, val 7)] }
def copyWords (w : CPY) : List (Instr × Nat) := [(.cpy w, 0), (.cpys { w with aux := 8 }, 1), (.cpyg { w with aux := 8 }, 2), (.cpysc { w with aux := 8 }, 3), (.cpyr { w with scope := 2 }, 4), (.cpyf w, 5),
  (.pflush { w with src := 0 }, 6), (.pinv { w with src := 0 }, 7), (.cpyn { w with dst := 0, src := 0, len := 0, note := true, nrg := 10 }, 8)]
def cpyOf (i : Instr) : CPY := match i with | .cpy w | .cpys w | .cpyg w | .cpysc w | .cpyr w | .cpyf w | .pflush w | .pinv w | .cpyn w => w | _ => cp 0 0 0
theorem test_meets_copy_words : let w := cp 4 5 6
    let s := copyS 0x20000 64
    (copyWords w).all (fun x => issues x.1 s && isOk (buildCopy x.2 (cpyOf x.1) s) && !isOk (buildCopy x.2 { cpyOf x.1 with bar := 1 } s)) = true ∧
    freeSlots (coreOf s 0) ≠ [] ∧ waitsBehind s { kind := .store } = false ∧ (barView s 0 0).pend.toNat + 64 < 2 ^ 24 := by decide +kernel
/-- A core whose slots are all taken. -/
theorem test_meets_no_free_slot : freeSlots { slots := (List.range 1024).map fun n => (n, oneCopy) } = [] := by
  simp only [freeSlots, List.filter_eq_nil_iff, List.mem_range]
  intro n h
  simp [h]
theorem test_meets_copy_full_barrier : let s := barChange (copyS 0x20000 64) 0 0 .expect (2 ^ 24 - 1)
    2 ^ 24 ≤ (barView s 0 0).pend.toNat + 64 ∧ isOk (buildCopy 0 (cp 4 5 6) s) = true ∧ issues (.cpy (cp 4 5 6)) s = true ∧ copyNames s 0 0 = false := by decide +kernel
/-- An RCB at 0x20000 with a ring of two entries at 0x22000, and its STATE, HEAD and TAIL. -/
def reelS (st head tail : Nat) : State :=
  lay (atX .a [(1, val 0x20000), (2, val 0x21000), (3, bad), (4, val 0x20040)]) 0x20000 128 (0x22000 + (1 + st * 2 ^ 8) * 2 ^ 64 + head * 2 ^ 128 + tail * 2 ^ 160)
theorem test_meets_reels : let w := rr 0 1 2
    let s := reelS 0 3 4
    let block := fun s acc => match reelBlock s 0x20000 acc with | .ok r => some (rcState r.2.1.1, (rcTail r.2.1.1 + 2 ^ 32 - rcHead r.2.1.1) % 2 ^ 32, 2 ^ rcLog r.2.1.1) | .error _ => none
    allIssue [.reelapp w, .reellnk w, .reelkick { w with b := 0 }, .reelstat { w with d := 6, b := 0 }] s = true ∧
    allIssue [.reelapp { w with a := 3 }, .reelapp { w with a := 4 }, .reellnk { w with a := 4 }] s = true ∧ block s .read = some (0, 1, 2) ∧ block s .write = some (0, 1, 2) ∧
    block (reelS 1 3 4) .write = some (1, 1, 2) ∧ block (reelS 0 3 5) .write = some (0, 2, 2) ∧ isOk (xl s .write true 0x20000 128) = true ∧ isOk (xl s .read false 0x21000 64) = true ∧
    (match xl s .write true 0x22000 64 with | .ok l => l.all (fun x => x.kind = .loc) | .error _ => false) = true ∧
    completes (.reelapp w) s = true ∧ completes (.reellnk w) s = true ∧ completes (.reelkick { w with b := 0 }) s = true ∧ completes (.reelstat { w with d := 6, b := 0 }) s = true := by decide +kernel
theorem test_meets_reel_kick_full : let s := updCore (reelS 0 0 0) 0 fun k => { k with reels := (List.range 64).map fun n => { rcb := 0x30000 + 128 * n, task := 0, root := placeRoot, key := 0, sup := true } }
    issues (.reelkick (rr 0 1 0)) s = true ∧ (match reelBlock s 0x20000 .write with | .ok r => decide (64 ≤ (coreOf (releaseAction r.2.2 0 2) 0).reels.length) && r.2.2.curCore == 0 | .error _ => false) = true := by
  decide +kernel

/-! Task words, tables and pool words. -/

/-- The task of `tasked`, with some registers of E. -/
def taskS (l : Tbl Reg) : State := tasked .e fun b => { b with s := l }
/-- A task record of OPID 7 without operands (R40, R473). -/
def spawnRec : Nat := 7 + 7 * 2 ^ 320
theorem test_meets_task_words : let w := rr 1 2 0
    let s := lay (taskS [(2, val 0x20000)]) 0x20000 64 spawnRec
    let full := updDie s 0 fun d => { d with spawnBuf := List.range 64, launchBuf := List.replicate 64 { img := 0, root := 0, key := 0, prio := 0 } }
    let rec_ := fun s n => match readReleased s 0x20000 n with
      | .ok r => some (r.1.2, spawnOk r.1.1 (lrTdtn (taskLr r.2 1)) && !launchOver (launchOf r.2 (taskOf r.2 1).launch), (dieOf r.2 0).spawnBuf.length, (dieOf r.2 0).launchBuf.length) | .error _ => none
    allIssue [.tspawn w, .lnch { w with d := 0 }, .ttagr w] (taskS [(2, bad)]) = true ∧ allIssue [.tspawn w, .lnch { w with d := 0 }, .tret (rr 0 0 0), .tyield (rr 0 0 0), .tqry { rr 1 0 0 with imm := 1 }] s = true ∧
    issues (.tspawn w) (taskS [(2, val 0x20004)]) = true ∧ rec_ s 64 = some (false, true, 0, 0) ∧ rec_ (taskS []) 64 = some (false, false, 0, 0) ∧ rec_ full 128 = some (false, true, 64, 64) ∧
    allIssue [.widf { rr 1 2 0 with sub := 1, imm := 0 }, .widf { rr 1 2 0 with sub := 1, imm := 8 }, .widf { rr 1 2 0 with sub := 1, imm := 16 }, .widf { rr 1 0 0 with imm := 29 }] s = true := by decide +kernel
theorem test_meets_yield_and_tags : let s := taskS [(2, val 0)]
    let gang := updTask s 1 fun t => { t with glev := 7 }
    let k := coreOf gang 0
    ((curBank gang).task = some 1 ∧ (taskOf gang 1).glev = 7 ∧ k.spillAt = none ∧ (bankSel k (shadow k)).task = none) ∧ issues (.tyield (rr 0 0 0)) gang = true ∧
    issues (.tyield (rr 0 0 0)) (at0 .e id) = true ∧ (curBank (at0 .e id)).task = none ∧
    issues (.ttagr (rr 1 2 0)) s = true ∧ (match operandRef s 0 with | .ok r => isOk (readTagAcq r.2 r.1 0) | .error _ => false) = true := by decide +kernel
/-- The tensor of `tasked` with a tag map at 0x38000. -/
def tdMapped : Nat := tdInt8 + 0x38000 * 2 ^ 384
theorem test_meets_tables : let w := rr 0 2 3
    let s := lay (taskS [(2, val 0), (3, val 0x2003), (4, val 0x10000), (5, val 0x20000), (6, val 5), (7, val 1024)]) 0x30000 64 tdMapped
    let none_ := taskS [(2, val 0), (3, val 0x2003)]
    let tagw := fun s => match operandRef s 0 with
      | .ok r => some (tdTmap r.1 != 0, match xlat r.2 (curCtx r.2) .write false (tdTmap r.1) 2 with | .ok l => l.all (fun x => tagKindOk r.1 x.kind) | .error _ => false, heldByFence r.2) | .error _ => none
    let sys := lay (atS [(5, val 0x20000), (6, val 5), (4, val 0x10000)]) 0x20000 32 (2 * 2 ^ 176 + 2 ^ 253)
    let del := { sys with methods := [(5, BitVec.ofNat 256 (2 * 2 ^ 176 + 2 ^ 253))] }
    let image := fun (s : State) => match xl s .read false 0x20000 32 with
      | .ok l => let o : MemOp := { kind := .load, va := 0x20000, n := 32, pieces := piecesOf l, scope := 2, ord := 1 }
                 let r := readPieces (drainFor (useXlats s (curCtx s) .read false l) o) 0 2 (piecesOf l)
                 some (waitsBehind s o, r.1.2, imageOk r.1.1, r.2.curCore)
      | .error _ => none
    allIssue [.ttagw w, .ttagw { w with b := 4 }] s = true ∧ issues (.ttagw w) none_ = true ∧ tagw s = some (true, true, false) ∧ tagw none_ = some (false, true, false) ∧ completes (.ttagw w) s = true ∧
    allIssue [.tdesc { rr 1 2 0 with imm := 1 }, .tdesc (rr 1 7 0)] s = true ∧ lrTdtn (taskLr s 1) = 1 ∧ isOk (readAt s (curCtx s) 2 (0x30000 + 8) 8) = true ∧
    allIssue [.mtins (rr 1 5 6), .mtins (rr 1 5 4)] sys = true ∧ image sys = some (false, false, true, 0) ∧ issues (.mtins (rr 1 5 6)) (atS [(5, val 0x20000), (6, val 5)]) = true ∧
    image (atS []) = some (false, false, false, 0) ∧ allIssue [.mtdel (rr 1 0 6), .mtdel (rr 1 0 4)] del = true ∧ mtVal (method del 5) = true ∧ mtVal (method sys 5) = false := by decide +kernel
/-- The pool agent holds the two lines of the queue (a fill from the head may find damage, which is a free choice: log entry 195). -/
def heldLines (s : State) : State :=
  let f := fun (ln : Nat) => ({ line := ln, data := homeLine s.mem ln, valid := allBytes, poison := linePoison s.mem ln, kind := .coh } : Line)
  { s with pool := { s.pool with north := [f 0x100000000000, f 0x100000000001] } }
/-- The second GiB maps the pool aperture of head 0; PRT entry 0, at 0x50000, gives its first four granules to key 0 as COH in STATE 1. The header of a queue of two entries stands there, with
PI, CI, CLOSED and the entries' sequence words; a buffer is at 0x20000. -/
def queueS (pi ci closed : Nat) (seqs : List Nat) : State :=
  let s := lay (atS [(2, val 0x40000000), (3, val 0x20000), (4, val 0x40000001)]) 0x3008 8 (0x7F + 2 * 2 ^ 52 + 0x8000000000000)
  let s := { lay s 0x50000 32 (2 ^ 51 + 3 * 2 ^ 28) with pool := { s.pool with prtbase := 0x50000, heads := [(0, { state := 1, accepted := [(0, 4)] })] } }
  let s := lay s 0x8000000000000 18 (pi + ci * 2 ^ 64 + (1 + closed * 2 ^ 8) * 2 ^ 128)
  heldLines ((seqs.zipIdx).foldl (fun s x => lay s (0x8000000000080 + 64 * x.2) 8 x.1) s)
theorem test_meets_queue_header : let w := rr 1 2 3
    let s := queueS 0 0 0 [0, 1]
    let out := fun (i : Instr) s => (causeOf (nextOf (exec i s)), (curStrand (nextOf (exec i s))).park.isSome, (rdS (nextOf (exec i s)) 1).v)
    allIssue [.nqpost w, .nqtake w, .nqpost { w with a := 4 }] s = true ∧ isOk (queueHeader { w with a := 4 } .read s) = false ∧ isOk (queueHeader { w with a := 4 } .write s) = false ∧
    out (.nqpost w) s = (0, false, 0) ∧ out (.nqpost w) (queueS 0 0 1 [0, 1]) = (0, false, BitVec.allOnes 64) := by decide +kernel
theorem test_meets_queue_waits : let w := rr 1 2 3
    let out := fun (i : Instr) s => (causeOf (nextOf (exec i s)), (curStrand (nextOf (exec i s))).park.isSome, (rdS (nextOf (exec i s)) 1).v)
    out (.nqpost w) (queueS 2 0 0 [1, 2]) = (0, true, 0) ∧ out (.nqtake w) (queueS 1 0 0 [1, 1]) = (0, false, 0) ∧ out (.nqtake w) (queueS 0 0 0 [0, 1]) = (0, true, 0) ∧
    out (.nqtake { w with imm := 1 }) (queueS 0 0 0 [0, 1]) = (0, false, BitVec.allOnes 64) := by decide +kernel
theorem test_meets_leases : let s := queueS 0 0 0 []
    let t := updBank s 0 0 fun b => { b with s := [(2, val 0), (3, val 0x20000), (4, val 2), (5, val 1), (6, bad), (7, val 0x20008), (8, val 0x40000000), (9, val 1024)] }
    allIssue [.lrenew (rr 0 2 0), .lrenew (rr 0 5 0), .lrenew (rr 0 6 0)] t = true ∧ (prtKind (prtEntry t 0) = 0 ∧ prtState (prtEntry t 0) = 1) ∧ prtState (prtEntry t 1) = 0 ∧
    allIssue [.orphx { rr 1 3 2 with c := 4 }, .orphx { rr 1 7 2 with c := 4 }, .orphx { rr 1 8 2 with c := 4 }, .orphx { rr 1 3 9 with c := 4 }] t = true ∧ orphansFor t 0 = some [] ∧ orphansFor t 1024 = none ∧
    (match xl t .write true 0x20000 320, xl t .write true 0x40000000 320 with
     | .ok l, .ok m => l.all (fun x => x.kind = .loc) && m.any (fun x => x.kind != .loc) && !heldByFence t | _, _ => false) = true := by decide +kernel

/-! Control and status registers, system words and traps. -/

theorem test_meets_csrs : let s := atS [(2, val 5), (3, bad), (4, val (BitVec.allOnes 64))]
    let w := { sy 1 2 with csr := 0x20 }
    allIssue [.csrr { w with a := 0 }, .csrw w, .csrs w, .csrc w, .csrw { w with a := 3 }, .csrw { w with csr := 5, a := 4 }] s = true ∧ csrRefuses 0x20 5 = false ∧ csrRefuses 5 (BitVec.allOnes 64) = true ∧
    ((List.range 0xC1).any fun n => (csrLate n).isSome) = true ∧ csrLate 5 = none := by decide +kernel
theorem test_meets_system : let s := atS [(2, val 3), (3, bad), (4, val (BitVec.ofNat 64 (2 ^ 34))), (5, val 600), (6, val 0), (7, val 1)]
    let w := sy 0 6
    let shadowed := updBank s 1 1 fun b => { b with task := some 1 }
    allIssue [.trap { sy 0 0 with imm := 7 }, .bkpt (sy 0 0), .eret (sy 0 3), .eret (sy 0 2), .eret (sy 0 4), .eret w, .tlbinv (sy 0 0), .tlbinv { w with sub := 1 }, .halt (sy 0 0), .idle (sy 0 0), .swapb (sy 1 3),
      .swapb (sy 1 5), .swapb (sy 1 7), .spill (sy 1 3), .spill (sy 1 5), .spill (sy 1 7)] s = true ∧ issues (.eret w) (at0 .a id) = true ∧ (rdS s 6).v = 0 ∧ s.curSt = .e ∧
    (rowsOut s = false ∧ deviceHeld s = false) ∧ ((dieOf s 0).intFq || (dieOf s 0).intMc) = false ∧ (selBad s 600 = true ∧ selBad s 1 = false) ∧
    ((bankOf shadowed 1 0).task.isNone && (bankOf shadowed 1 1).task.isNone) = false ∧ gangLeaves shadowed 1 = [] ∧ gangComes shadowed 1 = [] ∧ (forceSwaps shadowed 1).isSome = true ∧ allIssue [.swapb (sy 1 7), .spill (sy 1 7)] shadowed = true ∧
    (bankSel (coreOf shadowed 1) (shadow (coreOf shadowed 1))).task.isNone = false ∧ (coreOf shadowed 1).shst ≠ 1 ∧ (coreOf shadowed 1).shst ≠ 3 ∧ (coreOf shadowed 1).swapAt = none ∧
    freeArea shadowed 0 = none ∧ bankLanded (bankSel (coreOf shadowed 1) (shadow (coreOf shadowed 1))) = true := by decide +kernel
theorem test_meets_system_areas : let s := updBank (atS [(7, val 1)]) 1 1 fun b => { b with task := some 1 }
    let areas := updDie s 0 fun d => { d with ctxn := 1 }
    let gang := { s with tasks := [(1, { glev := 0 })] }
    let staged := updCore s 1 fun k => { k with shst := 1 }
    allIssue [.swapb (sy 1 7), .spill (sy 1 7)] gang = true ∧ allIssue [.spill (sy 1 7)] areas = true ∧ freeArea areas 0 = some 0 ∧ allIssue [.spill (sy 1 7)] staged = true ∧
    (coreOf staged 1).shst = 1 ∧ (coreOf staged 1).swapAt = none := by decide +kernel
theorem test_meets_traps : let sys := at0 .e id
    let task := taskS []
    tvalStated 0x04 = true ∧ ((coreOf sys 0).sys = true ∧ (fgBank (coreOf sys 0)).task = none) ∧ ((coreOf task 0).sys = false ∨ (fgBank (coreOf task 0)).task ≠ none) ∧
    (fgBank (coreOf sys 0)).se.pc.toNat < 2 ^ 57 ∧ (fgBank (coreOf sys 0)).se.phase = .run ∧
    inSection (fgBank (coreOf sys 0)).se.base (fgBank (coreOf sys 0)).se.slate (fgBank (coreOf sys 0)).se.pc.toNat = true := by decide +kernel

/-! Events. The witnesses give, for each clause, a state in which its condition holds; core 1 and cluster 0 of D0 are used. -/

def r0 : State := State.reset
def inject (st : TaskSt) (f : Task → Task) : State := { r0 with tasks := [(1, f { launch := 1, st := st })], nextTask := 2 }
theorem test_meets_dispatch : let ready := { r0 with queues := [(3, { ctl := 1 + 2 ^ 12, tail := 5 })] }
    let dev := updDie r0 1 fun d => { d with launchBuf := [{ img := 0, root := 0, key := 0, prio := 0 }] }
    let act := { updDie r0 0 fun d => { d with accepted := [7], active := [1] } with launches := [(1, { img := 0, root := 0, key := 0, die := 0, src := 0, prio := 0, total := 1 })] }
    let ovr := { act with launches := [(1, { img := 0, root := 0, key := 0, die := 0, src := 0, prio := 0, total := 1, pos := 1 })] }
    r0.mgmt.psCur = 0 ∧ lqEn (lqOf ready 3) = true ∧ ((9 : BitVec 32) - (lqOf ready 3).head).toNat ≤ 2 ^ lqLog (lqOf ready 3) ∧ lqEn (lqOf r0 3) = false ∧ nextSource ready (lqDie (lqOf ready 3)) = some 3 ∧
    lqDie (lqOf ready 3) < 4 ∧ nextSource dev 1 = some 64 ∧ ((dieOf act 0).accepted = [7] ∧ (dieOf act 0).active.length < 16) ∧ nextLaunchOf act 0 = some 1 ∧ (tfind act.launches 1).isSome = true ∧
    ((launchOf ovr 1).complete = false ∧ (dieOf ovr (launchOf ovr 1).die).active.contains 1 = true ∧ launchOver (launchOf ovr 1) = true) := by decide +kernel
theorem test_meets_dispatch_tasks : let new := inject .dispatching id
    let chosen := inject .dispatching fun t => { t with method := some 5 }
    let parked := inject (.parked 0x20000 true) id
    let waits := inject .waitRead fun t => { t with runnable := true }
    let held := inject (.held 2) id
    (tfind new.tasks 1).map (·.st) = some .dispatching ∧ (taskOf new 1).method = none ∧ (taskOf chosen 1).method ≠ none ∧ (placeTask chosen 1).isSome = true ∧ (taskOf parked 1).st = .parked 0x20000 true ∧
    ((taskOf waits 1).st = .waitRead ∧ (taskOf waits 1).runnable = true) ∧ (taskOf held 1).st = .held 2 := by decide +kernel
theorem test_meets_scheduling : let front := updBank r0 1 0 fun b => { b with task := some 1 }
    let queued := updCluster (inject .ready fun t => { t with since := 0 }) 0 fun k => { k with q1 := [1] }
    let old := { updTask queued 1 fun t => { t with eff := 1 } with cycle := 65536 }
    let head := { updCluster (inject .ready fun t => { t with aged := true, eff := 3 }) 0 fun k => { k with q3 := [1] } with cycle := 65536 }
    let staged := { updCore r0 1 fun k => { k with stageAt := some 128, fgStart := true } with cycle := 128 }
    (coreOpen r0 1 = true ∧ frontEmpty r0 1 = true) ∧ (coreOpen front 1 = true ∧ frontEmpty front 1 = false ∧ shadowEmpty front 1 = true) ∧
    (agel old 0 ≠ 0 ∧ (taskOf old 1).eff < 3 ∧ (queueOf (clusterOf old 0) 1).contains 1 = true ∧ agel old 0 ≤ waitedFor old (taskOf old 1)) ∧
    ((clusterOf head 0).reserved = none ∧ (clusterOf head 0).q3 = [1] ∧ (taskOf head 1).aged = true ∧ max (clusterOf head 0).headAt (taskOf head 1).since + agel head 0 ≤ head.cycle) ∧
    (coreOf staged 1).stageAt = some 128 ∧ (128 ≤ staged.cycle) ∧ (coreOf staged 1).fgStart = true := by decide +kernel
/-- A method of OPID 2 with the smallest allocations. -/
def withMethod (s : State) : State := { s with methods := [(5, BitVec.ofNat 256 (2 * 2 ^ 176 + 2 ^ 253))] }
def launch1 : Launch := { img := 0, root := 0, key := 0, die := 0, src := 0, prio := 0, total := 2, outstanding := 2 }
theorem test_meets_gangs_and_stealing : let gang := withMethod { updCluster (inject .ready fun t => { t with opid := 2, method := some 5, glev := 0, expanded := true }) 0 fun k => { k with q0 := [1] } with launches := [(1, launch1)] }
    let pair := { updCluster { r0 with tasks := [(1, { launch := 1, st := .ready, cluster := 1 }), (2, { launch := 1, st := .ready, cluster := 1 })], nextTask := 3 } 1 fun k => { k with q0 := [1, 2] } with launches := [(1, launch1)] }
    (((List.range 32).flatMap fun c => ([3, 2, 1, 0] : List Nat).flatMap fun q => (queueOf (clusterOf gang c) q).filter fun id => (taskOf gang id).glev != 7).findSome? (placeGang gang 0)).isSome = true ∧
    ((clusterOf pair 0).reserved = none ∧ (clusterOf pair 0).stealAt ≤ pair.cycle ∧ ((List.range 4).any fun i => idleCore pair (4 * 0 + i)) = true) ∧
    ([0 / 32, 0 / 32 ^^^ 1, 0 / 32 ^^^ 2, 0 / 32 ^^^ 3] : List Nat).findSome? (victimOn pair 0) = some 1 := by decide +kernel
theorem test_meets_swaps : let late := { updBank r0 1 0 fun b => { b with task := some 1, trap := some { cause := 4, sub := 0, st := 1 } } with cycle := 2048 }
    let both := updCore (updBank late 1 1 fun b => { b with task := some 2 }) 1 fun k => { k with shst := 1 }
    let want := updCore r0 1 fun k => { k with swapWant := true }
    let swap := { updCore r0 1 fun k => { k with swapAt := some 64 } with cycle := 64 }
    let spill := updCore r0 1 fun k => { k with spillAt := some 0, shst := 3 }
    let sysw := updCore r0 1 fun k => { k with sysWant := some true }
    preemptOpen r0 1 = true ∧ (preemptOpen both 1 = true ∧ frontParked both 1 = true ∧ shadowSatisfied both 1 = true) ∧ (swapAllowed want 1 = true ∧ swapDue want 1 = true) ∧
    ((coreOf swap 1).swapAt = some 64 ∧ 64 ≤ swap.cycle) ∧
    ((coreOf spill 1).spillAt = some 0 ∧ (coreOf spill 1).shst = 3 ∧ (coreOf spill 1).swapAt = none ∧ bankLanded (bankSel (coreOf spill 1) (shadow (coreOf spill 1))) = true) ∧
    ((coreOf sysw 1).sysWant = some true ∧ (coreOf sysw 1).sys ≠ true ∧ (coreOf sysw 1).b0.task = none ∧ (coreOf sysw 1).b1.task = none ∧ (coreOf sysw 1).stageAt = none) := by decide +kernel
theorem test_meets_restore : let kept : Bank := { task := some 1, se := { phase := .slate } }
    let s := updCluster (updDie (inject (.spilled 0) fun t => { t with core := 1, keep := some kept, started := true }) 0 fun d => { d with areas := [(0, 1)] }) 0 fun k => { k with q0 := [1] }
    tfind (dieOf s 0).areas 0 = some 1 ∧ coreOpen s 1 = true ∧ shadowEmpty s 1 = true ∧ (selectFor s 1 none 0).task = some (1, none) := by decide +kernel
theorem test_meets_sections : let at1 := lay (withE (at0 .e id) fun x => { x with phase := .slate, pc := 0x10000, execs := [] }) 0x10000 8 (placeSlate .e).toNat
    let bad := lay (withE (at0 .e id) fun x => { x with phase := .slate, pc := 0x10000, execs := [] }) 0x10000 8 0
    let look := fun (s : State) => let t := landCore { s with curCore := 0, curSt := .e } 0
      (heldBack t, (curStrand t).phase, match fetchCode t (curCtx t) (curStrand t).pc.toNat 8 with
        | .ok r => some (slateOk .e (BitVec.ofNat 64 r.1), (curStrand r.2).execs.length, depsOf r.2 (curBank r.2) .e (BitVec.ofNat 64 r.1)) | .error _ => none)
    let ovr := withE (at0 .e id) fun x => { x with phase := .slate, execs := [{ n := 1, issued := true }] }
    look at1 = (none, .slate, some (true, 0, .met)) ∧ (look bad).1 = none ∧ (look bad).2.2.map (·.1) = some false ∧ heldBack (landCore r0 0) ≠ none ∧ (let t := landCore ovr 0; canRetire t 0 (openCmds t 0 0) (bankOf t 0 0) .e) = true := by decide +kernel
theorem test_meets_task_ends : let run := updBank (inject .inBank fun t => { t with core := 1, started := true }) 1 0 fun b => { b with task := some 1, tretIssued := true, sa := { phase := .ended }, se := { phase := .ended }, sm := { phase := .ended } }
    let fail := updTask run 1 fun t => { t with failing := some 4 }
    let trapped := updBank run 1 0 fun b => { b with trap := some { cause := 4, sub := 0, st := 1 } }
    let irq := updDie (updCore r0 0 fun k => { k with ie := true }) 0 fun d => { d with intFq := true }
    retireReady (landTask run 1) 1 = true ∧ failReady (landTask fail 1) 1 = true ∧ ((tfind trapped.tasks 1).isSome = true ∧ (trappedBank trapped 1).isSome = true) ∧
    ((dieOf irq 0).intFq || (dieOf irq 0).intMc) = true ∧ interruptCore irq 0 = some 0 := by decide +kernel
theorem test_meets_results : let fly := fun (d : List Dest) (o : Option MemOp) => withE (at0 .e id) fun x => { x with flight := [{ id := 0, dests := d, op := o, bound := 5 }], nextId := 1 }
    let load := fly [.reg 2] (some { kind := .load, va := 0x20000, n := 8, pieces := [{ pa := 0x20000, n := 8 }] })
    let r : ResultId := ⟨0, 0, .e, 0⟩
    let late := { load with cycle := 2 ^ 24 }
    let wait := withE (at0 .e id) fun x => { x with park := some { key := .word 0x20000, table := .none_ } }
    let post := updDie r0 0 fun d => { d with posts := [{ img := 0, core := some 1 }] }
    (flightOf (fly [.reg 2] none) r).map (·.op) = some none ∧ (flightOf (fly [] none) r).map (·.dests) = some [] ∧ (flightOf late r).map (fun f => f.op.isSome && decide (f.dests ≠ []) && decide (2 ^ 22 ≤ lateBy late 0 f)) = some true ∧
    ((coreOf (landCore late 0) 0).frozen = none ∧ (coreOf (landCore late 0) 0).swapAt = none ∧ frozenNow (landCore late 0) 0 = true) ∧
    ((strandOf wait 0 0 .e).park).map (·.table) = some .none_ ∧ ((dieOf post 0).posts.length = 1 ∧ ((dieOf post 0).fqhead - (dieOf post 0).fqtail).toNat ≠ 4096 ∧ paMapped post (fqPlace (dieOf post 0)) = true ∧
      paMapped post (fqPlace (dieOf post 0) + 63) = true) := by decide +kernel
theorem test_meets_units : let want := updCluster r0 0 fun k => { k with want := [2] }
    let spent := updCluster want 0 fun k => { k with holder := some 0, cmds := 64 }
    let running := { updCluster r0 0 fun k => { k with running := some { w := .mset ma, core := 0, task := 0, bank := 0, ent := 0 } } with cycle := 2 ^ 20 }
    let slot := updCluster r0 0 fun k => { k with slots := [(7, { slot7 3 0 with filled := false })] }
    let retry := updCluster r0 0 fun k => { k with slots := [(7, { slot7 3 0 with filled := false, waiting := true })] }
    let copy := fun (c : CopyCmd) => updCore r0 1 fun k => { k with slots := [(3, c)] }
    let parked := copy { oneCopy with st := .parked }
    ((clusterOf want 0).holder = none ∧ nextWant (clusterOf want 0) (clusterOf want 0).lastHolder = some 2) ∧
    ((clusterOf spent 0).holder = some 0 ∧ budgetSpent spent 0 = true ∧ (clusterOf spent 0).running = none ∧ (clusterOf spent 0).behind = none ∧ nextWant (clusterOf spent 0) 0 = some 2) ∧
    ((clusterOf running 0).running.map fun m => cmdDone running 0 m []) = some true ∧ (weightSlot (clusterOf slot 0) 7).map (·.waiting) = some false ∧ (weightSlot (clusterOf retry 0) 7).map (·.waiting) = some true ∧
    (engineOn r0 1 = true ∧ oneCopy.st = .queued ∧ ccErrstop oneCopy.cmd.toNat = false ∧ waitcMet (copy oneCopy) 1 oneCopy = true ∧ oneCopy.len ≠ 0 ∧ aheadOf (coreOf (copy oneCopy) 1) oneCopy = [] ∧
      gated (coreOf (copy { oneCopy with st := .running }) 1) { oneCopy with st := .running } = false) ∧
    (parkedCopy parked { die := 0, cluster := 0, core := 1, slot := 3, cq := 0 }).isSome = true := by decide +kernel
theorem test_meets_units_memory : let line := updCluster r0 0 fun k => { k with cache := [{ line := 5 }] }
    let desc : BitVec 256 := BitVec.ofNat 256 (0x20000 + 2 ^ 58)
    let strm := at0 .e fun b => { b with sq := [(8, { bound := some { descVa := 0x30000, desc := desc } })] }
    (paWindow (0xE000000000000 + 5 * 2 ^ 31) = true ∧ winSpace (0xE000000000000 + 5 * 2 ^ 31) = 5) ∧ (paWindow (0xE000000000000 + 2 ^ 31) = true ∧ winSpace (0xE000000000000 + 2 ^ 31) = 1) ∧ findLine (clusterOf line 0).cache 5 ≠ none ∧ paLocal (32 * 5) = true ∧
    ((tget (bankOf strm 0 0).sq 8 {}).bound.map (·.failed)) = some none ∧ (tget (bankOf strm 0 0).sq 8 {}).count < 8 ∧ isOk (xlat strm (ctxOf strm 0 0) .read false (sdBlockVa desc 0) (sdBytes desc)) = true := by decide +kernel
theorem test_meets_pool : let s := queueS 0 0 0 []
    let lease := fun (w : Bool) (c : Nat) => { s with cycle := c, pool := { s.pool with leases := [{ prt := 0, sent := 0, lms := 8, waiting := w }] } }
    let down := fun (c : Nat) => { s with cycle := c, pool := { s.pool with heads := [(0, { state := 1, downAt := some 0 })] } }
    s.mgmt.psCur.toNat ≤ 1 ∧ s.pool.prtBusy = false ∧ entryOk { s with pool := prtcmdSet s.pool 1 1 } 1 (prtEntry s 1) = false ∧ (leaseOf (lease true 0) 0).map (·.waiting) = some true ∧
    renewalDue (lease false (2 ^ 40)) 0 = true ∧ ((leaseLive (lease false (2 ^ 40)) 0).map fun l => decide (l.sent + 7 * lmsCycles l.lms / 8 ≤ 2 ^ 40)) = some true ∧ prtState (prtEntry s 0) = 1 ∧
    paPool (128 * 0x100000000000) = true ∧ paHost (128 * 0x80000000000) = true ∧ headUp s 0 = true ∧ (dcSane 0 5 1 = true ∧ s.pool.dcBusy = false) ∧ (headOf s 0).downAt = none ∧
    (headOf (down 15000000) 0).downAt = some 0 ∧ (0 + 15000000 ≤ (down 15000000).cycle) ∧ ((down 5).cycle < 0 + 15000000) := by decide +kernel
theorem test_meets_host : let s := { r0 with mgmt := { r0.mgmt with stage := 8, confidential := [3] } }
    8 ≤ s.mgmt.stage ∧ paLocal 0x20000 = true ∧ s.mgmt.confidential.contains (0x20000 / 2 ^ 21) = false ∧ s.mgmt.confidential.contains (0x600000 / 2 ^ 21) = true ∧
    (0x20000 : Nat) / 64 = (0x20000 + ([1, 2] : List Byte).length - 1) / 64 ∧ paHost 0x4000000000000 = true ∧ s.mem.wf = true := by decide +kernel
/-- (Whether a manifest is signed is an opaque fact, so neither clause of MAILBOX_MANIFEST has a concrete manifest.) -/
theorem test_meets_platform : let m := fun (f : Mgmt → Mgmt) => { r0 with mgmt := f r0.mgmt }
    let idle := lay (withE { at0 .e id with mgmt := { psBusy := true, psReq := 1 } } fun x => { x with stall := some (.other, 0) }) 0x10008 12 (((encode (.idle (sy 0 0))).getD 0).toNat)
    r0.mgmt.psCur.toNat ≤ 1 ∧ barOk 0x418 8 = true ∧ (((dieOf { r0 with cycle := 15000 } 0).refills + 1) * 15000 ≤ 15000) ∧ (dieOf r0 0).eacc.length = 16 ∧ (r0.mgmt.psBusy = false ∧ r0.mgmt.psCur = 0) ∧ prtLive r0 = false ∧
    (m fun x => { x with psCur := 1 }).mgmt.psCur = 1 ∧ (idle.mgmt.psCur = 0 ∧ idle.mgmt.psBusy = true ∧ idle.mgmt.psReq = 1 ∧ ps1Ready idle = true) ∧ r0.mgmt.fail = 0 ∧ granuleZero r0 3 = true ∧ (m fun x => { x with psCur := 2 }).mgmt.psCur = 2 ∧
    r0.mem.undef = [] := by decide +kernel
/-- Reset's memory, and that of a state with a word placed, are canonical; a step from it answers a next state. -/
theorem test_meets_canonical_step : State.reset.mem.wf = true ∧ placedAdd.mem.wf = true ∧ (nextOf (step placedAdd)).mem.wf = true ∧ (nextOf (step placedAdd)).agenda = [] := by decide +kernel

/-! Clauses of the statements that the witnesses above do not reach: turns, late replies, full queues. -/

theorem test_meets_turns : let s := tick { placedAdd with agenda := [] } 0
    let t := turnAt (withE placedAdd fun x => { x with late := [(1, 0x100), (2, 0x200)] }) .e
    turnOk s 0 .e = true ∧ turnOk (updCore s 0 fun k => { k with turn := (s.cycle, strandNum .m) }) 0 .e = false ∧
    heldBack t = none ∧ (curStrand t).late = [(1, 0x100), (2, 0x200)] ∧ (curStrand t).phase = .run := by decide +kernel
/-- E pops q0 into the full q12: neither queue keeps the word from having been read whole. -/
theorem test_meets_push_gate : let i : Instr := .add (rr 0x4C 0x40 1)
    let one : Queue := { count := 1, tail := 1, slots := [(0, { r := val 1, landed := true })] }
    let s := at0 .e fun b => { b with q := [(0, one), (12, { count := queueDepth 12 })] }
    repliesIn i s = true ∧ fieldsPass i s = true ∧ operandsTimely i s = true ∧ popsOf .e i = [0] ∧ pushesOf .e i = [12] ∧ queueDepth 12 ≤ (tget (curBank s).q 12 {}).count ∧
    (tget (curBank s).q 0 {}).count ≠ 0 ∧ (queueHead (tget (curBank s).q 0 {})).landed = true := by decide +kernel
theorem test_meets_room : let q : Piece := { pa := 0x20000, n := 8 }
    hostClean (at0 .e id) q.pa q.n = true ∧ roomFor (at0 .e id) 0 q = true ∧ barPend (at0 .e id) 0 0 + 4 < 2 ^ 24 := by decide +kernel

/-! Rows of the accumulator tile 3 with values that alternate, and with a park slot of one long run; a drain that reads its first rows. -/

def altRow (t : AccTile) : AccTile := accPut t 0 0 1536 ((List.range 256).foldr (fun x a => x + 2 ^ 48 * a) 0) false
def tilesAlt : State := updCluster tiles 0 fun k => setTile k 3 (altRow (accTile k 3))
def tilesLong : State := updCluster tiles 0 fun k => setTile k 3 (accPut (accTile k 3) 0 0 8 (5 + 2 ^ 32 * 0xFFFFFFFF) false)
def draining (s : State) : State := updCluster s 0 fun k => { k with running := some { w := .mdrain { ma with mm1 := 3 }, core := 0, task := 0, bank := 0, ent := 0, tile := 3 } }
/-- The cause of a trap that the word took, and whether it completed. -/
def ends (i : Instr) (s : State) : Nat × Bool := (causeOf (nextOf (exec i s)), decide ((curStrand (nextOf (exec i s))).phase = .slate) && causeOf (nextOf (exec i s)) == 0)
theorem test_meets_vlda : let w : VEC := ve 2 0 0 0 12
    tileBusy (draining tiles) 0 0 3 = false ∧ (curBank tiles).parkav = 128 ∧ ends (.vlda w) tiles = (0, true) ∧ ends (.vlda w) tilesAlt = (8, false) ∧ 1 * etCap 12 < 256 := by decide +kernel
theorem test_meets_row_clash : let w : VEC := ve 2 0 0 0 12
    let d := draining tiles
    rowBusy tiles 0 0 3 0 = false ∧ rowBusy d 0 0 3 0 = true ∧ rowBusy d 0 0 3 5 = false ∧ ends (.vsta w) tiles = (0, true) ∧ ends (.vsta w) d = (0, true) ∧
    ends (.vpark (ve 0 2 0 0 0)) tiles = (0, true) ∧ ends (.vpark (ve 0 2 0 0 0)) d = (0, true) ∧ ends (.vunpk (ve 2 0 0 0 2)) tiles = (0, true) ∧ ends (.vunpk (ve 2 0 0 0 2)) d = (0, true) := by
  decide +kernel
theorem test_meets_park_slots : let last : VEC := { ve 0 2 0 0 0 with imm := 383 }
    let past : VEC := { ve 0 2 0 0 0 with imm := 384 }
    parkSlot last = 383 ∧ 383 < 3 * (curBank tiles).parkav.toNat ∧ 3 * (curBank tiles).parkav.toNat ≤ parkSlot past ∧ issues (.vpark past) tiles = true ∧
    issues (.vunpk { ve 2 0 0 0 2 with imm := 384 }) tiles = true ∧ ends (.vpark last) tiles = (0, true) ∧ ends (.vpark past) tiles = (6, false) ∧
    vecRuns 12 { pairs := BitVec.ofNat 4096 (nbits (accRow (accTile (clusterOf tilesLong 0) 3) 0).toNat 0 4096) } = [(5, 0xFFFFFFFF)] ∧ ends (.vunpk (ve 2 0 0 0 12)) tilesLong = (0x109, false) := by
  decide +kernel

/-! Vector stores: the pieces that stand in flight, and no fence before them. -/

theorem test_meets_vector_stores : let s := vmem
    let g := readGroup s 2 1
    let free := fun (n : Nat) (mk : List Xlat → List MemOp) => match xl s .write true 0x20000 n with
      | .ok x => some ((mk x).length, (mk x).any (fenced (useXlats s (curCtx s) .write true x))) | .error _ => none
    g.stale = false ∧ g.etOk 2 = true ∧ ceilDiv (g.ll * 8) 8 = 4 ∧
    free 4 (fun x => storeOps (ve 2 2 0 0 2) x 0x20000 4 (packElems 8 (spreadRuns (g.runs 2))) (groupStretches 8 g none false)) = some (1, false) ∧
    free 512 (fun x => storeOps (ve 2 2 0 0 0) x 0x20000 512 (g.regs.foldr (fun r a => r.pairs.toNat + 2 ^ 4096 * a) 0) ((List.zip (List.range 1) g.regs).map fun e => (512 * e.1, 512, e.2.poi))) = some (16, false) := by
  decide +kernel
theorem test_meets_scatter : let s := vmem
    let b := readGroup s 3 1
    let d := readGroup s 4 1
    let ps := piecesAligned [b.runs 13, d.runs 2, [(0, 3)]]
    b.stale = false ∧ d.stale = false ∧ b.poi = false ∧ d.poi = false ∧ idxOk b = true ∧ d.etOk 2 = true ∧ d.ll = b.ll ∧
    isOk (xlatRanges s .write true (ps.map fun p => (idxAddr 0x20000 8 (p.1.headD 0), 1))) = true := by decide +kernel

/-! Matrix words: a release while commands of this core or of another are in the array, and a name that has become absent. -/

theorem test_meets_release : let held := updCluster (at0 .m id) 0 fun k => { k with holder := some 0 }
    let run := fun c => updCluster held 0 fun k => { k with running := some { w := .mset ma, core := c, task := 0, bank := 0, ent := 0 } }
    issues (.mrel ma) (run 1) = true ∧ (clusterOf (run 1) 0).holder = some (0 % 4) ∧ ((clusterOf (run 1) 0).running.map MCmd.core) = some 1 ∧ ((clusterOf (run 0) 0).running.map MCmd.core) = some 0 ∧
    (clusterOf (run 1) 0).behind = none := by decide +kernel
theorem test_meets_absent_names : let mm : MAT := { ma with mm1 := 15, nm1 := 15, str := 2 }
    let gone := fun (s : State) => updTask s 1 fun t => { t with wmap := [(0, none)], wsrc := [(0, slot7 3 0)] }
    let s := matS 3 0 0x84 id id
    let good := gone (lay s 0x30000 64 tdWeights)
    let m := newCmd s (.mma mm)
    let pass := fun s => match loads s 0 with | .ok r => some r.2.2.1 | .error _ => none
    slotName good 1 0 = some none ∧ (tfind (taskOf good 1).wsrc 0).isSome = true ∧ m.usesSlot = true ∧ m.slot = none ∧ (tfind good.tasks 1).isSome = true ∧
    pass good = some true ∧ pass (gone s) = some false ∧ pass (gone (lay s 0x2000 8 0)) = none ∧ issues (.mma mm) good = true ∧ (curBank (nextOf (exec (.mma mm) good))).mwait.isSome = true := by
  decide +kernel
theorem test_meets_unmapped_names : let bare := fun (s : State) => updTask s 1 fun t => { t with wmap := [] }
    let mm : MAT := { ma with mm1 := 15, nm1 := 15, str := 2 }
    let none_ := updBank (matS 3 0 0x84 id id) 0 0 fun b => { b with accmap := 0 }
    let fp := bare (matS 9 0 0x9 (fun k => { k with acc := [(3, { aft := true })] }) id)
    slotName (bare (matS 3 0 0x84 id id)) 1 0 = none ∧ issues (.mma mm) (bare (matS 3 0 0x84 id id)) = true ∧ mcAsf (curBank (bare (matS 3 0 0x84 id id))).mconf = 0 ∧ slotName fp 1 0 = none ∧
    issues (.mola { mm with str := 0 }) fp = true ∧ allIssue [.mset ma, .mldacc ma, .mdrain ma] none_ = true ∧
    nbit (nbits (curBank none_).accmap.toNat 0 6) 5 = false := by decide +kernel

/-! Words of reels, tasks, queues of notifications and orphans, and system words. -/

/-- A ring of two entries at 0x22040, which is not aligned (R252). -/
theorem test_meets_reel_ring : let s := lay (reelS 0 3 4) 0x20000 8 0x22040
    let ring := fun (s : State) => match reelBlock s 0x20000 .write with | .ok r => some (ringOk r.2.1.1) | .error _ => none
    ring (reelS 0 3 4) = some true ∧ ring s = some false ∧ completes (.reelapp (rr 0 1 2)) s = true := by decide +kernel
theorem test_meets_yield_room : let gang := updTask (taskS [(2, val 0)]) 1 fun t => { t with glev := 7 }
    let full := updCluster gang 0 fun k => { k with q0 := List.range 1024, q1 := List.range 1024, q2 := List.range 1024, q3 := List.range 1024 }
    classRoom gang 1 = true ∧ (coreOf (nextOf (exec (.tyield (rr 0 0 0)) gang)) 0).swapWant = true ∧ classRoom full 1 = false ∧ issues (.tyield (rr 0 0 0)) full = true ∧ (curBank full).task = some 1 ∧
    (taskOf full 1).glev = 7 ∧ (coreOf full 0).spillAt = none := by decide +kernel
/-- The sequence word of entry 0 is poisoned: POISON with subcause 2, and the claim stands with E's place. A word that executes again keeps its claim. -/
theorem test_meets_poisoned_sequence : let w := rr 1 2 3
    let s := queueS 0 0 0 [0, 1]
    let p := heldLines { s with mem := setPoison s.mem (0x8000000000080 / 32) true }
    let out := fun (i : Instr) (s : State) => (causeOf (nextOf (exec i s)), (coreOf (nextOf (exec i s)) 0).savedE.map (·.claimed))
    let again := withE (queueS 1 0 0 [0, 2]) fun x => { x with claimed := some 1 }
    allIssue [.nqpost w, .nqtake w] p = true ∧ out (.nqpost w) p = (0x215, [some 0]) ∧ out (.nqtake w) p = (0x215, [some 0]) ∧ (curStrand (nextOf (exec (.nqpost w) again))).claimed = some 1 := by
  decide +kernel
/-- One orphan of region 0, which is on head 0. -/
def orphS : State :=
  let t := updBank (queueS 0 0 0 []) 0 0 fun b => { b with s := [(2, val 0), (3, val 0x20000), (5, val (2 ^ 63)), (6, val 0x4000000000)] }
  { t with pool := { t.pool with orphans := [{ die := 1, cluster := 3, line := 0x100000000001, data := 5, dirty := 1, poison := 0, pool := false, prt := 0 }] } }
theorem test_meets_orphans : let held := updStrand orphS 0 0 .e fun x => { x with flight := [{ id := 0, op := some { kind := .fence, ord := 1 } }], nextId := 1 }
    let w := { rr 1 3 2 with c := 4 }
    (orphansFor orphS 0).map List.length = some 1 ∧ (orphansFor orphS (2 ^ 63)).map List.length = some 1 ∧ completes (.orphx { w with c := 5 }) orphS = true ∧
    (nextOf (exec (.orphx { w with b := 5, c := 5 }) orphS)).pool.orphans = [] ∧ (nextOf (exec (.orphx w) orphS)).pool.orphans.length = 1 ∧ isOk (xl orphS .write true 0x4000000000 160) = false ∧
    heldByFence orphS = false ∧ heldByFence held = true ∧ issues (.orphx w) held = true ∧ completes (.lrenew (rr 0 2 0)) orphS = true := by decide +kernel
theorem test_meets_spill_room : let s := updBank (atS [(7, val 1)]) 1 1 fun b => { b with task := some 1 }
    unstageRoom s 1 = true ∧ spillRoom s 1 = true ∧ csrRefuses 0x41 0x1F = false := by decide +kernel

/-! Events: a die whose dispatcher waits to post a record, gangs, counted accesses, freezes, polls, links, lines of the host. -/

def fullQueue : State := updDie r0 0 fun d => { d with fqhead := 4096, posts := [{ img := 0, core := some 1, unit := some .dispatcher }] }
theorem test_meets_post_waits : postWaits fullQueue 0 .dispatcher = true ∧ dispatcherOn r0 0 = true ∧ arrayOn r0 0 = true ∧ engineOn r0 1 = true ∧ (dieOf r0 0).pollAt ≤ r0.cycle ∧ 1 ≤ queueRoom r0 0 2 ∧
    (dieOf fullQueue 0).posts ≠ [] ∧ ((dieOf fullQueue 0).fqhead - (dieOf fullQueue 0).fqtail).toNat = 4096 ∧ (clusterOf r0 0).freeAt ≤ arrayClock r0 0 := by decide +kernel
/-- A gang of one task that waits in cluster 0; its method's estimate is covered, or not. -/
def gangS (est : Nat) (acc : List Int) : State :=
  let s := updCluster (inject .ready fun t => { t with opid := 2, method := some 5, glev := 0, expanded := true }) 0 fun k => { k with q0 := [1] }
  updDie { s with methods := [(5, BitVec.ofNat 256 (2 * 2 ^ 176 + est * 2 ^ 220 + 2 ^ 253))], launches := [(1, launch1)] } 0 fun d => { d with eacc := acc }
theorem test_meets_gang_estimates : (placeGang (gangS 0 (dieOf r0 0).eacc) 0 1).map (·.2) = some true ∧ (placeGang (gangS 5 (List.replicate 16 (-1))) 0 1).map (·.2) = some false ∧
    (taskOf (gangS 5 []) 1).glev ≠ 7 ∧ (taskOf (gangS 5 []) 1).started = false ∧ (clusterOf (gangS 5 []) 0).q0 = [1] := by decide +kernel
/-- A task of a gang that has been swapped out of core 1 stands in its shadow bank. -/
def gangAway : State :=
  { updBank r0 1 1 fun b => { b with task := some 1 } with
    tasks := [(1, { launch := 1, glev := 0, st := .inBank, core := 1, bank := 1, started := true, expanded := true })], nextTask := 2, launches := [(1, launch1)] }
theorem test_meets_gang_out : (gangAway.tasks.filter fun e => e.2.glev != 7 && e.2.started && e.2.die = 0).map (·.1) = [1] ∧ gangOut gangAway 1 = true ∧ (returnGang gangAway 1).isSome = true ∧
    ((gangS 5 []).tasks.filter fun e => e.2.glev != 7 && e.2.started && e.2.die = 0).map (·.1) = [] := by decide +kernel
/-- An access of strand A to a pool line, of an execution that has retired; E stands before a section that depends on A. -/
def poolLoad : MemOp := { kind := .load, va := 0x40000000, n := 8, scope := 3, pieces := [{ pa := 0x8000000000000, n := 8, kind := .coh }] }
def behindA (down : Option Nat) : State :=
  let s := queueS 0 0 0 []
  let s := updStrand { s with pool := { s.pool with north := [], heads := [(0, { state := 1, downAt := down, accepted := [(0, 4)] })] } } 0 0 .a fun x => { x with flight := [{ id := 0, op := some poolLoad }], nextId := 1 }
  lay (withE s fun x => { x with phase := .slate, pc := 0x10000, execs := [] }) 0x10000 8 ((placeSlate .e).toNat + 2 ^ 41)
theorem test_meets_counted : let look := fun s => let t := landCore { s with curCore := 0, curSt := .e } 0
      (match fetchCode t (curCtx t) 0x10000 8 with
      | .ok r =>
        let w := BitVec.ofNat 64 r.1
        if heldBack t = none ∧ (curStrand t).phase = .slate ∧ slateOk .e w = true ∧ (curStrand r.2).execs = [] ∧ depsOf r.2 (curBank r.2) .e w = .met then some (countedHeld r.2 .e w) else none
      | .error _ => none)
    look (behindA none) = some false ∧ look (behindA (some 0)) = some true := by decide +kernel
theorem test_meets_freeze : let s := fun (c : Nat) => landCore { withE (at0 .e id) fun x => { x with flight := [{ id := 0, dests := [.reg 2], op := some poolLoad, bound := 5 }], nextId := 1 } with cycle := c } 0
    (coreOf (s 100) 0).swapAt = none ∧ (coreOf (s 100) 0).fgAt ≤ rawTime (s 100) 0 ∧ (fgBank (coreOf (s 100) 0)).se.busy ≤ rawTime (s 100) 0 ∧
    ((bankFlights (fgBank (coreOf (s 100) 0))).all fun f => f.awaits && decide (f.bound < rawTime (s 100) 0)) = true ∧ (coreOf (s 3) 0).frozen = none ∧ rawTime (s 3) 0 ≤ 5 := by decide +kernel
theorem test_meets_landing : let s := withE (at0 .e id) fun x => { x with flight := [{ id := 0, dests := [.reg 2], op := some { kind := .load, va := 0x20000, n := 8, pieces := [{ pa := 0x20000, n := 8 }] }, bound := 5 }], nextId := 1 }
    (flightOf s ⟨0, 0, .e, 0⟩).map (fun f => (watchdogOut s 0 f, f.op.any (opHeld s 0), f.op.isSome)) = some (false, false, true) ∧ canPerform (strandOf s 0 0 .e) 0 = true ∧ matrixBehind s 0 0 .e 0 = false := by
  decide +kernel
theorem test_meets_polls : let p : Park := { key := .word 0x20000, table := .none_ }
    let t : Task := { core := 0, keep := some { se := { park := some p } } }
    let s := { updStrand (withE (at0 .e id) fun x => { x with park := some p }) 0 1 .e fun x => { x with park := some p } with cycle := 1024, tasks := [(1, t)] }
    (strandOf s 0 0 .e).park = some p ∧ (strandOf s 0 (1 - 0) .e).park = some p ∧ (coreOf s 0).fg = 0 ∧ p.woken = false ∧ p.since + 1024 ≤ s.cycle ∧ tfind s.tasks 1 = some t ∧
    (t.keep.map fun b => (strandSel b .e).park) = some (some p) := by decide +kernel
theorem test_meets_lines_and_links : let ln := 0x8000000000000 / 128
    let line := updCluster (queueS 0 0 0 []) 0 fun k => { k with cache := [{ line := ln, dirty := 1 }] }
    let late := { updStrand (queueS 0 0 0 []) 0 0 .e fun x => { x with flight := [{ id := 0, op := some poolLoad, sent := 0 }] } with cycle := 6000000 }
    findLine (clusterOf line 0).cache ln ≠ none ∧ canOwn line ln = true ∧ requestLate late 0 = true ∧ headUp late 0 = true ∧ requestLate (queueS 0 0 0 []) 0 = false ∧ dcSane 0 16383 1 = true ∧ dcSane 0 16384 1 = false := by
  decide +kernel
/-- A line that the host holds and has not modified. (Whether the host then modifies its own copy is a free choice, so that clause has no concrete state.) -/
theorem test_meets_host_lines : let h := { r0 with mgmt := { r0.mgmt with stage := 8 }, hostLines := [0x20000 / 64] }
    h.hostLines.contains (0x20000 / 64) = true ∧ hostClean h 0x20000 2 = true ∧ hostClean r0 0x20000 2 = true ∧ r0.hostLines.contains (0x20000 / 64) = false := by decide +kernel
/-- Two rows of one base die's cache, and one of another's. -/
theorem test_meets_rows : captureRow [1, 2] 2 = [2, 1] ∧ ([1, 2] : List Nat).Nodup ∧ homeStack (1024 * 1) = homeStack (1024 * 2) ∧ (([1, 2] : List Nat).filter fun r => homeStack (1024 * r) = homeStack (1024 * 2)).length ≤ 65536 ∧
    paLocal (1024 * 2) = true := by decide +kernel
/-- SWAPB on the core of a gang that stands in its bank, its answer on its way while the core is to swap, and a queue that was popped in this cycle. -/
theorem test_meets_swapb_and_queues : let gang := { updBank (atS [(7, val 1)]) 1 1 fun b => { b with task := some 1 } with
                tasks := [(1, { glev := 0, st := .inBank, core := 1, bank := 1, started := true, expanded := true })], launches := [(0, { img := 0, root := 0, key := 0, die := 0, src := 0, prio := 0 })] }
    let on := withE (updCore (at0 .e id) 1 fun k => { k with swapWant := true }) fun x => { x with flight := [{ id := 0, dests := [.reg 2], op := some { kind := .swap 1 [1], dc := 3 }, bound := 6000 }], nextId := 1 }
    let b : Bank := { q := [(0, { count := 2 })] }
    issues (.swapb (sy 1 7)) gang = true ∧ gangComes gang 1 = [1] ∧ swapCores gang 1 = [1] ∧ (forceSwaps gang 1).isSome = true ∧
    ((flightOf on ⟨0, 0, .e, 0⟩).map fun f => (watchdogOut on 0 f, (f.op.map MemOp.kind) == some (.swap 1 [1]))) = some (false, true) ∧ (coreOf on 1).swapWant = true ∧
    (tget b.q 0 {}).was.all (fun e => e.1 != 7) = true ∧ queueSeen 7 (noteQueue 7 b { b with q := [(0, { count := 1 })] } 0) 0 = 2 * 2 ^ 16 := by decide +kernel

/-! Turns at a boundary, late accesses, queue slots, float arithmetic, SYNCV. -/

theorem test_meets_boundary : let s := updCore (at0 .e id) 0 fun k => { k with swapWant := true }
    let busy := { withE (at0 .a id) fun x => { x with busy := 100 } with curSt := .a }
    boundaryHeld s 0 = true ∧ boundaryHeld (at0 .e id) 0 = false ∧ heldBack s = none ∧ midPass (at0 .e id) = false ∧ midPass busy = true ∧ heldBack busy = none ∧
    heldBack (withE (at0 .e id) fun x => { x with late := [(1, 0x100)] }) = none := by decide +kernel
theorem test_meets_queue_moves : popsOf .e (.add (rr 5 0x40 1)) = [0] ∧ pushesOf .a (.add (rr 0x40 1 2)) = [0] ∧ streamPopsOf .e (.vadd (ve 1 0x48 0x48 0 1)) = [(8, 1)] ∧
    (let f : Flight := { id := 0, writes := [.queue 0 1 (val 5)], killed := [.queue 0 1] }
     f.writes = [.queue 0 1 (val 5)] ∧ (Write.queue 0 1 (val 5)).dest ∈ f.killed) := by decide +kernel
/-- Half precision at the edge of its range: 65,520 overflows in RNE, 65,504 does not, 2^-24 is the least subnormal; and integers beside a range. -/
theorem test_meets_rounding : let isOver := fun (m : Nat) (e : Int) => let q := max ((Nat.log2 m : Int) + e - 10) (-24); decide (2 ^ (2 * fmtH.bias + fmtH.mb) ≤ (roundAt 0 false m e q).1 * 2 ^ (q + 24).toNat)
    isOver 65520 0 = true ∧ isOver 65504 0 = false ∧ isOver 1 (-24) = false ∧ fmtH.round 0 false (.num false 65520 0) = (0x7C00, flagOF ||| flagIX) ∧ fmtH.round 0 false (.num false 1 (-24)) = (1, 0) ∧
    fmtH.round 0 false (.num false 3 (-25)) = (2, flagIX ||| flagUF) ∧ (fmtH.decode false 1).isNan = false ∧ (5 : Nat) % 2 ^ 1 ≠ 0 ∧ 2 * (5 % 2 ^ 1) = 2 ^ 1 ∧
    toIntRange 0 (-128) 127 (.num false 128 0) = (127, flagIO) ∧ toIntRange 0 (-128) 127 (.num true 129 0) = (-128, flagIO) ∧ toIntRange 0 (-128) 127 (.num false 127 0) = (127, 0) := by decide +kernel
theorem test_meets_syncv : (∃ f ∈ (curStrand (withE (early id) fun x => { x with sync := 1 })).flight, f.landed = false ∧ f.dests.isEmpty = false ∧ f.id < 1) ∧
    (curStrand (withE (early id) fun x => { x with sync := 1 })).sync = 1 := by
  refine ⟨⟨_, List.Mem.head _, ?_⟩, ?_⟩ <;> decide +kernel

/-! The performing of accesses; what must precede what. -/

def acc8 (k : MemKind) : MemOp := { kind := k, va := 0x20000, n := 8, pieces := [{ pa := 0x20000, n := 8 }] }
theorem test_meets_performing : let s := lay (at0 .e id) 0x20000 8 7
    let ok := fun (o : MemOp) => o.did = [] ∧ o.pieces.head?.all (fun q => q.kind != .mmio) = true ∧ mixedSpans s 0 0 .e o = []
    let fly := fun (o : MemOp) => withE s fun x => { x with flight := [{ id := 0, dests := [.reg 2], op := some o }], nextId := 1 }
    let r := readPieces (noteStrong s 0 0 .e (acc8 .cas)) 0 0 (acc8 .cas).pieces
    ok (acc8 .load) ∧ ok (acc8 (.ldro true)) ∧ ok (acc8 .store) ∧ ok { acc8 .fence with pieces := [], ord := 3 } ∧ ok { acc8 .qmark with pieces := [] } ∧ ok (acc8 (.amo 0)) ∧ ok { acc8 .cas with data := 7 } ∧
    ok { acc8 .cas with data := 8 } ∧ r.1.1 = 7 ∧ ((strandOf (fly (acc8 .load)) 0 0 .e).flight.find? fun f => f.id = 0 && !f.landed).map (·.op) = some (some (acc8 .load)) ∧
    ((acc8 .load).torn = true ∧ (acc8 .load).left.length < 2) ∧ ({ acc8 .load with pieces := [{ pa := 0x20000, n := 4 }, { pa := 0x20004, n := 4 }] } : MemOp).left.length = 2 := by decide +kernel
theorem test_meets_results_of_loads : (5 : Nat) < 256 ^ 8 ∧ (2 ^ 100 : Nat) < 256 ^ 16 ∧ 8 < 16 ∧ loadWrites [.reg 2] 1 0x80 true false = [.reg 2 (val 0xFFFFFFFFFFFFFF80)] ∧
    loadWrites [.reg 2, .reg 3] 16 (2 ^ 100) false false = [.reg 2 (val 0), .reg 3 (val (2 ^ 36))] := by decide +kernel
theorem test_meets_order : let far : MemOp := { acc8 .store with va := 0x20100, pieces := [{ pa := 0x20100, n := 8 }], scope := 2 }
    mustPrecede (acc8 .load) (acc8 .store) = true ∧ mustPrecede (acc8 .store) { acc8 .load with pieces := [{ pa := 0x20100, n := 8 }] } = false ∧ mustPrecede (acc8 .store) far = false ∧
    mustPrecede (acc8 .store) { far with ord := 2 } = true ∧ mustPrecede (acc8 .qmark) far = true ∧ mustPrecede far (acc8 .qmark) = true ∧
    mustPrecede { acc8 .fence with ord := 1 } far = true ∧ mustPrecede far { acc8 .fence with ord := 1 } = false ∧ mustPrecede far { acc8 .fence with ord := 2 } = true := by decide +kernel

/-! Address translation: a walk's entry at 0x3000, or a group of them, and the leaf of a page. -/

def walk1 (e : Nat) (n : Nat) (a : Nat := 0x3000) (va : Nat := 0) : PageFault ⊕ Leaf := match walkFrom (layBytes {} a 8 e) (fun _ => none) va n 0x3000 with | .error f => .inl f | .ok l => .inr l
theorem test_meets_walk : walk1 0 1 = .inl ⟨0x05, 1, 0, 0, 1⟩ ∧ walk1 0x1001 1 = .inl ⟨0x05, 1, 0, 0, 0⟩ ∧ walk1 (1 + 2 ^ 52) 1 = .inl ⟨0x05, 2, 0, 1 + 2 ^ 52, 1⟩ ∧
    walk1 7 3 = .inl ⟨0x05, 2, 0, 7, 3⟩ ∧ walk1 7 2 = .inr ⟨7, 0x3000, 2 ^ 30, 2⟩ ∧ walk1 7 1 = .inr ⟨7, 0x3000, 2 ^ 21, 1⟩ ∧ walk1 7 0 = .inr ⟨7, 0x3000, 4096, 0⟩ ∧ walk1 1 0 = .inl ⟨0x05, 2, 0, 1, 0⟩ ∧
    walk1 (7 + 2 ^ 63) 0 = .inl ⟨0x05, 2, 0, 7 + 2 ^ 63, 0⟩ ∧ walk1 (7 + 2 ^ 11) 0 = .inr ⟨7 + 2 ^ 11, 0x3000, 65536, 0⟩ ∧ paLocal 0x3000 = true ∧ paLocal 0x4000000000000 = false ∧
    memPoison { poison := [0x3000 / 32] } 0x3000 8 = true ∧
    walk1 (7 + 2 ^ 11) 0 0x3008 0x1000 = .inl ⟨0x05, 1, 0x1000, 0, 0⟩ := by decide +kernel
theorem test_meets_translation : let s := at0 .e id
    let q := queueS 0 0 0 []
    let x := fun (p : Nat) => ({ va := 0x40000000, pa := p, n := 8, leaf := ⟨0x7F + 2 * 2 ^ 52 + 0x8000000000000, 0x3008, 2 ^ 30, 2⟩, kind := .coh, sm := false, tagged := false } : Xlat)
    let leaf := fun (s : State) (va : Nat) => match xl s .read false va 8 with | .ok [x] => some (x.leaf.pte, x.leaf.pte ||| 32) | _ => none
    regionOf State.reset (0x8000000000000 + 4 * 0x10000000) = none ∧ (regionOf q 0x8000000000000).isSome = true ∧ isOk (regionCheck q 0 (x 0x8000000000000)) = true ∧
    isOk (regionCheck q 1 (x 0x8000000000000)) = false ∧ (Kind.loc.pooled = false ∧ Kind.coh.pooled = true) ∧
    ((0x20000 : Nat) < 2 ^ 57 ∧ pieces 4096 0x3FFFFFF8 16 = [(0x3FFFFFF8, 8)] ++ (0x40000000, 8) :: [] ∧ isOk (xl s .read false 0x3FFFFFF8 8) = true ∧ isOk (xl s .read false 0x40000000 8) = false) ∧
    (match xlatPages q { curCtx q with key := 1 } .read false 0x40000000 8 with | .ok [a] => a == x 0x8000000000000 | _ => false) = true ∧
    (tlbView s (curCtx s)).isEmpty = true ∧ (s.mem.wf = true ∧ s.hostDirty = []) ∧ leaf s 0x20000 = some (0x7F, 0x7F) ∧ leaf (lay s 0x3000 8 0x1F) 0x20000 = some (0x1F, 0x3F) := by decide +kernel

/-! Waits that a write has satisfied, and the barrier words. -/

theorem test_meets_satisfied : let s := withE (at0 .e fun b => { b with s := [(2, val 0x20000), (3, val 0)] }) fun x => { x with park := some { key := .word 0x20000, table := .none_, woken := true, sat := some (5, false) } }
    allIssue [.fget { me 1 2 0 0 3 with scope := 2 }, .waita { me 1 2 3 0 3 with scope := 2 }] s = true ∧ (curStrand s).park.bind Park.sat = some (5, false) ∧ waitsBehind s (acc8 .load) = false ∧
    mixedSpans s 0 0 .e (acc8 .load) = [] := by decide +kernel
/-- The second GiB maps window space 5 of D0's cores, whose first 32 KiB are core 0's barriers. -/
def winBars (s : State) : State := lay s 0x3008 8 (0x7F + 5 * 2 ^ 52 + (0xE000000000000 + 5 * 2 ^ 31))
theorem test_meets_barrier_words : let s := at0 .e fun b => { b with bcnt := 1, s := [(1, val 5), (2, val (2 ^ 24)), (3, val 4096), (4, bad), (5, val 0x40000000), (6, val 0x40000008), (7, val 0x4000000000), (8, val 0x20000), (9, val 0x40007FF0)] }
    let full := barChange s 0 0 .expect (2 ^ 24 - 1)
    let named := updCore full 0 fun k => { k with slots := [(3, oneCopy)] }
    let w := winBars s
    let page := fun (va : Nat) => match xlatPages w (curCtx w) .write false va 8 with | .ok [x] => some (x.kind == .window && winSpace x.pa == 5 && decide (winOff x.pa < 0x8000)) | _ => none
    allIssue [.binit (sy 0 1), .binit (sy 0 3), .bexp (sy 0 1), .bexp (sy 0 2), .bexp (sy 0 0), .binit (sy 0 4), .bexp (sy 0 4)] s = true ∧ barPend s 0 0 + 5 < 2 ^ 24 ∧
    (2 ^ 24 ≤ barPend full 0 0 + 5 ∧ copyNames full 0 0 = false ∧ copyNames named 0 0 = true ∧ issues (.bexp (sy 0 1)) named = true) ∧
    allIssue [.barr { sy 0 0 with b := 5, sub := 1 }, .barr { sy 0 0 with b := 4, sub := 1 }, .barr { sy 0 0 with b := 6, sub := 1 }, .barr { sy 0 0 with b := 7, sub := 1 }, .barr { sy 0 0 with b := 8, sub := 1 }] w = true ∧
    page 0x40000000 = some true ∧ page 0x40007FF0 = some true ∧ page 0x40008000 = some false ∧ page 0x20000 = some false ∧ isOk (xlatPages w (curCtx w) .write false 0x4000000000 8) = false ∧
    fenced w { kind := .arrive 0 0, ord := 2 } = false := by decide +kernel
/-- Each change alone: a barrier of one arrival expected, with 5 bytes pending, or none. -/
theorem test_meets_single_changes : let b : Bar := { exp := 3, arrv := 1, pend := 5 }
    let one := fun (k : BarKind) (n : Nat) => ({ core := 0, bar := 0, kind := k, n := n } : BarChg)
    barSettle b [one .initE 4095] = ({ b with exp := 4095, arrv := 4095 }, false) ∧ barSettle b [one .expect 7] = ({ b with pend := 12 }, false) ∧ barSettle b [one .sub 4] = ({ b with pend := 1 }, false) ∧
    barSettle b [one .sub 5] = ({ b with pend := 0 }, false) ∧ barSettle { b with arrv := 0 } [one .sub 5] = ({ b with pend := 0, phase := 1, arrv := 3 }, true) ∧ (barSettle b [one .sub 6]).1.undr = true ∧
    barSettle b [one .arrive 1] = ({ b with arrv := 0 }, false) := by decide +kernel

/-! Vector words: every form, and every check of it. A witness lists words with what each does. -/

/-- What an issuable word does: 0 it completes, else the cause of its trap with the subcause above it, 999 it stalls; 1000 where it does not issue. -/
def result (i : Instr) (s : State) : Nat :=
  let t := nextOf (exec i s)
  let c := match (curBank t).trap with | some x => x.cause + 256 * x.sub | none => causeOf t
  if issues i s then (if c ≠ 0 then c else if (curStrand t).phase = .slate then 0 else 999) else 1000
def results (l : List Instr) (s : State) : List Nat := l.map fun x => result x s
def staled (r : VReg) : VReg := { r with stale := true }
def altMask (n : Nat) : List Run := (List.range n).map fun i => (i % 2, 1)
/-- The vectors with counts in s10 to s13, a stale one (v10), one of another type (v11), a stale mask (k4) and one of three elements (k5). -/
def vecs2 : State := updBank vecs 0 0 fun b => { b with
  s := [(9, val 3), (10, val 0), (11, val 16777216), (12, bad), (13, val 4)], v := b.v ++ [(10, staled (vreg 2 [(5, 4)])), (11, vreg 3 [(5, 4)])], k := b.k ++ [(4, staled (mreg [(1, 4)])), (5, mreg [(1, 3)])] }
theorem test_meets_mask_results : (∀ r ∈ altMask 257, r.1 < 2) ∧ (canonRuns 32767 (altMask 256)).length = 256 ∧ 256 < (canonRuns 32767 (altMask 257)).length ∧
    (results [.kand (ve 0 2 3 0 0)] vecs, wrote (nextOf (exec (.kand (ve 0 2 3 0 0)) vecs))) = ([0], []) := by decide +kernel
theorem test_meets_elementwise_forms : let w := ve 5 2 3 0 2
    let u := { w with bsel := 1, b := 9 }
    let i := { w with bsel := 2, b := 0, imm := 3 }
    results [.vfma { w with c := 4 }, .vfma { u with c := 4 }, .vfma { i with c := 4 }, .vsel { w with c := 2 }, .vsel w, .vsel { u with c := 2 }, .vsel i, .vclamp { w with c := 4 }, .vclamp { u with c := 9 }, .vcmp { w with d := 4 },
      .vcmp { u with d := 4 }, .vcmp { i with d := 4, et := 3 }] vecs = [0, 0, 0, 0, 0, 0, 0, 0, 0, 0, 0, 0x409] ∧
    (wrote (nextOf (exec (.vcmp { w with d := 4 }) vecs))).length = 1 := by decide +kernel
theorem test_meets_elementwise_old_mask : SoundMask (readMask vecs 2 |>.getD (readGroup vecs 2 1)) 4 ∧ (predMask vecs { ve 2 2 3 0 2 with hdr := ⟨0, 3, false⟩ }).isSome = true ∧
    (oldMask vecs { ve 2 2 3 0 2 with hdr := ⟨0, 3, false⟩ }).isSome = true := by
  refine ⟨?_, ?_, ?_⟩
  · simp only [SoundMask]; decide +kernel
  · decide +kernel
  · decide +kernel
theorem test_meets_content_counts : results [.vsplat (ve 6 9 10 0 2), .vsplat (ve 6 9 11 0 2), .vsplat (ve 6 9 12 0 2), .vsplat { ve 10 9 9 0 2 with hdr := maskK2 }, .viota (ve 6 9 10 9 2), .viota (ve 6 9 9 10 2),
    .viota (ve 6 9 11 9 2), .viota (ve 6 9 12 9 2)] vecs2 = [0, 0x109, 0x15, 0x0A, 0, 0, 0x109, 0x15] := by decide +kernel
theorem test_meets_repairs : let long := at0 .e fun b => { b with v := [(2, { vreg 12 [(0, 0xFFFFFFFF)] with ll := 0 })] }
    let wide := at0 .e fun b => { b with v := [(2, vreg 2 ((List.range 256).map fun i => (i % 2, 1))), (3, vreg 2 [(1, 1)])] }
    results [.vrco (ve 2 0 0 0 2), .vrco { ve 2 0 0 0 2 with sub := 1 }, .vrco { ve 10 0 0 0 2 with sub := 1 }] vecs2 = [0, 0, 0] ∧
    results [.vrco (ve 2 0 0 0 12), .vrco { ve 2 0 0 0 12 with sub := 1 }] long = [0x109, 0x109] ∧ results [.vrco { ve 2 0 0 0 2 with g := 1 }] wide = [0] := by decide +kernel
theorem test_meets_segments : let l := fun (w : VEC) => results [.vsegsum w, .vsegmax w, .vscan { w with sub := 1 }] vecs2
    let w := ve 6 2 0 0 2
    l w = [0, 0, 0] ∧ l { w with c := 2 } = [0, 0, 0] ∧ l { w with a := 10 } = [0x0A, 0x0A, 0x0A] ∧ l { w with c := 4 } = [0x0A, 0x0A, 0x0A] ∧ l { w with a := 11 } = [0x409, 0x409, 0x409] ∧
    l { w with c := 5 } = [0x209, 0x209, 0x209] := by decide +kernel
theorem test_meets_mask_words : let w := ve 6 2 3 0 0
    results [.kand w, .kand { w with a := 0 }, .kand { w with b := 0 }, .kand { w with a := 0, b := 0 }, .kor { w with a := 4 }, .kxor { w with b := 5 }, .knot { w with b := 0 }, .kmov { w with d := 3, a := 0, b := 0, hdr := maskK2 },
      .kand { w with d := 0 }] vecs2 = [0, 0, 0, 0x101, 0x0A, 9, 0, 0, 0] ∧
    (let l := fun (f : VEC → Instr) => results [f { w with b := 0 }, f { w with a := 0, b := 0 }, f { w with a := 0, b := 0, hdr := maskK2 }, f { w with a := 4, b := 0 }, f { w with a := 5, b := 0, hdr := maskK2 }] vecs2
     l .kcnt = [0, 0x101, 0, 0x0A, 0x209] ∧ l .kfirst = [0, 0x101, 0, 0x0A, 0x209]) := by decide +kernel
/-- Probabilities of 64 positions, draws as INT32 and UINT32, and vectors that DACC turns away. -/
def drafts2 : State := at0 .e fun b => { b with v := [(20, vreg 14 [(0x3F000000, 64)]), (21, vreg 14 [(0x3F000000, 64)]), (22, vreg 12 [(7, 64)]), (23, vreg 13 [(7, 64)]), (24, vreg 14 [(0, 65)]), (25, vreg 14 [(0, 63)]),
  (26, vreg 2 [(0, 64)]), (27, staled (vreg 14 [(0, 64)])), (28, vreg 12 [(7, 63)])] }
theorem test_meets_draft_acceptance : let d := fun (p q r : Nat) (sub : BitVec 4) => Instr.dacc { ve 7 0 0 (BitVec.ofNat 7 r) 14 with sub := sub, imm := BitVec.ofNat 32 (p + q * 2 ^ 7 + 3 * 2 ^ 14) }
    results [d 20 21 0 0, d 20 21 22 1, d 20 21 23 1, d 27 21 0 0, d 26 21 0 0, d 20 21 26 1, d 20 25 0 0, d 20 21 28 1, d 24 24 0 0] drafts2 = [0, 0, 0, 0x0A, 0x409, 0x409, 9, 9, 0x109] := by decide +kernel
theorem test_meets_poisoned_rows : let s := updBank tiles 0 0 fun b => { b with v := [(2, { vreg 12 [(5, 255), (6, 1)] with poi := true })] }
    let l := [Instr.vsta (ve 2 0 0 0 12), .vpark (ve 0 2 0 0 0)]
    results l s = [0, 0] ∧ results l (draining s) = [0, 0] ∧ rowBusy (draining s) 0 0 3 0 = true ∧ (readGroup s 2 1).poi = true := by decide +kernel

/-! Narrow formats and float elements. -/

/-- Three exponent and two mantissa bits, signed, with infinities; a format without exponent; one of positive values. -/
def narrowA : NDesc := { e := 3, m := 2, s := true, spv := 2, bias := 3, ovs := true }
def narrowB : NDesc := { e := 0, m := 3, s := true, spv := 0, bias := 0, ovs := false }
def narrowC : NDesc := { e := 3, m := 2, s := false, spv := 0, bias := 3, ovs := false }
theorem test_meets_narrow : (narrowA.legal && narrowB.legal && narrowC.legal) = true ∧ (narrowA.decode 5).isNan = false ∧ (narrowA.decode 5).isInf = false ∧ narrowA.decode narrowA.maxCode = .num false 7 1 ∧
    narrowA.round 0 (.num false 5 0) = (21, 0) ∧ narrowA.round 0 (.num false 1000 0) = (28, flagOF ||| flagIX) ∧ narrowA.round 1 (.num false 1000 0) = (27, flagOF ||| flagIX) ∧
    narrowA.round 0 (.num false 1 (-9)) = (0, flagIX ||| flagUF) ∧ narrowC.round 0 (.num true 5 0) = (0, flagIO) ∧ narrowB.round 0 (.num false 3 0) = (3, 0) ∧ narrowB.round 0 (.num false 5 (-1)) = (2, flagIX) := by
  decide +kernel
theorem test_meets_float_elements : let c := vctx vecs (ve 5 2 3 0 14)
    let n := vctx vecs (ve 5 2 3 0 4)
    (etInt c.et = false ∧ c.et < 15 ∧ etNarrow c.et = false ∧ c.ftz = false) ∧ etNarrow n.et = true ∧ (0x3F800000 : Nat) < 2 ^ etWidth c.et ∧ (etFmt c.et).decode false 0x3F800000 = .num false (2 ^ 23) (-23) ∧
    etInt 2 = true ∧ etInt 14 = false ∧ etFloat 14 = true ∧ etNarrow 4 = true := by decide +kernel

/-! Vector memory words: what their bytes hold, and each check of each form. -/

theorem test_meets_vector_forms : (∀ r ∈ [((5, 3) : Run), (7, 1)], 0 < r.2) ∧ (spreadRuns [(5, 3), (7, 1)]).length = 4 ∧ (0x0102 : Nat) / 2 ^ 8 % 2 ^ 8 ≠ 0 ∧ (0x02 : Nat) / 2 ^ 8 % 2 ^ 8 = 0 ∧
    (VForm.runs (.pairs 2) 8 0x0102, VForm.runs (.dense [2, 1]) 8 0x010203, VForm.runs (.picks [(none, 2), (some 7, 1)]) 8 5) = ([(2, 1)], [(3, 1), (2, 1), (1, 1)], [(5, 2), (7, 1)]) ∧
    gathPicks [(5, 3), (7, 1)] (some [(1, 2), (0, 2)]) false none = [(none, 2), (some 0, 1), (some 0, 1)] := by decide +kernel
theorem test_meets_stretches : SoundGroup (readGroup vecs 2 1) 2 4 ∧ groupStretches 8 (readGroup vecs 2 1) (readMask vecs 2) false ≠ [] ∧
    List.Pairwise (fun (a b : Stretch) => a.1 ≤ b.1 ∧ a.1 + a.2.1 ≤ b.1 + b.2.1) [((0, 2, false) : Stretch), (2, 2, true)] := by
  refine ⟨?_, ?_, ?_⟩
  · simp only [SoundGroup]; decide +kernel
  · decide +kernel
  · decide
/-- More of `vmem`: a count past the longest length (s6), poison (s7), an unmapped (s8) and an odd address (s9); vectors and masks that the words turn away. -/
def vmem2 : State := updBank vmem 0 0 fun b => { b with
  s := b.s ++ [(6, val 16777216), (7, bad), (8, val 0x4000000000), (9, val 0x20001)], k := [(2, mreg [(1, 2), (0, 2)]), (3, mreg [(1, 1), (0, 2)]), (4, staled (mreg [(1, 4)]))],
  v := b.v ++ [(5, staled (vreg 2 [(5, 3), (7, 1)])), (7, vreg 3 [(5, 4)]), (8, vreg 13 [(1, 3)]), (9, staled (vreg 13 [(1, 3)])), (10, { vreg 13 [(1, 3)] with poi := true }), (11, vreg 2 [(3, 4)]), (12, vreg 0 [(1, 3)]), (13, vreg 2 [(9, 3)]), (14, vreg 13 [(0x50000000, 3)])] }
def byK3 : Hdr := ⟨0, 3, false⟩
theorem test_meets_plain_forms : let w := ve 6 2 3 0 2
    let t : VEC := { ve 2 2 0 0 2 with b := 0 }
    results [.vld w, .vld { w with b := 7 }, .vld { w with a := 7 }, .vld { w with a := 9, imm := 0x10000000 }, .vld { w with b := 6 }, .vld { w with a := 8 }] vmem2 = [0, 0x15, 0x15, 4, 0x109, 0x105] ∧
    results [.vst t, .vst { t with hdr := maskK2 }, .vst { t with d := 5 }, .vst { t with hdr := ⟨0, 4, false⟩ }, .vst { t with a := 7 }, .vst { t with a := 9, imm := 0x20000000 }, .vst { t with d := 7 },
      .vst { t with d := 12, et := 0 }, .vst { t with hdr := byK3 }, .vst { t with a := 8 }] vmem2 = [0, 0, 0x0A, 0x0A, 0x15, 4, 0x409, 9, 0x209, 0x105] := by decide +kernel
theorem test_meets_pair_forms : let w : VEC := { ve 2 2 0 0 0 with b := 0 }
    results [.vldp w, .vldp { w with a := 7 }, .vldp { w with a := 9, imm := 0x10000000 }, .vldp { w with a := 8 }, .vstp w, .vstp { w with a := 7 }, .vstp { w with a := 9, imm := 0x20000000 }, .vstp { w with a := 8 }] vmem2 =
      [0, 0x15, 4, 0x105, 0, 0x15, 4, 0x105] ∧
    (let r := { ve 6 2 5 4 2 with imm := 3 }
     results [.vldrg r, .vldrg { r with c := 3 }, .vldrg { r with a := 7 }, .vldrg { r with a := 9, imm := 0x10000003 }, .vldrg { r with b := 8 }, .vldrg { r with a := 8 }] vmem2 = [0, 0x309, 0x15, 4, 0x105, 0x105]) := by
  decide +kernel
theorem test_meets_indexed_forms : let w := ve 6 2 3 0 2
    let c := ve 4 2 3 0 2
    results [.vgath w, .vgath { w with d := 13, hdr := byK3 }, .vgath { w with b := 9 }, .vgath { w with b := 10 }, .vgath { w with a := 7 }, .vgath { w with b := 2 }, .vgath { w with d := 7, hdr := byK3 }, .vgath { w with hdr := maskK2 },
      .vgath { w with d := 11, hdr := byK3 }, .vgath { w with b := 14 }] vmem2 = [0, 0, 0x0A, 0x101, 0x15, 0x409, 0x409, 0x209, 0x209, 0x105] ∧
    results [.vscat c, .vscat { c with hdr := byK3 }, .vscat { c with d := 5 }, .vscat { c with b := 10 }, .vscat { c with a := 7 }, .vscat { c with d := 7 }, .vscat { c with b := 2 }, .vscat { c with d := 2 }, .vscat { c with hdr := maskK2 },
      .vscat { c with b := 14 }] vmem2 = [0, 0, 0x0A, 0x101, 0x15, 0x409, 0x409, 9, 0x209, 0x105] := by decide +kernel
/-- The tensor of `tasked` under another tag or at another base, with vectors for its rows. -/
def tens (tag base : Nat) : State :=
  lay (tasked .e fun b => { b with s := [(2, val 0), (3, val 0), (4, bad), (5, val 0x400000), (6, val 1)], v := [(2, vreg 2 [(5, 64)]), (3, staled (vreg 2 [(5, 64)])), (7, vreg 3 [(5, 64)]), (8, vreg 2 [(5, 63)]), (9, vreg 2 (altMask 40))] })
    0x30000 64 (tdInt8 + (tag - 0x2003) * 2 ^ 112 + (base - 0x40000))
theorem test_meets_tensor_forms : let w : VEC := { ve 6 2 3 0 2 with sub := 1, imm := 3 }
    let t := { w with d := 2 }
    results [.vld w, .vld { w with et := 3 }, .vld { w with imm := 4 }, .vld { w with a := 4 }, .vld { w with a := 5 }, .vld { w with b := 6 }] (tens 0x2003 0x40000) = [0, 0x409, 9, 0x15, 0x101, 9] ∧
    results [.vld w, .vld { w with imm := 2 }, .vst t, .vst { t with d := 9 }] (tens 0x2083 0x40000) = [0, 0x409, 0, 0x108] ∧
    results [.vst t, .vst { t with d := 3 }, .vst { t with a := 4 }, .vst { t with imm := 4 }, .vst { t with d := 7 }, .vst { t with d := 8 }] (tens 0x2003 0x40000) = [0, 0x0A, 0x15, 9, 0x409, 9] ∧
    results [.vst t] (tens 0x2003 0x4000000000) = [0x105] ∧ results [.vst t, .vld w] (tens 0x2023 0x40000) = [0x409, 0x409] := by decide +kernel
/-- A fence of the strand stands before what the stores write; a vector load whose bytes are read later. -/
theorem test_meets_vector_loads_later : let held := withE vmem2 fun x => { x with flight := [{ id := 0, op := some { kind := .fence, ord := 2 } }], nextId := 1 }
    let x : VLoad := { et := 2, wd := 8, g := 1, form := .dense [4], poi := false }
    let o : MemOp := { kind := .vload x, va := 0x20000, n := 4, pieces := [{ pa := 0x20000, n := 4 }] }
    let later := withE vmem2 fun y => { y with flight := [{ id := 0, dests := [.vec 6], writes := [.vec 6 {}], op := some o }], nextId := 1 }
    results [.vst { ve 2 2 0 0 2 with b := 0 }, .vstp { ve 2 2 0 0 0 with b := 0 }, .vscat (ve 4 2 3 0 2)] held = [999, 999, 999] ∧
    ((strandOf later 0 0 .e).flight.find? fun f => f.id = 0 && !f.landed).map (·.op) = some (some o) ∧ x.form ≠ .raw ∧
    isOk (writeGroup vmem2 6 1 2 (x.form.runs 8 0x01020304) false) = true ∧ waitsBehind vmem2 { kind := .load, va := 0x20000, n := 4, pieces := [{ pa := 0x20000, n := 4 }] } = false ∧
    isOk (xlatRanges vmem2 .read false [(0x20000, 4), (0, 0)]) = true ∧ isOk (xlatRanges vmem2 .read false [(0x20000, 4), (0x4000000000, 4)]) = false := by decide +kernel

/-! Array commands: each check of each command, by words with what each does. -/

/-- `matS` with index registers: poisoned (i1), not aligned (i2), near the end of the scratchpad (i3), past it (i4), a tensor that the launch does not have (i5). -/
def matB (fmt spc : Nat) (mconf : W64) (f : Cluster → Cluster) (g : Bank → Bank) : State :=
  matS fmt spc mconf f fun b => g { b with i := [(1, { v := 0, poi := true }), (2, { v := 1 }), (3, { v := 0xFFE0 }), (4, { v := 0x10000 }), (5, { v := 0x400000 })] }
def intS : State := matB 3 0 0x84 id id
def fpS : State := matB 9 0 0x9 (fun k => { k with acc := [(3, { aft := true })] }) id
/-- The same without accumulators. -/
def bare (s : State) : State := updBank s 0 0 fun b => { b with accmap := 0 }
def mm2 : MAT := { ma with mm1 := 15, nm1 := 15, str := 2 }
theorem test_meets_set_and_load_checks : results [.mset ma, .mset { ma with row0 := 127, mm1 := 1 }, .mset { ma with row0 := 127 }] intS = [0, 6, 0] ∧ results [.mset ma, .mldacc ma] (bare intS) = [6, 6] ∧
    results [.mldacc ma, .mldacc { ma with ia := 1 }, .mldacc { ma with row0 := 127, mm1 := 1 }, .mldacc { ma with ia := 2 }, .mldacc { ma with ia := 3 }] intS = [0, 0x15, 6, 6, 6] := by decide +kernel
theorem test_meets_row_sum_checks : let r := { mm2 with nm1 := 0 }
    let c : MAT := { ma with nm1 := 15, sub := 1 }
    results [.mrowsum r, .mrowsum { r with ia := 1 }, .mrowsum { r with ib := 1 }, .mrowsum { r with kbm1 := 127 }, .mrowsum { r with ia := 2 }, .mrowsum { r with ib := 2 }, .mrowsum { r with ib := 4 }] intS =
      [0, 0x15, 0x15, 0x101, 6, 6, 6] ∧ results [.mrowsum r, .mrowsum c] fpS = [6, 6] ∧
    results [.mrowsum c, .mrowsum { c with ib := 1 }, .mrowsum { c with ws := 1 }, .mrowsum { c with kbm1 := 127 }, .mrowsum { c with ib := 2 }, .mrowsum { c with ib := 4 }] intS = [0, 0x15, 6, 0x101, 6, 6] := by
  decide +kernel
theorem test_meets_outlier_checks : let o : MAT := { mm2 with str := 0 }
    results [.mola o, .mola { o with ib := 1 }, .mola { o with ws := 1 }, .mola { o with kbm1 := 255 }, .mola { o with row0 := 120 }, .mola { o with ib := 2 }, .mola { o with ib := 4 }] fpS = [0, 0x15, 6, 0x101, 6, 6, 6] ∧
    results [.mola o] (bare fpS) = [6] ∧ results [.mola o] intS = [6] := by decide +kernel
theorem test_meets_product_checks : results [.mma mm2, .mma { mm2 with ib := 2 }, .mma { mm2 with ia := 1 }, .mma { mm2 with ws := 1 }, .mma { mm2 with kbm1 := 1 }, .mma { mm2 with row0 := 120 }, .mma { mm2 with ia := 2 },
      .mma { mm2 with ia := 4 }, .mmas mm2] intS = [0, 0x101, 0x15, 6, 6, 6, 6, 6, 6] ∧ results [.mma mm2] (bare intS) = [6] ∧ results [.mma mm2] (matB 9 0 0x9 id id) = [6] ∧
    results [.mmas mm2, .mma mm2] (matB 3 1 0x84 id id) = [0, 6] := by decide +kernel
/-- A tensor of tiles of 64 by 16 in INT48 for a drain of 4 by 4, in place of `tdInt8`. -/
def tdOut : Nat := 0x40000 + 2 ^ 57 + 16 * 2 ^ 64 + 64 * 2 ^ 88 + 0x200F * 2 ^ 112 + 6 * 2 ^ 176 + 4 * 2 ^ 184 + 96 * 2 ^ 192
theorem test_meets_drain_checks : let d : MAT := { ma with mm1 := 15, nm1 := 15 }
    let t : MAT := { ma with mm1 := 3, nm1 := 3, sub := 4 }
    results [.mdrain d, .mdrain { d with ia := 1 }, .mdrain { d with sub := 1, ib := 1 }, .mdrain { d with row0 := 120 }, .mdrain { d with sub := 1, ib := 2 }, .mdrain { d with ia := 2 }, .mdrain { d with ia := 4 }, .mdrain { d with sub := 1 }] intS =
      [0, 0x15, 0x15, 6, 6, 6, 6, 6] ∧ results [.mdrain d] (bare intS) = [6] ∧ results [.mdrain { d with sub := 1 }] fpS = [6] ∧
    results [.mdrain t, .mdrain { t with ia := 1 }, .mdrain { t with sub := 5, ib := 1 }, .mdrain { t with ia := 5 }, .mdrain { t with ia := 2 }, .mdrain { t with mm1 := 70 }, .mdrain { t with row0 := 127 }, .mdrain { t with sub := 5 }]
      (lay intS 0x30000 64 tdOut) = [0, 0x15, 0x15, 6, 6, 6, 6, 6] ∧ results [.mdrain t] (lay intS 0x2000 8 0) = [0x105] := by decide +kernel
/-- A name that has become absent, once mapped to `slot7`. -/
def lost (s : State) : State := updTask s 1 fun t => { t with wmap := [(0, none)], wsrc := [(0, slot7 3 0)] }
def slotKind (r : SlotSt × State) : Nat := match r.1 with | .ready _ => 0 | .waits => 1 | .refused => 2
theorem test_meets_slots : let m := fun s => newCmd s (.mma mm2)
    let good := lost (lay intS 0x30000 64 tdWeights)
    let unfilled := matS 3 0 0x84 (fun k => { k with slots := [(7, { slot7 3 0 with filled := false })] }) id
    slotKind (slotFor intS (newCmd intS (.mset ma))) = 0 ∧ slotKind (slotFor intS (m intS)) = 0 ∧ slotKind (slotFor unfilled (m unfilled)) = 1 ∧ slotKind (slotFor good (m good)) = 1 ∧ slotKind (slotFor (lost intS) (m good)) = 2 ∧
    slotKind (slotFor (lost (lay intS 0x2000 8 0)) (m good)) = 1 ∧ slotKind (slotFor (updBank good 0 0 fun b => { b with mldwPosted := true }) (m good)) = 1 ∧ slotKind (slotFor (updTask good 1 fun t => { t with wsrc := [] }) (m good)) = 0 ∧
    takes (acceptCmd (lost intS) (m good)) = none ∧ takes (acceptCmd good (m good)) = some false ∧ (m good).checked = true ∧ (newCmd good (.mset ma)).checked = false ∧ (m good).clash = [] := by decide +kernel
theorem test_meets_issued_commands : result (.mset ma) (modBank intS fun b => { b with mwait := some (newCmd intS (.mset ma)) }) = 0 ∧
    result (.mma mm2) (modBank intS fun b => { b with mldws := [{ ent := 0, seq := 0, wn := 0, ref := 0 }] }) = 999 := by decide +kernel
theorem test_meets_units_of_commands : let s := modBank intS id
    let m := newCmd s (.mma mm2)
    intPath m (slot7 3 0) = true ∧ intPath (newCmd fpS (.mma mm2)) (slot7 9 0) = false ∧ s.mem.wf = true ∧ fmtWidth 15 = 48 ∧
    (roundShift 5 1, roundShift (-5) 1, roundShift 7 0) = (3, -3, 7) ∧ blockSum [.num false 3 0, .num true 1 0] = .num false (2 ^ 119) (-118) ∧ blockSum [.inf false, .num false 1 0] = .inf false ∧
    blockSum [.inf false, .inf true] = .nan false ∧ blockSum [.num false 0 0] = .num false 0 0 := by decide +kernel
theorem test_meets_weight_loads : let l := fun (n : BitVec 3) => Instr.mldw { ma with ia := n }
    results [l 0, l 1, l 5, l 2] (lay intS 0x30000 64 tdWeights) = [0, 0x15, 6, 6] ∧ results [l 0] (lay intS 0x2000 8 0) = [0] := by decide +kernel

/-! Copy words, reels, tasks, queues of notifications. -/

theorem test_meets_copy_checks : let at_ := fun (l : Tbl Reg) => (copyWords (cp 4 5 6)).map fun x => result x.1 (updBank (copyS 0x20000 64) 0 0 fun b => { b with x := l ++ b.x })
    at_ [] = [0, 0, 0, 0, 0, 0, 0, 0, 0] ∧ at_ [(4, bad), (10, bad)] = List.replicate 9 0x15 ∧ at_ [(6, val (2 ^ 48))] = List.replicate 8 0x101 ++ [0] ∧
    at_ [(6, val (2 ^ 48 - 1))] = [0x101, 0x1B, 0x1B, 0x1B, 0x101, 0x101, 0x101, 0x101, 0] ∧ at_ [(4, val (2 ^ 57))] = List.replicate 8 0x705 ++ [0] ∧ at_ [(10, val (2 ^ 57))] = List.replicate 8 0 ++ [0x705] ∧
    (copyWords (cp 4 5 6)).map (fun x => result x.1 (updBank (copyS 0x20000 64) 0 0 fun b => { b with bcnt := 0 })) = List.replicate 9 0x1C := by decide +kernel
theorem test_meets_outstanding : let s := withE (at0 .e id) fun x => { x with flight := [{ id := 0, op := some { kind := .store, va := 0x20000, n := 8, pieces := [{ pa := 0x20000, n := 8 }] } }, { id := 1, op := some { kind := .tlbinv } }], nextId := 2 }
    outstanding (curStrand s) (fun _ => true) = [0] ∧ outstanding (curStrand (at0 .e id)) (fun _ => true) = [] := by decide +kernel
/-- The ring of `reelS` elsewhere: on an unmapped page, and in host memory. -/
theorem test_meets_ring_pages : let r := fun (ring : Nat) => lay (reelS 0 3 4) 0x20000 8 ring
    results [.reelapp (rr 0 1 2)] (r 0x22000) = [0] ∧ results [.reelapp (rr 0 1 2)] (r 0x4000000000) = [0x105] ∧ results [.reelapp (rr 0 1 2)] (hostPage (r 0x40000000)) = [0x606] := by decide +kernel
theorem test_meets_task_records : let s := lay (taskS [(2, val 0x20000), (3, val 0x4000000000), (4, val 0x20040), (5, bad)]) 0x20000 64 spawnRec
    let two := fun (s : State) => results [.tspawn (rr 1 2 0), .lnch (rr 0 2 0)] s
    results [.tspawn (rr 1 2 0), .tspawn (rr 1 3 0), .tspawn (rr 1 5 0), .lnch (rr 0 2 0), .lnch (rr 0 3 0), .lnch (rr 0 4 0), .lnch (rr 0 5 0)] s = [0, 0x105, 0x15, 0, 0x105, 4, 0x15] ∧
    two (withE s fun x => { x with flight := [{ id := 0, op := some { kind := .fence, ord := 2 } }], nextId := 1 }) = [999, 999] ∧ two { s with mem := setPoison s.mem (0x20000 / 32) true } = [0x15, 0x15] ∧
    two (updDie s 0 fun d => { d with spawnBuf := List.range 64, launchBuf := List.replicate 64 { img := 0, root := 0, key := 0, prio := 0 } }) = [999, 999] := by decide +kernel
theorem test_meets_yields : let y := updTask (taskS []) 1 fun t => { t with glev := 7 }
    let full := updBank y 0 1 fun b => { b with task := some 2 }
    let out := fun (s : State) => (result (.tyield (rr 0 0 0)) s, (coreOf (nextOf (exec (.tyield (rr 0 0 0)) s)) 0).swapWant, (coreOf (nextOf (exec (.tyield (rr 0 0 0)) s)) 0).spillAt)
    out y = (0, true, none) ∧ out full = (0, false, none) ∧ out (updDie full 0 fun d => { d with ctxn := 1 }) = (0, true, some 0) ∧ out (updCore y 0 fun k => { k with spillAt := some 1 }) = (999, false, some 1) ∧
    classRoom full 1 = true := by decide +kernel
/-- NQPOST and NQTAKE, before a claim and behind one. -/
theorem test_meets_claims : let out := fun (s : State) => [Instr.nqpost (rr 1 2 3), .nqtake (rr 1 2 3)].map fun i => (result i s, (curStrand (nextOf (exec i s))).park.isSome, (curStrand (nextOf (exec i s))).claimed)
    let held := fun (s : State) => withE s fun x => { x with claimed := some 0, claimOf := (1, 0) }
    out (held (queueS 1 1 0 [0, 1])) = [(0, false, none), (999, true, some 0)] ∧ out (held (queueS 1 1 0 [1, 1])) = [(999, true, some 0), (0, false, none)] ∧ out (queueS 0 0 0 [0, 1]) = [(0, false, none), (999, true, some 0)] ∧
    out (queueS 0 0 1 [0, 1]) = [(0, false, none), (999, true, some 0)] ∧ out (queueS 1 0 0 [1, 1]) = [(0, false, none), (0, false, none)] := by decide +kernel
theorem test_meets_orphan_buffers : let s := updBank orphS 0 0 fun b => { b with s := b.s ++ [(8, val 0x40000000)] }
    results [.orphx { rr 1 3 2 with c := 5 }, .orphx { rr 1 6 2 with c := 5 }, .orphx { rr 1 8 2 with c := 5 }] s = [0, 0x105, 0x606] := by decide +kernel

/-! System words: drains that use translations, answers on their way, spills, and traps of A and M while E's passes run. -/

def drainOut (s : State) : State := updCluster s 0 fun k => { k with running := some { w := .mdrain ma, core := 1, task := 0, bank := 0, ent := 0, rows := [[]] } }
theorem test_meets_translations_dropped : let s := atS [(2, val 0x20000), (4, bad)]
    results [.tlbinv (sy 0 0), .tlbinv { sy 0 2 with sub := 1 }, .tlbinv { sy 0 4 with sub := 1 }] s = [0, 0, 0x15] ∧ (rowsOut s, deviceHeld s) = (false, false) ∧ result (.tlbinv (sy 0 0)) (drainOut s) = 0 ∧
    rowsOut (drainOut s) = true := by decide +kernel
/-- The answer of a SWAPB, SPILL or TLBINV on its way to s2, and whether it has landed after its event. -/
def answering (d : List Dest) (k : MemKind) (f : State → State) : State :=
  f (withE (at0 .e id) fun x => { x with flight := [{ id := 0, dests := d, op := some { kind := k, dc := 3 }, bound := 6000, writes := d.map fun _ => .reg 2 (val 9) }], nextId := 1 })
def answered (s : State) : Option Bool :=
  let i := if (flightOf s ⟨0, 0, .e, 0⟩).map (·.dests) = some [] then Instr.storePerformed ⟨0, 0, .e, 0⟩ else .resultLand ⟨0, 0, .e, 0⟩
  ((strandOf (nextOf (exec i s)) 0 0 .e).flight.find? fun f => f.id = 0).map (·.landed)
def shadowed (s : State) : State := updBank s 1 1 fun b => { b with task := some 1 }
/-- Core 1 is to bring in task 1, whose mate 2 is spilled and has no bank to come back to. -/
def noBank (s : State) : State :=
  updBank { shadowed s with
    tasks := [(1, { glev := 0, st := .inBank, core := 1, bank := 1, started := true, expanded := true }), (2, { glev := 0, st := .spilled 0, core := 2, started := true, expanded := true, keep := some {} }),
      (3, { core := 2, bank := 1, st := .inBank, started := true })], launches := [(0, { img := 0, root := 0, key := 0, die := 0, src := 0, prio := 0 })] } 2 1 fun b => { b with task := some 3 }
theorem test_meets_answers : answered (answering [.reg 2] (.swap 1 [1]) id) = some true ∧ answered (answering [.reg 2] (.swap 1 [1]) fun s => updCore s 1 fun k => { k with swapWant := true }) = some false ∧
    answered (answering [.reg 2] (.swap 1 []) noBank) = some false ∧ forceSwaps (noBank (at0 .e id)) 1 = none ∧ answered (answering [.reg 2] (.spill 1) shadowed) = some true ∧
    answered (answering [.reg 2] (.spill 1) fun s => updCore (shadowed s) 1 fun k => { k with swapWant := true, shst := 1 }) = some false ∧ answered (answering [] .tlbinv id) = some true ∧
    answered (answering [] .tlbinv drainOut) = some false := by decide +kernel
theorem test_meets_spills : let s := fun (f : Core → Core) => updCore (updDie (shadowed (atS [(7, val 1)])) 0 fun d => { d with ctxn := 1 }) 1 f
    let out := fun (s : State) => (result (.spill (sy 1 7)) s, (wrote (nextOf (exec (.spill (sy 1 7)) s))), (curStrand (nextOf (exec (.spill (sy 1 7)) s))).flight.map fun f => f.op.isSome)
    (freeArea (s id) 0 = some 0 ∧ spillRoom (s id) 1 = true ∧ bankLanded (bankSel (coreOf (s id) 1) (shadow (coreOf (s id) 1))) = true) ∧ out (s fun k => { k with shst := 1 }) = (0, [.reg 1 (val 2)], [false]) ∧ out (s fun k => { k with shst := 1, swapWant := true }) = (0, [.reg 1 (val 0)], [true]) ∧
    out (s fun k => { k with shst := 3 }) = (0, [.reg 1 (val 0)], [true]) ∧ out (s fun k => { k with swapWant := true }) = (0, [.reg 1 (val 0)], [true]) ∧
    out (updStrand (s id) 1 1 .e fun x => { x with flight := [{ id := 0, dests := [.reg 2], op := some { kind := .load }, bound := 6000 }], nextId := 1 }) = (0, [.reg 1 (val 0)], [true]) := by decide +kernel
theorem test_meets_traps_of_other_strands : let s := fun (st : Strand) (busy : Nat) => withE (at0 st id) fun x => { x with busy := busy }
    midPass (s .a 100) = true ∧ midPass (s .a 0) = false ∧ midPass (s .m 0) = false ∧ results [.trap { sy 0 0 with imm := 7 }] (s .a 100) = [999] ∧ results [.trap { sy 0 0 with imm := 7 }] (s .a 0) = [0x718] ∧
    result (.mset { ma with row0 := 127, mm1 := 1 }) (withE intS fun x => { x with busy := 100 }) = 999 ∧
    (let u := modBank (cutMatrix intS intS.curCore) fun b => { b with mwait := none }; u.curCore = intS.curCore ∧ u.curSt = .m) := by decide +kernel

/-! Events whose conditions were widened: the host port's link, sources and sections, regions and leases, power states. -/

def linked : State := { r0 with mgmt := { r0.mgmt with hostLink := true } }
theorem test_meets_bar0 : barOn linked = true ∧ barOn r0 = false ∧ lqEn (lqOf { linked with queues := [(3, { ctl := 1 })] } 3) = true ∧ lqEn (lqOf linked 3) = false ∧ linked.mgmt.barAt ≠ some linked.cycle := by decide +kernel
/-- Queue 3 of D0 holds one record, or the die's launch buffer does. -/
theorem test_meets_sources : let q := lay { linked with queues := [(3, { ctl := 1, tail := 1, base := 0x30000 })] } 0x30000 128 0
    let d := updDie linked 0 fun d => { d with launchBuf := [{ img := 0, root := 0, key := 0, prio := 0 }] }
    let c := fun (s : State) (n : Nat) => let q := lqOf s n; let r := deviceRead s 0 3 (q.base.toNat + 128 * (q.head.toNat % 2 ^ lqLog q)) 128; lrFirstFail r.2 r.1.1 q.root.toNat (lqKey q) r.1.2
    nextSource q 0 = some 3 ∧ dispatcherOn q 0 = true ∧ nextSource d 0 = some 64 ∧ (dieOf d 0).launchBuf.length = 1 ∧ c q 3 ≠ 0 ∧
    lrFirstFail d 0 0 0 false ≠ 0 ∧ lqDsel (lqOf q 3) ≠ 4 := by decide +kernel
theorem test_meets_expansion : let s := { updDie r0 0 fun d => { d with active := [1] } with launches := [(1, { img := 0, root := 0, key := 0, die := 0, src := 0, prio := 0, total := 1 })] }
    nextLaunchOf s 0 = some 1 ∧ (tfind s.launches 1).isSome = true ∧ launchBlocked s 1 = false := by decide +kernel
/-- Operands of a new task, a claim, and the lookup in a table of one method. -/
theorem test_meets_dispatch_algorithm : let s := withMethod (inject .dispatching fun t => { t with opid := 2 })
    (taskOf s 1).nops = 0 ∧ (match readOpnds (updTask s 1 fun t => { t with method := none, st := .dispatching }) 1 [] (List.range 0) with | .ok r => r.1.length | .error _ => 9) = 0 ∧
    lookup s 2 [] = some 5 ∧ lookup s 3 [] = none ∧ ((s.methods.map Prod.fst).Pairwise (· < ·)) ∧ (chooseCluster (updTask s 1 fun t => { t with method := some 5 }) 1).isSome = true ∧
    (launchOf { s with launches := [(1, launch1)] } 1).complete = false := by decide +kernel
/-- A task that waits in cluster 0's queue fits core 1, whose banks are empty, or whose front is taken. -/
theorem test_meets_selection : let s := withMethod { updCluster (inject .ready fun t => { t with opid := 2, method := some 5, expanded := true }) 0 fun k => { k with q0 := [1] } with launches := [(1, launch1)] }
    let p := fun s => (selectFor s 1 none 0).task.map fun x => (x.1, x.2.isSome)
    (coreOpen s 1 && frontEmpty s 1) = true ∧ p s = some (1, true) ∧ p r0 = none ∧ p (updBank s 1 0 fun b => { b with task := some 2 }) = some (1, true) ∧ lowRun [0, 1, 3] 1 = some 2 ∧ lowRun (List.range 32) 1 = none ∧
    (selectFor (updDie s 0 fun d => { d with thcap := 0 }) 1 none 0).task.isNone = true ∧ (selectFor (updCluster s 0 fun k => { k with reserved := some 1 }) 1 none 0).task.isSome = true := by decide +kernel
theorem test_meets_promotion_room : let s := updCluster (inject .ready fun t => { t with since := 0 }) 0 fun k => { k with q1 := [1] }
    1 ≤ queueRoom { s with cycle := 65536 } 0 1 ∧ (clusterOf { s with cycle := 65536 } 0).reserved = none := by decide +kernel
theorem test_meets_steals : let s := { updCluster { r0 with tasks := [(1, { launch := 1, st := .ready, cluster := 1 }), (2, { launch := 1, st := .ready, cluster := 1 })], nextTask := 3 } 1 fun k => { k with q0 := [1, 2] } with launches := [(1, launch1)] }
    movable s 1 false = true ∧ stealUnits s 1 1 false [2, 1] [] = [2] ∧ (tfind s.tasks 2).isSome = true ∧ victimOn r0 0 0 = none := by decide +kernel
/-- A section's execution behind the foreground, or one of a task in a save area, has issued all its words. -/
theorem test_meets_retiring : let done := ({ phase := .slate, execs := [{ n := 1, issued := true }] } : StrandSt)
    let back := updBank (at0 .e id) 0 1 fun b => { b with task := some 1, se := done }
    let area := { at0 .e id with tasks := [(1, { core := 0, st := .spilled 0, keep := some { se := done } })] }
    let can := fun (s : State) (b : Nat) => canRetire (landCore s 0) 0 (openCmds (landCore s 0) 0 b) (bankOf (landCore s 0) 0 b) .e
    (can back 0, can back 1) = (false, true) ∧ areaRetires (landCore area 0) 0 .e = some 1 ∧ areaRetires (landCore back 0) 0 .e = none ∧
    (let b : Bank := { trap := some { cause := 4, sub := 0, st := 1 } }; b.trap.isSome ∧ (resumeBank b false).trap = none) := by decide +kernel
/-- An access that has waited too long, and what it leaves. -/
theorem test_meets_given_up : let o : MemOp := { kind := .load, va := 0x20000, n := 8, pieces := [{ pa := 0x20000, n := 8 }] }
    let s := { withE (at0 .e id) fun x => { x with flight := [{ id := 0, dests := [.reg 2], op := some o, bound := 5 }], nextId := 1 } with cycle := 2 ^ 24 }
    ((flightOf s ⟨0, 0, .e, 0⟩).map fun f => watchdogOut s 0 f) = some true ∧ Dest.reg 2 ∈ [Dest.reg 2] ∧ (flightOf s ⟨0, 0, .e, 0⟩).isSome = true := by decide +kernel
theorem test_meets_interrupts : let irq := updDie (updCore r0 0 fun k => { k with ie := true }) 0 fun d => { d with intFq := true }
    interruptCore irq 0 = some 0 ∧ interruptOk irq 0 = true := by decide +kernel
/-- Array and copy: no slot is waiting, a filled slot, a command with its notify word, a reel that stops and one that goes on. -/
theorem test_meets_engine_states : let n : CopyCmd := { oneCopy with cmd := 2 ^ 35 }
    let reel := fun (b : Bool) => updCore r0 1 fun k => { k with reels := [{ rcb := 0x20000, task := 0, root := placeRoot, key := 0, sup := true, stopping := b }] }
    (arrayOn r0 0 = true ∧ (clusterOf r0 0).holder = none) ∧ ((slot7 3 0).filled = true) ∧ n.badIdx = false ∧ (oneCopy.reel = none ∧ oneCopy.done < oneCopy.len) ∧
    ((coreOf (reel true) 1).reels.find? fun r => r.rcb = 0x20000).map (·.stopping) = some true ∧ ((coreOf (reel false) 1).reels.find? fun r => r.rcb = 0x20000).map (·.stopping) = some false ∧
    (let v := rcbRead (reelS 0 3 4) 0 0x20000; rcHead v.1.1 = 3 ∧ rcTail v.1.1 = 4 ∧ ringOk v.1.1 = true) ∧ (winSpace (0xE000000000000 + 3 * 2 ^ 31 + 0x108) = 3 ∧ winOff (0xE000000000000 + 3 * 2 ^ 31 + 0x108) = 0x100 + 8 * 1) ∧
    bankBusy (coreOf r0 0) 0 = false ∧ bankBusy (coreOf (updCore r0 0 fun k => { k with swapAt := some 64 }) 0) 0 = true := by decide +kernel
/-- The PRT entry 0 of `queueS` with another STATE and KIND. -/
def prtS (st kind : Nat) : State := lay (queueS 0 0 0 []) 0x50000 32 (st * 2 ^ 51 + kind * 2 ^ 49 + 3 * 2 ^ 28)
theorem test_meets_regions : let look := fun (s : State) => (prtState (prtEntry s 0), prtKind (prtEntry s 0), headsFailed s (prtEntry s 0))
    let failed := { prtS 2 0 with pool := { (prtS 2 0).pool with heads := [(0, { state := 2, accepted := [(0, 4)] })] } }
    [prtS 0 0, prtS 0 2, prtS 2 0, prtS 3 2, failed].map look = [(0, 0, false), (0, 2, false), (2, 0, false), (3, 2, false), (2, 0, true)] ∧ hasOrphans orphS 0 = true ∧ hasOrphans (prtS 1 0) 0 = false ∧
    regionHeld (prtS 1 0) (prtEntry (prtS 1 0) 0) = false ∧ agentOn (prtS 1 0) (prtHeadOf (prtS 1 0) 0) = true ∧ granuleAccepted (prtS 0 0) 0 0 = true ∧ granuleAccepted (prtS 0 0) 0 4 = false := by decide +kernel
theorem test_meets_region_checks : let s := { lay r0 0x50000 32 (3 * 2 ^ 28) with pool := { r0.pool with prtbase := 0x50000, heads := [(0, { state := 1, accepted := [(0, 4)] })] } }
    entryOk s 0 (prtEntry s 0) = true ∧ coveredBy s none 0 0 1 = false ∧ entryOk (prtS 2 0) 0 (prtEntry (prtS 2 0) 0) = false := by decide +kernel
theorem test_meets_coverage : coveredBy (prtS 1 0) none 0 0 1 = true := by decide +kernel
theorem test_meets_lease_states : let l := fun (x : Lease) (c : Nat) => { queueS 0 0 0 [] with cycle := c, pool := { (queueS 0 0 0 []).pool with leases := [x] } }
    ((leaseOf (l { prt := 0, sent := 0, lms := 8, asked := [0], waiting := true } 0) 0).map (·.waiting)) = some true ∧ ((leaseLive (l { prt := 0, sent := 0, lms := 8, asked := [5] } 10) 0).map (·.asked)) = some [5] ∧
    (0 + lmsCycles 8 / 4 ≤ 2 ^ 40 ∧ 0 + 7 * lmsCycles 8 / 8 ≤ 2 ^ 40) := by decide +kernel
theorem test_meets_lost_lines : let s := updCluster (queueS 0 0 0 []) 0 fun k => { k with cache := [{ line := 0x8000000000000 / 128, dirty := 1 }] }
    let t := updStrand (queueS 0 0 0 []) 0 0 .e fun x => { x with flight := [{ id := 0, dests := [.reg 2], op := some poolLoad }], nextId := 1 }
    regionIdx s 0x8000000000000 = some 0 ∧ inPrt (prtEntry s 0) 0x8000000000000 = true ∧ (clusterOf s 0).cache.length = 1 ∧
    ((flightOf t ⟨0, 0, .e, 0⟩).bind fun f => f.op.bind fun o => o.pieces.head?.map fun p => (paPool p.pa, regionIdx t p.pa)) = some (true, some 0) ∧
    (findLine (agentCache (queueS 0 0 0 []) .north) (0x8000000000000 / 128)).isSome = true := by decide +kernel
theorem test_meets_waiting_agent : let s := updDie r0 0 fun d => { d with fqhead := 4096, posts := [{ img := 0, unit := some (.agent false) }] }
    agentWaits s (decide (4 ≤ 0)) = true ∧ prtHeadOf s 0 = 0 ∧ agentOn r0 0 = true := by decide +kernel
theorem test_meets_answers_of_extents : let s := { r0 with pool := { r0.pool with heads := [(0, { state := 1, offered := [(4, 2)], accepted := [(0, 4)] })] } }
    (headOf s 0).offered.contains (4, 2) = true ∧ (headOf s 0).offered.contains (4, 1) = false ∧ (headUp s 0 && agentOn s 0 && dcSane 0 4 2) = true ∧ (headOf s 0).state = 1 ∧ (headOf r0 1).state ≠ 1 := by decide +kernel
theorem test_meets_host_port : let s := { r0 with mgmt := { r0.mgmt with stage := 8, hostLink := true } }
    4 ≤ s.mgmt.stage ∧ (headOf s 8).downAt = none ∧ cxlMem s = true ∧ confidential s 0x20000 = false := by decide +kernel
theorem test_meets_power : let m := fun (f : Mgmt → Mgmt) => { linked with mgmt := f linked.mgmt }
    prtLive (prtS 1 0) = true ∧ prtLive linked = false ∧ ((m fun x => { x with psCur := 2 }).mgmt.psBusy = false ∧ (m fun x => { x with psCur := 2 }).todo = []) ∧
    ((m fun x => { x with psCur := 1, wake := true }).mgmt.wake = true ∧ (m fun x => { x with psCur := 1 }).mgmt.wake = false) ∧
    ((m fun x => { x with psCur := 2, psBusy := true, psReq := 0 }).mgmt.psCur = 2 ∧ (m fun x => { x with psBusy := true }).mgmt.psBusy = true) ∧ storedFault linked = 0 ∧ granuleZero (lay linked 0x600000 1 1) 3 = false ∧
    (m fun x => { x with fail := 5 }).mgmt.fail ≠ 0 := by decide +kernel
end Sys2Proof.Tests
end

section
/-! SUPPORT. A step through its plan: every instruction answers a next state, and what a turn or an event of the agenda runs (R12, R339; log entry 1). -/
namespace Sys2Proof.Laws
open Sys2Proof.Machine Sys2Proof.Safety

/-! ## Every instruction answers a next state -/

/-- A word is its body behind the gate. -/
theorem exec_word {i : Instr} (h : isWord i = true) : ∃ body, exec i = issue i body := by
  cases i <;> first
    | exact ⟨_, rfl⟩
    | exact absurd h Bool.false_ne_true

/-- What has no header, ILLEGAL or an event, makes its next state itself. -/
theorem exec_headless {i : Instr} (h : isWord i = false) : ∃ f : State → State, ∀ s, exec i s = .next (f s) := by
  cases i <;> first
    | exact absurd h.symm Bool.false_ne_true
    | exact ⟨_, fun _ => rfl⟩

theorem exec_next (i : Instr) (s : State) : ∃ t, exec i s = .next t := by
  cases h : isWord i with
  | true =>
    obtain ⟨body, hb⟩ := exec_word h
    rw [hb]
    exact issue_next i body s
  | false =>
    obtain ⟨f, hf⟩ := exec_headless h
    exact ⟨f s, hf s⟩

/-! ## A step of each plan -/

theorem step_of_done {s t : State} (h : plan s = .done t) : step s = .next (runTodo t) := by simp only [step, h]
theorem step_of_run {s t u : State} {i : Instr} (h : plan s = .run t i) (he : exec i t = .next u) : step s = .next (runTodo u) := by
  simp only [step, h, he]
theorem step_of_probe {s t u : State} {i : Instr} (h : plan s = .probe t i) (he : exec i t = .next u) : step s = .next (runTodo (probed t u)) := by
  simp only [step, h, he]
theorem step_of_bad {s : State} (h : plan s = .bad) : step s = .fault .wordInAgenda := by simp only [step, h]

/-- Only a word that stands in the agenda stops a step. -/
theorem safe_of_plan {s : State} (h : plan s ≠ .bad) : Safe s := by
  cases hp : plan s with
  | done t => exact ⟨_, step_of_done hp⟩
  | run t i => obtain ⟨u, hu⟩ := exec_next i t; exact ⟨_, step_of_run hp hu⟩
  | probe t i => obtain ⟨u, hu⟩ := exec_next i t; exact ⟨_, step_of_probe hp hu⟩
  | bad => exact absurd hp h

/-! ## The plan of an agenda entry -/

theorem plan_strand {s : State} {dt core : Nat} {st : Strand} {rest : List Turn} (h : s.agenda = .strand dt core st :: rest) :
    plan s = planStrand (tick { s with agenda := rest } dt) core st := by simp only [plan, h]
theorem plan_event {s : State} {dt : Nat} {i : Instr} {rest : List Turn} (h : s.agenda = .event dt i :: rest) :
    plan s = if isEvent i then .run (tick { s with agenda := rest } dt) i else .bad := by simp only [plan, h]

/-- A strand's turn plans a word or a change of the state alone, whatever branch of it is taken. -/
theorem planStrand_ne_bad (s : State) (core : Nat) (st : Strand) : planStrand s core st ≠ .bad := by
  simp only [planStrand]
  repeat' split
  all_goals exact Plan.noConfusion

/-- An agenda of turns and events plans no stop (log entry 1). -/
theorem plan_ne_bad {s : State} (hok : AgendaOk s) : plan s ≠ .bad := by
  cases hag : s.agenda with
  | nil => simpa only [plan, hag] using planStrand_ne_bad _ _ _
  | cons e rest =>
    cases e with
    | strand dt core st => rw [plan_strand hag]; exact planStrand_ne_bad _ _ _
    | event dt i =>
      have hev : isEvent i = true := hok _ (by rw [hag]; exact List.mem_cons_self) dt i rfl
      rw [plan_event hag, if_pos hev]
      exact Plan.noConfusion

/-- The word at PC, with REP's steps added to it while a REP runs (R336). -/
theorem fetchWord_eq {s u : State} {v : Nat} (h : fetchCode s (curCtx s) (curStrand s).pc.toNat 12 = .ok (v, u)) :
    fetchWord s = .ok (decodeWord (match (curStrand s).rep with | some r => stepWord (BitVec.ofNat 96 v) r | none => BitVec.ofNat 96 v), u) := by
  rw [fetchWord, h]
  rfl
/-- A turn that nothing holds back runs the word that is fetched; it tries it only where a swap or an interrupt waits at the boundary. -/
theorem planStrand_word {s u : State} {core : Nat} {st : Strand} {i : Instr} (hturn : turnOk s core st = true) (hheld : heldBack (turnState s core st) = none)
    (hlate : (curStrand (turnState s core st)).late = []) (hrun : (curStrand (turnState s core st)).phase = .run)
    (hfetch : fetchWord (turnState s core st) = .ok (some i, u)) :
    planStrand s core st = if boundaryHeld u core then .probe u i else .run u i := by
  simp [planStrand, hturn, hheld, hlate, hrun, hfetch]

/-- What the step leaves of the word that ran or was tried. -/
theorem step_of_word {s u x : State} {core : Nat} {i : Instr} (h : plan s = if boundaryHeld u core then .probe u i else .run u i) (he : exec i u = .next x) :
    step s = .next (runTodo (if boundaryHeld u core then probed u x else x)) := by
  split_ifs at h ⊢
  · exact step_of_probe h he
  · exact step_of_run h he

/-! ## The obligations -/

/-- Settles O4: the turn's plan is the decoded word, and the word always answers a next state. -/
theorem stepRunsDecodedWord : Obligations.StepRunsDecodedWord := by
  intro s dt core st rest v u i s1 t done hag hturn hheld hlate hrun hfetch
  have run : ∀ {w}, fetchWord t = .ok (w, u) → w = some i →
      step s = match exec i u with | .next x => .next (done x) | .fault f => .fault f | .refused r => .refused r := by
    rintro _ hw rfl
    obtain ⟨x, hx⟩ := exec_next i u
    rw [hx]
    exact step_of_word ((plan_strand hag).trans (planStrand_word hturn hheld hlate hrun hw)) hx
  refine ⟨fun hrep hdec => run (fetchWord_eq hfetch) ?_, fun r hrep hdec => run (fetchWord_eq hfetch) ?_⟩
  · rw [hrep]; exact hdec
  · rw [hrep]; exact hdec

/-- Settles O6: an event's plan is to run it, and no plan but that of a word in the agenda stops. -/
theorem stepRunsEvents : Obligations.StepRunsEvents := by
  refine ⟨fun s dt i rest hag => ⟨fun hev => ?_, fun hev => ?_⟩, exec_next, fun s hok => safe_of_plan ?_⟩
  · obtain ⟨x, hx⟩ := exec_next i (tick { s with agenda := rest } dt)
    rw [hx]
    exact step_of_run ((plan_event hag).trans (if_pos hev)) hx
  · exact step_of_bad ((plan_event hag).trans (by rw [hev]; rfl))
  · exact plan_ne_bad hok
end Sys2Proof.Laws
end

section
/-! SUPPORT. The reel words (R452-R456): what each body answers behind each of its checks. -/
namespace Sys2Proof.Laws
open Sys2Proof.Machine Sys2Proof.Safety

/-! ## Checks in a word's body -/

/-! The two steps of a bind are proved by `simp`, not by `rfl`: as definitional steps they would leave it to the kernel to unfold whole bodies on the other side. -/
@[simp] theorem ok_bind {ε α β : Type} (a : α) (f : α → Except ε β) : (Except.ok a >>= f) = f a := by simp only [bind, Except.bind]
@[simp] theorem error_bind {ε α β : Type} (e : ε) (f : α → Except ε β) : (Except.error e >>= f) = Except.error e := by simp only [bind, Except.bind]
@[simp] theorem check_true (c sub tval : Nat) : check true c sub tval = .ok () := rfl
@[simp] theorem check_false (c sub tval : Nat) : check false c sub tval = .error (.trap c sub tval) := rfl
@[simp] theorem liftFault_ok {α : Type} (a : α) : liftFault (.ok a : Except PageFault α) = .ok a := rfl
@[simp] theorem liftFault_error {α : Type} (f : PageFault) : liftFault (.error f : Except PageFault α) = .error (.trap f.cause f.sub f.va) := rfl
theorem aligned_ok {va n : Nat} (h : va % n = 0) : aligned va n = .ok () := by simp [aligned, h]
theorem aligned_error {va n : Nat} (h : va % n ≠ 0) : aligned va n = .error (.trap 0x04 0 va) := by simp only [aligned, beq_false_of_ne h, check_false]

/-- A word whose body waits stays unissued this cycle. -/
theorem issue_stall {i : Instr} {s : State} {body : State → Except Stop Out} {why : StallWhy} (h : issues i s = true) (hb : body s = .error (.stall why)) :
    issue i body s = .next (stallAs s why) := issue_stop h hb

/-! ## The checks of the operands -/

section
variable {w : RR} {s : State}

theorem reel_poisoned {i : Instr} (hi : i = .reelapp w ∨ i = .reellnk w ∨ i = .reelkick w ∨ i = .reelstat w) (h : issues i s = true)
    (ha : (rdS s w.a).poi = true) : exec i s = .next (stopWord i (.trap 0x15 0 0) s) := by
  rcases hi with rfl | rfl | rfl | rfl
  · exact issue_stop (body := reelappBody w) h (by simp [reelappBody, causePoison, ha])
  · exact issue_stop (body := reellnkBody w) h (by simp [reellnkBody, causePoison, ha])
  · exact issue_stop (body := reelkickBody w) h (by simp [reelkickBody, causePoison, ha])
  · exact issue_stop (body := reelstatBody w) h (by simp [reelstatBody, causePoison, ha])

theorem reel_misaligned {i : Instr} (hi : i = .reelapp w ∨ i = .reellnk w ∨ i = .reelkick w ∨ i = .reelstat w) (h : issues i s = true)
    (ha : (rdS s w.a).poi = false) (hb : (rdS s w.b).poi = false ∨ i = .reelkick w ∨ i = .reelstat w) (hva : (rdS s w.a).v.toNat % 128 ≠ 0) :
    exec i s = .next (stopWord i (.trap 0x04 0 (rdS s w.a).v.toNat) s) := by
  rcases hi with rfl | rfl | rfl | rfl
  · have hb : (rdS s w.b).poi = false := by simpa using hb
    exact issue_stop (body := reelappBody w) h (by simp [reelappBody, ha, hb, aligned_error hva])
  · have hb : (rdS s w.b).poi = false := by simpa using hb
    exact issue_stop (body := reellnkBody w) h (by simp [reellnkBody, ha, hb, aligned_error hva])
  · exact issue_stop (body := reelkickBody w) h (by simp [reelkickBody, ha, aligned_error hva])
  · exact issue_stop (body := reelstatBody w) h (by simp [reelstatBody, ha, aligned_error hva])

/-! ## Behind the RCB -/

variable {pa r : Nat} {p : Bool} {u : State}

theorem reelstatBody_ok (ha : (rdS s w.a).poi = false) (hva : (rdS s w.a).v.toNat % 128 = 0) (hblk : reelBlock s (rdS s w.a).v.toNat .read = .ok (pa, (r, p), u)) :
    reelstatBody w s = .ok
      { s := acquireAction u u.curCore 2, atOnce := true,
        writes := wrS w.d (BitVec.ofNat 64 (rcHead r + rcTail r * 2 ^ 32)) p ++ wrS (w.d + 1) (BitVec.ofNat 64 (rcDone r + rcErrn r * 2 ^ 32 + rcState r * 2 ^ 48)) p } := by
  simp [reelstatBody, ha, aligned_ok hva, hblk]

theorem reellnkBody_ok (ha : (rdS s w.a).poi = false) (hb : (rdS s w.b).poi = false) (hva : (rdS s w.a).v.toNat % 128 = 0)
    (hblk : reelBlock s (rdS s w.a).v.toNat .write = .ok (pa, (r, p), u)) :
    reellnkBody w s = .ok { s := rcbWrite u u.curCore pa 32 8 ((rdS s w.b).v.toNat % 2 ^ 57) } := by
  simp [reellnkBody, ha, hb, aligned_ok hva, hblk]

/-- What REELKICK does once its RCB stands: nothing to a running reel, a wait while 64 are bound, or the binding. -/
theorem reelkickBody_block (ha : (rdS s w.a).poi = false) (hva : (rdS s w.a).v.toNat % 128 = 0) (hblk : reelBlock s (rdS s w.a).v.toNat .write = .ok (pa, (r, p), u)) :
    let t := releaseAction u u.curCore 2
    reelkickBody w s = if rcState r = 1 then .ok { s := t } else if 64 ≤ (coreOf t t.curCore).reels.length then .error (.stall .other) else .ok
      { s := startReel t t.curCore { rcb := pa, task := (curBank t).task.getD 0, root := (curBank t).root, key := (curBank t).key, sup := supervisor t t.curCore } } := by
  simp [reelkickBody, ha, aligned_ok hva, hblk]
end

/-! ## REELAPP behind its checks -/

/-- REELAPP past the checks of its operands, its image and its RCB (R452, R453): the ring's room, the entry's pages, the entry and TAIL. -/
def appendEntry (pa r : Nat) (img : List Xlat) (s : State) : Except Stop Out := do
  if (rcTail r + 2 ^ 32 - rcHead r) % 2 ^ 32 = 2 ^ rcLog r then .error (.stall .other) else
  let e := rcBase r + 64 * (rcTail r % 2 ^ rcLog r)
  let l ← liftFault (xlatPages s (curCtx s) .write true e 64)
  check (l.all fun x => x.kind = .loc || x.kind = .coh) 0x06 6 e
  liftFault (regionsOk s (curCtx s) l)
  let scope := if l.any (fun x => x.kind = .coh) then 3 else 2
  let s := useXlats (useXlats s (curCtx s) .read false img) (curCtx s) .write true l
  let s := appendImage s s.curCore scope ((curBank s).task.getD 0) e (piecesOf img) (piecesOf l)
  let s := scrambleEntry s s.curCore scope r (piecesOf l)
  let s := releaseAction s s.curCore 2
  .ok { s := rcbWrite s s.curCore pa 20 4 (rcTail r + 1) }

section
variable {w : RR} {s u : State} {x img l : List Xlat} {pa r : Nat} {p : Bool}

/-- REELAPP is the checks of its operands, its pages, its image and its RCB, and then `appendEntry`. -/
theorem reelappBody_eq : reelappBody w s = (do
    check (!(rdS s w.a).poi && !(rdS s w.b).poi) causePoison 0 0
    aligned (rdS s w.a).v.toNat 128
    aligned (rdS s w.b).v.toNat 64
    let _ ← liftFault (xlatPages s (curCtx s) .write true (rdS s w.a).v.toNat 128)
    let img ← liftFault (xlat s (curCtx s) .read false (rdS s w.b).v.toNat 64)
    let b ← reelBlock s (rdS s w.a).v.toNat .write
    appendEntry b.1 b.2.1.1 img b.2.2) := rfl

theorem reelappBody_block (ha : (rdS s w.a).poi = false) (hb : (rdS s w.b).poi = false) (hva : (rdS s w.a).v.toNat % 128 = 0) (hvb : (rdS s w.b).v.toNat % 64 = 0)
    (hx : xlatPages s (curCtx s) .write true (rdS s w.a).v.toNat 128 = .ok x) (himg : xlat s (curCtx s) .read false (rdS s w.b).v.toNat 64 = .ok img)
    (hblk : reelBlock s (rdS s w.a).v.toNat .write = .ok (pa, (r, p), u)) : reelappBody w s = appendEntry pa r img u := by
  simp [reelappBody_eq, ha, hb, aligned_ok hva, aligned_ok hvb, hx, himg, hblk]

theorem appendEntry_full (h : (rcTail r + 2 ^ 32 - rcHead r) % 2 ^ 32 = 2 ^ rcLog r) : appendEntry pa r img u = .error (.stall .other) := if_pos h

section
variable (hroom : (rcTail r + 2 ^ 32 - rcHead r) % 2 ^ 32 ≠ 2 ^ rcLog r)
include hroom

theorem appendEntry_fault {f : PageFault} (h : xlatPages u (curCtx u) .write true (rcBase r + 64 * (rcTail r % 2 ^ rcLog r)) 64 = .error f) :
    appendEntry pa r img u = .error (.trap f.cause f.sub f.va) := by
  simp only [appendEntry, if_neg hroom, h, liftFault_error, error_bind]

theorem appendEntry_kind (h : xlatPages u (curCtx u) .write true (rcBase r + 64 * (rcTail r % 2 ^ rcLog r)) 64 = .ok l) (hk : ∃ y ∈ l, y.kind ≠ .loc ∧ y.kind ≠ .coh) :
    appendEntry pa r img u = .error (.trap 0x06 6 (rcBase r + 64 * (rcTail r % 2 ^ rcLog r))) := by
  have hk : (l.all fun x => x.kind = .loc || x.kind = .coh) = false := by simpa using hk
  simp only [appendEntry, if_neg hroom, h, liftFault_ok, ok_bind, hk, check_false, error_bind]

theorem appendEntry_ok (h : xlatPages u (curCtx u) .write true (rcBase r + 64 * (rcTail r % 2 ^ rcLog r)) 64 = .ok l) (hk : ∀ y ∈ l, y.kind = .loc ∨ y.kind = .coh)
    (hreg : regionsOk u (curCtx u) l = .ok ()) :
    let scope := if l.any (fun y => y.kind = .coh) then 3 else 2
    let v := useXlats (useXlats u (curCtx u) .read false img) (curCtx u) .write true l
    let t := appendImage v v.curCore scope ((curBank v).task.getD 0) (rcBase r + 64 * (rcTail r % 2 ^ rcLog r)) (piecesOf img) (piecesOf l)
    let y := scrambleEntry t t.curCore scope r (piecesOf l)
    let z := releaseAction y y.curCore 2
    appendEntry pa r img u = .ok { s := rcbWrite z z.curCore pa 20 4 (rcTail r + 1) } := by
  have hk : (l.all fun x => x.kind = .loc || x.kind = .coh) = true := by simpa using hk
  simp only [appendEntry, if_neg hroom, h, liftFault_ok, ok_bind, hk, check_true, hreg]

end

theorem scrambleEntry_ringOk {scope core : Nat} {ps : List Piece} (h : ringOk r = true) : scrambleEntry s core scope r ps = s := if_pos h
end

/-! ## The obligation -/

/-- Settles O46, word by word: each is its body behind the gate, and the body answers as its checks say. -/
theorem reelWords : Obligations.ReelWords := by
  intro w s a b va
  refine ⟨fun i hi hiss => ⟨reel_poisoned hi hiss, reel_misaligned hi hiss⟩, fun ha hva => ⟨?_, ?_⟩⟩
  · intro pa r p u hblk hiss
    exact issue_ok hiss (reelstatBody_ok ha hva hblk)
  · intro pa r p u hblk
    refine ⟨fun hiss hb => issue_ok hiss (reellnkBody_ok ha hb hva hblk), fun hiss => ?_, fun x img hiss hb hvb hx himg => ?_⟩
    · have hbody := reelkickBody_block ha hva hblk
      refine ⟨fun h1 => issue_ok hiss ?_, fun h1 h64 => issue_stall hiss ?_, fun h1 h64 => issue_ok hiss ?_⟩
      · exact hbody.trans (if_pos h1)
      · exact hbody.trans ((if_neg h1).trans (if_pos h64))
      · exact hbody.trans ((if_neg h1).trans (if_neg (Nat.not_le.mpr h64)))
    · have hbody := reelappBody_block ha hb hva hvb hx himg hblk
      refine ⟨fun hfull => issue_stall hiss (hbody.trans (appendEntry_full hfull)), fun hroom => ⟨fun f hf => ?_, fun l hl hk => ?_, fun l hl hk hreg => ⟨?_, ?_⟩⟩⟩
      · exact issue_stop hiss (hbody.trans (appendEntry_fault hroom hf))
      · exact issue_stop hiss (hbody.trans (appendEntry_kind hroom hl hk))
      · exact scrambleEntry_ringOk
      · exact issue_ok hiss (hbody.trans (appendEntry_ok hroom hl hk hreg))
end Sys2Proof.Laws
end

section
/-! SUPPORT. The notify queue words (R297, R298, R441): the claim, the wait at the claimed entry, and what each body answers around them. -/
namespace Sys2Proof.Laws
open Sys2Proof.Machine Sys2Proof.Safety

/-! ## A word that does not complete -/

theorem complete_unissued (i : Instr) (t s : State) : complete i false { s := t, issued := false } s = t := rfl
/-- A word that stops behind its claim stops at the state that it has reached (R298). -/
theorem complete_stopsAt (i : Instr) (x : Stop) (t s : State) : complete i false (stopsAt t x) s = stopWord i x t := by cases x <;> rfl

/-! ## The claim -/

section
variable {u : State} {va h idx off n : Nat}

theorem claimIndex_claimed {m : Nat} (hc : (curStrand u).claimed = some m) : claimIndex u va h idx off n = .ok u := by
  simp only [claimIndex, hc, Option.isSome_some, if_true]

theorem claimIndex_error {x : Stop} (hc : (curStrand u).claimed = none) (hp : queuePage u .atomic (va + off) 8 = .error x) :
    claimIndex u va h idx off n = .error x := by
  simp [claimIndex, hc, hp]

theorem claimIndex_ok {l : List Xlat} {m : Nat} (hc : (curStrand u).claimed = none) (hp : queuePage u .atomic (va + off) 8 = .ok (l, m)) :
    claimIndex u va h idx off n = .ok (modStrand (writePieces (useXlats u (curCtx u) .atomic true l) u.curCore 3 false (piecesOf l) ((n + 1) % 2 ^ 64))
      fun x => { x with claimed := some (n % 2 ^ 63), claimOf := (nqLog h, idx) }) := by
  simp [claimIndex, hc, hp]
end

/-! ## The wait at the claimed entry -/

/-- The sequence word as a wait finds it: the value that woke it, or what stands at the home. -/
def seqFound (v : State) (l : List Xlat) : (Nat × Bool) × State :=
  let x := useXlats v (curCtx v) .write true l
  match (curStrand x).park.bind Park.sat with | some y => (y, x) | none => readPieces x x.curCore 3 (entrySeq l)

/-- What a word answers after its wait: it has ended there, or it goes on with the entry. -/
def afterWait (k : Nat → List Xlat → State → Out) : SeqWait → Out
  | .ends o => o
  | .got seq l t => k seq l t

section
variable {v : State} {l : List Xlat} {want : Nat}

theorem awaitSeq_error (x : Stop) : awaitSeq v (.error x) want = .ends (stopsAt v x) := rfl

theorem awaitSeq_poisoned (hp : (seqFound v l).1.2 = true) : awaitSeq v (.ok l) want = .ends (stopsAt (seqFound v l).2 (.trap 0x15 2 0)) := if_pos hp

theorem awaitSeq_other (hp : (seqFound v l).1.2 = false) (hv : (seqFound v l).1.1 % 2 ^ 63 ≠ want % 2 ^ 63) :
    let x := useXlats v (curCtx v) .write true l
    let pa := (l.map Xlat.pa).headD 0
    awaitSeq v (.ok l) want = .ends { s := parkCur (seqFound v l).2 (.word pa) (waitTable x.curCore 3 pa) (.equals want) 3, issued := false } :=
  (if_neg (Bool.not_eq_true _ ▸ hp)).trans (if_neg hv)

theorem awaitSeq_wanted (hp : (seqFound v l).1.2 = false) (hv : (seqFound v l).1.1 % 2 ^ 63 = want % 2 ^ 63) :
    awaitSeq v (.ok l) want = .got (seqFound v l).1.1 l (acquireAction (seqFound v l).2 (useXlats v (curCtx v) .write true l).curCore 3) :=
  (if_neg (Bool.not_eq_true _ ▸ hp)).trans (if_pos hv)
end
/-- A word whose body is the claim of an index, the wait at its entry and `k` behind the wait: each way through it, once for NQPOST and NQTAKE. -/
theorem issue_claim {i : Instr} {body : State → Except Stop Out} {s u : State} {va h idx off n want : Nat} {k : Nat → List Xlat → State → Out} (hiss : issues i s = true)
    (hbody : body s = claimIndex u va h idx off n >>= fun v => .ok (afterWait k (awaitSeq v (queueEntry v va h n idx) want))) :
    (∀ x, claimIndex u va h idx off n = .error x → issue i body s = .next (stopWord i x s)) ∧
    ∀ v, claimIndex u va h idx off n = .ok v →
      (∀ x, queueEntry v va h n idx = .error x → issue i body s = .next (stopWord i x v)) ∧
      ∀ l, queueEntry v va h n idx = .ok l →
        let x := useXlats v (curCtx v) .write true l
        let r := seqFound v l
        let pa := (l.map Xlat.pa).headD 0
        (r.1.2 = true → issue i body s = .next (stopWord i (.trap 0x15 2 0) r.2)) ∧
        (r.1.2 = false → r.1.1 % 2 ^ 63 ≠ want % 2 ^ 63 → issue i body s = .next (parkCur r.2 (.word pa) (waitTable x.curCore 3 pa) (.equals want) 3)) ∧
        (r.1.2 = false → r.1.1 % 2 ^ 63 = want % 2 ^ 63 → issue i body s = .next (complete i false (k r.1.1 l (acquireAction r.2 x.curCore 3)) s)) := by
  refine ⟨fun x hx => issue_stop hiss (by rw [hbody, hx, error_bind]), fun v hv => ?_⟩
  have leaves {a : SeqWait} (ha : awaitSeq v (queueEntry v va h n idx) want = a) : issue i body s = .next (complete i false (afterWait k a) s) :=
    issue_ok hiss (by rw [hbody, hv, ok_bind, ha])
  refine ⟨fun x hx => ?_, fun l hl => ⟨fun hp => ?_, fun hp hne => ?_, fun hp heq => ?_⟩⟩
  · rw [leaves (by rw [hx, awaitSeq_error]), afterWait, complete_stopsAt]
  · rw [leaves (by rw [hl, awaitSeq_poisoned hp]), afterWait, complete_stopsAt]
  · rw [leaves (by rw [hl, awaitSeq_other hp hne]), afterWait, complete_unissued]
  · rw [leaves (by rw [hl, awaitSeq_wanted hp heq]), afterWait]

/-! ## NQPOST -/

/-- The answer of a closed queue, and of an empty one under try (R297). -/
def refusedOut (w : RR) (t : State) : Out := { s := t, writes := wrS w.d (BitVec.allOnes 64) false, atOnce := true }

/-- NQPOST behind its wait: the payload goes into entry `n`, which is released with the next sequence number. -/
def postedOut (w : RR) (va h n : Nat) (buf : List Xlat) (_seq : Nat) (l : List Xlat) (t : State) : Out :=
  { s := releaseSeq (copyPayload t 1 3 (nqEntry va h n + 8) (piecesOf buf) (entryPayload l)) l (n + 1), writes := wrS w.d (BitVec.ofNat 64 (n % 2 ^ 63)) false, atOnce := true }

section
variable {w : RR} {s u : State} {va h idx : Nat} {buf : List Xlat}

theorem nqpostBody_closed (hq : queueHeader w .read s = .ok (va, h, idx, buf, u)) (hc : (curStrand u).claimed = none) (hclosed : nqClosed h = true) :
    nqpostBody w s = .ok (refusedOut w u) := by
  simp [nqpostBody, refusedOut, hq, hc, hclosed]

theorem nqpostBody_claim (hq : queueHeader w .read s = .ok (va, h, idx, buf, u)) (hopen : (curStrand u).claimed ≠ none ∨ nqClosed h = false) :
    let n := (curStrand u).claimed.getD (nqPi h)
    nqpostBody w s = claimIndex u va h idx 0 n >>= fun v => .ok (afterWait (postedOut w va h n buf) (awaitSeq v (queueEntry v va h n idx) n)) := by
  have hgo : ((curStrand u).claimed.isNone && nqClosed h) = false := by
    rcases hopen with hc | hclosed
    · rw [Option.isNone_eq_false_iff.mpr (Option.isSome_iff_ne_none.mpr hc), Bool.false_and]
    · rw [hclosed, Bool.and_false]
  simp only [nqpostBody, hq, ok_bind, hgo]
  refine bind_congr fun v => ?_
  cases awaitSeq v _ _ <;> rfl
end

/-! ## NQTAKE -/

/-- NQTAKE behind its wait: the payload of entry `n` goes into the buffer, and the entry is released for the queue's next round. -/
def takenOut (w : RR) (h n : Nat) (buf : List Xlat) (seq : Nat) (l : List Xlat) (t : State) : Out :=
  { s := releaseSeq (copyPayload t 3 1 (rdS t w.b).v.toNat (entryPayload l) (piecesOf buf)) l (n + 2 ^ nqLog h),
    writes := wrS w.d (BitVec.ofNat 64 (seq / 2 ^ 63 * 2 ^ 63 + n % 2 ^ 63)) false, atOnce := true }

/-- The sequence word that try looks at before the claim. -/
def tryFound (u : State) (l : List Xlat) : (Nat × Bool) × State := readPieces (useXlats u (curCtx u) .write true l) u.curCore 3 (entrySeq l)

section
variable {w : RR} {s u : State} {va h idx : Nat} {buf l : List Xlat} (hq : queueHeader w .write s = .ok (va, h, idx, buf, u))
include hq

theorem nqtakeBody_claim (hgo : (curStrand u).claimed ≠ none ∨ w.imm.getLsbD 0 = false ∨ ∃ l, queueEntry u va h ((curStrand u).claimed.getD (nqCi h)) idx = .ok l ∧
      (tryFound u l).1.2 = false ∧ (tryFound u l).1.1 % 2 ^ 63 = ((curStrand u).claimed.getD (nqCi h) + 1) % 2 ^ 63) :
    let n := (curStrand u).claimed.getD (nqCi h)
    nqtakeBody w s = claimIndex u va h idx 8 n >>= fun v => .ok (afterWait (takenOut w h n buf) (awaitSeq v (queueEntry v va h n idx) (n + 1))) := by
  simp only [nqtakeBody, hq, ok_bind]
  split_ifs with hlook
  on_goal 1 =>
    obtain ⟨hc, htry⟩ : (curStrand u).claimed = none ∧ w.imm.getLsbD 0 = true := by simpa using hlook
    obtain ⟨l, hl, hp, heq⟩ := (hgo.resolve_left (not_not.mpr hc)).resolve_left (by rw [htry]; exact Bool.noConfusion)
    rw [tryFound] at hp heq
    simp only [hl, ok_bind, hp, Bool.not_false, check_true, bne_eq_false_iff_eq.mpr heq, Bool.false_eq_true, if_false]
  all_goals
    refine bind_congr fun v => ?_
    cases awaitSeq v _ _ <;> rfl

section
variable (hc : (curStrand u).claimed = none) (htry : w.imm.getLsbD 0 = true)
include hc htry

theorem nqtakeBody_tryFault {x : Stop} (hl : queueEntry u va h ((curStrand u).claimed.getD (nqCi h)) idx = .error x) : nqtakeBody w s = .error x := by
  rw [hc] at hl
  simp only [nqtakeBody, hq, hc, htry, hl, ok_bind, error_bind, Option.isNone_none, Bool.and_self, if_true]

theorem nqtakeBody_tryPoisoned (hl : queueEntry u va h ((curStrand u).claimed.getD (nqCi h)) idx = .ok l) (hp : (tryFound u l).1.2 = true) :
    nqtakeBody w s = .error (.trap 0x15 2 0) := by
  rw [hc] at hl
  rw [tryFound] at hp
  simp only [nqtakeBody, hq, hc, htry, hl, hp, ok_bind, Option.isNone_none, Bool.and_self, if_true, Bool.not_true, check_false, error_bind, causePoison]

theorem nqtakeBody_tryEmpty (hl : queueEntry u va h ((curStrand u).claimed.getD (nqCi h)) idx = .ok l) (hp : (tryFound u l).1.2 = false)
    (hne : (tryFound u l).1.1 % 2 ^ 63 ≠ ((curStrand u).claimed.getD (nqCi h) + 1) % 2 ^ 63) :
    nqtakeBody w s = .ok (refusedOut w (acquireAction (tryFound u l).2 (tryFound u l).2.curCore 3)) := by
  rw [hc] at hl hne
  rw [tryFound] at *
  simp only [nqtakeBody, hq, hc, htry, hl, hp, refusedOut, bne_iff_ne.mpr hne, ok_bind, Option.isNone_none, Bool.and_self, if_true, Bool.not_false, check_true]
end
end

/-! ## The obligation -/

/-- Settles O49: the checks before the claim are the body's own, and the rest is `issue_claim` with each word's entry behind the wait. -/
theorem notifyQueueWords : Obligations.NotifyQueueWords := by
  intro w s
  refine ⟨fun x hq hiss => ?_, fun x hq hiss => ?_, fun u va h idx off n => ⟨fun m hc => claimIndex_claimed hc, fun hc => ⟨fun x hp => claimIndex_error hc hp, fun l m hp => ?_⟩⟩, ?_⟩
  · exact issue_stop (body := nqpostBody w) hiss (by rw [nqpostBody, hq, error_bind])
  · exact issue_stop (body := nqtakeBody w) hiss (by rw [nqtakeBody, hq, error_bind])
  · exact ⟨_, claimIndex_ok hc hp, by rw [curStrand_modStrand], by rw [curStrand_modStrand], modStrand_mem _ _⟩
  · intro i dst hi hiss va h idx buf u hq
    rcases hi with ⟨rfl, rfl⟩ | ⟨rfl, rfl⟩
    · rw [decide_eq_true (rfl : Instr.nqpost w = .nqpost w)]
      intro post c n want off try_
      refine ⟨fun _ hc hclosed => issue_ok hiss (nqpostBody_closed hq hc hclosed), fun hpost => (nomatch hpost), fun hgo => ?_⟩
      have hopen : c ≠ none ∨ nqClosed h = false := hgo.imp_right fun hgo => hgo.elim And.right fun hgo => (nomatch hgo.1)
      obtain ⟨hfail, hclaim⟩ := issue_claim hiss (nqpostBody_claim hq hopen)
      refine ⟨hfail, fun v hv => ⟨(hclaim v hv).1, fun l hl => ?_⟩⟩
      obtain ⟨hpoi, hpark, hgot⟩ := (hclaim v hv).2 l hl
      exact ⟨hpoi, hpark, fun hp heq _ => hgot hp heq, fun _ _ hpost => (nomatch hpost)⟩
    · rw [decide_eq_false (fun hi : Instr.nqtake w = .nqpost w => nomatch hi)]
      intro post c n want off try_
      refine ⟨fun hpost => (nomatch hpost), fun _ hc htry => ⟨fun x hl => ?_, fun l hl => ⟨fun hp => ?_, fun hp hne => ?_⟩⟩, fun hgo => ?_⟩
      · exact issue_stop hiss (nqtakeBody_tryFault hq hc htry hl)
      · exact issue_stop hiss (nqtakeBody_tryPoisoned hq hc htry hl hp)
      · exact issue_ok hiss (nqtakeBody_tryEmpty hq hc htry hl hp hne)
      have hgo : c ≠ none ∨ w.imm.getLsbD 0 = false ∨ ∃ l, queueEntry u va h n idx = .ok l ∧ (tryFound u l).1.2 = false ∧ (tryFound u l).1.1 % 2 ^ 63 = want % 2 ^ 63 :=
        hgo.imp_right fun hgo => hgo.elim (fun hgo => (nomatch hgo.1)) And.right
      obtain ⟨hfail, hclaim⟩ := issue_claim hiss (nqtakeBody_claim hq hgo)
      refine ⟨hfail, fun v hv => ⟨(hclaim v hv).1, fun l hl => ?_⟩⟩
      obtain ⟨hpoi, hpark, hgot⟩ := (hclaim v hv).2 l hl
      exact ⟨hpoi, hpark, fun _ _ hpost => (nomatch hpost), fun hp heq _ => hgot hp heq⟩
end Sys2Proof.Laws
end

section
/-! SUPPORT. Control and status registers (R139-R142, R394, R395): what a write of one leaves of the state and of the others, and what each then reads as. -/
namespace Sys2Proof.Laws
open Sys2Proof.Machine Sys2Proof.Safety

/-! ## The core that runs the word -/

@[simp] theorem curBank_updCore (s : State) (f : Core → Core) : curBank (updCore s s.curCore f) = fgBank (f (coreOf s s.curCore)) := by simp [curBank]
theorem modBank_eq_updCore (s : State) (f : Bank → Bank) : modBank s f = updCore s s.curCore fun k => setBank k (curFg s) (f (bankSel k (curFg s))) := rfl
@[simp] theorem coreOf_modBank (s : State) (f : Bank → Bank) :
    coreOf (modBank s f) s.curCore = setBank (coreOf s s.curCore) (curFg s) (f (curBank s)) := coreOf_updCore s s.curCore _
@[simp] theorem taskOf_updCore (s : State) (c : Nat) (f : Core → Core) (t : Nat) : taskOf (updCore s c f) t = taskOf s t := rfl
@[simp] theorem taskOf_modBank (s : State) (f : Bank → Bank) (t : Nat) : taskOf (modBank s f) t = taskOf s t := rfl
@[simp] theorem leaseWord_updCore (s : State) (c : Nat) (f : Core → Core) (d : Nat) : leaseWord (updCore s c f) d = leaseWord s d := rfl
@[simp] theorem leaseWord_modBank (s : State) (f : Bank → Bank) (c : Nat) : leaseWord (modBank s f) c = leaseWord s c := rfl
@[simp] theorem statusCsr_setBank (k : Core) (n : Nat) (b : Bank) : statusCsr (setBank k n b) = statusCsr k := by simp [statusCsr]

/-! ## What a write leaves -/

section
variable (s : State) (v : W64)

@[simp] theorem csrSet_status : csrSet s 0x00 v = updCore s s.curCore fun k => { k with ppm := v.getLsbD 1, ie := v.getLsbD 2, pie := v.getLsbD 3 } := rfl
@[simp] theorem csrSet_cause : csrSet s 0x01 v = updCore s s.curCore fun k => { k with cause := v } := rfl
@[simp] theorem csrSet_epc : csrSet s 0x02 v = updCore s s.curCore fun k => { k with epc := v.setWidth 57 } := rfl
@[simp] theorem csrSet_tval : csrSet s 0x03 v = updCore s s.curCore fun k => { k with tval := v } := rfl
@[simp] theorem csrSet_tvec : csrSet s 0x05 v = updCore s s.curCore fun k => { k with tvec := v.setWidth 57 } := rfl
@[simp] theorem csrSet_vrb : csrSet s 0x20 v = modBank s fun b => { b with vrb := v.setWidth 5 } := rfl
@[simp] theorem csrSet_krb : csrSet s 0x21 v = modBank s fun b => { b with krb := v.setWidth 3 } := rfl
@[simp] theorem csrSet_fd0 : csrSet s 0x30 v = modBank s fun b => { b with fd0 := v.setWidth 16 } := rfl
@[simp] theorem csrSet_fd1 : csrSet s 0x31 v = modBank s fun b => { b with fd1 := v.setWidth 16 } := rfl
@[simp] theorem csrSet_fd2 : csrSet s 0x32 v = modBank s fun b => { b with fd2 := v.setWidth 16 } := rfl
@[simp] theorem csrSet_fd3 : csrSet s 0x33 v = modBank s fun b => { b with fd3 := v.setWidth 16 } := rfl
@[simp] theorem csrSet_fpctl : csrSet s 0x40 v = modBank s fun b => { b with fpctl := v.setWidth 4 } := rfl
@[simp] theorem csrSet_fpflags :
    csrSet s 0x41 v = modBank s fun b => { b with fpflags := v.setWidth 9 ||| landedNow b (coreTime s s.curCore) } := rfl
@[simp] theorem csrSet_mctl :
    csrSet s 0x71 v = if v.extractLsb' 16 2 = 3 then s else updCore s s.curCore fun k => { k with ccinj := v.extractLsb' 16 2 } := rfl
@[simp] theorem csrSet_dbgctl : csrSet s 0xA0 v = updCore s s.curCore fun k => { k with latchk := v.getLsbD 0, mixchk := v.getLsbD 1 } := rfl
end

/-- The CSRs with a field that is RW (R139): those of the core, those of its bank, and MCTL. -/
def coreCsrs : List Nat := [0x00, 0x01, 0x02, 0x03, 0x05, 0xA0]
def bankCsrs : List Nat := [0x20, 0x21, 0x30, 0x31, 0x32, 0x33, 0x40, 0x41]

/-- The registers by what a write of them changes: the core, its bank, CCINJ, or nothing where no field is RW (R394; log entry 112). -/
theorem csr_cases (n : Nat) : n ∈ coreCsrs ∨ n ∈ bankCsrs ∨ n = 0x71 ∨ ∀ s v, csrSet s n v = s := by
  by_cases hn : n ∈ coreCsrs ∨ n ∈ bankCsrs ∨ n = 0x71
  · tauto
  · refine .inr (.inr (.inr fun s v => ?_))
    simp only [coreCsrs, bankCsrs, List.mem_cons, List.not_mem_nil, or_false, not_or] at hn
    simp only [csrSet, hn, if_false, or_self]

/-- A write leaves the state as it is, or changes the core that runs the word alone. -/
theorem csrSet_cases (s : State) (n : Nat) (v : W64) : csrSet s n v = s ∨ ∃ f, csrSet s n v = updCore s s.curCore f := by
  obtain hn | hn | rfl | hn := csr_cases n
  · refine .inr ?_
    fin_cases hn
    all_goals
      simp only [csrSet_status, csrSet_cause, csrSet_epc, csrSet_tval, csrSet_tvec, csrSet_dbgctl]
      exact ⟨_, rfl⟩
  · refine .inr ?_
    fin_cases hn
    all_goals
      simp only [csrSet_vrb, csrSet_krb, csrSet_fd0, csrSet_fd1, csrSet_fd2, csrSet_fd3, csrSet_fpctl, csrSet_fpflags, modBank_eq_updCore]
      exact ⟨_, rfl⟩
  · rw [csrSet_mctl]
    split
    · exact .inl rfl
    · exact .inr ⟨_, rfl⟩
  · exact .inl (hn s v)

theorem csrSet_frame (s : State) (n : Nat) (v : W64) : let t := csrSet s n v
    t.mem = s.mem ∧ t.clusters = s.clusters ∧ t.dies = s.dies ∧ t.tasks = s.tasks ∧ ∀ c, c ≠ s.curCore → coreOf t c = coreOf s c := by
  obtain h | ⟨f, h⟩ := csrSet_cases s n v
  · rw [h]; exact ⟨rfl, rfl, rfl, rfl, fun _ _ => rfl⟩
  · rw [h]; exact ⟨rfl, rfl, rfl, rfl, fun _ => coreOf_updCore_ne s f⟩

theorem csrSet_readOnly (s : State) (v : W64) {n : Nat}
    (hn : n ∈ [0x04, 0x10, 0x11, 0x12, 0x13, 0x50, 0x51, 0x60, 0x61, 0x70, 0x80, 0x81, 0x90, 0x91, 0xB0, 0xB1, 0xC0]) : csrSet s n v = s := by
  fin_cases hn <;> rfl

/-! ## What a register reads as -/

theorem toNat_getLsbD {n : Nat} (v : BitVec n) (i : Nat) : (v.getLsbD i).toNat = v.toNat / 2 ^ i % 2 := Nat.toNat_testBit _ _

/-- Every register but the one written reads as before. -/
theorem csrGet_csrSet_ne (s : State) (v : W64) {n m : Nat} (hm : m ≠ n) : csrGet (csrSet s n v) m = csrGet s m := by
  obtain hn | hn | rfl | hn := csr_cases n
  · fin_cases hn <;> simp [csrGet, hm, statusCsr, curBank, fgBank, bankSel]
  · fin_cases hn <;> simp [csrGet, hm]
  · rw [csrSet_mctl]
    split
    · rfl
    · simp [csrGet, hm, statusCsr, curBank, fgBank, bankSel]
  · rw [hn]

theorem csrRefuses_le {n : Nat} {v : W64} (h : csrRefuses n v = false) : v.toNat ≤ csrBits n := by
  simp only [csrRefuses, Bool.or_eq_false_iff, bne_eq_false_iff_eq] at h
  exact h.1 ▸ Nat.and_le_right

/-- A value that sets no RsvdZ bit fits the register, so that it reads back whole. -/
theorem csrGet_csrSet_same {s : State} {v : W64} {n : Nat} (h : csrRefuses n v = false)
    (hn : n ∈ [0x01, 0x02, 0x03, 0x05, 0x20, 0x21, 0x30, 0x31, 0x32, 0x33, 0x40, 0xA0]) : csrGet (csrSet s n v) n = v.toNat := by
  have hv := csrRefuses_le h
  fin_cases hn <;> simp [csrBits] at hv <;> simp [csrGet, toNat_getLsbD, -BitVec.getLsbD_eq_getElem]
  all_goals omega

theorem csrGet_csrSet_fpflags {s : State} {v : W64} (h : csrRefuses 0x41 v = false) :
    csrGet (csrSet s 0x41 v) 0x41 = v.toNat ||| (landedNow (curBank s) (coreTime s s.curCore)).toNat := by
  have hv : v.toNat ≤ 0x17F := csrRefuses_le h
  have hmod : v.toNat % 512 = v.toNat := Nat.mod_eq_of_lt (by omega)
  simp [csrGet, hmod]

theorem csrGet_csrSet_status (s : State) (v : W64) :
    csrGet (csrSet s 0x00 v) 0x00 = csrGet s 0x00 / 16 * 16 + v.toNat % 16 / 2 * 2 + csrGet s 0x00 % 2 := by
  simp only [csrSet_status, csrGet, coreOf_updCore, updCore_curCore, statusCsr, if_true, toNat_getLsbD]
  have hle := fun b : Bool => b.toNat_le
  have h1 := hle (coreOf s s.curCore).pm
  have h2 := hle (coreOf s s.curCore).ppm
  have h3 := hle (coreOf s s.curCore).ie
  have h4 := hle (coreOf s s.curCore).pie
  omega

theorem csrGet_state (s : State) : csrGet s 0x12 = (curBank s).taskid.toNat ∧ csrGet s 0x10 = (curBank s).wid.toNat ∧ csrGet s 0x90 = s.cycle % 2 ^ 64 ∧
    csrGet s 0x91 = s.cycle / 15 % 2 ^ 64 ∧ csrGet s 0x00 % 2 = (coreOf s s.curCore).pm.toNat ∧ nbit (csrGet s 0x00) 4 = (coreOf s s.curCore).sys := by
  refine ⟨rfl, rfl, rfl, rfl, ?_, ?_⟩
  · show statusCsr _ % 2 = _
    have := (coreOf s s.curCore).pm.toNat_le
    simp only [statusCsr]
    omega
  · show (statusCsr _).testBit 4 = _
    have h0 := (coreOf s s.curCore).pm.toNat_le
    have h1 := (coreOf s s.curCore).ppm.toNat_le
    have h2 := (coreOf s s.curCore).ie.toNat_le
    have h3 := (coreOf s s.curCore).pie.toNat_le
    have h4 := (coreOf s s.curCore).sys.toNat_le
    have hbit : statusCsr (coreOf s s.curCore) / 2 ^ 4 % 2 = (coreOf s s.curCore).sys.toNat := by simp only [statusCsr]; omega
    rw [Nat.testBit_eq_decide_div_mod_eq, hbit]
    cases (coreOf s s.curCore).sys <;> rfl

/-! ## The words -/

/-- Only MCTL and ENACC are brought up to date by a word that names them (R108, R207). -/
theorem csrSync_eq_self (s : State) {n : Nat} (hm : n ≠ 0x71) (he : n ≠ 0x80) : csrSync s n = s := by simp only [csrSync, hm, he, if_false]

section
variable {f : W64 → W64 → W64} {w : SYS} {s : State}

theorem csrWriteBody_poisoned (ha : (rdS s w.a).poi = true) : csrWriteBody f w s = .error (.trap 0x15 0 0) := by
  simp only [csrWriteBody, ha, Bool.not_true, check_false, error_bind, causePoison]

variable (ha : (rdS s w.a).poi = false)
include ha

theorem csrWriteBody_refused (hr : csrRefuses w.csr.toNat (f (BitVec.ofNat 64 (csrGet (csrSync s w.csr.toNat) w.csr.toNat)) (rdS s w.a).v) = true) :
    csrWriteBody f w s = .error (.trap 0x01 1 0) := by
  simp only [csrWriteBody, ha, hr, Bool.not_false, Bool.not_true, check_true, check_false, ok_bind, error_bind]

theorem csrWriteBody_now (hl : csrLate w.csr.toNat = none) :
    let u := csrSync s w.csr.toNat
    let old := BitVec.ofNat 64 (csrGet u w.csr.toNat)
    let new := f old (rdS s w.a).v
    csrRefuses w.csr.toNat new = false → csrWriteBody f w s = .ok { s := csrSet u w.csr.toNat new, writes := wrS w.d old false, bound := 2 } := by
  intro u old new hr
  simp only [csrWriteBody, ha, hr, hl, Bool.not_false, check_true, ok_bind, u, old, new]

/-- A write whose value holds for later words only keeps the old one until then (R133, R142). -/
theorem csrWriteBody_later {d : Nat} (hl : csrLate w.csr.toNat = some d) :
    let u := csrSync s w.csr.toNat
    let old := BitVec.ofNat 64 (csrGet u w.csr.toNat)
    let new := f old (rdS s w.a).v
    csrRefuses w.csr.toNat new = false → csrWriteBody f w s = .ok
      { s := modBank (csrSet u w.csr.toNat new) fun b => { b with csrOld := b.csrOld ++ [(w.csr.toNat, old, new, coreTime u u.curCore + d)] },
        writes := wrS w.d old false, bound := 2 } := by
  intro u old new hr
  simp only [csrWriteBody, ha, hr, hl, Bool.not_false, check_true, ok_bind, u, old, new]
end

/-- The words that write a CSR, each way through their body. -/
theorem issue_csrWrite (i : Instr) (f : W64 → W64 → W64) {w : SYS} {s : State} (hi : issues i s = true) :
    let n := w.csr.toNat
    let a := rdS s w.a
    let u := csrSync s n
    let old := BitVec.ofNat 64 (csrGet u n)
    let new := f old a.v
    let run := issue i (csrWriteBody f w) s
    (a.poi = true → run = .next (stopWord i (.trap 0x15 0 0) s)) ∧
    (a.poi = false → csrRefuses n new = true → run = .next (stopWord i (.trap 0x01 1 0) s)) ∧
    (a.poi = false → csrRefuses n new = false →
      (csrLate n = none → run = .next (complete i false { s := csrSet u n new, writes := wrS w.d old false, bound := 2 } s)) ∧
      (∀ d, csrLate n = some d → run = .next (complete i false
        { s := modBank (csrSet u n new) fun b => { b with csrOld := b.csrOld ++ [(n, old, new, coreTime u u.curCore + d)] }, writes := wrS w.d old false, bound := 2 } s))) :=
  ⟨fun ha => issue_stop hi (csrWriteBody_poisoned ha), fun ha hr => issue_stop hi (csrWriteBody_refused ha hr),
    fun ha hr => ⟨fun hl => issue_ok hi (csrWriteBody_now ha hl hr), fun _ hl => issue_ok hi (csrWriteBody_later ha hl hr)⟩⟩

/-! ## The obligation -/

/-- Settles O51: the words are their bodies behind the gate, and a write is followed register by register. -/
theorem csrWords : Obligations.CsrWords := by
  refine ⟨fun w s => ?_, fun s n v hr => ?_⟩
  · intro n a u old writes
    exact ⟨csrSync_eq_self s, fun hi => issue_ok (body := csrrBody w) hi rfl, issue_csrWrite (.csrw w) (fun _ a => a), issue_csrWrite (.csrs w) (fun o a => o ||| a),
      issue_csrWrite (.csrc w) (fun o a => o &&& ~~~a)⟩
  · intro t
    obtain ⟨hmem, hclusters, hdies, htasks, hcores⟩ := csrSet_frame s n v
    refine ⟨csrGet_csrSet_same hr, ?_, ?_, csrSet_readOnly s v, hmem, hclusters, hdies, htasks, hcores, fun m hm _ => csrGet_csrSet_ne s v hm, csrGet_state s⟩
    · rintro rfl
      exact csrGet_csrSet_fpflags hr
    · rintro rfl
      exact csrGet_csrSet_status s v
end Sys2Proof.Laws
end

section
/-! SUPPORT. What a device's write at the homes leaves of the dies: records that wait to be posted, and nothing else (R236, R303). -/
namespace Sys2Proof.Laws
open Sys2Proof.Machine

/-! ## Writes that leave the dies -/

theorem foldl_dies {α : Type} (l : List α) (f : State → α → State) (hf : ∀ s x, (f s x).dies = s.dies) (s : State) : (l.foldl f s).dies = s.dies := by
  induction l generalizing s with
  | nil => rfl
  | cons x l ih => rw [List.foldl_cons, ih, hf]

@[simp] theorem setAgentCache_dies (s : State) (p : Point) (l : List Line) : (setAgentCache s p l).dies = s.dies := by
  simp only [setAgentCache]; split <;> rfl
@[simp] theorem headMerge_dies (s : State) (ln : Nat) (d : BitVec 1024) (m : BitVec 128) (p : BitVec 4) : (headMerge s ln d m p).dies = s.dies := by
  simp only [headMerge]; split <;> rfl
@[simp] theorem permit_dies (s : State) (ln : Nat) (own : Bool) : (permit s ln own).dies = s.dies := by
  simp only [permit]; split <;> rfl
@[simp] theorem wakeEnt_dies (s : State) (e : WaitEnt) : (wakeEnt s e).dies = s.dies := by
  simp only [wakeEnt]; repeat' split
  all_goals simp
@[simp] theorem wakeWhere_dies (s : State) (hit : WaitEnt → Bool) : (wakeWhere s hit).dies = s.dies := by
  simp only [wakeWhere]; split
  · rfl
  · exact foldl_dies _ _ wakeEnt_dies s
@[simp] theorem wakeBytes_dies (s : State) (a n : Nat) : (wakeBytes s a n).dies = s.dies := wakeWhere_dies s _
@[simp] theorem keepCode_dies (s : State) (pa n v : Nat) : (keepCode s pa n v).dies = s.dies := by
  simp only [keepCode]; split <;> rfl
@[simp] theorem recallHost_dies (s : State) (pa n : Nat) : (recallHost s pa n).dies = s.dies := by
  simp only [recallHost]
  rw [foldl_dies _ (fun s (h : HostCopy) => wakeBytes s (64 * h.line) 64) fun s h => wakeBytes_dies s _ _]
  exact foldl_dies _ (fun s (h : HostCopy) => keepCode s (64 * h.line) 64 (memRead s.mem (64 * h.line) 64)) (fun s h => keepCode_dies s _ _ _) s
@[simp] theorem touchRow_dies (s : State) (pa : Nat) : (touchRow s pa).dies = s.dies := by
  simp only [touchRow]; split <;> rfl
@[simp] theorem homeStore_dies (s : State) (pa n v : Nat) (p : Bool) : (homeStore s pa n v p).dies = s.dies := by simp [homeStore]
@[simp] theorem storeRefused_dies (s : State) (ln : Nat) : (storeRefused s ln).dies = s.dies := by
  simp only [storeRefused]; split <;> simp
@[simp] theorem dropBytes_dies (s : State) (k pa n : Nat) : (dropBytes s k pa n).dies = s.dies := by
  simp only [dropBytes]; split <;> simp

/-! ## Writes that may post records -/

/-- The dies of two states differ in the records that wait to be posted alone. -/
def PostsOnly (s t : State) : Prop := ∀ d, ∃ p, dieOf t d = { dieOf s d with posts := p }

namespace PostsOnly

theorem of_dies {s t : State} (h : t.dies = s.dies) : PostsOnly s t := fun d => ⟨(dieOf s d).posts, by rw [dieOf, h]; rfl⟩
theorem refl (s : State) : PostsOnly s s := of_dies rfl
theorem trans {s t u : State} (h : PostsOnly s t) (h' : PostsOnly t u) : PostsOnly s u := fun d => by
  obtain ⟨p, hp⟩ := h d
  obtain ⟨q, hq⟩ := h' d
  exact ⟨q, by rw [hq, hp]⟩
/-- What follows a write and leaves the dies adds nothing. -/
theorem then_dies {s t u : State} (h : PostsOnly s t) (h' : u.dies = t.dies) : PostsOnly s u := h.trans (of_dies h')
theorem foldl {α : Type} (l : List α) (f : State → α → State) (hf : ∀ s x, PostsOnly s (f s x)) (s : State) : PostsOnly s (l.foldl f s) := by
  induction l generalizing s with
  | nil => exact refl s
  | cons x l ih => exact (hf s x).trans (ih _)

theorem postRecord (s : State) (d : Nat) (r : BitVec 512) (c : Option Nat) (u : Option PostUnit) : PostsOnly s (postRecord s d r c u) := fun e => by
  rw [Machine.postRecord]
  by_cases h : e = d
  · subst h; exact ⟨_, by rw [dieOf_updDie]⟩
  · exact ⟨(dieOf s e).posts, by rw [dieOf_updDie_ne s _ h]⟩
theorem postPool (s : State) (h c u a d i : Nat) : PostsOnly s (postPool s h c u a d i) := postRecord s _ _ _ _

theorem cleanAgentLine (s : State) (p : Point) (ln : Nat) : PostsOnly s (cleanAgentLine s p ln) := by
  simp only [Machine.cleanAgentLine]
  split
  · exact refl s
  · split
    · exact refl s
    · split
      · split
        · exact (of_dies (by simp)).trans (postPool _ _ _ _ _ _ _)
        · exact of_dies (by simp)
      · exact of_dies (by simp)
theorem evictAgent (s : State) (p : Point) (ln : Nat) : PostsOnly s (evictAgent s p ln) := by
  simp only [Machine.evictAgent]
  refine (cleanAgentLine s p ln).then_dies ?_
  split
  · split <;> simp
  · rfl
theorem putAgent (s : State) (p : Point) (x : Line) : PostsOnly s (putAgent s p x) := by
  simp only [Machine.putAgent]
  split_ifs
  · exact refl s
  · exact of_dies (by simp)
  · exact of_dies (by simp)
  · refine then_dies ?_ (setAgentCache_dies _ _ _)
    split
    · exact (of_dies (by simp)).trans (evictAgent _ _ _)
    · exact refl s
theorem writeBeyond (s : State) (k ln : Nat) (d : BitVec 1024) (m : BitVec 128) (p : BitVec 4) : PostsOnly s (writeBeyond s k ln d m p) := by
  simp only [Machine.writeBeyond]
  split_ifs
  · exact refl s
  · exact of_dies rfl
  · exact of_dies (by simp)
  · exact then_dies (putAgent _ _ _) ((wakeBytes_dies _ _ _).trans (permit_dies _ _ _))
theorem cleanLine (s : State) (k ln : Nat) : PostsOnly s (cleanLine s k ln) := by
  simp only [Machine.cleanLine]
  split
  · exact refl s
  · split
    · exact refl s
    · exact (writeBeyond _ _ _ _ _ _).then_dies rfl
theorem evictCluster (s : State) (k ln : Nat) : PostsOnly s (evictCluster s k ln) := by
  simp only [Machine.evictCluster]
  refine (cleanLine s k ln).then_dies ?_
  split
  · split <;> simp
  · rfl
theorem recallLine (s : State) (ln : Nat) : PostsOnly s (recallLine s ln) := by
  simp only [Machine.recallLine]
  exact ((foldl _ (fun s (k : Nat × Cluster) => Machine.evictCluster s k.1 ln) (fun s k => evictCluster s k.1 ln) s).trans (evictAgent _ _ _)).then_dies rfl
theorem filterRoom (s : State) (k : Kind) (ln : Nat) : PostsOnly s (filterRoom s k ln) := by
  simp only [Machine.filterRoom]
  split
  · exact refl s
  · split
    · exact refl s
    · split
      · exact (of_dies rfl).trans (recallLine _ _)
      · exact refl s
theorem storeBeyond (s : State) (pa n v : Nat) (p : Bool) : PostsOnly s (storeBeyond s pa n v p) := by
  simp only [Machine.storeBeyond]
  split
  · exact of_dies (storeRefused_dies _ _)
  · split
    · refine then_dies (trans ?_ (putAgent _ _ _)) ((wakeBytes_dies _ _ _).trans (permit_dies _ _ _))
      split
      · exact filterRoom _ _ _
      · exact refl s
    · exact of_dies (homeStore_dies _ _ _ _ _)

/-- A write of a piece that no window holds, past the cluster caches. -/
theorem writePiece (s : State) (core v : Nat) {scope : Nat} {q : Piece} (p : Bool) (hq : q.kind ≠ .window) (hs : 1 < scope) :
    PostsOnly s (writePiece s core scope q v p) := by
  simp only [Machine.writePiece, if_neg hq, if_neg (Nat.not_le.mpr hs)]
  refine (of_dies ?_).trans (storeBeyond _ _ _ _ _)
  split <;> simp
theorem writePieces (core : Nat) {scope : Nat} (p : Bool) {l : List Piece} (hl : ∀ q ∈ l, q.kind ≠ .window) (hs : 1 < scope) (s : State) (v : Nat) :
    PostsOnly s (writePieces s core scope p l v) := by
  induction l generalizing s v with
  | nil => exact refl s
  | cons q l ih =>
    obtain ⟨hq, hl⟩ := List.forall_mem_cons.mp hl
    exact (writePiece s core _ p hq hs).trans (ih hl _ _)
theorem deviceWrite (s : State) (die pa n v : Nat) : PostsOnly s (deviceWrite s die pa n v) := by
  simp only [Machine.deviceWrite]
  split
  · refine writePieces 512 false (fun q hq => ?_) (by decide) s v
    obtain ⟨x, -, rfl⟩ := List.mem_map.mp hq
    exact Kind.noConfusion
  · exact postRecord s _ _ _ _
end PostsOnly
end Sys2Proof.Laws
end

section
/-! SUPPORT. Energy accounts and temperature (R106, R111, R353-R355): what a refill boundary and a new junction temperature leave. -/
namespace Sys2Proof.Laws
open Sys2Proof.Machine

/-! ## What leaves the accounts of a die -/

/-- The sub-accounts and the count of refills of a die are those of another. -/
def SameAccounts (d e : Die) : Prop := e.eacc = d.eacc ∧ e.refills = d.refills

theorem SameAccounts.trans {d e f : Die} (h : SameAccounts d e) (h' : SameAccounts e f) : SameAccounts d f := ⟨h'.1.trans h.1, h'.2.trans h.2⟩

theorem PostsOnly.sameAccounts {s t : State} (h : PostsOnly s t) (die : Nat) : SameAccounts (dieOf s die) (dieOf t die) := by
  obtain ⟨p, hp⟩ := h die
  rw [hp]
  exact ⟨rfl, rfl⟩

theorem sameAccounts_updDie (s : State) (die : Nat) {f : Die → Die} (hf : ∀ d, SameAccounts d (f d)) : SameAccounts (dieOf s die) (dieOf (updDie s die f) die) := by
  rw [dieOf_updDie]
  exact hf _

theorem dieOf_noteSet (s : State) (off mask die : Nat) : dieOf (noteSet s off mask) die = dieOf s die := rfl
theorem sameAccounts_postDaily (s : State) (die cluster type : Nat) (words : List Nat) :
    SameAccounts (dieOf s die) (dieOf (postDaily s die cluster type words) die) := by
  simp only [postDaily]
  split
  · rw [dieOf_noteSet]
    exact sameAccounts_updDie s die fun _ => ⟨rfl, rfl⟩
  · exact ((PostsOnly.deviceWrite s die _ _ _).sameAccounts die).trans (sameAccounts_updDie _ die fun _ => ⟨rfl, rfl⟩)
theorem sameAccounts_energyRecord (s : State) (die : Nat) : SameAccounts (dieOf s die) (dieOf (energyRecord s die) die) := by
  simp only [energyRecord]
  split
  · exact ⟨rfl, rfl⟩
  · exact (sameAccounts_postDaily s die _ _ _).trans (sameAccounts_updDie _ die fun _ => ⟨rfl, rfl⟩)
theorem sameAccounts_setPoint (s : State) (die : Nat) (p : BitVec 3) : SameAccounts (dieOf s die) (dieOf (setPoint s die p) die) :=
  sameAccounts_updDie s die fun d => by split <;> exact ⟨rfl, rfl⟩
theorem sameAccounts_keepCap (now : Nat) (d : Die) : SameAccounts d (keepCap now d) := by
  simp only [keepCap]; split <;> exact ⟨rfl, rfl⟩
theorem sameAccounts_powerStep (now : Nat) (d : Die) (watts : Nat) : SameAccounts d (powerStep now d watts) := by
  refine (sameAccounts_keepCap now d).trans ?_
  simp only [powerStep, setThcap]
  repeat' split
  all_goals exact ⟨rfl, rfl⟩

/-! ## A refill boundary -/

/-- Past the refill itself a boundary posts the record, sets the point and steps the power share: the accounts stay. -/
theorem sameAccounts_refillBoundary (s : State) (die watts : Nat) :
    SameAccounts (refillDie s.cycle (dieOf s die)) (dieOf (refillBoundary s die watts) die) := by
  have h : SameAccounts (refillDie s.cycle (dieOf s die)) (dieOf (updDie s die (refillDie s.cycle)) die) := by rw [dieOf_updDie]; exact ⟨rfl, rfl⟩
  exact ((h.trans (sameAccounts_energyRecord _ die)).trans (sameAccounts_setPoint _ die _)).trans (sameAccounts_updDie _ die fun d => sameAccounts_powerStep _ d watts)

theorem eacc_beforeCaps (now : Nat) (d : Die) (c : Nat) : eacc (beforeCaps now d) c = eacc d c := by
  simp only [beforeCaps]
  repeat' split
  all_goals rfl

theorem clipAcc_eq_min (d : Die) (c : Nat) (v : Int) : clipAcc d c v = min v (2 * refillOf d c) := by
  simp only [clipAcc]
  split <;> omega

theorem eacc_refillDie (now : Nat) (d : Die) {c : Nat} (hc : c < 16) :
    eacc (refillDie now d) c = min (eacc d c + refillOf (beforeCaps now d) c) (2 * refillOf (beforeCaps now d) c) := by
  rw [← eacc_beforeCaps now d, ← clipAcc_eq_min]
  simp [eacc, refillDie, refillClass, hc]

theorem energyRefill_next {s : State} {die : Nat} (watts : Nat) (hps : s.mgmt.psCur.toNat ≤ 1) (hd : die < 4) (hc : ((dieOf s die).refills + 1) * 15000 ≤ s.cycle) :
    exec (.energyRefill die watts) s = .next (refillBoundary s die watts) :=
  congrArg Host.Outcome.next (if_pos (by simp [poolOn, hps, hd, hc]))

/-! ## The junction -/

theorem setThcap_of_hot {d : Die} (h : d.thTemp = 0) : (setThcap d).thcap = 0 := by simp [setThcap, h]
theorem thermalCap_of_hot (old : BitVec 10) {temp : Nat} (h : 105 ≤ temp) : thermalCap old temp = 0 := if_pos h

theorem setPoint_thcap (s : State) (die : Nat) (p : BitVec 3) : (dieOf (setPoint s die p) die).thcap = (dieOf s die).thcap := by
  simp only [setPoint, dieOf_updDie]
  split <;> rfl
theorem setPoint_curPoint (s : State) (die : Nat) (p : BitVec 3) : (dieOf (setPoint s die p) die).curPoint = p := by
  simp only [setPoint, dieOf_updDie]
  split
  · assumption
  · rfl

theorem junctionTo_temps (s : State) (die temp : Nat) : tget (junctionTo s die temp).mgmt.temps die 0 = temp := by
  simp only [junctionTo]
  repeat' split
  all_goals exact tget_tset _ _ _ _
theorem junctionTo_thcap (s : State) {die temp : Nat} (hd : die < 4) (ht : 105 ≤ temp) : (dieOf (junctionTo s die temp) die).thcap = 0 := by
  have ht' : 95 < temp := by omega
  simp only [junctionTo, hd, if_true, if_pos ht', setPoint_thcap, dieOf_updDie]
  exact setThcap_of_hot (thermalCap_of_hot _ ht)
theorem junctionTo_curPoint (s : State) {die temp : Nat} (hd : die < 4) (ht : 95 < temp) : 3 ≤ (dieOf (junctionTo s die temp) die).curPoint.toNat := by
  simp only [junctionTo, hd, if_true, if_pos ht, setPoint_curPoint]
  split
  · decide
  · omega
theorem junctionTempThreshold_next {s : State} {die : Nat} (temp : Nat) (hps : s.mgmt.psCur.toNat ≤ 2) (hd : die < 6) :
    exec (.junctionTempThreshold die temp) s = .next (junctionTo s die temp) := congrArg Host.Outcome.next (if_pos (by simp [hps, hd]))
end Sys2Proof.Laws
end

section
/-! SUPPORT. Register writes of the host and the power states (R348-R352, R357), and what memory keeps outside the device. -/
namespace Sys2Proof.Laws
open Sys2Proof.Machine

/-! ## Registers of BAR0 -/

theorem registerWrite_on {s : State} (h : barOn s = true) (off n v : Nat) : registerWrite s off n v = runTodo (mmioWrite s off n v) := by
  simp only [registerWrite, h, Bool.true_or, if_true]
theorem registerWrite_linkDown {s : State} (h : s.mgmt.hostLink = false) (off n v : Nat) : registerWrite s off n v = s := by
  simp [registerWrite, barOn, h]
theorem exec_registerWrite_linkDown {s : State} (h : s.mgmt.hostLink = false) (off size : Nat) (v : W64) : exec (.registerWrite off size v) s = .next s := by
  refine congrArg Host.Outcome.next ?_
  split
  · exact registerWrite_linkDown h _ _ _
  · rfl

/-! ## Requests of a power state -/

@[simp] theorem updMgmt_mgmt (s : State) (f : Mgmt → Mgmt) : (updMgmt s f).mgmt = f s.mgmt := rfl
@[simp] theorem updMgmt_mem (s : State) (f : Mgmt → Mgmt) : (updMgmt s f).mem = s.mem := rfl
@[simp] theorem updMgmt_cores (s : State) (f : Mgmt → Mgmt) : (updMgmt s f).cores = s.cores := rfl
@[simp] theorem updMgmt_pool (s : State) (f : Mgmt → Mgmt) : (updMgmt s f).pool = s.pool := rfl
@[simp] theorem updMgmt_tasks (s : State) (f : Mgmt → Mgmt) : (updMgmt s f).tasks = s.tasks := rfl
@[simp] theorem updMgmt_launches (s : State) (f : Mgmt → Mgmt) : (updMgmt s f).launches = s.launches := rfl
@[simp] theorem prtLive_updMgmt (s : State) (f : Mgmt → Mgmt) : prtLive (updMgmt s f) = prtLive s := rfl

theorem powerOff_psBusy (s : State) : (powerOff s).mgmt.psBusy = false := rfl

/-- A request that is not ignored, and then the note that the sideband has set BUSY. -/
theorem psRequest_taken {s : State} (req : Nat) (hb : s.mgmt.psBusy = false) (hc : s.mgmt.psCur ≠ 3) (ha : s.mgmt.barAt ≠ some s.cycle) :
    psRequest s req = let t := psApply (updMgmt s fun m => { m with psReq := BitVec.ofNat 2 req }) req
      if t.mgmt.psBusy then updMgmt t fun m => { m with sideAt := some t.cycle } else t := by
  simp only [psRequest, hb, hc, ha, decide_false, Bool.or_self, Bool.false_eq_true, if_false]
theorem psRequest_ignored {s : State} (req : Nat) (h : s.mgmt.psBusy = true ∨ s.mgmt.psCur = 3) : psRequest s req = s := by
  rcases h with h | h
  · simp [psRequest, h]
  · simp [psRequest, h]

section
variable {s : State} (hb : s.mgmt.psBusy = false) (ha : s.mgmt.barAt ≠ some s.cycle)
include hb ha

theorem psctlReqPs1_next (hc : s.mgmt.psCur = 0) :
    ∃ u, exec .psctlReqPs1 s = .next u ∧ u.mgmt.psReq = 1 ∧ u.mgmt.psBusy = true ∧ u.mgmt.psCur = 0 ∧ u.cores = s.cores ∧ u.mem = s.mem := by
  refine ⟨_, rfl, ?_⟩
  rw [psRequest_taken 1 hb (by rw [hc]; decide) ha]
  simp [psApply, hc]
theorem psctlReqPs0_ps1 (hc : s.mgmt.psCur = 1) : ∃ u, exec .psctlReqPs0 s = .next u ∧ u.mgmt.psCur = 0 ∧ u.mgmt.psReq = 0 ∧ u.mem = s.mem := by
  refine ⟨_, rfl, ?_⟩
  rw [psRequest_taken 0 hb (by rw [hc]; decide) ha]
  simp [psApply, hc, hb]
theorem psctlReqPs0_ps2 (hc : s.mgmt.psCur = 2) :
    ∃ u, exec .psctlReqPs0 s = .next u ∧ u.mgmt.psCur = 2 ∧ u.mgmt.psReq = 0 ∧ u.mgmt.psBusy = true ∧ u.mem = s.mem := by
  refine ⟨_, rfl, ?_⟩
  rw [psRequest_taken 0 hb (by rw [hc]; decide) ha]
  simp [psApply, hc]
theorem psctlReqPs2_next (hc : s.mgmt.psCur.toNat ≤ 1) : ∃ u, exec .psctlReqPs2 s = .next u ∧ u.mem = s.mem ∧
    (prtLive s = false → u.mgmt.psCur = 2 ∧ u.mgmt.psReq = 2) ∧ (prtLive s = true → u.mgmt.psCur = s.mgmt.psCur) := by
  have hc3 : s.mgmt.psCur ≠ 3 := by rintro h; rw [h] at hc; exact absurd hc (by decide)
  have hn3 : s.mgmt.psCur.toNat ≠ 3 := by omega
  refine ⟨_, rfl, ?_⟩
  rw [psRequest_taken 2 hb hc3 ha]
  cases hl : prtLive s <;> simp [psApply, hc, hl, hb, hn3]
theorem psctlReqPs3_next (hc : s.mgmt.psCur ≠ 3) : exec .psctlReqPs3 s = .next (powerOff (updMgmt s fun m => { m with psReq := 3 })) := by
  have hn3 : s.mgmt.psCur.toNat ≠ 3 := fun h => hc (BitVec.eq_of_toNat_eq h)
  refine congrArg Host.Outcome.next ?_
  rw [psRequest_taken 3 hb hc ha]
  simp [psApply, hn3, powerOff_psBusy]
end

/-! ## PSCTL over BAR0 -/

theorem setBits_whole {x : Nat} (n v : Nat) (hx : x < 2 ^ n) : setBits x 0 n v = v % 2 ^ n := by
  simp [setBits, nbits, Nat.mod_eq_of_lt hx]
theorem mgmtRead_psctl_lt (m : Mgmt) : mgmtRead m 0x10 < 2 ^ 64 := by
  have := m.psReq.isLt
  have := m.psCur.isLt
  have := m.psBusy.toNat_le
  simp only [mgmtRead]
  norm_num
  omega
theorem mmioWrite_psctl (s : State) : mmioWrite s 0x60010 8 0 = psctlBar s 0 := by
  have hreg : mmioReg s 0x60010 = mgmtRead s.mgmt 0x10 := by simp [mmioReg]
  simp [mmioWrite, hreg, setBits_whole 64 _ (mgmtRead_psctl_lt s.mgmt), mmioSet, mgmtWrite]
theorem registerWrite_psctl_standby {s : State} (hb : s.mgmt.psBusy = false) (hc : s.mgmt.psCur = 2) (hl : s.mgmt.hostLink = true) (ht : s.todo = []) :
    ∃ u, exec (.registerWrite 0x60010 8 0) s = .next u ∧ u.mgmt.psCur = 2 ∧ u.mgmt.psReq = 0 ∧ u.mgmt.psBusy = true ∧ u.mem = s.mem := by
  refine ⟨runTodo (psctlBar s 0), ?_, ?_⟩
  · refine congrArg Host.Outcome.next ?_
    rw [← mmioWrite_psctl]
    simp [barOk, registerWrite, hc, hl]
  · simp [runTodo, psctlBar, hb, addTodo, ht, todoAct, failTodo, psApply, hc]

/-! ## PS1 -/

theorem ps1Enter_next {s : State} (hc : s.mgmt.psCur = 0) (hb : s.mgmt.psBusy = true) (hr : s.mgmt.psReq = 1) (h : ps1Ready s = true) :
    exec .ps1Enter s = .next (updMgmt s fun m => { m with psCur := 1, psBusy := false, wake := m.doorAt = some s.cycle }) :=
  congrArg Host.Outcome.next (if_pos (by simp [hc, hb, hr, h]))
theorem ps1Wake_next {s : State} (hc : s.mgmt.psCur = 1) (hw : s.mgmt.wake = true) :
    exec .ps1Wake s = .next (updMgmt s fun m => { m with psCur := 0, wake := false }) := congrArg Host.Outcome.next (if_pos (by simp [hc, hw]))
theorem ps1Wake_idle {s : State} (hw : s.mgmt.wake = false) : exec .ps1Wake s = .next s := congrArg Host.Outcome.next (if_neg (by simp [hw]))

/-! ## What memory keeps without power -/

/-- No undefined span holds the byte. -/
def DefinedAt (m : Memory) (a : Nat) : Prop := ∀ x ∈ m.undef, ¬(x.lo ≤ a ∧ a < x.hi)

theorem memByte_of_definedAt {m : Memory} {a : Nat} (h : DefinedAt m a) : memByte m a = getCell m.cells a := by
  have hn : m.undef.find? (fun sp => decide (sp.lo ≤ a ∧ a < sp.hi)) = none := List.find?_eq_none.mpr fun x hx => by simpa using h x hx
  rw [memByte, hn]

theorem getCell_filter (c : List Host.Cell) (p : Host.Cell → Bool) {a : Nat} (hp : ∀ b, p (a, b) = true) : getCell (c.filter p) a = getCell c a := by
  induction c with
  | nil => rfl
  | cons e t ih =>
    obtain ⟨i, b⟩ := e
    by_cases hi : a = i
    · subst hi
      rw [List.filter_cons, if_pos (hp b), getCell, getCell, if_pos rfl, if_pos rfl]
    · rw [List.filter_cons, getCell, if_neg hi]
      split
      · rw [getCell, if_neg hi, ih]
      · exact ih

theorem definedAt_outsideMem {m : Memory} {a : Nat} (h : DefinedAt m a) : DefinedAt (outsideMem m) a := fun x hx => h x (List.mem_of_mem_filter hx)
theorem memByte_outsideMem {m : Memory} {a : Nat} (h : DefinedAt m a) (ho : outside a = true) : memByte (outsideMem m) a = memByte m a := by
  rw [memByte_of_definedAt h, memByte_of_definedAt (definedAt_outsideMem h)]
  exact getCell_filter _ _ fun _ => ho

theorem mem_cutSpans {l : List Span} {i : Nat} {x : Span} (hx : x ∈ cutSpans l i) : ∃ y ∈ l, y.lo ≤ x.lo ∧ x.hi ≤ y.hi := by
  simp only [cutSpans, List.mem_flatMap] at hx
  obtain ⟨y, hy, hx⟩ := hx
  refine ⟨y, hy, ?_⟩
  split_ifs at hx with hi h1 h2 h2
  all_goals simp only [List.mem_append, List.mem_cons, List.not_mem_nil, or_false, false_or] at hx
  · rcases hx with rfl | rfl <;> constructor <;> dsimp only <;> omega
  · subst hx; constructor <;> dsimp only <;> omega
  · subst hx; constructor <;> dsimp only <;> omega
  · subst hx; exact ⟨le_rfl, le_rfl⟩
theorem definedAt_memSetByte {m : Memory} {a : Nat} (i : Nat) (b : Byte) (h : DefinedAt m a) : DefinedAt (memSetByte m i b) a := by
  intro x hx hxa
  obtain ⟨y, hy, hlo, hhi⟩ := mem_cutSpans hx
  exact h y hy ⟨hlo.trans hxa.1, hxa.2.trans_le hhi⟩
theorem memByte_memSetByte_ne {m : Memory} {a i : Nat} (b : Byte) (h : DefinedAt m a) (hi : a ≠ i) : memByte (memSetByte m i b) a = memByte m a := by
  rw [memByte_of_definedAt h, memByte_of_definedAt (definedAt_memSetByte i b h)]
  exact getCell_setCell_ne _ _ hi
theorem memByte_layCells {m : Memory} {l : List (Nat × Byte)} {a : Nat} (h : DefinedAt m a) (hl : ∀ c ∈ l, a ≠ c.1) : memByte (layCells m l) a = memByte m a := by
  induction l generalizing m with
  | nil => rfl
  | cons c l ih =>
    obtain ⟨hc, hl⟩ := List.forall_mem_cons.mp hl
    exact (ih (definedAt_memSetByte _ _ h) hl).trans (memByte_memSetByte_ne _ h hc)
theorem not_outside_of_local {a : Nat} (h : paLocal a = true) : outside a = false := by
  simp only [paLocal, decide_eq_true_eq] at h
  simp [outside, paHost, paPool]
  omega
end Sys2Proof.Laws
end

section
/-! SUPPORT. The mailbox (R358-R360, R363): manifests, reports, sessions and the confidential map. -/
namespace Sys2Proof.Laws
open Sys2Proof.Machine

section
variable {s : State}

theorem trusted_of_le (h : s.mgmt.psCur.toNat ≤ 2) : trusted s = true := by simp [trusted, h]
theorem mailboxOpen_of (h : s.mgmt.psCur.toNat ≤ 2) (hf : s.mgmt.fail = 0) : mailboxOpen s = true := by simp [mailboxOpen, trusted_of_le h, hf]

/-! ## Manifests -/

section
variable {m : List Byte} {im : List (List Byte)} (ht : s.mgmt.psCur.toNat ≤ 2)
include ht

theorem mailboxManifest_good (h : manifestFault s m im = 0) :
    exec (.mailboxManifest m im) s = .next (updMgmt s fun g => { g with measures := im.map Config.sha256, stored := some (m, im) }) := by
  show Host.Outcome.next _ = _
  simp only [trusted_of_le ht, h, Bool.not_true, Bool.false_eq_true, if_false, if_true]
theorem mailboxManifest_bad (h : manifestFault s m im ≠ 0) :
    exec (.mailboxManifest m im) s = .next (if s.mgmt.fail = 0 then s else updMgmt s fun g => { g with fail := manifestFault s m im }) := by
  show Host.Outcome.next _ = _
  simp only [trusted_of_le ht, h, Bool.not_true, Bool.false_eq_true, if_false]
end

/-! ## Reports and sessions -/

theorem attestationReport_next (h : mailboxOpen s = true) (nonce : BitVec 256) : exec (.attestationReport nonce) s =
    .next (updMgmt s fun m => { m with mailbox := reportBody s nonce.toNat ++ [Config.sign (reportBody s nonce.toNat)] }) := congrArg Host.Outcome.next (if_pos h)
theorem mailboxSession_next (h : mailboxOpen s = true) (sec : Nat) {g : Nat} (h1 : 1 ≤ g) (h2 : g ≤ 255) : exec (.mailboxSession sec g) s =
    .next (updMgmt s fun m => { m with groups := (g, sec) :: m.groups.filter (fun e => e.1 != g), mailbox := [g] }) :=
  congrArg Host.Outcome.next (if_pos (by simp [h, h1, h2]))

/-! ## The confidential map -/

theorem mem_insertAsc (l : List Nat) (k : Nat) : k ∈ insertAsc l k := by
  induction l with
  | nil => simp [insertAsc]
  | cons i l ih =>
    simp only [insertAsc]
    split_ifs with h
    · simp [h]
    · simp
    · exact List.mem_cons_of_mem _ ih

/-- A host that has modified none of the lines has nothing to write back. -/
theorem recallHost_mem {pa n : Nat} (h : ∀ x ∈ s.hostDirty, overlaps (64 * x.line) 64 pa n = false) : (recallHost s pa n).mem = s.mem := by
  have hback : (s.hostDirty.filter fun x => overlaps (64 * x.line) 64 pa n) = [] := List.filter_eq_nil_iff.mpr fun x hx => by simp [h x hx]
  simp only [recallHost, hback, List.foldl_nil]

theorem overlaps_granule {l g : Nat} (h : l * 64 / 2 ^ 21 ≠ g) : overlaps (64 * l) 64 (g * 2 ^ 21) (2 ^ 21) = false := by
  simp only [overlaps, Bool.and_eq_false_iff, decide_eq_false_iff_not]
  omega

theorem hideGranule_confidential (s : State) (g : Nat) : (hideGranule s g).mgmt.confidential.contains g = true := by
  simp only [hideGranule]
  split
  · assumption
  · exact List.contains_iff_mem.mpr (mem_insertAsc _ _)
theorem hideGranule_mem {g : Nat} (h : (s.hostDirty.all fun x => x.line * 64 / 2 ^ 21 != g) = true) : (hideGranule s g).mem = s.mem := by
  have hno : ∀ x ∈ s.hostDirty, overlaps (64 * x.line) 64 (g * 2 ^ 21) (2 ^ 21) = false := fun x hx =>
    overlaps_granule (by simpa using List.all_eq_true.mp h x hx)
  simp only [hideGranule]
  split
  · rfl
  · rw [useFresh_mem]
    dsimp only
    split
    · exact recallHost_mem hno
    · rfl
theorem hideGranule_hostLines {g : Nat} (h : s.mgmt.confidential.contains g = false) {l : Nat} (hl : l ∈ (hideGranule s g).hostLines) : l * 64 / 2 ^ 21 ≠ g := by
  rw [hideGranule, if_neg (by rw [h]; exact Bool.false_ne_true)] at hl
  simpa using (List.mem_filter.mp hl).2
theorem hideGranule_hostDirty {g : Nat} (h : s.mgmt.confidential.contains g = false) {x : HostCopy} (hx : x ∈ (hideGranule s g).hostDirty) :
    x.line * 64 / 2 ^ 21 ≠ g := by
  rw [hideGranule, if_neg (by rw [h]; exact Bool.false_ne_true)] at hx
  simpa using (List.mem_filter.mp hx).2

section
variable (ho : mailboxOpen s = true) {g : Nat} (hg : paLocal (g * 2 ^ 21) = true)
include ho hg

theorem confidentialSet_next : exec (.mailboxConfidentialSet g true) s = .next (hideGranule s g) := by
  refine congrArg Host.Outcome.next ?_
  rw [ho, hg]; rfl
theorem confidentialClear_next : exec (.mailboxConfidentialSet g false) s =
    .next (if granuleZero s g then updMgmt s fun m => { m with confidential := m.confidential.filter (· != g) } else s) := by
  refine congrArg Host.Outcome.next ?_
  rw [ho, hg]; rfl
end
end
end Sys2Proof.Laws
end

section
/-! SUPPORT. Reset and bring-up (R364): the steps of a sequence up to the first that fails. -/
namespace Sys2Proof.Laws
open Sys2Proof.Machine

/-! ## One step -/

section
variable (heads : Option (List Nat)) (s : State) (k : Nat)

@[simp] theorem allPoints_mgmt (p : Nat → BitVec 3) : (allPoints s p).mgmt = s.mgmt := rfl
@[simp] theorem allPoints_pool (p : Nat → BitVec 3) : (allPoints s p).pool = s.pool := rfl
@[simp] theorem allPoints_cores (p : Nat → BitVec 3) : (allPoints s p).cores = s.cores := rfl
@[simp] theorem allPoints_tasks (p : Nat → BitVec 3) : (allPoints s p).tasks = s.tasks := rfl
@[simp] theorem allPoints_launches (p : Nat → BitVec 3) : (allPoints s p).launches = s.launches := rfl

@[simp] theorem bootBegin_mgmt : (bootBegin s k).mgmt = s.mgmt := by simp only [bootBegin]; split <;> rfl
@[simp] theorem bootBegin_pool : (bootBegin s k).pool = s.pool := by simp only [bootBegin]; split <;> rfl
@[simp] theorem bootBegin_cores : (bootBegin s k).cores = s.cores := by simp only [bootBegin]; split <;> rfl
@[simp] theorem bootBegin_tasks : (bootBegin s k).tasks = s.tasks := by simp only [bootBegin]; split <;> rfl
@[simp] theorem bootBegin_launches : (bootBegin s k).launches = s.launches := by simp only [bootBegin]; split <;> rfl

@[simp] theorem takeStored_fields : (takeStored s).pool = s.pool ∧ (takeStored s).cores = s.cores ∧ (takeStored s).tasks = s.tasks ∧
    (takeStored s).launches = s.launches ∧ (takeStored s).mgmt.fail = s.mgmt.fail ∧ (takeStored s).mgmt.psCur = s.mgmt.psCur ∧
    (takeStored s).mgmt.hostLink = s.mgmt.hostLink ∧ (takeStored s).mgmt.runtime = s.mgmt.runtime := by
  simp only [takeStored]
  split <;> exact ⟨rfl, rfl, rfl, rfl, rfl, rfl, rfl, rfl⟩

/-- What no step changes, and the two marks that one step sets: the host port comes up in step 4, the runtime runs from step 7 on. -/
@[simp] theorem bootStep_fields : (bootStep heads s k).mgmt.stage = k ∧ (bootStep heads s k).mgmt.fail = s.mgmt.fail ∧
    (bootStep heads s k).mgmt.psCur = s.mgmt.psCur ∧ (bootStep heads s k).tasks = s.tasks ∧ (bootStep heads s k).launches = s.launches ∧
    (bootStep heads s k).mgmt.hostLink = (s.mgmt.hostLink || decide (k = 4)) ∧ (bootStep heads s k).mgmt.runtime = (s.mgmt.runtime || decide (k = 7)) := by
  simp only [bootStep]
  repeat' split
  all_goals simp [*, trainHbm, trainPool, startRuntime]
theorem bootStep_pool (hk : k ≠ 5) : (bootStep heads s k).pool = s.pool := by
  simp only [bootStep, hk, if_false]
  repeat' split
  all_goals simp [trainHbm, startRuntime]
theorem bootStep_cores (hk : k ≠ 7) : (bootStep heads s k).cores = s.cores := by
  simp only [bootStep, hk, if_false]
  repeat' split
  all_goals simp [trainHbm, trainPool]

/-- The steps `l`, each passed. -/
def bootRun (l : List Nat) : State := l.foldl (fun s k => bootStep heads (bootBegin s k) k) s
end

section
variable {heads : Option (List Nat)} {s : State}

theorem bootRun_concat (l : List Nat) (k : Nat) : bootRun heads s (l ++ [k]) = bootStep heads (bootBegin (bootRun heads s l) k) k := by
  simp only [bootRun, List.foldl_append, List.foldl_cons, List.foldl_nil]
theorem bootRun_fields (l : List Nat) : (bootRun heads s l).mgmt.fail = s.mgmt.fail ∧ (bootRun heads s l).mgmt.psCur = s.mgmt.psCur ∧
    (bootRun heads s l).tasks = s.tasks ∧ (bootRun heads s l).launches = s.launches ∧ (bootRun heads s l).mgmt.hostLink = (s.mgmt.hostLink || l.contains 4) ∧
    (bootRun heads s l).mgmt.runtime = (s.mgmt.runtime || l.contains 7) := by
  induction l using List.reverseRecOn with
  | nil => simp [bootRun]
  | append_singleton l k ih => 
    obtain ⟨h1, h2, h3, h4, h5, h6⟩ := ih
    simp [bootRun_concat, h1, h2, h3, h4, h5, h6, Bool.or_assoc, eq_comm]

theorem bootRun_stage (l : List Nat) (k : Nat) : (bootRun heads s (l ++ [k])).mgmt.stage = k := by
  rw [bootRun_concat]
  exact (bootStep_fields _ _ _).1

/-- After the first `m` steps of a cold reset. -/
theorem bootRun_upTo (h0 : s.mgmt.stage = 0) (m : Nat) : (bootRun heads s (List.range' 1 m)).mgmt.stage = m := by
  cases m with
  | zero => exact h0
  | succ m => rw [List.range'_1_concat, bootRun_stage, Nat.add_comm]

/-! ## A sequence -/

variable {fail : Option BootFail} {k : Nat} {l : List Nat}

theorem bootSteps_pass (h : bootFault s fail k = 0) : bootSteps heads fail (k :: l) s = bootSteps heads fail l (bootStep heads (bootBegin s k) k) := by
  simp only [bootSteps, h, bne_self_eq_false, Bool.false_eq_true, if_false]
theorem bootSteps_fail (h : bootFault s fail k ≠ 0) :
    bootSteps heads fail (k :: l) s = updMgmt (bootBegin s k) fun m => { m with fail := bootFault s fail k, hostLink := m.hostLink || k = 1 } := by
  simp only [bootSteps, bne_iff_ne.mpr h, if_true]

theorem bootFault_stored (h : storedFault s ≠ 0) : bootFault s fail 1 = storedFault s := by simp [bootFault, h]
theorem bootFault_other (hs : k = 1 → storedFault s = 0) (hf : ∀ f, fail = some f → f.stage ≠ k) : bootFault s fail k = 0 := by
  have hk : (decide (k = 1) && storedFault s != 0) = false := by
    by_cases h : k = 1
    · simp [hs h]
    · simp [h]
  simp only [bootFault, hk, Bool.false_eq_true, if_false]
  split
  next f => exact if_neg (hf f rfl)
  next => rfl
theorem bootFault_named {f : BootFail} (hs : f.stage = 1 → storedFault s = 0) : bootFault s (some f) f.stage = failCode f := by
  have hk : (decide (f.stage = 1) && storedFault s != 0) = false := by
    by_cases h : f.stage = 1
    · simp [hs h]
    · simp [h]
  simp [bootFault, hk]

theorem failCode_ne_zero {f : BootFail} : failCode f ≠ 0 := by
  simp only [failCode]
  split_ifs <;> omega

/-- A cold reset passes its first `m` steps when the stored manifest passes and the event names none of them. -/
theorem bootSteps_upTo (hs : storedFault s = 0) (m r : Nat) (hf : ∀ f, fail = some f → m < f.stage) :
    bootSteps heads fail (List.range' 1 (m + r)) s = bootSteps heads fail (List.range' (1 + m) r) (bootRun heads s (List.range' 1 m)) := by
  induction m generalizing r with
  | zero => simp [bootRun]
  | succ m ih =>
    have hpass : bootFault (bootRun heads s (List.range' 1 m)) fail (1 + m) = 0 := by
      refine bootFault_other (fun hm => ?_) fun f hfail => ?_
      · obtain rfl : m = 0 := by omega
        exact hs
      · have := hf f hfail
        omega
    rw [Nat.add_right_comm, Nat.add_assoc, ih (r + 1) fun f hfail => (Nat.lt_succ_self m).trans (hf f hfail), List.range'_succ, bootSteps_pass hpass,
      List.range'_1_concat, bootRun_concat]
    rfl

theorem bootSteps_none (h1 : 1 ∉ l) : bootSteps heads none l s = bootRun heads s l := by
  induction l generalizing s with
  | nil => rfl
  | cons k l ih =>
    obtain ⟨hk, hl⟩ := not_or.mp (mt List.mem_cons.mpr h1)
    have hpass : bootFault s none k = 0 := bootFault_other (fun h => absurd h.symm hk) nofun
    rw [bootSteps_pass hpass, ih hl]
    rfl

end

/-! ## Cold reset -/

section
variable {s : State} {heads : List Nat}

theorem coldReset_passes (hs : storedFault s = 0) : exec (.coldReset heads none) s = .next (bootRun (some heads) (coldState s) [1, 2, 3, 4, 5, 6, 7, 8]) :=
  congrArg Host.Outcome.next (bootSteps_upTo (heads := some heads) (fail := none) (s := coldState s) hs 8 0 nofun)

theorem coldReset_fails {f : BootFail} (hs : storedFault s = 0) (h1 : 1 ≤ f.stage) (h8 : f.stage ≤ 8) :
    ∃ t, exec (.coldReset heads (some f)) s = .next (updMgmt (bootBegin t f.stage) fun m => { m with fail := failCode f, hostLink := m.hostLink || f.stage = 1 }) ∧
      t = bootRun (some heads) (coldState s) (List.range' 1 (f.stage - 1)) := by
  refine ⟨_, ?_, rfl⟩
  obtain ⟨m, hm⟩ := Nat.exists_eq_add_of_le' h1
  obtain ⟨r, hr⟩ := Nat.exists_eq_add_of_le h8
  have hnamed : bootFault (bootRun (some heads) (coldState s) (List.range' 1 m)) (some f) (1 + m) = failCode f := by
    rw [Nat.add_comm, ← hm]
    refine bootFault_named fun h => ?_
    obtain rfl : m = 0 := by omega
    exact hs
  have hupTo := bootSteps_upTo (heads := some heads) (fail := some f) (s := coldState s) hs m (r + 1) fun g hg => by
    obtain rfl := Option.some.inj hg
    omega
  refine congrArg Host.Outcome.next ?_
  have hl : [1, 2, 3, 4, 5, 6, 7, 8] = List.range' 1 (m + (r + 1)) := by
    rw [show m + (r + 1) = 8 by omega]
    rfl
  rw [hl, hupTo, List.range'_succ, bootSteps_fail (by rw [hnamed]; exact failCode_ne_zero), hnamed, hm, Nat.add_sub_cancel, Nat.add_comm 1 m]

theorem coldReset_badManifest (fail : Option BootFail) (hs : storedFault s ≠ 0) : exec (.coldReset heads fail) s =
    .next (updMgmt (bootBegin (coldState s) 1) fun m => { m with fail := storedFault s, hostLink := m.hostLink || decide (1 = 1) }) := by
  have hfault : bootFault (coldState s) fail 1 = storedFault s := bootFault_stored hs
  refine congrArg Host.Outcome.next ?_
  rw [bootSteps_fail (by rw [hfault]; exact hs), hfault]

/-! ## The heads and the cores after it -/

theorem tfind_map {α : Type} (f : Nat → α) (l : List Nat) (k : Nat) : tfind (l.map fun h => (h, f h)) k = if k ∈ l then some (f k) else none := by
  induction l with
  | nil => rfl
  | cons i l ih =>
    simp only [List.map_cons, tfind, ih, List.mem_cons]
    by_cases h : k = i
    · subst h; simp
    · simp [h, Ne.symm h]

theorem headOf_trainPool (h : Nat) : (h < 8 ∧ h ∈ heads → (headOf (trainPool s heads) h).state = 1 ∨ (headOf (trainPool s heads) h).state = 3) ∧
    (¬(h < 8 ∧ h ∈ heads) → (headOf (trainPool s heads) h).state = 0) := by
  have hmem : h ∈ (List.range 8).filter heads.contains ↔ h < 8 ∧ h ∈ heads := by simp [List.mem_filter]
  have hfind : headOf (trainPool s heads) h =
      ((if h ∈ (List.range 8).filter heads.contains then some { state := if nbit (freeAt s 630) h then 3 else 1 } else none : Option Head)).getD {} :=
    congrArg (Option.getD · _) (tfind_map _ _ _)
  rw [hfind]
  constructor
  · intro hh
    rw [if_pos (hmem.mpr hh), Option.getD_some]
    split
    · exact .inr rfl
    · exact .inl rfl
  · intro hh
    rw [if_neg (mt hmem.mp hh)]
    rfl

/-- The last three steps leave the heads that step 5 has trained. -/
theorem coldReset_heads (h : Nat) : ∃ t, headOf (bootRun (some heads) s [1, 2, 3, 4, 5, 6, 7, 8]) h = headOf (trainPool t heads) h := by
  refine ⟨bootBegin (bootRun (some heads) s [1, 2, 3, 4]) 5, ?_⟩
  simp only [bootRun, List.foldl_cons, List.foldl_nil, headOf]
  rw [bootStep_pool _ _ 8 (by decide), bootBegin_pool, bootStep_pool _ _ 7 (by decide), bootBegin_pool, bootStep_pool _ _ 6 (by decide), bootBegin_pool]
  rfl

/-- The last step leaves the cores that step 7 has started. -/
theorem coldReset_cores : ∃ b, (bootRun (some heads) s [1, 2, 3, 4, 5, 6, 7, 8]).cores = [(0, bootCore b), (128, bootCore b), (256, bootCore b), (384, bootCore b)] := by
  refine ⟨(bootRun (some heads) s [1, 2, 3, 4, 5, 6]).mgmt.boots, ?_⟩
  simp only [bootRun, List.foldl_cons, List.foldl_nil]
  rw [bootStep_cores _ _ 8 (by decide), bootBegin_cores]
  rfl
end

theorem sys_of_bootCores {t : State} {b : Nat} (h : t.cores = [(0, bootCore b), (128, bootCore b), (256, bootCore b), (384, bootCore b)]) (c : Nat) :
    (coreOf t c).sys = decide (c = 0 ∨ c = 128 ∨ c = 256 ∨ c = 384) := by
  simp only [coreOf, h, tget, tfind]
  split_ifs with h0 h1 h2 h3
  · subst h0; rfl
  · subst h1; rfl
  · subst h2; rfl
  · subst h3; rfl
  · exact (decide_eq_false (by omega)).symm

/-! ## Warm reset -/

section
variable {s : State} (hc : s.mgmt.psCur = 2) (hb : s.mgmt.psBusy = true) (hr : s.mgmt.psReq = 0)
include hc hb hr

theorem warmReset_asked (fail : Option BootFail) : exec (.warmReset fail) s = .next (bootSteps none fail [3, 6, 7, 8] (warmState s)) :=
  congrArg Host.Outcome.next (if_pos (by simp [hc, hb, hr]))
theorem warmReset_passes : exec (.warmReset none) s = .next (bootRun none (warmState s) [3, 6, 7, 8]) := by
  rw [warmReset_asked hc hb hr, bootSteps_none (by decide)]

theorem warmReset_fails {f : BootFail} (hf : f.stage ∈ [3, 6, 7, 8]) :
    ∃ u, exec (.warmReset (some f)) s = .next u ∧ u.mgmt.fail = failCode f ∧ u.mgmt.stage < f.stage := by
  refine ⟨_, warmReset_asked hc hb hr _, ?_⟩
  have hne : failCode f ≠ 0 := failCode_ne_zero
  have h0 : (warmState s).mgmt.stage = 0 := rfl
  simp only [List.mem_cons, List.not_mem_nil, or_false] at hf
  rcases hf with h | h | h | h <;> simp [bootSteps, bootFault, h, hne, h0]
end
theorem warmReset_unasked {s : State} (f : Option BootFail) (h : ¬(s.mgmt.psCur = 2 ∧ s.mgmt.psBusy = true ∧ s.mgmt.psReq = 0)) :
    exec (.warmReset f) s = .next s := congrArg Host.Outcome.next (if_neg (by simpa [and_assoc] using h))

/-- A warm reset zeroes local HBM and lays the runtime into it. -/
theorem warmReset_mem (s : State) : (bootRun none s [3, 6, 7, 8]).mem =
    layCells (outsideMem s.mem) ((Config.runtimeImage s.mgmt.boots).filter fun c => paLocal c.1) := rfl
theorem warmReset_memByte {s : State} {a : Nat} (hd : DefinedAt s.mem a) (ho : outside a = true) : memByte (bootRun none s [3, 6, 7, 8]).mem a = memByte s.mem a := by
  rw [warmReset_mem, memByte_layCells (definedAt_outsideMem hd) fun c hcell h => ?_, memByte_outsideMem hd ho]
  have hl : paLocal c.1 = true := (List.mem_filter.mp hcell).2
  rw [h, not_outside_of_local hl] at ho
  exact Bool.false_ne_true ho

/-! ## The obligation -/

/-- What the spec asks of a cold reset whose every step passes. -/
theorem coldReset_passed {s : State} (heads : List Nat) (hs : storedFault s = 0) : ∃ u, exec (.coldReset heads none) s = .next u ∧ u.mgmt.stage = 8 ∧ u.mgmt.fail = 0 ∧
    u.mgmt.runtime = true ∧ u.mgmt.hostLink = true ∧ u.tasks = [] ∧ u.launches = [] ∧
    (∀ h, (h < 8 ∧ h ∈ heads → (headOf u h).state = 1 ∨ (headOf u h).state = 3) ∧ (¬(h < 8 ∧ h ∈ heads) → (headOf u h).state = 0)) ∧
    (∀ c, (coreOf u c).sys = decide (c = 0 ∨ c = 128 ∨ c = 256 ∨ c = 384)) ∧ (fgBank (coreOf u 0)).se.phase = .slate := by
  obtain ⟨hfail, -, htasks, hlaunches, hlink, hrun⟩ := bootRun_fields (heads := some heads) (s := coldState s) [1, 2, 3, 4, 5, 6, 7, 8]
  obtain ⟨b, hcores⟩ := coldReset_cores (heads := heads) (s := coldState s)
  refine ⟨_, coldReset_passes hs, bootRun_upTo rfl 8, hfail, ?_, ?_, htasks, hlaunches, fun h => ?_, fun c => ?_, ?_⟩
  · rw [hrun]; rfl
  · rw [hlink]; rfl
  · obtain ⟨t, ht⟩ := coldReset_heads (s := coldState s) (heads := heads) h
    rw [ht]
    exact headOf_trainPool h
  · exact sys_of_bootCores hcores c
  · simp only [coreOf, hcores]
    rfl

theorem coldReset_failed {s : State} {f : BootFail} (heads : List Nat) (hs : storedFault s = 0) (h1 : 1 ≤ f.stage) (h8 : f.stage ≤ 8) :
    ∃ u, exec (.coldReset heads (some f)) s = .next u ∧ u.mgmt.stage = f.stage - 1 ∧ u.mgmt.fail = failCode f ∧ failCode f ≠ 0 ∧
      u.mgmt.hostLink = decide (f.stage = 1 ∨ 5 ≤ f.stage) := by
  obtain ⟨t, ht, rfl⟩ := coldReset_fails (heads := heads) hs h1 h8
  obtain ⟨-, -, -, -, hlink, -⟩ := bootRun_fields (heads := some heads) (s := coldState s) (List.range' 1 (f.stage - 1))
  refine ⟨_, ht, ?_, rfl, failCode_ne_zero, ?_⟩
  · rw [updMgmt_mgmt, bootBegin_mgmt]
    exact bootRun_upTo rfl _
  · rw [updMgmt_mgmt, bootBegin_mgmt, hlink]
    have h4 : 4 ∈ List.range' 1 (f.stage - 1) ↔ 5 ≤ f.stage := by rw [List.mem_range'_1]; omega
    have h0 : (coldState s).mgmt.hostLink = false := rfl
    simp [h0, h4, Bool.or_comm]

/-- Settles O59, event by event: each is the named change of the state where its condition holds. -/
theorem platformEvents : Obligations.PlatformEvents := by
  intro s
  refine ⟨fun hon => ⟨fun off size v hok => ?_, fun die v hd => ?_⟩, fun off size v hl => exec_registerWrite_linkDown hl off size v,
    fun off size wr => rfl, fun die watts hps hd hc => ?_, fun die temp hps hd => ?_, fun hb ha => ?_, fun h i hi => ?_,
    registerWrite_psctl_standby, fun hc hb hr h => ⟨_, ps1Enter_next hc hb hr h, rfl, rfl, rfl⟩,
    fun hc => ⟨fun hw => ⟨_, ps1Wake_next hc hw, rfl, rfl⟩, ps1Wake_idle⟩, fun hps => ⟨fun m im => ⟨fun h => ?_, fun h hf => ?_, fun h hf => ?_⟩, fun hf => ?_⟩,
    fun heads => ⟨coldReset_passed heads, fun fail hs => ⟨_, coldReset_badManifest fail hs, rfl, rfl, rfl, rfl⟩, fun f hs h1 h8 => coldReset_failed heads hs h1 h8⟩,
    fun hc hb hr => ⟨⟨_, warmReset_passes hc hb hr, ?_⟩, fun f hf => warmReset_fails hc hb hr hf⟩, warmReset_unasked⟩
  · rw [← registerWrite_on hon]
    exact congrArg Host.Outcome.next (if_pos hok)
  · simp only [← registerWrite_on hon]
    exact ⟨congrArg Host.Outcome.next (if_pos hd), congrArg Host.Outcome.next (if_pos hd), congrArg Host.Outcome.next (if_pos hd), congrArg Host.Outcome.next (if_pos hd)⟩
  · obtain ⟨heacc, hrefills⟩ := sameAccounts_refillBoundary s die watts
    refine ⟨_, energyRefill_next watts hps hd hc, hrefills, fun c h16 => ?_⟩
    rw [eacc, heacc]
    exact eacc_refillDie s.cycle (dieOf s die) h16
  · exact ⟨_, junctionTempThreshold_next temp hps hd, junctionTo_temps s die temp, fun hd4 => ⟨junctionTo_thcap s hd4, junctionTo_curPoint s hd4⟩⟩
  · refine ⟨psctlReqPs1_next hb ha, fun hc hl => ?_, fun hc hl => ?_, psctlReqPs0_ps1 hb ha, psctlReqPs0_ps2 hb ha, fun hc => ?_⟩
    · obtain ⟨u, hu, hmem, hfree, -⟩ := psctlReqPs2_next hb ha hc
      exact ⟨u, hu, (hfree hl).1, (hfree hl).2, hmem⟩
    · obtain ⟨u, hu, hmem, -, hlive⟩ := psctlReqPs2_next hb ha hc
      exact ⟨u, hu, hlive hl, hmem⟩
    · exact ⟨_, psctlReqPs3_next hb ha hc, rfl, rfl, fun a hdef hout => memByte_outsideMem hdef (by simpa [outside] using hout)⟩
  · simp only [List.mem_cons, List.not_mem_nil, or_false] at hi
    rcases hi with rfl | rfl | rfl | rfl <;> exact congrArg Host.Outcome.next (psRequest_ignored _ h)
  · exact ⟨_, mailboxManifest_good hps h, rfl, rfl, rfl, rfl⟩
  · rw [mailboxManifest_bad hps h, if_pos hf]
  · rw [mailboxManifest_bad hps h, if_neg hf]
    exact ⟨_, rfl, rfl, rfl, rfl, rfl⟩
  · have ho := mailboxOpen_of hps hf
    refine ⟨fun nonce => ⟨_, attestationReport_next ho nonce, rfl, rfl⟩, fun sec g h1 h2 => ⟨_, mailboxSession_next ho sec h1 h2, List.mem_cons_self, rfl, rfl⟩,
      fun g hg => ⟨⟨_, confidentialSet_next ho hg, hideGranule_confidential s g, hideGranule_mem, fun hnew =>
        ⟨fun l => hideGranule_hostLines hnew, fun x => hideGranule_hostDirty hnew⟩⟩, fun hz => ?_, fun hz => ?_⟩⟩
    · rw [confidentialClear_next ho hg, if_pos hz]
      exact ⟨_, rfl, by simp, rfl⟩
    · rw [confidentialClear_next ho hg, hz]
      rfl
  · obtain ⟨-, hcur, htasks, -, hlink, -⟩ := bootRun_fields (heads := none) (s := warmState s) [3, 6, 7, 8]
    refine ⟨bootRun_stage [3, 6, 7] 8, hcur, ?_, htasks, fun a hdef hout => warmReset_memByte hdef (by simpa [outside] using hout)⟩
    rw [hlink]
    exact Bool.or_false _
end Sys2Proof.Laws
end

section
/-! SUPPORT. The gate past a word's predicate (R130, R309, R339): early reads, then queues. -/
namespace Sys2Proof.Laws
open Sys2Proof.Machine Sys2Proof.Safety

/-! ## Queues -/

section
variable {b : Bank} {st : Strand} {i : Instr} {q : Nat}

theorem queueGate_empty (hq : q ∈ popsOf st i) (h : (tget b.q q {}).count = 0) : queueGate b st i = some (.stall .queue) :=
  if_pos (List.any_eq_true.mpr ⟨q, hq, by simp [h]⟩)

theorem pushes_full (hq : q ∈ pushesOf st i) (h : queueDepth q ≤ (tget b.q q {}).count) : ((pushesOf st i).any fun q => (tget b.q q {}).count ≥ queueDepth q) = true :=
  List.any_eq_true.mpr ⟨q, hq, by simpa using h⟩
/-- With every popped entry there, a full queue is what holds the word back. -/
theorem queueGate_full (hq : q ∈ pushesOf st i) (h : queueDepth q ≤ (tget b.q q {}).count)
    (hp : ∀ p ∈ popsOf st i, (tget b.q p {}).count ≠ 0 ∧ (queueHead (tget b.q p {})).landed = true) : queueGate b st i = some (.stall .other) := by
  have hpops : (popsOf st i).any (fun q => let k := tget b.q q {}; k.count = 0 || !(queueHead k).landed) = false := by
    simpa [List.any_eq_false] using hp
  rw [queueGate, hpops, pushes_full hq h]
  rfl
/-- Whatever it pops, a word that pushes into a full queue waits. -/
theorem queueGate_full_stalls (hq : q ∈ pushesOf st i) (h : queueDepth q ≤ (tget b.q q {}).count) : ∃ why, queueGate b st i = some (.stall why) := by
  simp only [queueGate, pushes_full hq h, if_true]
  split
  · exact ⟨.queue, rfl⟩
  · exact ⟨.other, rfl⟩

theorem queueGate_unbound {n : Nat} (hp : popsOf st i = []) (hw : pushesOf st i = []) (hs : streamPopsOf st i = [(q, n)]) (hn : 1 ≤ n)
    (h : (tget b.sq q {}).count = 0) (hb : (tget b.sq q {}).bound = none) : queueGate b st i = some (.trap 0x0B 1 0) := by
  have hlt : ¬ n ≤ 0 := by omega
  simp [queueGate, hp, hw, hs, streamGate, h, hb, hlt]
end

/-! ## The gate behind the predicate -/

section
variable {i : Instr} {s : State} (hf : fieldsPass i s = true) (hr : repliesIn i s = true) (ht : predTimely i s = true) (hv : predValue s (curBank s) i = 1)
include hf hr ht hv

theorem gate_queue {x : Stop} (ho : operandsTimely i s = true) (hq : queueGate (curBank s) s.curSt i = some x) : gate i s = .halt x := by
  simp only [fieldsPass, repliesIn, predTimely, operandsTimely, Bool.and_eq_true, Option.isNone_iff_eq_none, Bool.not_eq_true', curStrand] at hf hr ht ho
  obtain ⟨⟨⟨h1, h2⟩, h3⟩, h4⟩ := hf
  simp only [gate, h1, h2, h3, h4, hr, ht, hv, ho, hq]
  cases (coreOf s s.curCore).latchk <;> simp

variable {r : Nat × Nat} (he : firstEarly (coreTime s s.curCore) (curStrand s) (readsAll (curBank s) s.curSt i) = some r)
include he

theorem gate_early_trap (hl : (coreOf s s.curCore).latchk = true) : gate i s = .halt (.trap 0x0E r.1 r.2) := by
  simp only [fieldsPass, repliesIn, predTimely, Bool.and_eq_true, Option.isNone_iff_eq_none, Bool.not_eq_true', curStrand] at hf hr ht he
  obtain ⟨⟨⟨h1, h2⟩, h3⟩, h4⟩ := hf
  simp [gate, h1, h2, h3, h4, hr, ht, hv, he, hl]
theorem gate_early_run (hl : (coreOf s s.curCore).latchk = false) (hq : queueGate (curBank s) s.curSt i = none) (hm : memWord i = false) : gate i s = .run true := by
  simp only [fieldsPass, repliesIn, predTimely, Bool.and_eq_true, Option.isNone_iff_eq_none, Bool.not_eq_true', curStrand] at hf hr ht he
  obtain ⟨⟨⟨h1, h2⟩, h3⟩, h4⟩ := hf
  simp [gate, h1, h2, h3, h4, hr, ht, hv, he, hl, hq, tlbWaits, hm]
end

/-- A word that the gate halts, by the word itself. -/
theorem exec_halt {i : Instr} {s : State} {x : Stop} (hi : isWord i = true) (hs : csrsSettled s = true) (hg : gate i s = .halt x) : exec i s = .next (stopWord i x s) := by
  obtain ⟨body, hb⟩ := exec_word hi
  rw [hb, issue_halt body hs hg]

/-- A word that reads a register too early and runs all the same leaves what its body says, with free values for its results (R309). -/
theorem issue_early {i : Instr} {s : State} {body : State → Except Stop Out} {o : Out} (hs : csrsSettled s = true) (hg : gate i s = .run true) (hb : body s = .ok o) :
    issue i body s = .next (complete i true o s) := by
  simp [issue, withCsrs_settled i _ hs, issueState, hg, hb]

/-! ## The obligation -/

/-- Settles O10: each clause is the gate's answer at its check, and the word stops there. -/
theorem operandGates : Obligations.OperandGates := by
  refine ⟨fun i s hi hs hf hr ht hv ho => ?_, fun i s hi hs hf hr ht hv sub spec he => ?_⟩
  · have stops : ∀ {x}, queueGate (curBank s) s.curSt i = some x → exec i s = .next (stopWord i x s) := fun hq => exec_halt hi hs (gate_queue hf hr ht hv ho hq)
    refine ⟨fun q hq h => stops (queueGate_empty hq h), fun q hq h => ⟨?_, fun hp => stops (queueGate_full hq h hp)⟩,
      fun q n hp hw hst hn h hb => stops (queueGate_unbound hp hw hst hn h hb)⟩
    obtain ⟨why, hwhy⟩ := queueGate_full_stalls hq h
    exact ⟨why, stops hwhy⟩
  · refine ⟨fun hl => exec_halt hi hs (gate_early_trap hf hr ht hv he hl), ?_⟩
    rintro hl hq w rfl
    exact issue_early hs (gate_early_run hf hr ht hv he hl hq rfl) rfl
end Sys2Proof.Laws
end

section
/-! SUPPORT. Results that land (R113, R116, R153, R365): what a landing leaves of a bank's registers, and which of two results a register keeps. -/
namespace Sys2Proof.Laws
open Sys2Proof.Machine Sys2Proof.Safety

/-! ## The parts of a landing -/

/-- The bank once a flight's results are written, those of killed destinations left out (R116, R138). -/
def landWrites (b : Bank) (st : Strand) (f : Flight) : Bank :=
  f.killed.foldl landSlot ((f.writes.filter fun w => !f.killed.contains w.dest).foldl (fun b w => applyWrite b st w) b)
/-- What the landing of flight `id` with destinations `ds` leaves of a flight of its strand. -/
def afterLanding (id : Nat) (ds : List Dest) (g : Flight) : Flight :=
  if g.id = id then { g with landed := true, writes := [], flags := 0, op := none } else if g.id < id then { g with killed := g.killed ++ ds } else g

theorem landFlight_eq {b : Bank} {st : Strand} {id : Nat} (t : Nat) {f : Flight} (hf : (strandSel b st).flight.find? (fun g => g.id = id) = some f) :
    landFlight b st id t =
      let c := landFlags (landWrites b st f) f.flags t
      setStrand c st { strandSel c st with flight := (strandSel c st).flight.map (afterLanding id f.dests) } := by
  simp only [landFlight, hf]
  rfl

/-! ## Registers -/

/-- Two banks hold the same registers. -/
structure SameRegs (b c : Bank) : Prop where
  x : c.x = b.x
  s : c.s = b.s
  v : c.v = b.v
  k : c.k = b.k
  i : c.i = b.i

namespace SameRegs
theorem refl (b : Bank) : SameRegs b b := ⟨rfl, rfl, rfl, rfl, rfl⟩
theorem trans {b c d : Bank} (h : SameRegs b c) (h' : SameRegs c d) : SameRegs b d :=
  ⟨h'.x.trans h.x, h'.s.trans h.s, h'.v.trans h.v, h'.k.trans h.k, h'.i.trans h.i⟩
theorem setStrand (b : Bank) (st : Strand) (x : StrandSt) : SameRegs b (setStrand b st x) := by constructor <;> simp
theorem landFlags (b : Bank) (fl : BitVec 9) (t : Nat) : SameRegs b (landFlags b fl t) := by
  rw [Machine.landFlags]
  split <;> exact ⟨rfl, rfl, rfl, rfl, rfl⟩
theorem landSlot (b : Bank) (d : Dest) : SameRegs b (landSlot b d) := by cases d <;> exact ⟨rfl, rfl, rfl, rfl, rfl⟩
theorem landSlots (l : List Dest) (b : Bank) : SameRegs b (l.foldl Machine.landSlot b) := by
  induction l generalizing b with
  | nil => exact refl b
  | cons d l ih => exact (landSlot b d).trans (ih _)
end SameRegs

/-- The register that a write goes to holds its value. -/
def Holds (b : Bank) (st : Strand) : Write → Prop
  | .reg n r => n ≠ 0 → tget (if st = .a then b.x else b.s) n {} = r
  | .idx n r => tget b.i n {} = r
  | .vec n r => tget b.v n {} = r
  | .mask n r => n ≠ 0 → tget b.k n {} = r
  | .queue _ _ _ => True

theorem Holds.of_sameRegs {b c : Bank} {st : Strand} {w : Write} (h : Holds b st w) (hs : SameRegs b c) : Holds c st w := by
  cases w with
  | reg n r => simpa only [Holds, hs.x, hs.s] using h
  | idx n r => simpa only [Holds, hs.i] using h
  | vec n r => simpa only [Holds, hs.v] using h
  | mask n r => simpa only [Holds, hs.k] using h
  | queue q sl r => trivial
theorem holds_applyWrite (b : Bank) (st : Strand) (w : Write) : Holds (applyWrite b st w) st w := by
  cases w with
  | reg n r =>
    intro hn
    rw [applyWrite, if_neg hn]
    split <;> simp
  | mask n r => intro hn; simp [applyWrite, hn]
  | idx n r => simp [Holds, applyWrite]
  | vec n r => simp [Holds, applyWrite]
  | queue q sl r => trivial

/-! ## Fields that no write of a result touches -/

@[simp] theorem applyWrite_fpflags (b : Bank) (st : Strand) (w : Write) : (applyWrite b st w).fpflags = b.fpflags := by
  cases w <;> simp only [applyWrite] <;> repeat' split
  all_goals rfl
@[simp] theorem strandSel_applyWrite (b : Bank) (st t : Strand) (w : Write) : strandSel (applyWrite b st w) t = strandSel b t := by
  cases t <;> cases w <;> simp only [applyWrite] <;> repeat' split
  all_goals rfl
@[simp] theorem landSlot_fpflags (b : Bank) (d : Dest) : (landSlot b d).fpflags = b.fpflags := by cases d <;> rfl
@[simp] theorem strandSel_landSlot (b : Bank) (t : Strand) (d : Dest) : strandSel (landSlot b d) t = strandSel b t := by cases t <;> cases d <;> rfl
theorem landSlot_of_no_queue (b : Bank) {d : Dest} (h : ∀ q sl, d ≠ .queue q sl) : landSlot b d = b := by
  cases d with
  | queue q sl => exact absurd rfl (h q sl)
  | _ => rfl

theorem landFlags_fpflags (b : Bank) (fl : BitVec 9) (t : Nat) : (landFlags b fl t).fpflags = b.fpflags ||| fl := by
  rw [landFlags]
  split
  · next h => simp [h]
  · rfl
@[simp] theorem strandSel_landFlags (b : Bank) (fl : BitVec 9) (t : Nat) (st : Strand) : strandSel (landFlags b fl t) st = strandSel b st := by
  rw [landFlags]
  split
  · rfl
  · cases st <;> rfl
@[simp] theorem landFlags_q (b : Bank) (fl : BitVec 9) (t : Nat) : (landFlags b fl t).q = b.q := by
  rw [landFlags]
  split <;> rfl

/-- What every write of a result and every landing of a slot keeps, the landing of a flight's writes keeps. -/
theorem landWrites_keeps {α : Type} (p : Bank → α) (hw : ∀ b st w, p (applyWrite b st w) = p b) (hd : ∀ b d, p (landSlot b d) = p b) (b : Bank) (st : Strand)
    (f : Flight) : p (landWrites b st f) = p b := by
  have slots : ∀ (l : List Dest) (b : Bank), p (l.foldl landSlot b) = p b := fun l => by
    induction l with
    | nil => exact fun _ => rfl
    | cons d l ih => exact fun b => (ih _).trans (hd b d)
  have writes : ∀ (l : List Write) (b : Bank), p (l.foldl (fun b w => applyWrite b st w) b) = p b := fun l => by
    induction l with
    | nil => exact fun _ => rfl
    | cons w l ih => exact fun b => (ih _).trans (hw b st w)
  rw [landWrites, slots, writes]

/-! ## One flight -/

theorem landWrites_one {b : Bank} {st : Strand} {f : Flight} {w : Write} (hw : f.writes = [w]) (hk : f.killed = []) : landWrites b st f = applyWrite b st w := by
  simp [landWrites, hw, hk]
theorem landWrites_killed {b : Bank} {st : Strand} {f : Flight} {w : Write} (hw : f.writes = [w]) (hk : w.dest ∈ f.killed) :
    landWrites b st f = f.killed.foldl landSlot b := by
  simp [landWrites, hw, hk]

section
variable {b : Bank} {st : Strand} {id : Nat} {f : Flight} (t : Nat) (hf : (strandSel b st).flight.find? (fun g => g.id = id) = some f)
include hf

theorem landFlight_fpflags : (landFlight b st id t).fpflags = b.fpflags ||| f.flags := by
  rw [landFlight_eq t hf, setStrand_fpflags, landFlags_fpflags, landWrites_keeps Bank.fpflags applyWrite_fpflags landSlot_fpflags]
/-- Past its writes, a landing changes no register. -/
theorem landFlight_sameRegs : SameRegs (landWrites b st f) (landFlight b st id t) := by
  rw [landFlight_eq t hf]
  exact (SameRegs.landFlags _ _ _).trans (SameRegs.setStrand _ _ _)
theorem landFlight_q : (landFlight b st id t).q = (landWrites b st f).q := by
  rw [landFlight_eq t hf, setStrand_q, landFlags_q]
theorem landFlight_flight : (strandSel (landFlight b st id t) st).flight = (strandSel b st).flight.map (afterLanding id f.dests) := by
  have hsel : strandSel (landFlags (landWrites b st f) f.flags t) st = strandSel b st := by
    rw [strandSel_landFlags]
    exact landWrites_keeps (strandSel · st) (fun b st' w => strandSel_applyWrite b st' st w) (fun b d => strandSel_landSlot b st d) b st f
  rw [landFlight_eq t hf, strandSel_setStrand, hsel]

variable {w : Write} (hw : f.writes = [w])
include hw

theorem landFlight_holds (hk : f.killed = []) : Holds (landFlight b st id t) st w := by
  have h := landFlight_sameRegs t hf
  rw [landWrites_one hw hk] at h
  exact (holds_applyWrite b st w).of_sameRegs h
/-- A result whose destination a later word has written changes no register (R116). -/
theorem landFlight_killed (hk : w.dest ∈ f.killed) : SameRegs b (landFlight b st id t) := by
  have h := landFlight_sameRegs t hf
  rw [landWrites_killed hw hk] at h
  exact (SameRegs.landSlots _ b).trans h
end

/-! ## Two flights of one strand -/

theorem find_of_nodup {l : List Flight} (hn : (l.map (·.id)).Nodup) {f : Flight} (hf : f ∈ l) : l.find? (fun g => g.id = f.id) = some f := by
  induction l with
  | nil => exact absurd hf List.not_mem_nil
  | cons g l ih =>
    obtain ⟨hg, hl⟩ := List.nodup_cons.mp hn
    obtain rfl | hf := List.mem_cons.mp hf
    · simp
    · have hne : g.id ≠ f.id := fun h => hg (List.mem_map.mpr ⟨f, hf, h.symm⟩)
      rw [List.find?_cons_of_neg (by simpa using hne)]
      exact ih hl hf
@[simp] theorem afterLanding_id (id : Nat) (ds : List Dest) (g : Flight) : (afterLanding id ds g).id = g.id := by
  rw [afterLanding]
  split_ifs <;> rfl
theorem afterLanding_later {id : Nat} (ds : List Dest) {g : Flight} (h : id < g.id) : afterLanding id ds g = g := by
  rw [afterLanding, if_neg h.ne', if_neg h.not_gt]
theorem afterLanding_earlier {id : Nat} (ds : List Dest) {g : Flight} (h : g.id < id) : afterLanding id ds g = { g with killed := g.killed ++ ds } := by
  rw [afterLanding, if_neg h.ne, if_pos h]

section
variable {b : Bank} {st : Strand} {f g : Flight} (hn : ((strandSel b st).flight.map (·.id)).Nodup) (hf : f ∈ (strandSel b st).flight)
  (hg : g ∈ (strandSel b st).flight)
include hn hf hg

/-- Behind the landing of one flight, another is found as the landing has left it. -/
theorem find_landFlight (t : Nat) : (strandSel (landFlight b st f.id t) st).flight.find? (fun h => h.id = g.id) = some (afterLanding f.id f.dests g) := by
  rw [landFlight_flight t (find_of_nodup hn hf)]
  have hn' : (((strandSel b st).flight.map (afterLanding f.id f.dests)).map (·.id)).Nodup := by
    simpa [Function.comp_def] using hn
  simpa using find_of_nodup hn' (List.mem_map_of_mem (f := afterLanding f.id f.dests) hg)

variable (hlt : f.id < g.id) {u v : Write} (hu : f.writes = [u]) (hv : g.writes = [v])
include hlt hv

theorem landed_later_holds (hk : g.killed = []) (t t' : Nat) : Holds (landFlight (landFlight b st f.id t) st g.id t') st v := by
  have h := find_landFlight hn hf hg t
  rw [afterLanding_later _ hlt] at h
  exact landFlight_holds t' h hv hk
include hu in
theorem landed_earlier_keeps (hk : g.killed = []) (hd : u.dest ∈ g.dests) (t t' : Nat) : Holds (landFlight (landFlight b st g.id t) st f.id t') st v := by
  have h := find_landFlight hn hg hf t
  rw [afterLanding_earlier _ hlt] at h
  exact (landFlight_holds t (find_of_nodup hn hg) hv hk).of_sameRegs (landFlight_killed t' h hu (List.mem_append_right _ hd))
end

/-! ## The obligation -/

theorem readReg_zero (now : Nat) (b : Bank) (st : Strand) : readReg now b st 0 = { v := 0, poi := false } := rfl
theorem wrS_reg {f : BitVec 7} (v : W64) (p : Bool) (h0 : 0 < f.toNat) (h : f.toNat < 64) : wrS f v p = [.reg f.toNat { v := v, poi := p }] := by
  rw [wrS, if_neg h0.ne', if_pos h]
theorem wrS_queue {f : BitVec 7} (v : W64) (p : Bool) (h : 64 ≤ f.toNat) : wrS f v p = [.queue (f.toNat - 64) 0 { v := v, poi := p }] := by
  rw [wrS, if_neg (by omega), if_neg (by omega)]

/-- A landed scalar result: its register, and every other (R116). -/
theorem landFlight_reg {b : Bank} {st : Strand} {id : Nat} {f : Flight} (t : Nat) (hf : (strandSel b st).flight.find? (fun g => g.id = id) = some f) {n : Nat} {v : Reg}
    (hn : n ≠ 0) (hw : f.writes = [.reg n v]) (hk : f.killed = []) :
    let c := landFlight b st id t
    tget (if st = .a then c.x else c.s) n {} = v ∧ (∀ m, m ≠ n → tget (if st = .a then c.x else c.s) m {} = tget (if st = .a then b.x else b.s) m {}) ∧
      (if st = .a then c.s = b.s else c.x = b.x) ∧ c.v = b.v ∧ c.k = b.k ∧ c.i = b.i ∧ c.q = b.q := by
  have hr := landFlight_sameRegs t hf
  have hq := landFlight_q t hf
  rw [landWrites_one hw hk, applyWrite, if_neg hn] at hr hq
  intro c
  refine ⟨landFlight_holds t hf hw hk hn, ?_⟩
  obtain rfl | hst := eq_or_ne st .a
  · simp only [if_true] at hr hq ⊢
    exact ⟨fun m hm => (congrArg (tget · m {}) hr.x).trans (tget_tset_ne _ _ _ hm), hr.s, hr.v, hr.k, hr.i, hq⟩
  · simp only [if_neg hst] at hr hq ⊢
    exact ⟨fun m hm => (congrArg (tget · m {}) hr.s).trans (tget_tset_ne _ _ _ hm), hr.x, hr.v, hr.k, hr.i, hq⟩
theorem landFlight_vec {b : Bank} {st : Strand} {id : Nat} {f : Flight} (t : Nat) (hf : (strandSel b st).flight.find? (fun g => g.id = id) = some f) {n : Nat} {v : VReg}
    (hw : f.writes = [.vec n v]) (hk : f.killed = []) :
    let c := landFlight b st id t
    tget c.v n {} = v ∧ (∀ m, m ≠ n → tget c.v m {} = tget b.v m {}) ∧ c.x = b.x ∧ c.s = b.s ∧ c.k = b.k ∧ c.i = b.i := by
  have hr := landFlight_sameRegs t hf
  rw [landWrites_one hw hk, applyWrite] at hr
  exact ⟨landFlight_holds t hf hw hk, fun m hm => by rw [hr.v, tget_tset_ne _ _ _ hm], hr.x, hr.s, hr.k, hr.i⟩
/-- The queues behind a killed result: a slot that a later word or a window write has taken keeps its value and is marked as landed (R138). -/
theorem landFlight_killed_q {b : Bank} {st : Strand} {id : Nat} {f : Flight} (t : Nat) (hf : (strandSel b st).flight.find? (fun g => g.id = id) = some f) {w : Write}
    (hw : f.writes = [w]) (hk : w.dest ∈ f.killed) :
    let c := landFlight b st id t
    ((∀ q sl, Dest.queue q sl ∉ f.killed) → c.q = b.q) ∧
    (∀ q sl, f.killed = [.queue q sl] → (tget (tget c.q q {}).slots sl {}).r = (tget (tget b.q q {}).slots sl {}).r ∧ (tget (tget c.q q {}).slots sl {}).landed = true) := by
  have hq := landFlight_q t hf
  rw [landWrites_killed hw hk] at hq
  refine ⟨fun hno => ?_, fun q sl hkq => ?_⟩
  · have hfold : ∀ l : List Dest, (∀ q sl, Dest.queue q sl ∉ l) → l.foldl landSlot b = b := fun l => by
      induction l with
      | nil => exact fun _ => rfl
      | cons d l ih =>
        intro h
        rw [List.foldl_cons, landSlot_of_no_queue b fun q sl hd => h q sl (hd ▸ List.mem_cons_self)]
        exact ih fun q sl hl => h q sl (List.mem_cons_of_mem _ hl)
    rw [hq, hfold _ hno]
  · rw [hq, hkq]
    simp [landSlot]

/-- Settles O12: a landing is its writes, and of two results of one destination the earlier-issued one is killed or comes first. -/
theorem registerWrites : Obligations.RegisterWrites := by
  refine ⟨⟨readReg_zero, fun s => rfl, fun v p => rfl, fun b st r => rfl, fun f v p => wrS_reg v p, fun f v p => wrS_queue v p⟩, fun b st id t f hf => ?_,
    fun b st f g t1 t2 hn hf hg hlt hkf hkg hdf hdg c hc => ?_⟩
  · refine ⟨landFlight_fpflags t hf, fun n v hn hw hk => landFlight_reg t hf hn hw hk, fun n v hw hk => landFlight_vec t hf hw hk, fun w hw hk => ?_⟩
    have hr := landFlight_killed t hf hw hk
    exact ⟨hr.x, hr.s, hr.v, hr.k, hr.i, landFlight_killed_q t hf hw hk⟩
  · have holds : ∀ {u v : Write}, f.writes = [u] → g.writes = [v] → u.dest = v.dest → Holds c st v := by
      intro u v hu hv huv
      have hd : u.dest ∈ g.dests := by simp [hdg, hv, huv]
      obtain rfl | rfl := hc
      · exact landed_later_holds hn hf hg hlt hv hkg t1 t2
      · exact landed_earlier_keeps hn hf hg hlt hu hv hkg hd t1 t2
    exact ⟨fun n u v h0 hu hv => holds hu hv rfl h0, fun n u v hu hv => holds hu hv rfl, fun n u v h0 hu hv => holds hu hv rfl h0, fun n u v hu hv => holds hu hv rfl⟩
end Sys2Proof.Laws
end

section
/-! SUPPORT. The checks of an elementwise word over its sources (R123, R172, R477). -/
namespace Sys2Proof.Laws
open Sys2Proof.Machine Sys2Proof.Safety

/-! ## The stale check -/

theorem staleCheck_cons_stale {g : Grp} (l : List Grp) (h : g.stale = true) : staleCheck (g :: l) = .error (.trap 0x0A 0 g.code) := if_pos h
theorem staleCheck_ok {l : List Grp} (h : ∀ g ∈ l, g.stale = false) : staleCheck l = .ok () := by
  induction l with
  | nil => rfl
  | cons g l ih =>
    obtain ⟨hg, hl⟩ := List.forall_mem_cons.mp h
    rw [staleCheck, hg]
    exact ih hl

/-! ## An elementwise word with a vector source and no old destination -/

section
variable {s : State} {w : VEC} {a : ElemArgs} {et : Nat} {g : Grp} {e : Nat} {rest : List (Grp × Nat)} (hg : a.groups = (g, e) :: rest)
include hg

theorem elementwise_stale (h : g.stale = true) : elementwise s w a none (some et) = .error (.trap 0x0A 0 g.code) := by
  simp only [elementwise, hg, Option.toList_none, List.map_nil, List.nil_append, List.map_cons, List.cons_append, staleCheck_cons_stale _ h, error_bind]

section
variable (hs : ∀ x ∈ a.groups, x.1.stale = false) (hm : ∀ m ∈ a.masks, m.stale = false) (hp : ∀ m, predMask s w = some m → m.stale = false)
include hs hm hp

omit hg in
theorem staleCheck_sources : staleCheck ((none : Option (Grp × List Run)).toList.map Prod.fst ++ a.groups.map Prod.fst ++ a.masks ++ (predMask s w).toList) = .ok () := by
  refine staleCheck_ok fun m h => ?_
  simp only [Option.toList_none, List.map_nil, List.nil_append, List.mem_append, List.mem_map, Option.mem_toList] at h
  obtain (⟨x, hx, rfl⟩ | h) | h := h
  · exact hs x hx
  · exact hm m h
  · exact hp m h

omit hg in
theorem elementwise_type (h : ∃ x ∈ a.groups, x.1.etOk x.2 = false) : elementwise s w a none (some et) = .error (.trap 0x09 4 0) := by
  have hall : (a.groups.all fun x => x.1.etOk x.2) = false := by simpa [List.all_eq_false] using h
  simp only [elementwise, staleCheck_sources hs hm hp, ok_bind, hall, check_false, error_bind]

variable (ht : ∀ x ∈ a.groups, x.1.etOk x.2 = true)
include ht

theorem elementwise_length (h : ∃ x ∈ a.groups, x.1.ll ≠ g.ll) : elementwise s w a none (some et) = .error (.trap 0x09 0 0) := by
  have hall : (a.groups.all fun x => x.1.etOk x.2) = true := List.all_eq_true.mpr ht
  have hne : ((a.groups.map (·.1.ll)).all fun n => some n == (a.groups.map (·.1.ll)).head?) = false := by
    rw [List.all_eq_false]
    obtain ⟨x, hx, hxg⟩ := h
    exact ⟨x.1.ll, List.mem_map_of_mem hx, by simp [hg, hxg]⟩
  have hne' : a.groups.isEmpty = false := by rw [hg]; rfl
  simp only [elementwise, staleCheck_sources hs hm hp, ok_bind, hall, check_true, hne', Bool.false_eq_true, if_false, hne, check_false, error_bind]

theorem elementwise_maskLength (hl : ∀ x ∈ a.groups, x.1.ll = g.ll) (h : (∃ m ∈ a.masks, m.ll ≠ g.ll) ∨ ∃ m, predMask s w = some m ∧ m.ll ≠ g.ll) :
    elementwise s w a none (some et) = .error (.trap 0x09 2 0) := by
  have hall : (a.groups.all fun x => x.1.etOk x.2) = true := List.all_eq_true.mpr ht
  have hhead : ∀ r : List Nat, (a.groups.map (·.1.ll) ++ r).head? = some g.ll := fun r => by rw [hg]; rfl
  have heq : ((a.groups.map (·.1.ll)).all fun n => some n == (a.groups.map (·.1.ll)).head?) = true := by
    have h0 := hhead []
    rw [List.append_nil] at h0
    simpa [h0] using fun x y hx => hl (x, y) hx
  have hother : (((a.masks ++ (predMask s w).toList ++ (none : Option (Grp × List Run)).toList.map Prod.fst).map Grp.ll).all (· = g.ll)) = false := by
    rw [List.all_eq_false]
    obtain ⟨m, hm, hne⟩ | ⟨m, hm, hne⟩ := h
    · exact ⟨m.ll, List.mem_map_of_mem (by simp [hm]), by simpa using hne⟩
    · exact ⟨m.ll, List.mem_map_of_mem (by simp [hm]), by simpa using hne⟩
  have hne' : a.groups.isEmpty = false := by rw [hg]; rfl
  simp only [elementwise, staleCheck_sources hs hm hp, ok_bind, hall, check_true, hne', Bool.false_eq_true, if_false, heq, hhead, hother, check_false, error_bind]
end
end

/-! ## The obligation -/

/-- Settles O33, check by check, in their order. -/
theorem elementwiseChecks : Obligations.ElementwiseChecks := by
  rintro s w a _ et g e rest hg rfl
  exact ⟨elementwise_stale hg, fun hs hm hp => ⟨elementwise_type hs hm hp, fun ht =>
    ⟨elementwise_length hg hs hm hp ht, elementwise_maskLength hg hs hm hp ht⟩⟩⟩
end Sys2Proof.Laws
end

section
/-! SUPPORT. Lists of runs by their elements (R119): slices, single elements, and the integer sum and extremes (R167, R482, R495). -/
namespace Sys2Proof.Laws
open Sys2Proof.Machine Sys2Proof.Safety

/-! ## The elements -/

@[simp] theorem spreadRuns_nil : spreadRuns [] = [] := rfl
@[simp] theorem spreadRuns_cons (r : Run) (l : List Run) : spreadRuns (r :: l) = List.replicate r.2 r.1 ++ spreadRuns l := rfl
@[simp] theorem spreadRuns_append (l k : List Run) : spreadRuns (l ++ k) = spreadRuns l ++ spreadRuns k := List.flatMap_append
theorem mem_spreadRuns {l : List Run} {x : Nat} : x ∈ spreadRuns l ↔ ∃ r ∈ l, r.2 ≠ 0 ∧ x = r.1 := by
  simp [spreadRuns, List.mem_replicate]

/-! ## Slices -/

/-- The first fold of a slice: `acc.1` elements are still to be dropped. -/
def dropStep (acc : Nat × List Run) (r : Run) : Nat × List Run := if acc.1 ≥ r.2 then (acc.1 - r.2, acc.2) else (0, acc.2 ++ [(r.1, r.2 - acc.1)])
/-- The second fold of a slice: `acc.1` elements are still to be taken. -/
def takeStep (acc : Nat × List Run) (r : Run) : Nat × List Run := if acc.1 = 0 then acc else (acc.1 - min acc.1 r.2, acc.2 ++ [(r.1, min acc.1 r.2)])

theorem sliceRuns_eq (l : List Run) (a n : Nat) : sliceRuns l a n = ((l.foldl dropStep (a, [])).2.foldl takeStep (n, [])).2 := rfl

theorem spreadRuns_dropFold (l : List Run) (acc : Nat × List Run) :
    spreadRuns (l.foldl dropStep acc).2 = spreadRuns acc.2 ++ (spreadRuns l).drop acc.1 := by
  induction l generalizing acc with
  | nil => simp
  | cons r l ih =>
    rw [List.foldl_cons, ih, dropStep, spreadRuns_cons, List.drop_append, List.drop_replicate, List.length_replicate]
    split_ifs with h
    · simp [Nat.sub_eq_zero_of_le h]
    · simp [Nat.sub_eq_zero_of_le (Nat.le_of_not_le h)]
theorem spreadRuns_takeFold (l : List Run) (acc : Nat × List Run) :
    spreadRuns (l.foldl takeStep acc).2 = spreadRuns acc.2 ++ (spreadRuns l).take acc.1 := by
  induction l generalizing acc with
  | nil => simp
  | cons r l ih =>
    rw [List.foldl_cons, ih, takeStep, spreadRuns_cons, List.take_append, List.take_replicate, List.length_replicate]
    split_ifs with h
    · simp [h]
    · have hrest : acc.1 - min acc.1 r.2 = acc.1 - r.2 := by omega
      simp [hrest]

theorem spreadRuns_sliceRuns (l : List Run) (a n : Nat) : spreadRuns (sliceRuns l a n) = ((spreadRuns l).drop a).take n := by
  simp [sliceRuns_eq, spreadRuns_takeFold, spreadRuns_dropFold]

theorem dropFold_pos {l : List Run} {acc : Nat × List Run} (h : ∀ r ∈ acc.2, 0 < r.2) : ∀ r ∈ (l.foldl dropStep acc).2, 0 < r.2 := by
  induction l generalizing acc with
  | nil => exact h
  | cons r l ih =>
    refine ih fun x hx => ?_
    simp only [dropStep] at hx
    split_ifs at hx with hle
    · exact h x hx
    · obtain hx | hx := List.mem_append.mp hx
      · exact h x hx
      · obtain rfl := List.mem_singleton.mp hx
        exact Nat.sub_pos_of_lt (Nat.lt_of_not_le hle)
theorem takeFold_pos {l : List Run} (hl : ∀ r ∈ l, 0 < r.2) {acc : Nat × List Run} (h : ∀ r ∈ acc.2, 0 < r.2) : ∀ r ∈ (l.foldl takeStep acc).2, 0 < r.2 := by
  induction l generalizing acc with
  | nil => exact h
  | cons r l ih =>
    obtain ⟨hr, hl⟩ := List.forall_mem_cons.mp hl
    refine ih hl fun x hx => ?_
    simp only [takeStep] at hx
    split_ifs at hx with h0
    · exact h x hx
    · obtain hx | hx := List.mem_append.mp hx
      · exact h x hx
      · obtain rfl := List.mem_singleton.mp hx
        exact Nat.lt_min.mpr ⟨Nat.pos_of_ne_zero h0, hr⟩
/-- A slice holds no empty run. -/
theorem sliceRuns_pos (l : List Run) (a n : Nat) : ∀ r ∈ sliceRuns l a n, 0 < r.2 :=
  takeFold_pos (dropFold_pos (List.forall_mem_nil _)) (List.forall_mem_nil _)

theorem head_spreadRuns {l : List Run} (h : ∀ r ∈ l, 0 < r.2) : (l.map Prod.fst).headD 0 = (spreadRuns l).headD 0 := by
  cases l with
  | nil => rfl
  | cons r l =>
    obtain ⟨k, hk⟩ : ∃ k, r.2 = k + 1 := ⟨r.2 - 1, by have := h r List.mem_cons_self; omega⟩
    simp [hk, List.replicate_succ]
theorem elemAt_eq (l : List Run) (i : Nat) : elemAt l i = (spreadRuns l).getD i 0 := by
  rw [elemAt, head_spreadRuns (sliceRuns_pos l i 1), spreadRuns_sliceRuns]
  simp [List.headD_eq_head?_getD, List.head?_take, List.head?_drop, List.getD_eq_getElem?_getD]

/-! ## Integer reductions -/

section
variable {c : VCtx} (hc : etInt c.et = true)
include hc

theorem accSum_fold (l : List Run) (x : Int) :
    l.foldl (fun a r => accSum c a r.1 r.2) (.int x) = .int (x + ((spreadRuns l).map (etIntVal c.et)).sum) := by
  induction l generalizing x with
  | nil => simp
  | cons r l ih =>
    have hr : accSum c (.int x) r.1 r.2 = .int (x + etIntVal c.et r.1 * r.2) := by simp [accSum, hc, VCtx.int]
    rw [List.foldl_cons, hr, ih, spreadRuns_cons, List.map_append, List.map_replicate, List.sum_append, List.sum_replicate, nsmul_eq_mul]
    congr 1
    ring
theorem accSum_none {l : List Run} (h : l ≠ []) :
    l.foldl (fun a r => accSum c a r.1 r.2) .none_ = .int ((spreadRuns l).map (etIntVal c.et)).sum := by
  obtain ⟨r, l, rfl⟩ := List.exists_cons_of_ne_nil h
  have h0 : accSum c .none_ r.1 r.2 = accSum c (.int 0) r.1 r.2 := by simp [accSum, hc]
  rw [List.foldl_cons, h0]
  simpa using accSum_fold hc (r :: l) 0

/-- The order that an extreme follows: below it for a maximum, above it for a minimum. -/
def Within (max : Bool) (x m : Int) : Prop := if max then x ≤ m else m ≤ x

omit hc in
theorem Within.refl (max : Bool) (x : Int) : Within max x x := by cases max <;> exact le_refl x
omit hc in
theorem Within.trans {max : Bool} {x y z : Int} (h : Within max x y) (h' : Within max y z) : Within max x z := by
  cases max
  · exact le_trans h' h
  · exact le_trans h h'

/-- One more value: the extreme is one of the two, and both lie within it. -/
theorem accExt_int (max : Bool) (y : Int) (x : Nat) :
    ∃ m, accExt max c (.int y) x = .int m ∧ (m = y ∨ m = etIntVal c.et x) ∧ Within max y m ∧ Within max (etIntVal c.et x) m := by
  refine ⟨_, by simp [accExt, hc]; rfl, ?_⟩
  cases max <;> simp only [Within, VCtx.int, if_true, Bool.false_eq_true, if_false] <;> split_ifs <;> omega
theorem accExt_fold (max : Bool) (l : List Nat) (y : Int) :
    ∃ m, l.foldl (accExt max c) (.int y) = .int m ∧ (m = y ∨ m ∈ l.map (etIntVal c.et)) ∧ Within max y m ∧ ∀ x ∈ l, Within max (etIntVal c.et x) m := by
  induction l generalizing y with
  | nil => exact ⟨y, rfl, .inl rfl, .refl max y, List.forall_mem_nil _⟩
  | cons x l ih =>
    obtain ⟨k, hk, hmem, hy, hx⟩ := accExt_int hc max y x
    obtain ⟨m, hm, hmem', hkm, hl⟩ := ih k
    refine ⟨m, by rw [List.foldl_cons, hk, hm], ?_, hy.trans hkm, List.forall_mem_cons.mpr ⟨hx.trans hkm, hl⟩⟩
    rw [List.map_cons, List.mem_cons]
    obtain rfl | h := hmem'
    · exact hmem.imp_right .inl
    · exact .inr (.inr h)
theorem accExt_none (max : Bool) {l : List Run} (hl : ∀ r ∈ l, 0 < r.2) (h : l ≠ []) :
    ∃ m, l.foldl (fun a r => accExt max c a r.1) .none_ = .int m ∧ m ∈ (spreadRuns l).map (etIntVal c.et) ∧ ∀ x ∈ spreadRuns l, Within max (etIntVal c.et x) m := by
  obtain ⟨r, l, rfl⟩ := List.exists_cons_of_ne_nil h
  have hval : ∀ x, x ∈ spreadRuns (r :: l) ↔ x ∈ (r :: l).map Prod.fst := fun x => by
    rw [mem_spreadRuns, List.mem_map]
    exact exists_congr fun q => ⟨fun ⟨hq, _, hx⟩ => ⟨hq, hx.symm⟩, fun ⟨hq, hx⟩ => ⟨hq, (hl q hq).ne', hx.symm⟩⟩
  have h0 : accExt max c .none_ r.1 = .int (etIntVal c.et r.1) := by simp [accExt, hc, VCtx.int]
  obtain ⟨m, hm, hmem, hr, hrest⟩ := accExt_fold hc max (l.map Prod.fst) (etIntVal c.et r.1)
  refine ⟨m, by rw [List.foldl_cons, h0, ← hm, List.foldl_map], ?_, fun x hx => ?_⟩
  · have : m ∈ ((r :: l).map Prod.fst).map (etIntVal c.et) := List.mem_cons.mpr hmem
    obtain ⟨x, hx, rfl⟩ := List.mem_map.mp this
    exact List.mem_map_of_mem ((hval x).mpr hx)
  · obtain rfl | hx := List.mem_cons.mp ((hval x).mp hx)
    · exact hr
    · exact hrest x hx
end

/-! ## The obligation -/

/-- Settles O37: a slice by its two folds, the sum and the extremes by induction on the runs. -/
theorem runListsByElements : Obligations.RunListsByElements := by
  refine ⟨fun l a n _ _ => ⟨spreadRuns_sliceRuns l a n, fun _ => elemAt_eq l a⟩, fun c l hc hl h => ⟨accSum_none hc h, ?_, ?_⟩⟩
  · exact accExt_none hc true hl h
  · exact accExt_none hc false hl h
end Sys2Proof.Laws
end

section
/-! SUPPORT. Canonical pairs (R119-R121) and the registers that hold them (R125, R127). -/
namespace Sys2Proof.Laws
open Sys2Proof.Machine Sys2Proof.Safety

/-! ## Numbers of elements -/

theorem runsTotal_eq (l : List Run) : runsTotal l = (spreadRuns l).length := by
  have h : ∀ (l : List Run) (n : Nat), l.foldl (fun a r => a + r.2) n = n + (spreadRuns l).length := fun l => by
    induction l with
    | nil => exact fun _ => rfl
    | cons r l ih =>
      intro n
      rw [List.foldl_cons, ih, spreadRuns_cons, List.length_append, List.length_replicate, Nat.add_assoc]
  rw [runsTotal, h, Nat.zero_add]
theorem length_spreadRuns_le {m : Nat} {l : List Run} (h : ∀ r ∈ l, r.2 ≤ m) : (spreadRuns l).length ≤ l.length * m := by
  induction l with
  | nil => simp
  | cons r l ih =>
    obtain ⟨hr, hl⟩ := List.forall_mem_cons.mp h
    have hrest := ih hl
    rw [spreadRuns_cons, List.length_append, List.length_replicate, List.length_cons, Nat.succ_mul]
    omega
theorem spreadRuns_mapValues (f : Nat → Nat) (l : List Run) : spreadRuns (l.map fun r => (f r.1, r.2)) = (spreadRuns l).map f := by
  induction l with
  | nil => rfl
  | cons r l ih => simp [ih]
theorem spreadRuns_clean (b : Bank) (et : Nat) (l : List Run) : spreadRuns (clean b et l) = (spreadRuns l).map (· % 2 ^ valWidth b et) :=
  spreadRuns_mapValues (· % 2 ^ valWidth b et) l
theorem spreadRuns_filter (l : List Run) : spreadRuns (l.filter fun r => r.2 != 0) = spreadRuns l := by
  induction l with
  | nil => rfl
  | cons r l ih =>
    rw [List.filter_cons]
    split
    · rw [spreadRuns_cons, spreadRuns_cons, ih]
    · next h => simp_all

/-! ## Joined runs -/

/-- A run joined to a list whose own runs are joined. -/
def joinOne (r : Run) : List Run → List Run
  | [] => [r]
  | q :: t => if q.1 = r.1 then (r.1, r.2 + q.2) :: t else r :: q :: t

theorem joinRuns_cons (r : Run) (l : List Run) : joinRuns (r :: l) = joinOne r (joinRuns l) := by
  rw [joinRuns]
  cases joinRuns l <;> rfl
theorem joinOne_head (r : Run) (l : List Run) : ∃ n t, joinOne r l = (r.1, n) :: t := by
  cases l with
  | nil => exact ⟨_, _, rfl⟩
  | cons q t =>
    rw [joinOne]
    split_ifs
    · exact ⟨_, _, rfl⟩
    · exact ⟨_, _, rfl⟩
theorem spreadRuns_joinOne (r : Run) (l : List Run) : spreadRuns (joinOne r l) = spreadRuns (r :: l) := by
  cases l with
  | nil => rfl
  | cons q t =>
    rw [joinOne]
    split_ifs with h
    · rw [spreadRuns_cons, spreadRuns_cons, spreadRuns_cons, List.replicate_add, List.append_assoc, h]
    · rfl
theorem joinOne_pos {r : Run} {l : List Run} (hr : 0 < r.2) (hl : ∀ q ∈ l, 0 < q.2) : ∀ q ∈ joinOne r l, 0 < q.2 := by
  cases l with
  | nil => simpa [joinOne] using hr
  | cons p t =>
    obtain ⟨hp, ht⟩ := List.forall_mem_cons.mp hl
    rw [joinOne]
    split_ifs with h
    · exact List.forall_mem_cons.mpr ⟨Nat.add_pos_left hr _, ht⟩
    · exact List.forall_mem_cons.mpr ⟨hr, hl⟩
theorem joinOne_chain {r : Run} {l : List Run} (hl : l.IsChain fun a b => a.1 ≠ b.1) : (joinOne r l).IsChain fun a b => a.1 ≠ b.1 := by
  cases l with
  | nil => exact .singleton _
  | cons q t =>
    rw [joinOne]
    split_ifs with h
    · cases t with
      | nil => exact .singleton _
      | cons p t =>
        rw [List.isChain_cons_cons] at hl ⊢
        exact ⟨h ▸ hl.1, hl.2⟩
    · exact List.isChain_cons_cons.mpr ⟨fun e => h e.symm, hl⟩

theorem spreadRuns_joinRuns (l : List Run) : spreadRuns (joinRuns l) = spreadRuns l := by
  induction l with
  | nil => rfl
  | cons r l ih => rw [joinRuns_cons, spreadRuns_joinOne, spreadRuns_cons, ih, spreadRuns_cons]
theorem joinRuns_pos {l : List Run} (h : ∀ r ∈ l, 0 < r.2) : ∀ r ∈ joinRuns l, 0 < r.2 := by
  induction l with
  | nil => exact h
  | cons r l ih =>
    obtain ⟨hr, hl⟩ := List.forall_mem_cons.mp h
    rw [joinRuns_cons]
    exact joinOne_pos hr (ih hl)
theorem joinRuns_chain (l : List Run) : (joinRuns l).IsChain fun a b => a.1 ≠ b.1 := by
  induction l with
  | nil => exact .nil
  | cons r l ih =>
    rw [joinRuns_cons]
    exact joinOne_chain ih

/-! ## The canonical pairs -/

/-- Pairs in the canonical form (R121): counts from 1 to `m`, equal neighbours only behind a run of `m`. -/
structure IsCanon (m : Nat) (l : List Run) : Prop where
  counts : ∀ r ∈ l, 1 ≤ r.2 ∧ r.2 ≤ m
  chain : l.IsChain fun a b => a.1 = b.1 → a.2 = m

theorem isCanon_iff {m : Nat} {l : List Run} :
    IsCanon m l ↔ (∀ r ∈ l, 1 ≤ r.2 ∧ r.2 ≤ m) ∧ ∀ j a b, l[j]? = some a → l[j + 1]? = some b → a.1 = b.1 → a.2 = m := by
  refine ⟨fun h => ⟨h.counts, fun j a b ha hb hab => ?_⟩, fun h => ⟨h.1, List.isChain_iff_getElem.mpr fun j hj => ?_⟩⟩
  · obtain ⟨hj, rfl⟩ := List.getElem?_eq_some_iff.mp hb
    obtain ⟨_, rfl⟩ := List.getElem?_eq_some_iff.mp ha
    exact List.isChain_iff_getElem.mp h.chain j hj hab
  · exact h.2 j _ _ (List.getElem?_eq_getElem (by omega)) (List.getElem?_eq_getElem hj)
theorem IsCanon.tail {m : Nat} {r : Run} {l : List Run} (h : IsCanon m (r :: l)) : IsCanon m l :=
  ⟨fun q hq => h.counts q (List.mem_cons_of_mem _ hq), h.chain.tail⟩

theorem spreadRuns_cutRun (m v c : Nat) : spreadRuns (cutRun m v c) = List.replicate c v := by
  have hrep : ∀ n, spreadRuns (List.replicate n (v, m)) = List.replicate (m * n) v := fun n => by
    induction n with
    | zero => rfl
    | succ n ih => rw [List.replicate_succ, spreadRuns_cons, ih, List.replicate_append_replicate, Nat.mul_succ, Nat.add_comm]
  rw [cutRun, spreadRuns_append, hrep]
  split_ifs with h
  · rw [spreadRuns_nil, List.append_nil, Nat.mul_div_cancel' (Nat.dvd_of_mod_eq_zero h)]
  · rw [spreadRuns_cons, spreadRuns_nil, List.append_nil, List.replicate_append_replicate, Nat.div_add_mod]
theorem cutRun_value {m v c : Nat} {r : Run} (h : r ∈ cutRun m v c) : r.1 = v := by
  rw [cutRun, List.mem_append, List.mem_replicate] at h
  obtain ⟨_, rfl⟩ | h := h
  · rfl
  · split_ifs at h
    · exact absurd h List.not_mem_nil
    · rw [List.mem_singleton.mp h]
theorem cutRun_isCanon {m : Nat} (v c : Nat) (hm : 1 ≤ m) : IsCanon m (cutRun m v c) := by
  have hmod : c % m < m := Nat.mod_lt _ hm
  refine ⟨fun r hr => ?_, ?_⟩
  · rw [cutRun, List.mem_append, List.mem_replicate] at hr
    obtain ⟨_, rfl⟩ | hr := hr
    · exact ⟨hm, le_rfl⟩
    · split_ifs at hr with h
      · exact absurd hr List.not_mem_nil
      · rw [List.mem_singleton.mp hr]
        exact ⟨Nat.pos_of_ne_zero h, hmod.le⟩
  · rw [cutRun, List.isChain_append]
    refine ⟨List.isChain_replicate_of_rel _ fun _ => rfl, ?_, fun x hx y _ _ => ?_⟩
    · split_ifs
      · exact .nil
      · exact .singleton _
    · rw [(List.mem_replicate.mp (List.mem_of_getLast? hx)).2]

/-- Cutting joined runs gives canonical pairs; the first of them has the first run's value. -/
theorem flatMap_cutRun_isCanon {m : Nat} (hm : 1 ≤ m) {l : List Run} (hpos : ∀ r ∈ l, 0 < r.2) (hl : l.IsChain fun a b => a.1 ≠ b.1) :
    IsCanon m (l.flatMap fun r => cutRun m r.1 r.2) ∧ ∀ q ∈ (l.flatMap fun r => cutRun m r.1 r.2).head?, ∃ r ∈ l.head?, q.1 = r.1 := by
  induction l with
  | nil => exact ⟨⟨List.forall_mem_nil _, .nil⟩, fun q hq => absurd hq (Option.not_mem_none q)⟩
  | cons r l ih =>
    obtain ⟨hr, hpos⟩ := List.forall_mem_cons.mp hpos
    obtain ⟨hc, hhead⟩ := ih hpos hl.tail
    have hcut := cutRun_isCanon r.1 r.2 hm
    rw [List.flatMap_cons]
    refine ⟨⟨fun q hq => ?_, List.isChain_append.mpr ⟨hcut.chain, hc.chain, fun x hx y hy hxy => ?_⟩⟩, fun q hq => ⟨r, rfl, ?_⟩⟩
    · obtain hq | hq := List.mem_append.mp hq
      · exact hcut.counts q hq
      · exact hc.counts q hq
    · obtain ⟨p, hp, hyp⟩ := hhead y hy
      have hne := List.isChain_cons.mp hl |>.1 p hp
      exact absurd ((cutRun_value (List.mem_of_getLast? hx)).symm.trans (hxy.trans hyp)) hne
    · have hne : cutRun m r.1 r.2 ≠ [] := fun h0 => by
        have hsp := spreadRuns_cutRun m r.1 r.2
        rw [h0, spreadRuns_nil, eq_comm, List.replicate_eq_nil_iff] at hsp
        omega
      obtain ⟨x, t, hx⟩ := List.exists_cons_of_ne_nil hne
      rw [hx, List.cons_append, List.head?_cons, Option.mem_some_iff] at hq
      exact cutRun_value (hq ▸ hx ▸ List.mem_cons_self)

theorem spreadRuns_canonRuns (m : Nat) (l : List Run) : spreadRuns (canonRuns m l) = spreadRuns l := by
  have h : ∀ k : List Run, spreadRuns (k.flatMap fun r => cutRun m r.1 r.2) = spreadRuns k := fun k => by
    induction k with
    | nil => rfl
    | cons r k ih => rw [List.flatMap_cons, spreadRuns_append, spreadRuns_cutRun, ih, spreadRuns_cons]
  rw [canonRuns, h, spreadRuns_joinRuns, spreadRuns_filter]
theorem canonRuns_isCanon {m : Nat} (hm : 1 ≤ m) (l : List Run) : IsCanon m (canonRuns m l) := by
  refine (flatMap_cutRun_isCanon hm (joinRuns_pos fun r hr => ?_) (joinRuns_chain _)).1
  simpa [Nat.pos_iff_ne_zero] using (List.mem_filter.mp hr).2

/-- A canonical run that is shorter than another's first one is followed by another value. -/
theorem IsCanon.not_shorter {m : Nat} {p q : Run} {l k : List Run} (hp : IsCanon m (p :: l)) (hq : IsCanon m (q :: k)) (h : spreadRuns (p :: l) = spreadRuns (q :: k))
    (hv : p.1 = q.1) : ¬ p.2 < q.2 := fun hlt => by
  obtain ⟨n, hn⟩ : ∃ n, q.2 = p.2 + (n + 1) := ⟨q.2 - p.2 - 1, by omega⟩
  rw [spreadRuns_cons, spreadRuns_cons, hn, List.replicate_add, List.append_assoc, hv] at h
  have hrest := List.append_cancel_left h
  cases l with
  | nil => simp [List.replicate_succ] at hrest
  | cons r l =>
    obtain ⟨j, hj⟩ : ∃ j, r.2 = j + 1 := ⟨r.2 - 1, by have := (hp.counts r (by simp)).1; omega⟩
    rw [spreadRuns_cons, hj, List.replicate_succ, List.replicate_succ, List.cons_append, List.cons_append] at hrest
    have hfull := (List.isChain_cons_cons.mp hp.chain).1 (hv.trans (List.cons.inj hrest).1.symm)
    have hle := (hq.counts q (by simp)).2
    omega
/-- The same elements have one canonical form (R121). -/
theorem IsCanon.unique {m : Nat} {p q : List Run} (hp : IsCanon m p) (hq : IsCanon m q) (h : spreadRuns p = spreadRuns q) : p = q := by
  have ne : ∀ {r : Run} {l : List Run}, IsCanon m (r :: l) → ∃ n, r.2 = n + 1 := fun {r l} hc =>
    ⟨r.2 - 1, by have := (hc.counts r List.mem_cons_self).1; omega⟩
  induction p generalizing q with
  | nil =>
    cases q with
    | nil => rfl
    | cons r k =>
      obtain ⟨n, hn⟩ := ne hq
      simp [hn, List.replicate_succ] at h
  | cons r l ih =>
    obtain ⟨n, hn⟩ := ne hp
    cases q with
    | nil => simp [hn, List.replicate_succ] at h
    | cons u k =>
      obtain ⟨j, hj⟩ := ne hq
      have hv : r.1 = u.1 := by
        rw [spreadRuns_cons, spreadRuns_cons, hn, hj, List.replicate_succ, List.replicate_succ] at h
        exact (List.cons.inj h).1
      have hc : r.2 = u.2 := by
        have h1 := hp.not_shorter hq h hv
        have h2 := hq.not_shorter hp h.symm hv.symm
        omega
      obtain rfl : r = u := Prod.ext hv hc
      rw [spreadRuns_cons, spreadRuns_cons] at h
      rw [ih hp.tail hq.tail (List.append_cancel_left h)]

/-! ## Pairs in a register -/

theorem nbits_pair {vw cw : Nat} {v c n : Nat} (hv : v < 2 ^ vw) (hc : c < 2 ^ cw) :
    let x := v + 2 ^ vw * c + 2 ^ (vw + cw) * n
    nbits x 0 vw = v ∧ nbits x vw cw = c ∧ x / 2 ^ (vw + cw) = n := by
  intro x
  have hx : x = v + 2 ^ vw * (c + 2 ^ cw * n) := by simp only [x]; ring
  have hdiv : x / 2 ^ vw = c + 2 ^ cw * n := by
    rw [hx, Nat.add_mul_div_left _ _ (Nat.two_pow_pos vw), Nat.div_eq_of_lt hv, Nat.zero_add]
  refine ⟨?_, ?_, ?_⟩
  · rw [nbits, Nat.shiftRight_zero, hx, Nat.add_mul_mod_self_left, Nat.mod_eq_of_lt hv]
  · rw [nbits, Nat.shiftRight_eq_div_pow, hdiv, Nat.add_mul_mod_self_left, Nat.mod_eq_of_lt hc]
  · rw [Nat.pow_add, ← Nat.div_div_eq_div_mul, hdiv, Nat.add_mul_div_left _ _ (Nat.two_pow_pos cw), Nat.div_eq_of_lt hc, Nat.zero_add]

/-- The runs fit a value's and a count's bits. -/
def FitsBits (vw cw : Nat) (l : List Run) : Prop := ∀ r ∈ l, r.1 < 2 ^ vw ∧ 1 ≤ r.2 ∧ r.2 < 2 ^ cw

/-- The number that a list of pairs is packed into. -/
def packNat (vw cw : Nat) (l : List Run) : Nat := l.foldr (fun r a => r.1 % 2 ^ vw + 2 ^ vw * (r.2 % 2 ^ cw) + 2 ^ (vw + cw) * a) 0

theorem packPairs_eq (vw cw : Nat) (l : List Run) : packPairs vw cw l = BitVec.ofNat 4096 (packNat vw cw l) := rfl
theorem packNat_lt (vw cw : Nat) (l : List Run) : packNat vw cw l < 2 ^ ((vw + cw) * l.length) := by
  induction l with
  | nil => simp [packNat]
  | cons r l ih =>
    have hv : r.1 % 2 ^ vw < 2 ^ vw := Nat.mod_lt _ (Nat.two_pow_pos _)
    have hc : r.2 % 2 ^ cw < 2 ^ cw := Nat.mod_lt _ (Nat.two_pow_pos _)
    have hlow : r.1 % 2 ^ vw + 2 ^ vw * (r.2 % 2 ^ cw) < 2 ^ (vw + cw) := by
      rw [Nat.pow_add]
      calc r.1 % 2 ^ vw + 2 ^ vw * (r.2 % 2 ^ cw) < 2 ^ vw * (r.2 % 2 ^ cw + 1) := by rw [Nat.mul_succ]; omega
        _ ≤ 2 ^ vw * 2 ^ cw := Nat.mul_le_mul_left _ hc
    rw [List.length_cons, Nat.mul_succ, Nat.add_comm _ (vw + cw), Nat.pow_add]
    calc packNat vw cw (r :: l) = r.1 % 2 ^ vw + 2 ^ vw * (r.2 % 2 ^ cw) + 2 ^ (vw + cw) * packNat vw cw l := rfl
      _ < 2 ^ (vw + cw) * (packNat vw cw l + 1) := by rw [Nat.mul_succ]; omega
      _ ≤ 2 ^ (vw + cw) * 2 ^ ((vw + cw) * l.length) := Nat.mul_le_mul_left _ ih
theorem toNat_ofNat_packNat {vw cw n : Nat} {l : List Run} (h : (vw + cw) * l.length ≤ n) : (BitVec.ofNat n (packNat vw cw l)).toNat = packNat vw cw l := by
  rw [BitVec.toNat_ofNat]
  exact Nat.mod_eq_of_lt ((packNat_lt vw cw l).trans_le (Nat.pow_le_pow_right Nat.two_pos h))
theorem pairsOf_zero (vw cw n : Nat) : pairsOf vw cw n 0 = [] := by
  cases n with
  | zero => rfl
  | succ n => simp [pairsOf, nbits]
theorem pairsOf_packNat {vw cw : Nat} {l : List Run} (hl : FitsBits vw cw l) {n : Nat} (hn : l.length ≤ n) : pairsOf vw cw n (packNat vw cw l) = l := by
  induction l generalizing n with
  | nil => exact pairsOf_zero vw cw n
  | cons r l ih =>
    obtain ⟨⟨hv, h1, hc⟩, hrest⟩ := List.forall_mem_cons.mp hl
    obtain ⟨n, rfl⟩ : ∃ k, n = k + 1 := ⟨n - 1, by rw [List.length_cons] at hn; omega⟩
    have hx : packNat vw cw (r :: l) = r.1 + 2 ^ vw * r.2 + 2 ^ (vw + cw) * packNat vw cw l := by
      simp [packNat, Nat.mod_eq_of_lt hv, Nat.mod_eq_of_lt hc]
    obtain ⟨hlow, hcount, hup⟩ := nbits_pair (n := packNat vw cw l) hv hc
    have hne : r.2 ≠ 0 := by omega
    rw [hx, pairsOf, hlow, hcount, hup, ih hrest (Nat.le_of_succ_le_succ hn)]
    simp [hne]
/-- The pairs of a string that was packed from them. -/
theorem pairsOf_packPairs {vw cw n : Nat} {l : List Run} (hl : FitsBits vw cw l) (hn : l.length ≤ n) (hsize : (vw + cw) * n ≤ 4096) :
    pairsOf vw cw n (packPairs vw cw l).toNat = l := by
  rw [packPairs_eq, toNat_ofNat_packNat ((Nat.mul_le_mul_left _ hn).trans hsize), pairsOf_packNat hl hn]

theorem etWidth_cases (et : Nat) : etWidth et = 4 ∨ etWidth et = 8 ∨ etWidth et = 16 ∨ etWidth et = 32 := by
  rw [etWidth]
  split_ifs <;> simp
theorem etWidth_etCap (et : Nat) : (etWidth et + etWidth et) * etCap et = 4096 := by
  rw [etCap]
  obtain h | h | h | h := etWidth_cases et <;> rw [h]
theorem etCap_le (et : Nat) : etCap et ≤ 512 := by
  rw [etCap]
  obtain h | h | h | h := etWidth_cases et <;> rw [h] <;> decide
theorem etMaxCount_pos (et : Nat) : 1 ≤ etMaxCount et := by
  rw [etMaxCount]
  obtain h | h | h | h := etWidth_cases et <;> rw [h] <;> decide
theorem etMaxCount_lt {et n : Nat} (h : n ≤ etMaxCount et) : n < 2 ^ etWidth et := by
  have := Nat.two_pow_pos (etWidth et)
  rw [etMaxCount] at h
  omega

theorem vecRuns_canonReg {et : Nat} {p : List Run} (poi : Bool) (hp : FitsBits (etWidth et) (etWidth et) p) (hn : p.length ≤ etCap et) :
    vecRuns et (canonReg et p poi) = p :=
  pairsOf_packPairs hp hn (etWidth_etCap et).le

/-- The values of canonical pairs are values of the runs that they come from. -/
theorem canonRuns_value {m : Nat} (hm : 1 ≤ m) {l : List Run} {r : Run} (h : r ∈ canonRuns m l) : ∃ q ∈ l, q.1 = r.1 := by
  have hr : r.1 ∈ spreadRuns (canonRuns m l) := mem_spreadRuns.mpr ⟨r, h, by have := ((canonRuns_isCanon hm l).counts r h).1; omega, rfl⟩
  rw [spreadRuns_canonRuns] at hr
  obtain ⟨q, hq, _, hv⟩ := mem_spreadRuns.mp hr
  exact ⟨q, hq, hv.symm⟩

/-! ## The members of a group -/

theorem chunks_length (n g : Nat) (l : List Run) : (chunks n g l).length = g := by
  induction g generalizing l with
  | zero => rfl
  | succ g ih => rw [chunks, List.length_cons, ih]
theorem chunks_getElem {n g : Nat} (l : List Run) {j : Nat} (hj : j < g) : (chunks n g l)[j]? = some ((l.drop (j * n)).take n) := by
  induction g generalizing l j with
  | zero => omega
  | succ g ih =>
    rw [chunks]
    cases j with
    | zero => simp
    | succ j => rw [List.getElem?_cons_succ, ih _ (Nat.lt_of_succ_lt_succ hj), List.drop_drop, Nat.succ_mul, Nat.add_comm n]
theorem mem_chunks {n g : Nat} {l c : List Run} : c ∈ chunks n g l ↔ ∃ j, j < g ∧ c = (l.drop (j * n)).take n := by
  rw [List.mem_iff_getElem?]
  refine exists_congr fun j => ⟨fun h => ?_, fun ⟨hj, h⟩ => by rw [chunks_getElem l hj, h]⟩
  have hj : j < g := by
    have := (List.getElem?_eq_some_iff.mp h).1
    rwa [chunks_length] at this
  rw [chunks_getElem l hj] at h
  exact ⟨hj, (Option.some.inj h).symm⟩

section
variable {s : State} {d g et : Nat} {l : List Run} {poi : Bool}

theorem writeGroup_runovf (h : g * etCap et < (canonRuns (etMaxCount et) (clean (curBank s) et l)).length) : writeGroup s d g et l poi = .error (.trap 0x08 0 0) := by
  simp only [writeGroup, decide_eq_false (Nat.not_le.mpr h), check_false, error_bind]

variable (hfit : (canonRuns (etMaxCount et) (clean (curBank s) et l)).length ≤ g * etCap et)
include hfit

theorem writeGroup_vlen {j : Nat} (hj : j < g)
    (h : 16777215 < runsTotal (((canonRuns (etMaxCount et) (clean (curBank s) et l)).drop (j * etCap et)).take (etCap et))) :
    writeGroup s d g et l poi = .error (.trap 0x09 1 0) := by
  have hall : ((chunks (etCap et) g (canonRuns (etMaxCount et) (clean (curBank s) et l))).all fun c => runsTotal c ≤ 16777215) = false := by
    rw [List.all_eq_false]
    exact ⟨_, mem_chunks.mpr ⟨j, hj, rfl⟩, by simpa using h⟩
  simp only [writeGroup, decide_eq_true hfit, check_true, ok_bind, hall, check_false, error_bind]
theorem writeGroup_ok (h : ∀ j, runsTotal (((canonRuns (etMaxCount et) (clean (curBank s) et l)).drop (j * etCap et)).take (etCap et)) ≤ 16777215) :
    writeGroup s d g et l poi = .ok ((List.zip (List.range g) (chunks (etCap et) g (canonRuns (etMaxCount et) (clean (curBank s) et l)))).map fun e =>
      .vec (physV (curBank s).vrb (d + e.1)) (canonReg et e.2 poi)) := by
  have hall : ((chunks (etCap et) g (canonRuns (etMaxCount et) (clean (curBank s) et l))).all fun c => runsTotal c ≤ 16777215) = true := by
    refine List.all_eq_true.mpr fun c hc => ?_
    obtain ⟨j, _, rfl⟩ := mem_chunks.mp hc
    exact decide_eq_true (h j)
  simp only [writeGroup, decide_eq_true hfit, check_true, ok_bind, hall]
end

/-- One member of a written group: its pairs, their numbers, and its status (R125). -/
theorem canonReg_member {et : Nat} (het : et < 15) {p : List Run} (poi : Bool) (hp : FitsBits (etWidth et) (etWidth et) p) (hn : p.length ≤ etCap et)
    (ht : runsTotal p ≤ 16777215) :
    let r := canonReg et p poi
    vecRuns et r = p ∧ r.et.toNat = et ∧ r.rc.toNat = (vecRuns et r).length ∧ r.ll.toNat = (spreadRuns (vecRuns et r)).length ∧ r.can = true ∧ r.poi = poi ∧
      r.stale = false := by
  have hcap := etCap_le et
  intro r
  have hr : vecRuns et r = p := vecRuns_canonReg poi hp hn
  rw [hr, ← runsTotal_eq]
  refine ⟨rfl, ?_, ?_, ?_, rfl, rfl, rfl⟩
  · exact BitVec.toNat_ofNat et 4 |>.trans (Nat.mod_eq_of_lt (by omega))
  · exact BitVec.toNat_ofNat p.length 10 |>.trans (Nat.mod_eq_of_lt (by omega))
  · exact BitVec.toNat_ofNat (runsTotal p) 24 |>.trans (Nat.mod_eq_of_lt (by omega))

theorem clean_fits {b : Bank} {et : Nat} {l : List Run} (hl : ∀ r ∈ l, r.1 < 2 ^ etWidth et) :
    FitsBits (etWidth et) (etWidth et) (canonRuns (etMaxCount et) (clean b et l)) := fun r hr => by
  obtain ⟨h1, hm⟩ := (canonRuns_isCanon (etMaxCount_pos et) _).counts r hr
  obtain ⟨q, hq, hv⟩ := canonRuns_value (etMaxCount_pos et) hr
  obtain ⟨p, hp, rfl⟩ := List.mem_map.mp hq
  exact ⟨hv ▸ (Nat.mod_le _ _).trans_lt (hl p hp), h1, etMaxCount_lt hm⟩

/-! ## Mask results -/

/-- The register image of a mask's canonical pairs that fit it (R125, R127). -/
def canonMask (p : List Run) (poi : Bool) : VReg :=
  { pairs := packPairs 1 15 p, et := 0, rc := BitVec.ofNat 10 p.length, ll := BitVec.ofNat 24 (runsTotal p), can := true, poi := poi, stale := false }

section
variable {s : State} {d : Nat} {l : List Run} {poi : Bool}

theorem maskTotal_le (h : (canonRuns 32767 l).length ≤ 256) : runsTotal (canonRuns 32767 l) ≤ 16777215 := by
  have hle := length_spreadRuns_le fun r hr => ((canonRuns_isCanon (m := 32767) (by decide) l).counts r hr).2
  rw [runsTotal_eq]
  omega
theorem writeMask_runovf (hd : 0 < d) (h : 256 < (canonRuns 32767 l).length) : writeMask s d l poi = .error (.trap 0x08 0 0) := by
  simp only [writeMask, if_neg hd.ne', decide_eq_false (Nat.not_le.mpr h), check_false, error_bind]
theorem writeMask_ok (hd : 0 < d) (h : (canonRuns 32767 l).length ≤ 256) :
    writeMask s d l poi = .ok [.mask (physK (curBank s).krb d) (canonMask (canonRuns 32767 l) poi)] := by
  simp only [writeMask, if_neg hd.ne', decide_eq_true h, decide_eq_true (maskTotal_le h), check_true, ok_bind, canonMask]
theorem mask_fits (hl : ∀ r ∈ l, r.1 < 2) : FitsBits 1 15 (canonRuns 32767 l) := fun r hr => by
  obtain ⟨h1, hm⟩ := (canonRuns_isCanon (m := 32767) (by decide) l).counts r hr
  obtain ⟨q, hq, hv⟩ := canonRuns_value (by decide) hr
  exact ⟨hv ▸ hl q hq, h1, Nat.lt_of_le_of_lt hm (by decide)⟩
end

/-! ## The obligation -/

theorem writeMask_meets (s : State) {d : Nat} {l : List Run} (poi : Bool) (hl : ∀ r ∈ l, r.1 < 2) (hd : 0 < d) (h : (canonRuns 32767 l).length ≤ 256) :
    (spreadRuns l).length ≤ 16777215 ∧ ∃ r : VReg, writeMask s d l poi = .ok [.mask (physK (curBank s).krb d) r] ∧ maskRuns r = canonRuns 32767 l ∧
      r.rc.toNat = (canonRuns 32767 l).length ∧ r.ll.toNat = (spreadRuns l).length ∧ r.can = true ∧ r.poi = poi ∧ r.stale = false := by
  have ht := maskTotal_le h
  have hlen : runsTotal (canonRuns 32767 l) = (spreadRuns l).length := by rw [runsTotal_eq, spreadRuns_canonRuns]
  refine ⟨hlen ▸ ht, _, writeMask_ok hd h, pairsOf_packPairs (mask_fits hl) h (by decide), ?_, ?_, rfl, rfl, rfl⟩
  · exact BitVec.toNat_ofNat _ 10 |>.trans (Nat.mod_eq_of_lt (by omega))
  · exact BitVec.toNat_ofNat _ 24 |>.trans ((Nat.mod_eq_of_lt (by omega)).trans hlen)

theorem writeGroup_meets {s : State} {d g et : Nat} {l : List Run} (poi : Bool) (het : et < 15) (hl : ∀ r ∈ l, r.1 < 2 ^ etWidth et)
    (hfit : (canonRuns (etMaxCount et) (clean (curBank s) et l)).length ≤ g * etCap et)
    (ht : ∀ j, runsTotal (((canonRuns (etMaxCount et) (clean (curBank s) et l)).drop (j * etCap et)).take (etCap et)) ≤ 16777215) :
    ∃ ws, writeGroup s d g et l poi = .ok ws ∧ ws.length = g ∧ ∀ j, j < g → ∃ r : VReg, ws[j]? = some (.vec (physV (curBank s).vrb (d + j)) r) ∧
      vecRuns et r = ((canonRuns (etMaxCount et) (clean (curBank s) et l)).drop (j * etCap et)).take (etCap et) ∧ r.et.toNat = et ∧ r.rc.toNat = (vecRuns et r).length ∧
      r.ll.toNat = (spreadRuns (vecRuns et r)).length ∧ r.can = true ∧ r.poi = poi ∧ r.stale = false := by
  refine ⟨_, writeGroup_ok hfit ht, by simp [chunks_length], fun j hj => ⟨_, ?_, canonReg_member het poi ?_ (List.length_take_le _ _) (ht j)⟩⟩
  · simp [List.getElem?_zip_eq_some, chunks_getElem _ hj, hj]
  · exact fun r hr => clean_fits hl r (List.mem_of_mem_drop (List.mem_of_mem_take hr))

/-- Settles O31: the canonical pairs and their uniqueness, then the two checks of a result, for masks and for groups. -/
theorem canonicalVectorResults : Obligations.CanonicalVectorResults := by
  refine ⟨fun s d l poi hl => ⟨rfl, spreadRuns_canonRuns _ l, writeMask_runovf, writeMask_meets s poi hl⟩, fun s d g et l poi het hl => ?_⟩
  intro c p
  obtain ⟨hcounts, hchain⟩ := isCanon_iff.mp (canonRuns_isCanon (etMaxCount_pos et) c)
  exact ⟨spreadRuns_clean _ et l, spreadRuns_canonRuns _ c, hcounts, hchain,
    fun q hq hcq hchq => (isCanon_iff.mpr ⟨hcq, hchq⟩).unique (canonRuns_isCanon (etMaxCount_pos et) c) (hq.trans (spreadRuns_canonRuns _ c).symm),
    fun hfit j hj h => writeGroup_vlen hfit hj h, writeGroup_runovf, writeGroup_meets poi het hl⟩
end Sys2Proof.Laws
end

section
/-! SUPPORT. Accumulator rows and park slots (R136, R202, R211, R212, R489, R493): what a write of a row's bytes leaves, and the four words over them. -/
namespace Sys2Proof.Laws
open Sys2Proof.Machine Sys2Proof.Safety

/-! ## Bits of a number -/

theorem nbits_setBits (x lo n v : Nat) : nbits (setBits x lo n v) lo n = v % 2 ^ n := by
  have hx : x = x % 2 ^ lo + 2 ^ lo * (x / 2 ^ lo) := (Nat.mod_add_div x _).symm
  have hy : x / 2 ^ lo = x / 2 ^ lo % 2 ^ n + 2 ^ n * (x / 2 ^ lo / 2 ^ n) := (Nat.mod_add_div _ _).symm
  have hset : setBits x lo n v = x % 2 ^ lo + 2 ^ lo * (v % 2 ^ n + 2 ^ n * (x / 2 ^ lo / 2 ^ n)) := by
    rw [setBits, nbits, Nat.shiftRight_eq_div_pow, Nat.shiftLeft_eq, Nat.shiftLeft_eq]
    generalize x / 2 ^ lo / 2 ^ n = d at hy ⊢
    generalize x / 2 ^ lo % 2 ^ n = c at hy ⊢
    rw [hy] at hx
    generalize x % 2 ^ lo = a at hx ⊢
    rw [hx, Nat.mul_add, Nat.mul_add, Nat.mul_comm c, Nat.mul_comm (v % 2 ^ n)]
    omega
  rw [nbits, Nat.shiftRight_eq_div_pow, hset, Nat.add_mul_div_left _ _ (Nat.two_pow_pos lo), Nat.div_eq_of_lt (Nat.mod_lt _ (Nat.two_pow_pos lo)), Nat.zero_add,
    Nat.add_mul_mod_self_left, Nat.mod_mod]
/-- Bits below `m` of a number are those of the number modulo 2^m. -/
theorem nbits_mod (x : Nat) {lo n m : Nat} (h : lo + n ≤ m) : nbits (x % 2 ^ m) lo n = nbits x lo n := by
  obtain ⟨k, rfl⟩ := Nat.exists_eq_add_of_le h
  rw [nbits, nbits, Nat.shiftRight_eq_div_pow, Nat.shiftRight_eq_div_pow, Nat.pow_add, Nat.pow_add, Nat.mul_assoc, Nat.mod_mul_right_div_self, Nat.mod_mul_right_mod]
theorem nbits_ofNat (v : Nat) {lo n m : Nat} (h : lo + n ≤ m) : nbits (BitVec.ofNat m v).toNat lo n = nbits v lo n := by
  rw [BitVec.toNat_ofNat, nbits_mod _ h]
/-- Digit `k` of a number that is packed from digits. -/
theorem nbits_digits {w : Nat} {l : List Nat} (h : ∀ x ∈ l, x < 2 ^ w) (k : Nat) : nbits (l.foldr (fun x a => x + 2 ^ w * a) 0) (w * k) w = l.getD k 0 := by
  induction l generalizing k with
  | nil => simp [nbits]
  | cons x l ih =>
    obtain ⟨hx, hl⟩ := List.forall_mem_cons.mp h
    rw [List.foldr_cons, nbits, Nat.shiftRight_eq_div_pow]
    cases k with
    | zero => rw [Nat.mul_zero, Nat.pow_zero, Nat.div_one, Nat.add_mul_mod_self_left, Nat.mod_eq_of_lt hx, List.getD_cons_zero]
    | succ k =>
      rw [Nat.mul_succ, Nat.add_comm (w * k), Nat.pow_add, ← Nat.div_div_eq_div_mul, Nat.add_mul_div_left _ _ (Nat.two_pow_pos w), Nat.div_eq_of_lt hx, Nat.zero_add,
        ← Nat.shiftRight_eq_div_pow, List.getD_cons_succ]
      exact ih hl k

/-! ## Rows -/

theorem accRow_molaClear (t : AccTile) (r o n q : Nat) : accRow (molaClear t r o n) q = accRow t q := rfl
theorem accRow_accMark (t : AccTile) (off n : Nat) (p : Bool) (q : Nat) : accRow (accMark t off n p) q = accRow t q := rfl
theorem accRow_accPut (t : AccTile) (r o n v : Nat) (p : Bool) :
    accRow (accPut t r o n v p) r = BitVec.ofNat 12288 (setBits (accRow t r).toNat (8 * o) (8 * n) v) := by
  rw [accPut, accRow_molaClear, accRow_accMark, accRow, tfind_tset]
/-- The bytes that are written to a row. -/
theorem nbits_accRow_accPut (t : AccTile) (r : Nat) {o n : Nat} (v : Nat) (p : Bool) (h : 8 * o + 8 * n ≤ 12288) :
    nbits (accRow (accPut t r o n v p) r).toNat (8 * o) (8 * n) = v % 2 ^ (8 * n) := by
  rw [accRow_accPut, nbits_ofNat _ h, nbits_setBits]

theorem roundACF_lt (v : Val) : roundACF v < 2 ^ 48 := by
  cases v with
  | nan s => exact (by decide : fmtACF.nan < 2 ^ 48)
  | inf n => cases n <;> decide
  | num n m e =>
    have hz : fmtACF.zeroBits n ≤ 2 ^ 47 := by cases n <;> decide
    have hinf : fmtACF.infBits n < 2 ^ 48 := by cases n <;> decide
    have hmax : fmtACF.maxBits n < 2 ^ 48 := by cases n <;> decide
    have hlim : (2 ^ fmtACF.eb - 1) * 2 ^ fmtACF.mb < 2 ^ 47 := by decide
    simp only [roundACF, FFmt.round]
    split_ifs <;> simp only <;> omega
theorem accWiden_lt (c : VCtx) (aft : Bool) (x : Nat) : accWiden c aft x < 2 ^ 48 := by
  rw [accWiden]
  split_ifs
  · exact roundACF_lt _
  · rw [wrapN]
    omega
/-- The elements of a written row (R489). -/
theorem accElem_accPut {t : AccTile} {r : Nat} {c : VCtx} {l : List Nat} (p : Bool) {k : Nat} (hk : k < l.length) (h : k < 256) :
    accElem (accPut t r 0 1536 (l.foldr (fun x a => accWiden c t.aft x + 2 ^ 48 * a) 0) p) r k = accWiden c t.aft (l.getD k 0) := by
  have hfold : l.foldr (fun x a => accWiden c t.aft x + 2 ^ 48 * a) 0 = (l.map (accWiden c t.aft)).foldr (fun x a => x + 2 ^ 48 * a) 0 := by rw [List.foldr_map]
  have hlt : ∀ x ∈ l.map (accWiden c t.aft), x < 2 ^ 48 := fun x hx => by
    obtain ⟨y, _, rfl⟩ := List.mem_map.mp hx
    exact accWiden_lt c _ y
  have hrow := nbits_accRow_accPut t r (o := 0) (n := 1536) (l.foldr (fun x a => accWiden c t.aft x + 2 ^ 48 * a) 0) p (by decide)
  have hbits : ∀ x, nbits x 0 12288 = x % 2 ^ 12288 := fun x => by rw [nbits, Nat.shiftRight_zero]
  simp only [Nat.mul_zero, Nat.reduceMul, hbits] at hrow
  have hin : 48 * k + 48 ≤ 12288 := by omega
  rw [accElem, ← nbits_mod _ hin, hrow, nbits_mod _ hin, hfold, nbits_digits hlt]
  simp [List.getD_eq_getElem?_getD, hk]

/-! ## Poison of a row's atoms -/

theorem mem_insertAsc_of_mem {l : List Nat} {x : Nat} (k : Nat) (h : x ∈ l) : x ∈ insertAsc l k := by
  induction l with
  | nil => exact absurd h List.not_mem_nil
  | cons i l ih =>
    rw [insertAsc]
    split_ifs
    · exact h
    · exact List.mem_cons_of_mem _ h
    · obtain rfl | h := List.mem_cons.mp h
      · exact List.mem_cons_self
      · exact List.mem_cons_of_mem _ (ih h)
theorem mem_foldl_insertAsc {as l : List Nat} {x : Nat} (h : x ∈ as ∨ x ∈ l) : x ∈ as.foldl insertAsc l := by
  induction as generalizing l with
  | nil => exact h.resolve_left List.not_mem_nil
  | cons a as ih =>
    refine ih ?_
    obtain h | h := h
    · obtain rfl | h := List.mem_cons.mp h
      · exact .inr (mem_insertAsc l x)
      · exact .inl h
    · exact .inr (mem_insertAsc_of_mem a h)
theorem atom_mem_atomsOf {off n : Nat} (h : 0 < n) : off / 32 ∈ atomsOf off n := by
  rw [atomsOf, if_neg h.ne']
  exact List.mem_map.mpr ⟨0, by simp, rfl⟩
/-- Poisoned data poisons the bytes that it is written to (R222). -/
theorem accPoison_accMark (t : AccTile) (off : Nat) {n : Nat} (h : 0 < n) : accPoison (accMark t off n true) off n = true := by
  rw [accPoison, List.any_eq_true]
  exact ⟨off / 32, atom_mem_atomsOf h, List.contains_iff_mem.mpr (mem_foldl_insertAsc (.inl (atom_mem_atomsOf h)))⟩

@[simp] theorem accTile_setTile (k : Cluster) (n : Nat) (t : AccTile) : accTile (setTile k n t) n = t := tget_tset _ _ _ _

/-! ## The tile of an accumulator, and the place of a park slot -/

section
variable {b : Bank} {n : Nat}

theorem accTileOf_ok {a : BitVec 3} (hmap : nbit (nbits b.accmap.toNat (6 * a.toNat) 6) 5 = true) (hn : nbits b.accmap.toNat (6 * a.toNat) 6 % 32 = n) :
    accTileOf b a = .ok n := by
  simp only [accTileOf, hmap, check_true, ok_bind, hn]
theorem parkPlace_beyond {p : Nat} (h : 3 * b.parkav.toNat ≤ p) : parkPlace b p = .error (.trap 0x06 0 0x400) := by
  simp only [parkPlace, decide_eq_false (Nat.not_lt.mpr h), check_false, error_bind]
theorem parkPlace_ok {p : Nat} (h : p < 3 * b.parkav.toNat) (hmap : nbit (nbits b.accmap.toNat (6 * (p / 384 % 8)) 6) 5 = true)
    (hn : nbits b.accmap.toNat (6 * (p / 384 % 8)) 6 % 32 = n) : parkPlace b p = .ok (n, p / 3 % 128, 512 * (p % 3)) := by
  have ha : (BitVec.ofNat 3 (p / 384)).toNat = p / 384 % 8 := BitVec.toNat_ofNat _ _
  rw [← ha] at hmap hn
  simp only [parkPlace, decide_eq_true h, check_true, ok_bind, accTileOf_ok hmap hn]
end

/-! ## VLDA -/

section
variable {w : VEC} {s : State} {n : Nat}

/-- The elements of the row that VLDA reads, each with its flags. -/
def rowElems (w : VEC) (s : State) (t : AccTile) : List (Nat × Flags) :=
  (List.range 256).map fun k =>
    if t.aft then (vctx s w).round (acfVal (accElem t (rowOf w) k)) false else etWrap (vet w) w.sat (sintN 48 (accElem t (rowOf w) k))

variable (htile : accTileOf (curBank s) (accOf w) = .ok n)
include htile

theorem vldaBody_busy (hb : tileBusy s s.curCore (curFg s) n = true) : vldaBody w s = .error (.stall .other) := by
  simp only [vldaBody, htile, ok_bind, hb, if_true]
/-- Past its stall and its check of the tile's type, VLDA writes the row's elements. -/
theorem vldaBody_eq (hb : tileBusy s s.curCore (curFg s) n = false) {t : AccTile} (hacc : accTile (clusterOf s (clusterOfCore s.curCore)) n = t)
    (ht : aftOk t (vet w) = true) :
    vldaBody w s = (do
      let ws ← writeGroup s w.d.toNat (vg w) (vet w) ((rowElems w s t).map fun x => (x.1, 1)) (accPoison t (1536 * rowOf w) 1536)
      .ok { s := s, writes := ws, flags := flagsOr ((rowElems w s t).map (·.2)), bound := 32 }) := by
  simp only [vldaBody, htile, ok_bind, hb, Bool.false_eq_true, if_false, hacc, ht, check_true]
  rfl
omit htile in
/-- A row has too few elements for any member to exceed the longest length. -/
theorem rowElems_total (t : AccTile) (j : Nat) :
    runsTotal (((canonRuns (etMaxCount (vet w)) (clean (curBank s) (vet w) ((rowElems w s t).map fun x => (x.1, 1)))).drop (j * etCap (vet w))).take (etCap (vet w))) ≤
      16777215 := by
  have hones : ∀ l : List (Nat × Flags), (spreadRuns (l.map fun x => (x.1, 1))).length = l.length := fun l => by
    induction l with
    | nil => rfl
    | cons x l ih => rw [List.map_cons, spreadRuns_cons, List.length_append, ih, List.length_replicate, List.length_cons, Nat.add_comm]
  have hsub := ((List.take_sublist (etCap (vet w)) _).trans (List.drop_sublist (j * etCap (vet w))
    (canonRuns (etMaxCount (vet w)) (clean (curBank s) (vet w) ((rowElems w s t).map fun x => (x.1, 1)))))).flatMap fun r => List.replicate r.2 r.1
  have hall : (spreadRuns (canonRuns (etMaxCount (vet w)) (clean (curBank s) (vet w) ((rowElems w s t).map fun x => (x.1, 1))))).length = 256 := by
    rw [spreadRuns_canonRuns, spreadRuns_clean, List.length_map, hones, rowElems, List.length_map, List.length_range]
  have hle : (spreadRuns _).length ≤ (spreadRuns _).length := hsub.length_le
  rw [runsTotal_eq]
  omega

theorem vlda_ok (hi : issues (.vlda w) s = true) (hb : tileBusy s s.curCore (curFg s) n = false) {t : AccTile}
    (hacc : accTile (clusterOf s (clusterOfCore s.curCore)) n = t) (ht : aftOk t (vet w) = true) :
    (vg w * etCap (vet w) < (canonRuns (etMaxCount (vet w)) (clean (curBank s) (vet w) ((rowElems w s t).map fun x => (x.1, 1)))).length →
      exec (.vlda w) s = .next (stopWord (.vlda w) (.trap 0x08 0 0) s)) ∧
    ((canonRuns (etMaxCount (vet w)) (clean (curBank s) (vet w) ((rowElems w s t).map fun x => (x.1, 1)))).length ≤ vg w * etCap (vet w) →
      ∃ ws, writeGroup s w.d.toNat (vg w) (vet w) ((rowElems w s t).map fun x => (x.1, 1)) (accPoison t (1536 * rowOf w) 1536) = .ok ws ∧
        exec (.vlda w) s = .next (complete (.vlda w) false { s := s, writes := ws, flags := flagsOr ((rowElems w s t).map (·.2)), bound := 32 } s)) := by
  have hbody := vldaBody_eq htile hb hacc ht
  refine ⟨fun h => issue_stop (body := vldaBody w) hi ?_, fun h => ⟨_, writeGroup_ok h (rowElems_total t), issue_ok (body := vldaBody w) hi ?_⟩⟩
  · rw [hbody, writeGroup_runovf h, error_bind]
  · rw [hbody, writeGroup_ok h (rowElems_total t), ok_bind]
end

/-! ## VSTA -/

section
variable {w : VEC} {s : State} {n : Nat} (htile : accTileOf (curBank s) (accOf w) = .ok n) (hstale : (readGroup s w.d (vg w)).stale = false)
  (ht : aftOk (accTile (clusterOf s (clusterOfCore s.curCore)) n) (vet w) = true) (het : (readGroup s w.d (vg w)).etOk (vet w) = true)
  (hll : (readGroup s w.d (vg w)).ll = 256)
include htile hstale ht het hll

/-- VSTA past its checks, over a row that no command uses. -/
theorem vstaBody_free (hb : rowBusy s s.curCore (curFg s) n (rowOf w) = false) :
    let g := readGroup s w.d (vg w)
    let t := accTile (clusterOf s (clusterOfCore s.curCore)) n
    let t' := accPut t (rowOf w) 0 1536 ((spreadRuns (g.runs (vet w))).foldr (fun x a => accWiden (vctx s w) t.aft x + 2 ^ 48 * a) 0) g.poi
    vstaBody w s = .ok { s := updCluster s (clusterOfCore s.curCore) fun k => setTile k n { t' with poi := t'.poi || g.poi }, passes := passesOf g.rc 32 } := by
  have hst : staleCheck [readGroup s w.d (vg w)] = .ok () := staleCheck_ok (by simpa using hstale)
  have hty : etCheck [readGroup s w.d (vg w)] (vet w) = .ok () := by simp [etCheck, het]
  simp [vstaBody, hst, htile, ht, hty, hll, hb, updCluster]
/-- VSTA past its checks, over a row that a command still uses: the row becomes undefined, and poisoned with a poisoned source (R212). -/
theorem vstaBody_busy (hb : rowBusy s s.curCore (curFg s) n (rowOf w) = true) :
    let g := readGroup s w.d (vg w)
    let u := clashRow s s.curCore (curFg s) n (rowOf w)
    vstaBody w s = .ok
      { s := if g.poi then updCluster u (clusterOfCore s.curCore) fun k => setTile k n (accPoisonRow (accTile k n) (rowOf w) 256) else u, passes := passesOf g.rc 32 } := by
  have hst : staleCheck [readGroup s w.d (vg w)] = .ok () := staleCheck_ok (by simpa using hstale)
  have hty : etCheck [readGroup s w.d (vg w)] (vet w) = .ok () := by simp [etCheck, het]
  simp [vstaBody, hst, htile, ht, hty, hll, hb]

theorem vsta_busy (hi : issues (.vsta w) s = true) (hb : rowBusy s s.curCore (curFg s) n (rowOf w) = true) :
    let g := readGroup s w.d (vg w)
    ∃ u, exec (.vsta w) s = .next (complete (.vsta w) false { s := u, passes := passesOf g.rc 32 } s) ∧ (g.poi = false → u = clashRow s s.curCore (curFg s) n (rowOf w)) ∧
      (g.poi = true → accPoison (accTile (clusterOf u (clusterOfCore s.curCore)) n) (1536 * rowOf w) 1536 = true ∧
        (accTile (clusterOf u (clusterOfCore s.curCore)) n).poi = true) := by
  intro g
  refine ⟨_, issue_ok (body := vstaBody w) hi (vstaBody_busy htile hstale ht het hll hb), fun hp => if_neg (ne_true_of_eq_false hp), fun hp => ?_⟩
  rw [if_pos hp, clusterOf_updCluster, accTile_setTile]
  exact ⟨accPoison_accMark _ _ (by decide), rfl⟩
end

/-! ## VPARK and VUNPK -/

section
variable {w : VEC} {s : State}

theorem park_beyond {i : Instr} (h : i = .vpark w ∨ i = .vunpk w) (hi : issues i s = true) (hp : 3 * (curBank s).parkav.toNat ≤ parkSlot w) :
    exec i s = .next (stopWord i (.trap 0x06 0 0x400) s) := by
  obtain rfl | rfl := h
  · exact issue_stop (body := vparkBody w) hi (by simp only [vparkBody, parkPlace_beyond hp, error_bind])
  · exact issue_stop (body := vunpkBody w) hi (by simp only [vunpkBody, parkPlace_beyond hp, error_bind])

variable {n row o : Nat} (hplace : parkPlace (curBank s) (parkSlot w) = .ok (n, row, o))
include hplace

theorem vparkBody_free (hb : rowBusy s s.curCore (curFg s) n row = false) :
    let r := (readGroup s w.a 1).regs.headD {}
    let t := accTile (clusterOf s (clusterOfCore s.curCore)) n
    vparkBody w s = .ok { s := updCluster s (clusterOfCore s.curCore) fun k => setTile k n (accPut t row o 512 r.pairs.toNat r.poi) } := by
  simp [vparkBody, hplace, hb, updCluster]
theorem vparkBody_busy (hb : rowBusy s s.curCore (curFg s) n row = true) :
    let r := (readGroup s w.a 1).regs.headD {}
    let u := clashRow s s.curCore (curFg s) n row
    vparkBody w s = .ok
      { s := if r.poi then updCluster u (clusterOfCore s.curCore) fun k => setTile k n (accMark (accTile k n) (1536 * row + o) 512 true) else u } := by
  simp only [vparkBody, hplace, ok_bind, hb, if_true]
  rfl
theorem vpark_busy (hi : issues (.vpark w) s = true) (hb : rowBusy s s.curCore (curFg s) n row = true) :
    let r := (readGroup s w.a 1).regs.headD {}
    ∃ u, exec (.vpark w) s = .next (complete (.vpark w) false { s := u } s) ∧ (r.poi = false → u = clashRow s s.curCore (curFg s) n row) ∧
      (r.poi = true → accPoison (accTile (clusterOf u (clusterOfCore s.curCore)) n) (1536 * row + o) 512 = true) := by
  intro r
  refine ⟨_, issue_ok (body := vparkBody w) hi (vparkBody_busy hplace hb), fun hp => if_neg (ne_true_of_eq_false hp), fun hp => ?_⟩
  rw [if_pos hp, clusterOf_updCluster, accTile_setTile]
  exact accPoison_accMark _ _ (by decide)

theorem vunpkBody_busy (hb : rowBusy s s.curCore (curFg s) n row = true) :
    vunpkBody w s = .ok
      { s := clashRow s s.curCore (curFg s) n row, bound := 32, writes := [.vec (physV (curBank s).vrb w.d.toNat) { undefVec s.fresh 3000000 with et := w.et }] } := by
  simp only [vunpkBody, hplace, ok_bind, hb, if_true]

/-- The runs that a park slot holds. -/
def slotRuns (w : VEC) (t : AccTile) (row o : Nat) : List Run := vecRuns (vet w) { pairs := BitVec.ofNat 4096 (nbits (accRow t row).toNat (8 * o) 4096) }
/-- The register that VUNPK rebuilds from a slot (R493). -/
def slotReg (w : VEC) (t : AccTile) (row o : Nat) : VReg :=
  let l := slotRuns w t row o
  { pairs := packPairs (etWidth (vet w)) (etWidth (vet w)) l, et := w.et, rc := BitVec.ofNat 10 l.length, ll := BitVec.ofNat 24 (runsTotal l),
    can := canonRuns (etMaxCount (vet w)) l = l, poi := accPoison t (1536 * row + o) 512, stale := false }

variable (hb : rowBusy s s.curCore (curFg s) n row = false)
include hb

theorem vunpkBody_long (h : 16777215 < runsTotal (slotRuns w (accTile (clusterOf s (clusterOfCore s.curCore)) n) row o)) : vunpkBody w s = .error (.trap 0x09 1 0) := by
  rw [slotRuns] at h
  simp only [vunpkBody, hplace, ok_bind, hb, Bool.false_eq_true, if_false, lengthOk, decide_eq_false (Nat.not_le.mpr h), check_false, error_bind]
theorem vunpkBody_ok (h : runsTotal (slotRuns w (accTile (clusterOf s (clusterOfCore s.curCore)) n) row o) ≤ 16777215) :
    vunpkBody w s = .ok { s := s, writes := [.vec (physV (curBank s).vrb w.d.toNat) (slotReg w (accTile (clusterOf s (clusterOfCore s.curCore)) n) row o)], bound := 32 } := by
  rw [slotRuns] at h
  simp only [vunpkBody, hplace, ok_bind, hb, Bool.false_eq_true, if_false, lengthOk, decide_eq_true h, check_true]
  rfl
end

/-- The pairs of a string fit their bits, and no more than its slots are used. -/
theorem pairsOf_fits (vw cw n x : Nat) : FitsBits vw cw (pairsOf vw cw n x) ∧ (pairsOf vw cw n x).length ≤ n := by
  induction n generalizing x with
  | zero => exact ⟨List.forall_mem_nil _, le_rfl⟩
  | succ n ih =>
    obtain ⟨hfit, hlen⟩ := ih (x / 2 ^ (vw + cw))
    rw [pairsOf]
    split_ifs with h
    · exact ⟨List.forall_mem_nil _, Nat.zero_le _⟩
    · exact ⟨List.forall_mem_cons.mpr ⟨⟨Nat.mod_lt _ (Nat.two_pow_pos _), Nat.pos_of_ne_zero h, Nat.mod_lt _ (Nat.two_pow_pos _)⟩, hfit⟩, Nat.succ_le_succ hlen⟩
theorem vecRuns_slotReg (w : VEC) (t : AccTile) (row o : Nat) : vecRuns (vet w) (slotReg w t row o) = slotRuns w t row o := by
  obtain ⟨hfit, hlen⟩ := pairsOf_fits (etWidth (vet w)) (etWidth (vet w)) (etCap (vet w)) (BitVec.ofNat 4096 (nbits (accRow t row).toNat (8 * o) 4096)).toNat
  exact pairsOf_packPairs hfit hlen (etWidth_etCap (vet w)).le

/-! ## The obligation -/

/-- Settles O38, word by word: the stalls and traps of each body, then what it writes to the row or to the register. -/
theorem accumulatorRowWords : Obligations.AccumulatorRowWords := by
  intro w s n et cl t map p row o
  refine ⟨fun hi hmap hn => ?_, fun hi hmap hn => ?_, fun i h hi hp => park_beyond h hi hp, fun hp hmap hn => ?_⟩
  · have htile := accTileOf_ok hmap hn
    exact ⟨fun hb => issue_stall (body := vldaBody w) hi (vldaBody_busy htile hb), fun hb ht => vlda_ok htile hi hb rfl ht⟩
  · have htile := accTileOf_ok hmap hn
    intro g t' hstale ht het hll
    refine ⟨fun hb => ⟨issue_ok (body := vstaBody w) hi (vstaBody_free htile hstale ht het hll hb), fun hg k hk => ?_⟩, vsta_busy htile hstale ht het hll hi⟩
    obtain ⟨_, _, _, hlen⟩ := hg
    exact accElem_accPut g.poi (by rw [hlen]; exact hk) hk
  · have hplace := parkPlace_ok hp hmap hn
    have hslot : 8 * o + 8 * 512 ≤ 12288 := by simp only [o]; omega
    refine ⟨fun hi => ⟨fun hb => ⟨issue_ok (body := vparkBody w) hi (vparkBody_free hplace hb), ?_⟩, vpark_busy hplace hi⟩, fun hi => ⟨fun hb => ?_, fun hb h => ?_, fun hb h => ?_⟩⟩
    · rw [nbits_accRow_accPut t row _ _ hslot]
      exact Nat.mod_eq_of_lt (BitVec.isLt _)
    · exact issue_ok (body := vunpkBody w) hi (vunpkBody_busy hplace hb)
    · exact issue_stop (body := vunpkBody w) hi (vunpkBody_long hplace hb h)
    · refine ⟨_, issue_ok (body := vunpkBody w) hi (vunpkBody_ok hplace hb h), vecRuns_slotReg w t row o, rfl, BitVec.toNat_ofNat _ _, ?_, rfl, rfl⟩
      exact (BitVec.toNat_ofNat _ _).trans (Nat.mod_eq_of_lt (Nat.lt_of_le_of_lt h (by decide)))
end Sys2Proof.Laws
end

section
/-! SUPPORT. The matrix arrays and the weight slots (R188-R192, R197-R199, R433): leases, commands that finish, fillings. -/
namespace Sys2Proof.Laws
open Sys2Proof.Machine Sys2Proof.Safety

theorem powered_of_ps0 {s : State} (h : s.mgmt.psCur = 0) : powered s = true := by simp [powered, h]
theorem poolOn_of_ps0 {s : State} (h : s.mgmt.psCur = 0) : poolOn s = true := by simp [poolOn, h]

/-! ## Leases -/

section
variable {s : State} {cl : Nat}

/-- What a grant leaves of its cluster. -/
theorem setHolder_fields (k : Cluster) (c now clk : Nat) :
    let x := setHolder k (some c) now clk
    x.holder = some c ∧ x.cmds = 0 ∧ x.want = k.want.filter (· != c) := ⟨rfl, rfl, rfl⟩

theorem matrixLeaseGrant_next (hp : s.mgmt.psCur = 0) (hf : (clusterOf s cl).freeAt ≤ arrayClock s cl) (hh : (clusterOf s cl).holder = none) {c : Nat}
    (hw : nextWant (clusterOf s cl) (clusterOf s cl).lastHolder = some c) :
    let v := updCluster s cl fun k => setHolder k (some c) s.cycle (dieClock s (cl / 32))
    exec (.matrixLeaseGrant cl) s = .next (loadCut v (4 * cl + c)) ∧ (clusterOf v cl).holder = some c ∧ (clusterOf v cl).cmds = 0 ∧
      (clusterOf v cl).want = (clusterOf s cl).want.filter (· != c) ∧ v.cores = s.cores ∧ v.mem = s.mem := by
  have hg : grantLease s cl = loadCut (updCluster s cl fun k => setHolder k (some c) s.cycle (dieClock s (cl / 32))) (4 * cl + c) := by
    simp only [grantLease, if_neg (Nat.not_lt.mpr hf), hh, hw]
  refine ⟨congrArg Host.Outcome.next ((if_pos (powered_of_ps0 hp)).trans hg), ?_⟩
  rw [clusterOf_updCluster]
  exact ⟨rfl, rfl, rfl, rfl, rfl⟩
theorem matrixBudgetSpent_next (hp : s.mgmt.psCur = 0) {h : Nat} (hh : (clusterOf s cl).holder = some h) (hb : budgetSpent s cl = true)
    (hr : (clusterOf s cl).running = none) (hbe : (clusterOf s cl).behind = none) :
    let c := (nextWant (clusterOf s cl) h).getD h
    let v := updCluster s cl fun k => { setHolder k (some c) s.cycle (dieClock s (cl / 32)) with lastHolder := h }
    exec (.matrixBudgetSpent cl) s = .next (rearbitrate s cl) ∧ rearbitrate s cl = (if c = h then v else loadCut v (4 * cl + c)) ∧ (clusterOf v cl).holder = some c ∧
      (clusterOf v cl).cmds = 0 ∧ (clusterOf v cl).lastHolder = h := by
  refine ⟨congrArg Host.Outcome.next (if_pos (powered_of_ps0 hp)), ?_, ?_⟩
  · simp [rearbitrate, hh, hb, hr, hbe]
  · rw [clusterOf_updCluster]
    exact ⟨rfl, rfl, rfl⟩

/-! ## Commands -/

variable {m : MCmd} {miss : List Mismatch} (hon : arrayOn s cl = true) (hrun : (clusterOf s cl).running = some m)
include hon hrun

theorem matrixCommandComplete_running (hd : cmdDone s cl m miss = false) : exec (.matrixCommandComplete cl miss) s = .next s := by
  have hf : finishCommand s cl miss = s := by simp only [finishCommand, hrun, hd, Bool.not_false, if_true]
  exact congrArg Host.Outcome.next ((if_pos hon).trans hf)
theorem matrixCommandComplete_done (hd : cmdDone s cl m miss = true) :
    ∃ t, exec (.matrixCommandComplete cl miss) s = .next t ∧ t = finishCommand s cl miss ∧
      let v := runUnits s m (cmdUnits s m) (some miss)
      let w := updCluster v cl fun k => { k with running := k.behind.map fun n => { n with start := arrayClock v cl - 8 }, behind := none }
      (clusterOf w cl).behind = none ∧ w.mem = v.mem ∧ ((clusterOf w cl).holder = none → t = w) ∧
      ∀ h, (clusterOf w cl).holder = some h →
        t = if (clusterOf w cl).releasing && ((clusterOf w cl).running.toList.all fun m => m.core != 4 * cl + h) then releaseLease w cl else loadCut w (4 * cl + h) := by
  refine ⟨_, congrArg Host.Outcome.next (if_pos hon), rfl, ?_⟩
  intro v w
  refine ⟨by simp [w], rfl, fun hh => ?_, fun h hh => ?_⟩
  · simp only [finishCommand, hrun, hd, Bool.not_true, Bool.false_eq_true, if_false]
    change (match (clusterOf w cl).holder with | none => w | some h => _) = w
    rw [hh]
  · simp only [finishCommand, hrun, hd, Bool.not_true, Bool.false_eq_true, if_false]
    change (match (clusterOf w cl).holder with | none => w | some h => _) = _
    rw [hh]
end

/-! ## Weight slots -/

section
variable {s : State} {cl slot : Nat} {x : WSlot} (hon : arrayOn s cl = true) (hx : weightSlot (clusterOf s cl) slot = some x)
include hon hx

theorem slotFillComplete_next (h : x.waiting = false) : exec (.slotFillComplete cl slot) s = .next (fillSlot s cl slot) :=
  congrArg Host.Outcome.next (if_pos (by simp [hon, hx, h]))
theorem mldwRetranslate_waiting (h : x.waiting = true) : exec (.mldwRetranslate cl slot) s = .next (fillSlot s cl slot) :=
  congrArg Host.Outcome.next (by simp [hon, hx, h])
theorem mldwRetranslate_other (h : x.waiting = false) :
    exec (.mldwRetranslate cl slot) s = .next ((List.range 4).foldl (fun s c => translateCore s (4 * cl + c)) s) :=
  congrArg Host.Outcome.next (by simp [hon, hx, h])
end

theorem bind_eq_ok {ε α β : Type} {m : Except ε α} {f : α → Except ε β} {b : β} (h : m >>= f = .ok b) : ∃ a, m = .ok a ∧ f a = .ok b := by
  cases m with
  | error e => cases h
  | ok a => exact ⟨a, rfl, h⟩

theorem bind_eq_ok_of_ite {ε α β : Type} {c : Prop} [Decidable c] {m n : Except ε α} {f : α → Except ε β} {b : β} (h : (if c then m >>= f else n >>= f) = .ok b) :
    ∃ a, f a = .ok b := by
  split at h
  · obtain ⟨a, -, h⟩ := bind_eq_ok h
    exact ⟨a, h⟩
  · obtain ⟨a, -, h⟩ := bind_eq_ok h
    exact ⟨a, h⟩

/-- Content that has been read fills its slot. -/
theorem slotContent_filled {s v : State} {w x : WSlot} (h : slotContent s w = .ok (x, v)) : x.filled = true := by
  obtain ⟨r, -, h⟩ := bind_eq_ok h
  obtain ⟨foot, -, h⟩ := bind_eq_ok h
  obtain ⟨side, h⟩ := bind_eq_ok_of_ite h
  obtain ⟨sc, h⟩ := bind_eq_ok_of_ite h
  obtain ⟨rfl, -⟩ := Prod.mk.inj (Except.ok.inj h)
  rfl

@[simp] theorem postFeed_mem (s : State) (c : Ctx) (f : PageFault) : (postFeed s c f).mem = s.mem := rfl
theorem dieOf_updCluster (s : State) (cl d : Nat) (f : Cluster → Cluster) : dieOf (updCluster s cl f) d = dieOf s d := rfl

/-- A slot's filling: nothing where it is filled; its content, and what a cut left of the lease's holder goes on; or the wait behind a record (R433). -/
theorem fillSlot_meets {s : State} {cl n : Nat} {w : WSlot} (hw : weightSlot (clusterOf s cl) n = some w) :
    (w.filled = true → fillSlot s cl n = s) ∧ (w.filled = false →
    (∀ x v, slotContent s w = .ok (x, v) → x.filled = true ∧ let y := updCluster v cl fun k => { k with slots := tset k.slots n x }
      fillSlot s cl n = match (clusterOf y cl).holder with | some h => loadCut y (4 * cl + h) | none => y) ∧
    (∀ f, slotContent s w = .error f → let u := fillSlot s cl n
      weightSlot (clusterOf u cl) n = some { w with waiting := true } ∧ u.mem = s.mem ∧ (∀ d, (dieOf u d).posts = (dieOf (postFeed s (slotCtx s w) f) d).posts))) := by
  refine ⟨fun hf => ?_, fun hf => ⟨fun x v hx => ⟨slotContent_filled hx, ?_⟩, fun f hx => ?_⟩⟩
  · simp only [fillSlot, hw, hf, if_true]
  · simp only [fillSlot, hw, hf, Bool.false_eq_true, if_false, hx] <;> rfl
  · have hu : fillSlot s cl n = updCluster (postFeed s (slotCtx s w) f) cl fun k => { k with slots := tset k.slots n { w with waiting := true } } := by
      simp only [fillSlot, hw, hf, Bool.false_eq_true, if_false, hx]
    intro u
    simp only [u, hu, clusterOf_updCluster, weightSlot, tfind_tset]
    exact ⟨trivial, rfl, fun d => rfl⟩
end Sys2Proof.Laws
end

section
/-! SUPPORT. The copy engine (R239-R247, R514): how a command begins and ends, its places, its atoms and its chunks. -/
namespace Sys2Proof.Laws
open Sys2Proof.Machine Sys2Proof.Safety

/-! ## Changes of a barrier, and latches -/

theorem tfind_tdel {α : Type} (t : Tbl α) (k : Nat) : tfind (tdel t k) k = none := by
  induction t with
  | nil => rfl
  | cons e t ih =>
    rw [tdel, List.filter_cons]
    split
    · next h => rw [tfind, if_neg (by simpa using h)]; exact ih
    · exact ih

section
variable (s : State) (core n v : Nat) (k : BarKind) (err own : Bool)

@[simp] theorem barChange_cores : (barChange s core n k v err own).cores = s.cores := by
  simp only [barChange]; split <;> rfl
@[simp] theorem barChange_mem : (barChange s core n k v err own).mem = s.mem := by
  simp only [barChange]; split <;> rfl
@[simp] theorem barChange_tasks : (barChange s core n k v err own).tasks = s.tasks := by
  simp only [barChange]; split <;> rfl
/-- A change reaches its barrier in this cycle or in the next. -/
theorem mem_barChange : let x : BarChg := { core := core, bar := n, kind := k, n := v, err := err, own := own }
    x ∈ (barChange s core n k v err own).barChg ∨ x ∈ (barChange s core n k v err own).barLate := by
  simp only [barChange]
  split
  · exact .inr (List.mem_append_right _ (List.mem_singleton_self _))
  · exact .inl (List.mem_append_right _ (List.mem_singleton_self _))
end
theorem barChange_barChg {s : State} {core n : Nat} (v : Nat) (k : BarKind) (err own : Bool) (h : s.barRead.contains (core, n) = false) :
    (barChange s core n k v err own).barChg = s.barChg ++ [{ core := core, bar := n, kind := k, n := v, err := err, own := own }] := by
  rw [barChange, h]
  rfl

/-- Latches are those of the core's own commands or of a task. -/
theorem latched_congr {s u : State} (core task cq : Nat) (hc : (coreOf u core).latches = (coreOf s core).latches) (ht : u.tasks = s.tasks) :
    latched u core task cq = latched s core task cq := by
  simp only [latched, taskOf, hc, ht]
section
variable (s : State) (core task cq : Nat)

@[simp] theorem setLatch_mem : (setLatch s core task cq).mem = s.mem := by
  rw [setLatch]; split
  · rfl
  · simp
@[simp] theorem setLatch_barChg : (setLatch s core task cq).barChg = s.barChg := by
  rw [setLatch]; split
  · rfl
  · simp
@[simp] theorem setLatch_barLate : (setLatch s core task cq).barLate = s.barLate := by
  rw [setLatch]; split
  · rfl
  · simp
@[simp] theorem setLatch_slots : (coreOf (setLatch s core task cq) core).slots = (coreOf s core).slots := by
  rw [setLatch]; split
  · simp
  · rw [coreOf, updTask_cores]; rfl
end
theorem latched_setLatch {s : State} (core cq : Nat) {task : Nat} (h : task = 0 ∨ tfind s.tasks task ≠ none) : latched (setLatch s core task cq) core task cq = true := by
  rw [latched, setLatch]
  split_ifs with h0
  · rw [coreOf_updCore]
    exact List.contains_iff_mem.mpr (mem_insertAsc _ _)
  · rw [taskOf_updTask s task _ (Option.isSome_iff_ne_none.mpr (h.resolve_left h0))]
    exact List.contains_iff_mem.mpr (mem_insertAsc _ _)

/-! ## How a command begins (R242, R244) -/

section
variable {s : State} {core slot : Nat} {c : CopyCmd} (hc : tfind (coreOf s core).slots slot = some c)
include hc

theorem beginCopy_behind (h : ∃ x ∈ aheadOf (coreOf s core) c, x.st = .queued ∨ x.st = .parked) : beginCopy s core slot = s := by
  have hany : ((aheadOf (coreOf s core) c).any fun x => x.st = .queued || x.st = .parked) = true := by simpa using h
  simp only [beginCopy, hc, hany, Bool.or_true, if_true]

variable (hq : c.st = .queued) (hr : ((aheadOf (coreOf s core) c).all fun x => x.st = .running) = true)
include hq hr

/-- A command at the front of its queue: past the places of those ahead of it. -/
theorem beginCopy_front : beginCopy s core slot =
    if ccErrstop c.cmd.toNat && latched s core c.task c.cq then endCopy s core slot 3
    else if !waitcMet s core c then s
    else
      let u := updCore s core fun k => { k with slots := tset k.slots slot { c with st := .running, sent := s.cycle } }
      if c.len = 0 && (aheadOf (coreOf s core) c).isEmpty && !gated (coreOf s core) c then finishCopy u core slot else u := by
  have hst : (c.st != .queued) = false := by simp [hq]
  have hany : ((aheadOf (coreOf s core) c).any fun x => x.st = .queued || x.st = .parked) = false := by
    rw [List.any_eq_false]
    intro x hx
    have hx : x.st = .running := by simpa using List.all_eq_true.mp hr x hx
    simp [hx]
  simp only [beginCopy, hc, hst, hany, Bool.or_false, Bool.false_eq_true, if_false]
theorem beginCopy_skipped (h1 : ccErrstop c.cmd.toNat = true) (h2 : latched s core c.task c.cq = true) : beginCopy s core slot = endCopy s core slot 3 := by
  rw [beginCopy_front hc hq hr, h1, h2]
  rfl

variable (hl : ccErrstop c.cmd.toNat = false ∨ latched s core c.task c.cq = false)
include hl

theorem beginCopy_waits (hw : waitcMet s core c = false) : beginCopy s core slot = s := by
  have hno : (ccErrstop c.cmd.toNat && latched s core c.task c.cq) = false := Bool.and_eq_false_iff.mpr hl
  rw [beginCopy_front hc hq hr, hno, hw]
  rfl
theorem beginCopy_runs (hw : waitcMet s core c = true) (hn : c.len ≠ 0) :
    tfind (coreOf (beginCopy s core slot) core).slots slot = some { c with st := .running, sent := s.cycle } := by
  have hno : (ccErrstop c.cmd.toNat && latched s core c.task c.cq) = false := Bool.and_eq_false_iff.mpr hl
  have hn : decide (c.len = 0) = false := decide_eq_false hn
  simp [beginCopy_front hc hq hr, hno, hw, hn]
end

theorem chunkStep_performs {s : State} {core slot : Nat} {c : CopyCmd} (hc : tfind (coreOf s core).slots slot = some c) (hr : c.st = .running)
    (ha : aheadOf (coreOf s core) c = []) (hg : gated (coreOf s core) c = false) : chunkStep s core slot = performChunk s core slot c := by
  simp [chunkStep, hc, hr, ha, hg]
theorem chunkStep_waits {s : State} {core slot : Nat} {c : CopyCmd} (hc : tfind (coreOf s core).slots slot = some c)
    (h : aheadOf (coreOf s core) c ≠ [] ∨ gated (coreOf s core) c = true) : chunkStep s core slot = s := by
  have hno : (decide (c.st = .running) && (aheadOf (coreOf s core) c).isEmpty && !gated (coreOf s core) c) = false := by
    obtain h | h := h
    · simp [List.isEmpty_eq_false_iff.mpr h]
    · simp [h]
  simp only [chunkStep, hc, hno, Bool.false_eq_true, if_false]

/-! ## CPYRES (R247) -/

section
variable {s : State} (hp : s.mgmt.psCur = 0) {x : CopySel} {c : CopyCmd} (hc : parkedCopy s x = some c)
include hp hc

theorem cpyresResume_next : let core := x.die * 128 + x.cluster * 4 + x.core
    ∃ u, exec (.cpyresResume x) s = .next u ∧ tfind (coreOf u core).slots x.slot = some { c with st := .running, sent := s.cycle } ∧ u.mem = s.mem := by
  have hc' : parkedCopy (cpyresSet s x 1) x = some c := hc
  refine ⟨_, congrArg Host.Outcome.next (if_pos (poolOn_of_ps0 hp)), ?_⟩
  simp only [cpyresWrite, settleCopy, hc', if_true, coreOf_updCore, tfind_tset]
  exact ⟨rfl, rfl⟩
theorem cpyresAbort_next : exec (.cpyresAbort x) s = .next (endCopy (cpyresSet s x 2) (x.die * 128 + x.cluster * 4 + x.core) x.slot 1) := by
  have hc' : parkedCopy (cpyresSet s x 2) x = some c := hc
  refine congrArg Host.Outcome.next ((if_pos (poolOn_of_ps0 hp)).trans ?_)
  simp [cpyresWrite, settleCopy, hc']
end

/-! ## How a command parks and ends (R242, R243, R246) -/

theorem parkCopy_meets {s : State} {core : Nat} (slot : Nat) {c : CopyCmd} (acc : Acc) (f : PageFault) (h : c.task = 0 ∨ (taskOf s c.task).failing = none) :
    let u := parkCopy s core slot c acc f
    tfind (coreOf u core).slots slot = some { c with st := .parked } ∧ (dieOf u (dieOfCore core)).posts.length = (dieOf s (dieOfCore core)).posts.length + 1 ∧ u.mem = s.mem := by
  let t := updCore s core fun k => { k with slots := tset k.slots slot { c with st := .parked } }
  let v := postRecord t (dieOfCore core) (faultRecord t (copyCtx core c) acc (dieOfCore core) 0 (copyUnit core slot c.cq) c.done f) none (some (.copies core))
  have hno : (c.task != 0 && (taskOf v c.task).failing.isSome) = false := by
    obtain h | h := h
    · simp [h]
    · have hv : (taskOf v c.task).failing = none := h
      rw [hv, Option.isSome_none, Bool.and_false]
  have hu : parkCopy s core slot c acc f = v := if_neg (by rw [Bool.not_eq_true]; exact hno)
  intro u
  simp only [u, hu]
  refine ⟨?_, ?_, rfl⟩
  · change tfind (coreOf t core).slots slot = _
    rw [coreOf_updCore]
    exact tfind_tset _ _ _
  · change (dieOf (updDie t _ _) _).posts.length = _
    rw [dieOf_updDie, List.length_append]
    rfl

section
variable {s : State} {core slot : Nat} {c : CopyCmd} (hc : tfind (coreOf s core).slots slot = some c)
include hc

/-- A command of no reel that ends DONE leaves its slot alone. -/
theorem endCopy_done (hr : c.reel = none) : endCopy s core slot 0 = updCore s core fun k => { k with slots := tdel k.slots slot } := by
  simp only [endCopy, hc, hr, if_true]
/-- A command of no reel that ends otherwise changes its barrier with ERR, and latches its queue's error. -/
theorem endCopy_failed (hr : c.reel = none) {status : Nat} (hs : status ≠ 0) :
    ∃ k v own, endCopy s core slot status = setLatch (barChange (updCore s core fun k => { k with slots := tdel k.slots slot }) core c.bar k v true own) core c.task c.cq := by
  simp only [endCopy, hc, hr, if_neg hs]
  split
  · exact ⟨_, _, _, rfl⟩
  · exact ⟨_, _, _, rfl⟩
theorem endCopy_meets (hr : c.reel = none) (status : Nat) : let u := endCopy s core slot status
    tfind (coreOf u core).slots slot = none ∧ u.mem = s.mem ∧ (status = 0 → u.barChg = s.barChg ∧ latched u core c.task c.cq = latched s core c.task c.cq) ∧
      (status ≠ 0 → (c.task = 0 ∨ tfind s.tasks c.task ≠ none) → latched u core c.task c.cq = true ∧
        ∃ x, (x ∈ u.barChg ∨ x ∈ u.barLate) ∧ x.core = core ∧ x.bar = c.bar ∧ x.err = true) := by
  intro u
  obtain hs | hs := eq_or_ne status 0
  · have hu : u = updCore s core fun k => { k with slots := tdel k.slots slot } := by simp only [u, hs, endCopy_done hc hr]
    rw [hu]
    refine ⟨?_, rfl, fun _ => ⟨rfl, latched_congr _ _ _ (by rw [coreOf_updCore]) rfl⟩, fun h => absurd hs h⟩
    rw [coreOf_updCore]
    exact tfind_tdel _ _
  · obtain ⟨k, v, own, hu⟩ := endCopy_failed hc hr hs
    have hu : u = _ := hu
    rw [hu]
    refine ⟨?_, ?_, fun h => absurd h hs, fun _ ht => ⟨latched_setLatch core c.cq ?_, ?_⟩⟩
    · rw [setLatch_slots, coreOf, barChange_cores, ← coreOf, coreOf_updCore]
      exact tfind_tdel _ _
    · rw [setLatch_mem, barChange_mem]
      rfl
    · rw [barChange_tasks]
      exact ht
    · rw [setLatch_barChg, setLatch_barLate]
      exact ⟨_, mem_barChange _ core c.bar v k true own, rfl, rfl, rfl⟩

theorem finishCopy_badIdx (h : c.badIdx = true) : finishCopy s core slot = endCopy s core slot 6 := by
  simp only [finishCopy, hc, h, if_true]
theorem finishCopy_plain (h : c.badIdx = false) (hn : ccNote c.cmd.toNat = false) : finishCopy s core slot = endCopy s core slot 0 := by
  simp only [finishCopy, hc, h, hn, Bool.not_false, if_true, Bool.false_eq_true, if_false]
theorem finishCopy_fault (h : c.badIdx = false) (hn : ccNote c.cmd.toNat = true) {f : PageFault}
    (hx : xlat s (copyCtx core c) .copyWrite true (ccNaddr c.cmd.toNat) 8 = .error f) : finishCopy s core slot = parkCopy s core slot c .copyWrite f := by
  simp only [finishCopy, hc, h, hn, hx, Bool.not_true, Bool.false_eq_true, if_false]
theorem finishCopy_notifies (h : c.badIdx = false) (hn : ccNote c.cmd.toNat = true) {l : List Xlat}
    (hx : xlat s (copyCtx core c) .copyWrite true (ccNaddr c.cmd.toNat) 8 = .ok l)
    (hh : opHeld s core { kind := .store, pieces := piecesOf l, scope := ccScope c.cmd.toNat, ord := 2 } = false) :
    let m := c.cmd.toNat
    finishCopy s core slot =
      endCopy (writePieces (releaseAction (useXlats s (copyCtx core c) .copyWrite true l) core (ccScope m)) core (ccScope m) false (piecesOf l) (ccNval m)) core slot 0 := by
  simp only [finishCopy, hc, h, hn, hx, hh, Bool.not_true, Bool.false_eq_true, if_false]
end

/-! ## The places of a command's bytes (R239) -/

section
variable (s : State) (core : Nat) {c : CopyCmd} (pos : Nat)

theorem segAt_plain (h : ccKind c.cmd.toNat = 0 ∨ ccKind c.cmd.toNat = 4) :
    segAt s core c pos = .ok (⟨some (ccSrc c.cmd.toNat + pos), some (ccDst c.cmd.toNat + pos), c.len - pos⟩, s) := if_pos h
theorem segAt_strided (h : ccKind c.cmd.toNat = 1) :
    let m := c.cmd.toNat
    let e := ccE0 m
    let q : Int := (pos / e / ccRows m : Nat)
    let r : Int := (pos / e % ccRows m : Nat)
    let b : Int := (pos % e : Nat)
    segAt s core c pos = .ok (⟨some (wrapN 64 (ccSrc m + q * ccSs2 m + r * ccSs1 m + b)), some (wrapN 64 (ccDst m + q * ccDs2 m + r * ccDs1 m + b)), e - pos % e⟩, s) := by
  have h04 : ¬ (ccKind c.cmd.toNat = 0 ∨ ccKind c.cmd.toNat = 4) := by omega
  simp only [segAt, if_neg h04, if_pos h]
theorem segAt_indexed {s : State} {core pos : Nat} (h : ccKind c.cmd.toNat = 2 ∨ ccKind c.cmd.toNat = 3) {i : Option Nat} {v : State}
    (hi : copyIndex s core c (pos / ccE0 c.cmd.toNat) = .ok (i, v)) :
    let m := c.cmd.toNat
    let o := pos % ccE0 m
    segAt s core c pos = .ok (if ccKind m = 2 then ⟨i.map fun i => (ccSrc m + i * ccE0 m + o) % 2 ^ 64, some (ccDst m + pos), ccE0 m - o⟩
      else ⟨some (ccSrc m + pos), i.map fun i => (ccDst m + i * ccE0 m + o) % 2 ^ 64, ccE0 m - o⟩, v) := by
  obtain h | h := h <;> simp [segAt, h, hi]
theorem segAt_fill (h : 5 ≤ ccKind c.cmd.toNat) : segAt s core c pos = .ok (⟨none, some (ccDst c.cmd.toNat + pos), c.len - pos⟩, s) := by
  have h04 : ¬ (ccKind c.cmd.toNat = 0 ∨ ccKind c.cmd.toNat = 4) := by omega
  have h1 : ccKind c.cmd.toNat ≠ 1 := by omega
  have h2 : ccKind c.cmd.toNat ≠ 2 := by omega
  have h3 : ccKind c.cmd.toNat ≠ 3 := by omega
  simp only [segAt, if_neg h04, if_neg h1, if_neg h2, if_neg h3]
end

/-! ## The bytes of a destination atom -/

theorem copyAtom_moves (core : Nat) (c : CopyCmd) (x xd : Xlat) (pos a dst n : Nat) (s : State) :
    copyAtom core c (some x) xd pos (some a) dst n s =
      let m := c.cmd.toNat
      let r := readPieces s core (ccScope m) (pagePieces x a n)
      let w := writePieces r.2 core (ccScope m) r.1.2 [pieceAt xd dst n] (overlapBytes (pieceAt x a n).pa (pieceAt xd dst n).pa n r.1.1)
      if r.1.2 then notePoison w c.task dst n else w := rfl

/-- The bytes of a fill's pattern at a place of the command. -/
def fillBytes (m pos n : Nat) : Nat := (List.range n).foldr (fun j a => nbits (ccSrc m) (8 * ((pos + j) % 8)) 8 + 256 * a) 0

theorem nbits_fillBytes (m pos : Nat) {n j : Nat} (h : j < n) : nbits (fillBytes m pos n) (8 * j) 8 = nbits (ccSrc m) (8 * ((pos + j) % 8)) 8 := by
  have hlt : ∀ x ∈ (List.range n).map fun j => nbits (ccSrc m) (8 * ((pos + j) % 8)) 8, x < 2 ^ 8 := fun x hx => by
    obtain ⟨i, _, rfl⟩ := List.mem_map.mp hx
    exact Nat.mod_lt _ (Nat.two_pow_pos 8)
  have hfold : fillBytes m pos n = ((List.range n).map fun j => nbits (ccSrc m) (8 * ((pos + j) % 8)) 8).foldr (fun x a => x + 2 ^ 8 * a) 0 := by
    rw [List.foldr_map]
    rfl
  rw [hfold, nbits_digits hlt, List.getD_eq_getElem?_getD, List.getElem?_map, List.getElem?_range h]
  rfl
theorem copyAtom_fill {core : Nat} {c : CopyCmd} (xs : Option Xlat) (xd : Xlat) (pos dst n : Nat) (s : State) (h : ccKind c.cmd.toNat = 5) :
    copyAtom core c xs xd pos none dst n s = writePieces s core (ccScope c.cmd.toNat) false [pieceAt xd dst n] (fillBytes c.cmd.toNat pos n) := by
  simp only [copyAtom, h, if_true, Bool.false_eq_true, if_false]
  rfl

/-! ## A chunk (R242, R245, R246) -/

section
variable {s : State} {core slot : Nat} {c : CopyCmd}

/-- Some stretch of a chunk's destination is stored raw. -/
def chunkRaw (s : State) (core : Nat) (c : CopyCmd) : Bool :=
  let r := chunkLeft s core c
  !ccTag c.cmd.toNat || r.1.any fun g => match g.dst with | some d => rawPart r.2.2 c.task (fmtWidth (nbits (ccTagv c.cmd.toNat) 0 5)) d g.n | none => false
/-- The state once a chunk uses the pages of its sides; one that has begun uses them already. -/
def chunkUsed (s : State) (core : Nat) (c : CopyCmd) (xs xd : Option Xlat) : State :=
  let v := (chunkLeft s core c).2.2
  let acc := dstAcc (ccKind c.cmd.toNat)
  if c.part = 0 then useXlats (useXlats v (copyCtx core c) .copyRead false xs.toList) (copyCtx core c) acc (chunkRaw s core c && acc.writes) xd.toList else v

/-- A chunk past the translations of its sides: held by a link, or performed whole or in a first stretch. -/
def chunkGo (s : State) (core slot : Nat) (c : CopyCmd) (xs xd : Option Xlat) : State :=
  let r := chunkLeft s core c
  if chunkHeld r.2.2 core c r.1 xs xd then r.2.2 else
  let u := chunkUsed s core c xs xd
  let now := if !nbit (freeAt u 658) 0 then r.1 else firstCut c r.1 xd
  let w := useFresh (chunkWrite u core c now xs xd)
  let d := { c with badIdx := c.badIdx || lostIdx c now }
  if segBytes now = segBytes r.1 then copyOver (chunkDone w core slot d (segBytes now)) core slot
  else updCore w core fun k => { k with slots := tset k.slots slot { d with part := d.part + segBytes now, srcPage := xs.map keepPage, dstPage := xd.map keepPage } }

variable (hd : c.done < c.len)
include hd

theorem performChunk_parks (hz : segBytes (chunkLeft s core c).1 = 0) (hp : c.part = 0) {f : PageFault} (hf : (chunkLeft s core c).2.1 = some f) :
    performChunk s core slot c = parkCopy (chunkLeft s core c).2.2 core slot c .copyRead f := by
  simp only [performChunk, if_neg (Nat.not_le.mpr hd), hz, if_true, hf, if_pos hp]

variable (hz : segBytes (chunkLeft s core c).1 ≠ 0)
include hz

theorem performChunk_fault {f : PageFault}
    (hs : chunkSide (chunkLeft s core c).2.2 core c .copyRead false c.srcPage ((chunkLeft s core c).1.findSome? (·.src)) = .error f) :
    performChunk s core slot c = parkCopy (chunkLeft s core c).2.2 core slot c .copyRead f := by
  simp only [performChunk, if_neg (Nat.not_le.mpr hd), if_neg hz, hs]

variable {xs xd : Option Xlat} (hs : chunkSide (chunkLeft s core c).2.2 core c .copyRead false c.srcPage ((chunkLeft s core c).1.findSome? (·.src)) = .ok xs)
  (ht : chunkSide (chunkLeft s core c).2.2 core c (dstAcc (ccKind c.cmd.toNat)) (chunkRaw s core c) c.dstPage ((chunkLeft s core c).1.findSome? (·.dst)) = .ok xd)
include hs ht

theorem performChunk_go : performChunk s core slot c = chunkGo s core slot c xs xd := by
  simp only [performChunk, if_neg (Nat.not_le.mpr hd), if_neg hz]
  split
  · next h => exact nomatch hs.symm.trans h
  · next h _ => exact nomatch ht.symm.trans h
  · next h h' =>
    obtain rfl := Except.ok.inj (hs.symm.trans h)
    obtain rfl := Except.ok.inj (ht.symm.trans h')
    rfl
theorem performChunk_held (hh : chunkHeld (chunkLeft s core c).2.2 core c (chunkLeft s core c).1 xs xd = true) :
    performChunk s core slot c = (chunkLeft s core c).2.2 := (performChunk_go hd hz hs ht).trans (if_pos hh)
theorem performChunk_whole (hh : chunkHeld (chunkLeft s core c).2.2 core c (chunkLeft s core c).1 xs xd = false)
    (hfree : nbit (freeAt (chunkUsed s core c xs xd) 658) 0 = false) :
    performChunk s core slot c = copyOver (chunkDone (useFresh (chunkWrite (chunkUsed s core c xs xd) core c (chunkLeft s core c).1 xs xd)) core slot
      { c with badIdx := c.badIdx || lostIdx c (chunkLeft s core c).1 } (segBytes (chunkLeft s core c).1)) core slot := by
  simp only [performChunk_go hd hz hs ht, chunkGo, hh, hfree, Bool.not_false, if_true, Bool.false_eq_true, if_false]
end

theorem chunkDone_meets (s : State) (core slot : Nat) (c : CopyCmd) (n : Nat) : let u := chunkDone s core slot c n
    tfind (coreOf u core).slots slot = some { c with done := c.done + c.part + n, part := 0, srcPage := none, dstPage := none, sent := s.cycle } ∧ u.mem = s.mem ∧
      (s.barRead.contains (core, c.bar) = false → u.barChg = s.barChg ++ [{ core := core, bar := c.bar, kind := .sub, n := c.part + n, own := true }]) := by
  refine ⟨?_, ?_, fun h => barChange_barChg _ .sub false true h⟩
  · rw [chunkDone, coreOf, barChange_cores, ← coreOf, coreOf_updCore]
    exact tfind_tset _ _ _
  · rw [chunkDone, barChange_mem]
    rfl
end Sys2Proof.Laws
end

section
/-! SUPPORT. Reels, stream units and windows (R138, R250, R253, R254, R447, R448). -/
namespace Sys2Proof.Laws
open Sys2Proof.Machine Sys2Proof.Safety

/-! ## Reels -/

section
variable {s : State} {core rcb : Nat} {r : Reel} (hr : (coreOf s core).reels.find? (fun r => r.rcb = rcb) = some r)
include hr

theorem reelStep_stopping (h : r.stopping = true) : reelStep s core rcb = s := by
  simp only [reelStep, hr, h, if_true]
theorem reelStep_empty (h : r.stopping = false) (he : rcHead (rcbRead s core rcb).1.1 = rcTail (rcbRead s core rcb).1.1) :
    reelStep s core rcb = if rcLink (rcbRead s core rcb).1.1 = 0 then s else followLink (rcbRead s core rcb).2 core r (rcbRead s core rcb).1.1 := by
  simp only [reelStep, hr, h, Bool.false_eq_true, if_false, if_pos he]
theorem reelStep_fetches (h : r.stopping = false) (he : rcHead (rcbRead s core rcb).1.1 ≠ rcTail (rcbRead s core rcb).1.1) :
    reelStep s core rcb = if freeSlots (coreOf s core) = [] then s else fetchEntry (rcbRead s core rcb).2 core r (rcbRead s core rcb).1.1 := by
  simp only [reelStep, hr, h, Bool.false_eq_true, if_false, if_neg he, List.isEmpty_iff]
end

/-- The context of a reel's accesses. -/
def reelCtx (core : Nat) (r : Reel) : Ctx := { core := core, root := r.root, key := r.key, sup := r.sup, task := r.task }
/-- The place of a reel's entry at HEAD. -/
def reelEntry (v : Nat) : Nat := rcBase v + 64 * (rcHead v % 2 ^ rcLog v)
/-- The check of the pages of an entry: LOCAL or COH, and in a live region (R253). -/
def entryCheck (s : State) (c : Ctx) (e : Nat) (x : Xlat) : Except PageFault Unit :=
  if x.kind = .loc || x.kind = .coh then regionCheck s c.key x else .error (kindFault e (some x))
/-- The bytes of a fetched entry, and whether an atom is poisoned. -/
def entryRead (s : State) (core : Nat) (r : Reel) (l : List Xlat) : (Nat × Bool) × State :=
  readPieces (useXlats s (reelCtx core r) .read false l) core (if l.any (fun x => x.kind = .coh) then 3 else 2) (piecesOf l)
/-- An entry that is fetched is a command that its ring may hold (R241, R453). -/
def entryOk (s : State) (core : Nat) (r : Reel) (d : Nat × Bool) : Bool :=
  !d.2 && ccOk d.1 && decide (ccBar d.1 < (taskBars s core r.task).2) && decide (ccLen d.1 < 2 ^ 24)

section
variable {s : State} {core v : Nat} {r : Reel} {l : List Xlat} (hring : ringOk v = true)
  (hx : xlatEach s (reelCtx core r) .read false (reelEntry v) 64 (entryCheck s (reelCtx core r) (reelEntry v)) = .ok l)
include hring hx

/-- An entry whose pages stand is fetched, and HEAD passes it; then it is bad, or takes a slot, or waits for PEND. -/
theorem fetchEntry_eq : fetchEntry s core r v =
    let d := entryRead s core r l
    let u := rcbWrite d.2 core r.rcb 16 4 (rcHead v + 1)
    let bar := (taskBars s core r.task).1 + ccBar d.1.1
    if !entryOk s core r d.1 then badEntry u core r (rcCq v) d.1.1
    else if barPend u core bar + ccLen d.1.1 < 2 ^ 24 then
      placeCmd u core
        { cmd := BitVec.ofNat 512 d.1.1, task := r.task, sup := r.sup, root := r.root, key := r.key, cq := rcCq v, bar := bar, len := ccLen d.1.1, reel := some r.rcb }
    else if copyNames u core bar then d.2 else badEntry u core r (rcCq v) d.1.1 := by
  have hbad : ∀ (p a b c : Bool), (p || !a || !b || !c) = !(!p && a && b && c) := by decide
  have hge : ∀ a b : Nat, decide (a ≥ b) = !decide (a < b) := fun _ _ => (decide_eq_decide.mpr Nat.not_lt.symm).trans decide_not
  simp only [fetchEntry]
  split
  · next h => exact nomatch hx.symm.trans h
  · next h =>
    obtain rfl := Except.ok.inj (hx.symm.trans h)
    simp only [hring, if_true, hge, hbad]
    rfl
theorem fetchEntry_bad (hok : entryOk s core r (entryRead s core r l).1 = false) :
    fetchEntry s core r v = badEntry (rcbWrite (entryRead s core r l).2 core r.rcb 16 4 (rcHead v + 1)) core r (rcCq v) (entryRead s core r l).1.1 := by
  simp only [fetchEntry_eq hring hx, hok, Bool.not_false, if_true]
theorem fetchEntry_placed (hok : entryOk s core r (entryRead s core r l).1 = true)
    (hroom : barPend (rcbWrite (entryRead s core r l).2 core r.rcb 16 4 (rcHead v + 1)) core ((taskBars s core r.task).1 + ccBar (entryRead s core r l).1.1) +
      ccLen (entryRead s core r l).1.1 < 2 ^ 24) :
    let img := (entryRead s core r l).1.1
    fetchEntry s core r v = placeCmd (rcbWrite (entryRead s core r l).2 core r.rcb 16 4 (rcHead v + 1)) core
      { cmd := BitVec.ofNat 512 img, task := r.task, sup := r.sup, root := r.root, key := r.key, cq := rcCq v, bar := (taskBars s core r.task).1 + ccBar img,
        len := ccLen img, reel := some r.rcb } := by
  simp only [fetchEntry_eq hring hx, hok, Bool.not_true, Bool.false_eq_true, if_false, if_pos hroom]
end

theorem leaveReel_meets (s : State) (core rcb v : Nat) : let u := leaveReel s core rcb v
    (∀ r ∈ (coreOf u core).reels, r.rcb ≠ rcb) ∧ u.tasks = (rcbSetState s core rcb v).tasks ∧ u.mem = (rcbSetState s core rcb v).mem := by
  simp only [leaveReel, updCore_tasks, updCore_mem, coreOf_updCore, and_true]
  intro r hr
  simpa using (List.mem_filter.mp hr).2

/-! ## The stream unit -/

section
variable {s : State} {core bank q : Nat}

/-- The block that a stream unit reads next (R447): its bytes and their poison. -/
def blockRead (s : State) (core bank : Nat) (t : Stream) (l : List Xlat) : (Nat × Bool) × State :=
  readOp (useXlats s (ctxOf s core bank) .read false l) core
    { kind := .load, va := sdBlockVa t.desc t.next, n := sdBytes t.desc, pieces := piecesOf l, scope := sdScope t.desc }

variable {t : Stream} (hb : (tget (bankOf s core bank).sq q {}).bound = some t) (hf : t.failed = none) (hc : (tget (bankOf s core bank).sq q {}).count < 8)
include hb hf hc

theorem pushBlock_fault {f : PageFault} (hx : xlat s (ctxOf s core bank) .read false (sdBlockVa t.desc t.next) (sdBytes t.desc) = .error f) :
    let u := pushBlock s core bank q
    tget (bankOf u core bank).sq q {} =
      { tget (bankOf s core bank).sq q {} with bound := some { t with failed := some (f.cause, f.sub, sdBlockVa t.desc t.next) } } ∧ u.mem = s.mem := by
  have hno : (t.failed.isSome || decide ((tget (bankOf s core bank).sq q {}).count ≥ 8)) = false := by simpa [hf] using hc
  simp only [pushBlock, hb, hno, Bool.false_eq_true, if_false, hx, bankOf_updBank, tget_tset]
  exact ⟨trivial, rfl⟩
theorem pushBlock_ok {l : List Xlat} (hx : xlat s (ctxOf s core bank) .read false (sdBlockVa t.desc t.next) (sdBytes t.desc) = .ok l) :
    let k := tget (bankOf s core bank).sq q {}
    let k' := tget (bankOf (pushBlock s core bank q) core bank).sq q {}
    let r := blockRead s core bank t l
    k'.tail = (k.tail + 1) % 8 ∧ k'.count = k.count + 1 ∧ k'.head = k.head ∧
      k'.bound = (if t.next + 1 = sdN0 t.desc * sdN1 t.desc then none else some { t with next := t.next + 1 }) ∧
      tget k'.slots k.tail {} = canonReg (sdEt t.desc) (canonRuns (etMaxCount (sdEt t.desc))
        (clean (bankOf r.2 core bank) (sdEt t.desc) (unpackElems (etWidth (sdEt t.desc)) (sdLen t.desc) r.1.1))) r.1.2 := by
  have hno : (t.failed.isSome || decide ((tget (bankOf s core bank).sq q {}).count ≥ 8)) = false := by simpa [hf] using hc
  simp only [pushBlock, hb, hno, Bool.false_eq_true, if_false, hx, bankOf_updBank, tget_tset]
  exact ⟨trivial, trivial, trivial, trivial, rfl⟩
end

/-! ## Barriers through their window (R250) -/

section
variable {s : State} {pa v : Nat} {p : Bool} (hs : winSpace pa = 5)
include hs

theorem winWrite_bar_sub (h8 : pa % 8 = 0) (ho : winOff pa < 0x8000) (hn : nbits pa 44 4 = 0) (h16 : pa % 16 = 0) :
    winWrite s pa 8 v p = barChange s (winCore pa) (winOff pa / 16) .sub (v % 2 ^ 24) p := by
  rw [winWrite, if_pos hs, if_pos ⟨rfl, h8, ho, hn⟩, if_pos h16]
theorem winWrite_bar_arrive (h8 : pa % 8 = 0) (ho : winOff pa < 0x8000) (hn : nbits pa 44 4 = 0) (h16 : pa % 16 = 8) :
    winWrite s pa 8 v p = barChange s (winCore pa) (winOff pa / 16) .arrive (v % 2 ^ 12) p := by
  rw [winWrite, if_pos hs, if_pos ⟨rfl, h8, ho, hn⟩, if_neg (by omega)]
theorem winWrite_bar_none (h : pa % 8 ≠ 0 ∨ 0x8000 ≤ winOff pa ∨ nbits pa 44 4 ≠ 0) : winWrite s pa 8 v p = s := by
  rw [winWrite, if_pos hs, if_neg fun ⟨_, h8, ho, hn⟩ => h.elim (· h8) fun h => h.elim (Nat.not_le.mpr ho) (· hn)]
end

theorem barrierWindowWrite_next {s t : State} (hp : s.mgmt.psCur = 0) {pa : Nat} {v : W64} {poison : Bool} (hw : paWindow pa = true) (hs : winSpace pa = 5)
    (h : winWrite s pa 8 v.toNat poison = t) : exec (.barrierWindowWrite pa v poison) s = .next t :=
  congrArg Host.Outcome.next ((if_pos (by simp [powered_of_ps0 hp, hw, hs])).trans h)
theorem windowRegisterWrite_next {s : State} (hp : s.mgmt.psCur = 0) {pa : Nat} (data : List Byte) (poison : Bool) (hw : paWindow pa = true) (h1 : 1 ≤ winSpace pa)
    (h4 : winSpace pa ≤ 4) :
    exec (.windowRegisterWrite pa data poison) s = .next (wakeBytes (winWrite s pa data.length (bytesNat data) poison) pa data.length) :=
  congrArg Host.Outcome.next (if_pos (by simp [powered_of_ps0 hp, hw, h1, h4]))

/-! ## A scalar register of a bank through its window (R138) -/

/-- A whole register is replaced by the value that is written. -/
theorem ofNat_setBits_whole {old v : Nat} (h : old < 2 ^ 64) : BitVec.ofNat 64 (setBits old 0 64 (v % 256 ^ 8)) = BitVec.ofNat 64 v := by
  apply BitVec.eq_of_toNat_eq
  simp only [setBits_whole 64 _ h, BitVec.toNat_ofNat]
  omega
/-- The register that a window write finds is 64 bits. -/
theorem winGet_sreg_lt {b : Bank} {n : Nat} (h0 : 0 < n) (h : pendingTo b.se.flight (.reg n) = none) : (winGet b (.sreg n)).1 < 2 ^ 64 := by
  simp only [winGet, winReg, h, if_neg (Nat.ne_of_gt h0)]
  exact (tget b.s n {}).v.isLt
theorem winPut_sreg {t : State} {b : Bank} {n : Nat} (h0 : 0 < n) (h : pendingTo b.se.flight (.reg n) = none) (v : Nat) (e p : Bool) :
    tget (winPut t b (.sreg n) v e p).s n {} = { v := BitVec.ofNat 64 v, poi := p } := by
  simp only [winPut, winRegWrite, h, if_neg (Nat.ne_of_gt h0), Option.isSome_none, Bool.false_eq_true, if_false, tget_tset]
theorem coreOf_landCore_ne (s : State) {c d : Nat} (h : d ≠ c) : coreOf (landCore s c) d = coreOf s d := coreOf_updCore_ne s _ h
theorem coreOf_updBank_ne (s : State) {c d : Nat} (n : Nat) (f : Bank → Bank) (h : d ≠ c) : coreOf (updBank s c n f) d = coreOf s d := coreOf_updCore_ne s _ h
theorem coreOf_useFresh (s : State) (c : Nat) : coreOf (useFresh s) c = coreOf s c := rfl
theorem bankOf_useFresh (s : State) (c b : Nat) : bankOf (useFresh s) c b = bankOf s c b := rfl

section
variable {s : State} {pa v n : Nat} {p : Bool} (hs : winSpace pa = 3 ∨ winSpace pa = 4) (ho : winOff pa = 0x100 + 8 * n) (hlt : n < 64)
include hs ho hlt

theorem winItem_sreg : winItem (winSpace pa ≤ 2) (winOff pa) = some (winOff pa, 8, .sreg n) := by
  have hvec : decide (winSpace pa ≤ 2) = false := decide_eq_false (by omega)
  have h1 : ¬ 0x100 + 8 * n < 0x100 := by omega
  have h2 : 0x100 + 8 * n < 0x300 := by omega
  have hbase : (0x100 + 8 * n) / 8 * 8 = 0x100 + 8 * n := by omega
  have hn : (0x100 + 8 * n - 0x100) / 8 = n := by omega
  simp only [winItem, hvec, Bool.false_eq_true, if_false, ho, if_neg h1, if_pos h2, hbase, hn]
/-- An aligned 8-byte write of a scalar register is one piece. -/
theorem winWrite_sreg : winWrite s pa 8 v p = winPiece s pa 8 (v % 256 ^ 8) p := by
  have h5 : winSpace pa ≠ 5 := by omega
  have hspan : winSpan pa = 8 := by
    have h0 : winSpace pa ≠ 0 := by omega
    have h4 : winSpace pa ≤ 4 := by omega
    simp only [winSpan, if_neg h0, if_pos h4, winItem_sreg hs ho hlt, Nat.add_sub_cancel_left]
  rw [winWrite, if_neg h5, winSplit, if_neg (by decide), hspan]
  rfl

variable (hz : nbits pa 44 4 = 0)
include hz

theorem winPiece_sreg (x : Nat) : winPiece s pa 8 x p =
    let core := winCore pa
    let b := winSpace pa - 3
    if bankBusy (coreOf s core) b then updCore s core fun c => { c with held := c.held ++ [{ pa := pa, n := 8, v := x, poison := p }] }
    else
      let t := landCore s core
      useFresh (updBank t core b fun k => winPut t k (.sreg n) (setBits (winGet (bankOf t core b) (.sreg n)).1 0 64 x) true p) := by
  have h0 : winSpace pa ≠ 0 := by omega
  have h4 : winSpace pa ≤ 4 := by omega
  have hb : (winSpace pa + 1) % 2 = winSpace pa - 3 := by omega
  have hz : (nbits pa 44 4 != 0) = false := by simp [hz]
  simp only [winPiece, hz, Bool.false_eq_true, if_false, if_neg h0, if_pos h4, hb, winItem_sreg hs ho hlt, Nat.sub_self, Nat.mul_zero, beq_self_eq_true]
  rfl

theorem winWrite_sreg_held (hbusy : bankBusy (coreOf s (winCore pa)) (winSpace pa - 3) = true) :
    let core := winCore pa
    let b := winSpace pa - 3
    let u := winWrite s pa 8 v p
    (coreOf u core).held = (coreOf s core).held ++ [{ pa := pa, n := 8, v := v % 256 ^ 8, poison := p }] ∧ bankOf u core b = bankOf s core b := by
  have hu : winWrite s pa 8 v p = updCore s (winCore pa) fun c => { c with held := c.held ++ [{ pa := pa, n := 8, v := v % 256 ^ 8, poison := p }] } := by
    simp only [winWrite_sreg hs ho hlt, winPiece_sreg hs ho hlt hz, hbusy, if_true]
  intro core b u
  simp only [u, hu, bankOf, coreOf_updCore, core]
  exact ⟨trivial, rfl⟩

theorem winWrite_sreg_written (hfree : bankBusy (coreOf s (winCore pa)) (winSpace pa - 3) = false) (h0 : 0 < n)
    (hpend : pendingTo (bankOf (landCore s (winCore pa)) (winCore pa) (winSpace pa - 3)).se.flight (.reg n) = none) :
    let core := winCore pa
    let b := winSpace pa - 3
    let u := winWrite s pa 8 v p
    tget (bankOf u core b).s n {} = { v := BitVec.ofNat 64 v, poi := p } ∧ u.mem = s.mem ∧ u.clusters = s.clusters ∧ ∀ c, c ≠ core → coreOf u c = coreOf s c := by
  intro core b u
  have hu : u = useFresh (updBank (landCore s core) core b fun k => winPut (landCore s core) k (.sreg n)
      (setBits (winGet (bankOf (landCore s core) core b) (.sreg n)).1 0 64 (v % 256 ^ 8)) true p) := by
    simp only [u, core, b, winWrite_sreg hs ho hlt, winPiece_sreg hs ho hlt hz, hfree, Bool.false_eq_true, if_false]
  rw [hu]
  refine ⟨?_, rfl, rfl, fun c hc => ?_⟩
  · rw [bankOf_useFresh, bankOf_updBank, winPut_sreg h0 hpend, ofNat_setBits_whole (winGet_sreg_lt h0 hpend)]
  · rw [coreOf_useFresh, coreOf_updBank_ne _ _ _ hc, coreOf_landCore_ne _ hc]
end
end Sys2Proof.Laws
end

section
/-! SUPPORT. The caches and the homes (R22, R216, R222-R224). -/
namespace Sys2Proof.Laws
open Sys2Proof.Machine Sys2Proof.Safety

/-! ## Lines of a cache -/

theorem line_of_findLine {l : List Line} {ln : Nat} {x : Line} (h : findLine l ln = some x) : x.line = ln := by
  simpa using List.find?_some h
theorem findLine_dropLine (l : List Line) (ln : Nat) : findLine (dropLine l ln) ln = none := by
  refine List.find?_eq_none.mpr fun x hx => ?_
  simpa using (List.mem_filter.mp hx).2
theorem findLine_putLine (l : List Line) (x : Line) : findLine (putLine l x) x.line = some x := by
  induction l with
  | nil => simp [putLine, findLine]
  | cons y l ih =>
    simp only [putLine]
    split_ifs with he hlt
    · simp [findLine]
    · simp [findLine]
    · exact (List.find?_cons_of_neg (by simpa using Ne.symm he)).trans ih
@[simp] theorem agentCache_setAgentCache (s : State) (p : Point) (l : List Line) : agentCache (setAgentCache s p l) p = l := by
  by_cases h : p = .south <;> simp [agentCache, setAgentCache, h]

/-! ## A line leaves a cache -/

section
variable {s : State} {ln : Nat} {x : Line}

/-- A line without dirty bytes leaves; so does one whose bytes have just been written back. -/
theorem cleanLine_clean {cl : Nat} (hx : findLine (clusterOf s cl).cache ln = some x) (h : x.dirty = 0 ∨ canOwn s ln = true) :
    ∃ y, findLine (clusterOf (cleanLine s cl ln) cl).cache ln = some y ∧ y.dirty = 0 := by
  cases hc : canOwn s ln with
  | false =>
    have hs : cleanLine s cl ln = s := by simp only [cleanLine, hx, hc, Bool.not_false, if_true]
    rw [hs]
    exact ⟨x, hx, h.resolve_right (by simp [hc])⟩
  | true =>
    obtain rfl := line_of_findLine hx
    simp only [cleanLine, hx, hc, Bool.not_true, Bool.false_eq_true, if_false, clusterOf_updCluster]
    exact ⟨_, findLine_putLine _ { x with dirty := 0, wrote := [] }, rfl⟩
theorem findLine_evictCluster {cl : Nat} (hx : findLine (clusterOf s cl).cache ln = some x) (h : x.dirty = 0 ∨ canOwn s ln = true) :
    findLine (clusterOf (evictCluster s cl ln) cl).cache ln = none := by
  obtain ⟨y, hy, hd⟩ := cleanLine_clean hx h
  simp only [evictCluster, hy, hd, if_true, clusterOf_updCluster]
  exact findLine_dropLine _ _

/-- What the agent keeps of a line that it has cleaned: nothing in a lapsed region, and otherwise the line, clean. -/
theorem cleanAgentLine_clean {p : Point} (hx : findLine (agentCache s p) ln = some x) (h : x.dirty = 0 ∨ canSend s ln = true) :
    findLine (agentCache (cleanAgentLine s p ln) p) ln = none ∨ ∃ y, findLine (agentCache (cleanAgentLine s p ln) p) ln = some y ∧ y.dirty = 0 := by
  by_cases hd : x.dirty = 0
  · have hs : cleanAgentLine s p ln = s := by simp [cleanAgentLine, hx, hd]
    rw [hs]
    exact .inr ⟨x, hx, hd⟩
  · have hgo : (decide (x.dirty = 0) || !canSend s ln) = false :=
      Bool.or_eq_false_iff.mpr ⟨decide_eq_false hd, by rw [h.resolve_left hd]; rfl⟩
    obtain rfl := line_of_findLine hx
    simp only [cleanAgentLine, hx, hgo, Bool.false_eq_true, if_false]
    split
    · next e _ =>
      by_cases he : prtState e = 3
      · simp only [if_pos he]
        left
        change findLine (agentCache (setAgentCache s p _) p) _ = none
        rw [agentCache_setAgentCache, findLine_dropLine]
      · simp only [if_neg he, agentCache_setAgentCache]
        exact .inr ⟨_, findLine_putLine _ { x with dirty := 0 }, rfl⟩
    · rw [agentCache_setAgentCache]
      exact .inr ⟨_, findLine_putLine _ { x with dirty := 0 }, rfl⟩
theorem findLine_evictAgent {p : Point} (hx : findLine (agentCache s p) ln = some x) (h : x.dirty = 0 ∨ canSend s ln = true) :
    findLine (agentCache (evictAgent s p ln) p) ln = none := by
  obtain hn | ⟨y, hy, hd⟩ := cleanAgentLine_clean hx h
  · simp only [evictAgent, hn]
  · simp only [evictAgent, hy, hd, if_true, agentCache_setAgentCache, findLine_dropLine]
end

section
variable {s : State} (hp : s.mgmt.psCur = 0)
include hp

theorem cacheEvict_next {cl : Nat} (ln : Nat) (h : cl < 642) : exec (.cacheEvict cl ln) s = .next (evict s cl ln) :=
  congrArg Host.Outcome.next (if_pos (by simp [powered_of_ps0 hp, h]))
theorem cacheEvict_cluster {cl ln : Nat} {x : Line} (h : cl < 128) (hx : findLine (clusterOf s cl).cache ln = some x) (hd : x.dirty = 0 ∨ canOwn s ln = true) :
    ∃ u, exec (.cacheEvict cl ln) s = .next u ∧ findLine (clusterOf u cl).cache ln = none := by
  refine ⟨_, cacheEvict_next hp ln (by omega), ?_⟩
  rw [evict, if_pos h]
  exact findLine_evictCluster hx hd
theorem cacheEvict_agent {cl : Nat} (ln : Nat) (h : cl = 128 ∨ cl = 129) : let p := if cl = 128 then Point.north else .south
    ∃ u, exec (.cacheEvict cl ln) s = .next u ∧ u = evict s cl ln ∧
      (∀ x, findLine (agentCache s p) ln = some x → (x.dirty = 0 ∨ canSend s ln = true) → findLine (agentCache u p) ln = none) := by
  refine ⟨_, cacheEvict_next hp ln (by omega), rfl, fun x hx hd => ?_⟩
  rw [evict, if_neg (by omega), if_neg (by omega)]
  exact findLine_evictAgent hx hd
theorem cacheEvict_readOnly {cl : Nat} (ln : Nat) (h : 130 ≤ cl) (h' : cl < 642) :
    ∃ u, exec (.cacheEvict cl ln) s = .next u ∧ u = evict s cl ln ∧ findLine (coreOf u (cl - 130)).ro ln = none ∧ u.mem = s.mem ∧ u.clusters = s.clusters := by
  refine ⟨_, cacheEvict_next hp ln h', rfl, ?_⟩
  rw [evict, if_neg (by omega), if_pos h, coreOf_updCore]
  exact ⟨findLine_dropLine _ _, rfl, rfl⟩

/-! ## The homes -/

theorem rowCapture_next {row : Nat} (h : paLocal (1024 * row) = true) : exec (.rowCapture row) s = .next { s with captured := captureRow s.captured row } :=
  congrArg Host.Outcome.next (if_pos (by simp [poolOn_of_ps0 hp, h]))

variable {atom : Nat} (h : paLocal (32 * atom) = true)
include h

theorem hbmScrub_uncorrectable : ∃ u, exec (.hbmScrub atom true) s = .next u ∧ u.mem.poison.contains atom = true ∧ u.mem.cells = s.mem.cells ∧ u.cores = s.cores := by
  refine ⟨{ s with mem := setPoison s.mem atom true }, congrArg Host.Outcome.next ?_, List.contains_iff_mem.mpr (mem_insertAsc _ _), rfl, rfl⟩
  simp [poolOn_of_ps0 hp, h]
theorem hbmScrub_corrected : ∃ u, exec (.hbmScrub atom false) s = .next u ∧ u.mem = s.mem ∧ (u.mgmt.ecc = s.mgmt.ecc ∨ u.mgmt.ecc = s.mgmt.ecc + 1) := by
  refine ⟨countEcc s, congrArg Host.Outcome.next ?_, rfl, ?_⟩
  · simp [poolOn_of_ps0 hp, h]
  · change (if _ then _ else _) = _ ∨ (if _ then _ else _) = _
    split_ifs
    · exact .inr rfl
    · exact .inl rfl
end

/-! ## The rows that are captured -/

/-- The rows of a list that the base die of a row holds. -/
def sameStack (row : Nat) (l : List Nat) : List Nat := l.filter fun r => homeStack (1024 * r) = homeStack (1024 * row)

/-- The captured rows are the new row and rows captured before: all but the new row, or all but it and one more of its base die. -/
theorem captureRow_cases (l : List Nat) (row : Nat) : let rest := l.filter (· != row)
    ((sameStack row rest).length < 65536 ∧ captureRow l row = row :: rest) ∨
      ∃ r, r ∈ sameStack row rest ∧ captureRow l row = row :: rest.filter (· != r) := by
  intro rest
  by_cases hlt : (sameStack row rest).length < 65536
  · exact .inl ⟨hlt, congrArg (row :: ·) (if_pos hlt)⟩
  · right
    cases hlast : (sameStack row rest).getLast? with
    | none =>
      rw [List.getLast?_eq_none_iff.mp hlast] at hlt
      exact absurd (Nat.zero_lt_succ _) hlt
    | some r =>
      refine ⟨r, List.mem_of_getLast? hlast, congrArg (row :: ·) ((if_neg hlt).trans ?_)⟩
      change (match (sameStack row rest).getLast? with | some r => _ | none => _) = _
      rw [hlast]
theorem head?_captureRow (l : List Nat) (row : Nat) : (captureRow l row).head? = some row := rfl
theorem mem_captureRow {l : List Nat} {row r : Nat} (h : r ∈ captureRow l row) : r = row ∨ r ∈ l := by
  obtain ⟨-, he⟩ | ⟨_, -, he⟩ := captureRow_cases l row
  · rw [he] at h
    exact (List.mem_cons.mp h).imp_right List.mem_of_mem_filter
  · rw [he] at h
    exact (List.mem_cons.mp h).imp_right fun h => List.mem_of_mem_filter (List.mem_of_mem_filter h)
theorem captureRow_keeps {l : List Nat} {row r : Nat} (hr : r ∈ l) (h : homeStack (1024 * r) ≠ homeStack (1024 * row)) : r ∈ captureRow l row := by
  have hne : r ≠ row := fun he => h (by rw [he])
  have hrest : r ∈ l.filter (· != row) := List.mem_filter.mpr ⟨hr, by simpa using hne⟩
  obtain ⟨-, he⟩ | ⟨q, hq, he⟩ := captureRow_cases l row
  · rw [he]
    exact List.mem_cons_of_mem _ hrest
  · have hq : homeStack (1024 * q) = homeStack (1024 * row) := by simpa using (List.mem_filter.mp hq).2
    rw [he]
    refine List.mem_cons_of_mem _ (List.mem_filter.mpr ⟨hrest, ?_⟩)
    have hrq : r ≠ q := fun heq => h (heq ▸ hq)
    simpa using hrq
/-- A base die's cache holds no more rows than its 64 MiB (R216). -/
theorem captureRow_length {l : List Nat} {row : Nat} (h : (sameStack row l).length ≤ 65536) : (sameStack row (captureRow l row)).length ≤ 65536 := by
  have hrow : ∀ l', sameStack row (row :: l') = row :: sameStack row l' := fun l' => List.filter_cons_of_pos (by simp)
  obtain ⟨hlt, he⟩ | ⟨q, hq, he⟩ := captureRow_cases l row
  · rw [he, hrow]
    exact hlt
  · have hsub : (sameStack row (l.filter (· != row))).length ≤ (sameStack row l).length := (List.filter_sublist.filter _).length_le
    have hdrop : (sameStack row ((l.filter (· != row)).filter (· != q))).length < (sameStack row (l.filter (· != row))).length := by
      rw [sameStack, List.filter_comm]
      exact List.length_filter_lt_length_iff_exists.mpr ⟨q, hq, by simp⟩
    rw [he, hrow, List.length_cons]
    omega

/-! ## The obligation -/

theorem copyEngine_meets {s : State} {core slot : Nat} (hon : engineOn s core = true) :
    exec (.copyCommandBegin core slot) s = .next (beginCopy s core slot) ∧ exec (.chunkPerform core slot) s = .next (chunkStep s core slot) :=
  ⟨congrArg Host.Outcome.next (if_pos hon), congrArg Host.Outcome.next (if_pos hon)⟩
theorem streamBlockPush_next {s : State} {core bank q : Nat} (hp : s.mgmt.psCur = 0) (hon : enabledNow s (dieOfCore core) = true) :
    exec (.streamBlockPush core bank q) s = .next (pushBlock s core bank q) :=
  congrArg Host.Outcome.next (if_pos (by simp [powered_of_ps0 hp, hon]))

/-- Settles O57, clause by clause. -/
theorem unitEvents : Obligations.UnitEvents := by
  refine ⟨fun s hp => ⟨fun cl c hf hh hw => matrixLeaseGrant_next hp hf hh hw, fun cl h hh hb hr hbe => matrixBudgetSpent_next hp hh hb hr hbe,
      fun cl m miss hon hrun => ⟨matrixCommandComplete_running hon hrun, matrixCommandComplete_done hon hrun⟩,
      fun cl slot x hon hx => ⟨slotFillComplete_next hon hx, mldwRetranslate_waiting hon hx, mldwRetranslate_other hon hx⟩,
      fun core slot hon => ⟨(copyEngine_meets hon).1, (copyEngine_meets hon).2, ?_, fun c hc _ h => beginCopy_behind hc h, ?_⟩,
      fun x c hc => ⟨cpyresResume_next hp hc, cpyresAbort_next hp hc⟩,
      fun core rcb hon => congrArg Host.Outcome.next (if_pos hon),
      fun core bank q t hon hb hf hc => ⟨_, streamBlockPush_next hp hon, rfl, fun f hx => pushBlock_fault hb hf hc hx, fun l hx => pushBlock_ok hb hf hc hx⟩,
      fun pa v poison hw h5 => ⟨fun h8 ho hn => ⟨fun h16 => barrierWindowWrite_next hp hw h5 (winWrite_bar_sub h5 h8 ho hn h16),
        fun h16 => barrierWindowWrite_next hp hw h5 (winWrite_bar_arrive h5 h8 ho hn h16)⟩, fun h => barrierWindowWrite_next hp hw h5 (winWrite_bar_none h5 h)⟩,
      fun pa data poison hw h1 h4 => windowRegisterWrite_next hp data poison hw h1 h4,
      fun cl ln x hcl hx hd => cacheEvict_cluster hp hcl hx hd, fun cl ln h => cacheEvict_agent hp ln h, fun cl ln h h' => cacheEvict_readOnly hp ln h h',
      fun row h => rowCapture_next hp h, fun atom h => ⟨hbmScrub_uncorrectable hp h, hbmScrub_corrected hp h⟩, fun stack r => rfl⟩,
    fun l row => ⟨head?_captureRow l row, fun r => mem_captureRow, fun r => captureRow_keeps, fun h _ => captureRow_length h⟩,
    fun s cl n w hw => fillSlot_meets hw,
    fun s core c pos => ⟨segAt_plain s core pos, segAt_strided s core pos, fun h i v => segAt_indexed h, segAt_fill s core pos⟩,
    fun core c xs xd pos src dst n s => ⟨?_, ?_⟩,
    fun s core slot c hd => ⟨fun hz hp f => performChunk_parks hd hz hp, fun hz => ⟨fun f => performChunk_fault hd hz, ?_, ?_⟩⟩,
    chunkDone_meets, fun s core slot c acc f h => parkCopy_meets slot acc f h, fun s core slot c status hc hr => endCopy_meets hc hr status,
    fun s core slot c hc => ⟨finishCopy_badIdx hc, finishCopy_plain hc, fun h hn => ⟨fun f => finishCopy_fault hc h hn, fun l => finishCopy_notifies hc h hn⟩⟩,
    fun s core rcb r hr => ⟨reelStep_stopping hr, fun h => ⟨reelStep_empty hr h, reelStep_fetches hr h⟩⟩,
    fun s core r v l hring hx => ⟨fetchEntry_bad hring hx, fetchEntry_placed hring hx⟩,
    leaveReel_meets,
    fun s pa v p n hs hz ho h0 hlt => ⟨winWrite_sreg_held hs ho hlt hz, fun hfree hpend => winWrite_sreg_written hs ho hlt hz hfree h0 hpend⟩⟩
  · exact fun c hc hq hr => ⟨beginCopy_skipped hc hq hr, beginCopy_waits hc hq hr, beginCopy_runs hc hq hr⟩
  · exact fun c hc hr => ⟨chunkStep_performs hc hr, chunkStep_waits hc⟩
  · rintro a x rfl rfl
    exact copyAtom_moves core c x xd pos a dst n s
  · rintro rfl h
    exact ⟨_, copyAtom_fill xs xd pos dst n s h, fun j => nbits_fillBytes _ _⟩
  · exact fun xs xd ⟨hs, ht⟩ => performChunk_held hd hz hs ht
  · exact fun xs xd ⟨hs, ht⟩ => performChunk_whole hd hz hs ht
end Sys2Proof.Laws
end

section
/-! SUPPORT. Division and the integer results as numbers (R145, R388, R439, R442): quotients and remainders, high halves, leading and trailing zeros, ones. -/
namespace Sys2Proof.Laws
open Sys2Proof.Machine Sys2Proof.Safety

/-! ## Quotients and remainders -/

theorem divide_unsigned (a : W64) {b : W64} (h : b ≠ 0) : divide true a b = a / b := if_neg h
theorem divide_signed (a : W64) {b : W64} (h : b ≠ 0) : divide false a b = a.sdiv b := if_neg h
theorem remainder_unsigned (a : W64) {b : W64} (h : b ≠ 0) : remainder true a b = a % b := if_neg h
theorem remainder_signed (a : W64) {b : W64} (h : b ≠ 0) : remainder false a b = a.srem b := if_neg h

/-! ## The high half of a product -/

/-- A product of two signed words is that of its halves: the low one is the machine product, the high one `mulHigh`. -/
theorem mulHigh_signed (a b : W64) : (mulHigh false a b).toInt * 2 ^ 64 + (a * b).toNat = a.toInt * b.toInt := by
  have hlow : ((a * b).toNat : Int) = a.toInt * b.toInt % 2 ^ 64 := by
    have hmod : ∀ x : W64, x.toInt % 2 ^ 64 = (x.toNat : Int) % 2 ^ 64 := fun x => by rw [BitVec.toInt_eq_toNat_bmod]; exact Int.bmod_emod
    rw [BitVec.toNat_mul, Int.mul_emod, hmod a, hmod b, ← Int.mul_emod]
    push_cast
    rfl
  have hhigh : (mulHigh false a b).toInt = a.toInt * b.toInt / 2 ^ 64 := by
    have hle : |a.toInt * b.toInt| ≤ 2 ^ 126 := by
      rw [abs_mul]
      calc |a.toInt| * |b.toInt| ≤ 2 ^ 63 * 2 ^ 63 := by
            have ha := a.toInt_lt; have ha' := a.le_toInt; have hb := b.toInt_lt; have hb' := b.le_toInt
            refine mul_le_mul (abs_le.mpr ⟨?_, ?_⟩) (abs_le.mpr ⟨?_, ?_⟩) (abs_nonneg _) (by norm_num) <;> omega
        _ = 2 ^ 126 := by norm_num
    obtain ⟨h1, h2⟩ := abs_le.mp hle
    rw [show mulHigh false a b = BitVec.ofInt 64 (a.toInt * b.toInt / 2 ^ 64) from rfl, BitVec.toInt_ofInt, Int.bmod_eq_of_le] <;> omega
  rw [hlow, hhigh]
  omega
theorem mulHigh_unsigned (a b : W64) : (mulHigh true a b).toNat * 2 ^ 64 + (a * b).toNat = a.toNat * b.toNat := by
  have hlt : a.toNat * b.toNat < 2 ^ 128 := by
    calc a.toNat * b.toNat < 2 ^ 64 * 2 ^ 64 := Nat.mul_lt_mul'' a.isLt b.isLt
      _ = 2 ^ 128 := by norm_num
  rw [show mulHigh true a b = BitVec.ofNat 64 (a.toNat * b.toNat / 2 ^ 64) from rfl, BitVec.toNat_ofNat, BitVec.toNat_mul]
  omega

/-! ## Zeros and ones -/

theorem countLead_meets {a : W64} (h : a ≠ 0) :
    countLead a < 64 ∧ a.getLsbD (63 - countLead a) = true ∧ ∀ j, 63 - countLead a < j → a.getLsbD j = false := by
  have h0 : a.toNat ≠ 0 := fun h' => h (BitVec.eq_of_toNat_eq h')
  have htop : a.toNat.log2 < 64 := (Nat.log2_lt h0).mpr a.isLt
  have hc : countLead a = 63 - a.toNat.log2 := if_neg h
  have hi : 63 - countLead a = a.toNat.log2 := by omega
  rw [hi]
  refine ⟨by omega, Nat.testBit_log2 h0, fun j hj => Nat.testBit_lt_two_pow ((Nat.log2_lt h0).mp hj)⟩
theorem countTrail_meets {a : W64} (h : a ≠ 0) : countTrail a < 64 ∧ a.getLsbD (countTrail a) = true ∧ ∀ j, j < countTrail a → a.getLsbD j = false := by
  cases hf : (List.range 64).find? fun i => a.getLsbD i with
  | none =>
    refine absurd (BitVec.eq_of_getLsbD_eq fun i hi => ?_) h
    simpa using List.find?_eq_none.mp hf i (List.mem_range.mpr hi)
  | some i =>
    obtain ⟨hon, hi, hlow⟩ := List.find?_range_eq_some.mp hf
    rw [show countTrail a = i by rw [countTrail, hf]; rfl]
    exact ⟨List.mem_range.mp hi, hon, fun j hj => by simpa using hlow j hj⟩
theorem countP_or_of_disjoint {α : Type} (p q : α → Bool) (l : List α) (h : ∀ x ∈ l, (p x && q x) = false) :
    l.countP (fun x => p x || q x) = l.countP p + l.countP q := by
  induction l with
  | nil => rfl
  | cons x l ih =>
    have hx := h x List.mem_cons_self
    rw [List.countP_cons, List.countP_cons, List.countP_cons, ih fun y hy => h y (List.mem_cons_of_mem x hy)]
    cases hp : p x <;> cases hq : q x <;> simp_all <;> omega
theorem countOnes_or {a b : W64} (h : a &&& b = 0) : countOnes (a ||| b) = countOnes a + countOnes b := by
  simp only [countOnes, ← List.countP_eq_length_filter, BitVec.getLsbD_or]
  exact countP_or_of_disjoint _ _ _ fun i _ => by rw [← BitVec.getLsbD_and, h]; exact BitVec.getLsbD_zero
theorem countOnes_bit {j : Nat} (h : j < 64) : countOnes (1#64 <<< j) = 1 := by decide +revert

/-! ## The words -/

/-- The second operand of a scalar word (R398): its value and its poison. -/
theorem rdB_v (s : State) (w : RR) : (rdB s w).v = if w.bi then w.imm.signExtend 64 else (rdS s w.b).v := apply_ite Reg.v _ _ _
theorem rdB_poi (s : State) (w : RR) : (rdB s w).poi = (!w.bi && (rdS s w.b).poi) := by
  rw [rdB]; cases w.bi <;> rfl
theorem divFlag_eq (st : Strand) (b : W64) : divFlag st (b == 0) = if b = 0 then (if st = .a then 0x100 else 0x002) else 0 := by
  simp only [divFlag, flagIf, beq_iff_eq]; rfl
/-- DIV and REM answer `f` of their operands in 24 cycles. -/
theorem divWord_ok (w : RR) (f : Bool → W64 → W64 → W64) (s : State) : divWord w f s = .ok
    (let a := rdS s w.a
     let b := if w.bi then w.imm.signExtend 64 else (rdS s w.b).v
     { s := s, writes := wrS w.d (f (w.sub != 0) a.v b) (a.poi || (!w.bi && (rdS s w.b).poi)),
       flags := if b = 0 then (if s.curSt = .a then 0x100 else 0x002) else 0, bound := 24 }) := by
  rw [divWord, divFlag_eq, rdB_v, rdB_poi]

/-! ## The obligation -/

/-- Settles O15: the two words are one body behind the gate, and the integer laws are those of their functions. -/
theorem divideAndIntegerLaws : Obligations.DivideAndIntegerLaws := by
  refine ⟨fun w s => ?_, fun u a => ⟨rfl, rfl⟩, fun a b hb => ?_, fun a b hb hmin => ?_, ⟨by decide, by decide⟩, fun a b => ⟨mulHigh_unsigned a b, mulHigh_signed a b⟩,
    fun a ha => ?_, ⟨by decide, by decide, by decide⟩, fun a b => countOnes_or, fun j => countOnes_bit⟩
  · exact ⟨fun h => issue_ok h (divWord_ok w divide s), fun h => issue_ok h (divWord_ok w remainder s)⟩
  · rw [divide_unsigned a hb, remainder_unsigned a hb]
    exact ⟨BitVec.toNat_udiv, BitVec.toNat_umod⟩
  · rw [divide_signed a hb, remainder_signed a hb]
    exact ⟨BitVec.toInt_sdiv_of_ne_or_ne a b (not_and_or.mp hmin), BitVec.toInt_srem a b⟩
  · obtain ⟨h1, h2, h3⟩ := countLead_meets ha
    exact ⟨h1, h2, h3, countTrail_meets ha⟩
end Sys2Proof.Laws
end

section
/-! SUPPORT. Runs aligned into pieces (R173), piece by piece and element by element; and what an elementwise word answers over usable sources (R152, R172). -/
namespace Sys2Proof.Laws
open Sys2Proof.Machine Sys2Proof.Safety

/-! ## The smallest head -/

/-- The counts of the first runs. -/
def headCounts (ls : List (List Run)) : List Nat := ls.filterMap fun l => l.head?.map Prod.snd
/-- The smallest count so far, and that of one more list's first run. -/
def headStep (a : Option Nat) (l : List Run) : Option Nat :=
  match l with
  | (_, c) :: _ => (match a with | none => some c | some m => some (min m c))
  | [] => a
theorem foldl_headStep_some (ls : List (List Run)) (m : Nat) : ls.foldl headStep (some m) = some ((headCounts ls).foldl min m) := by
  induction ls generalizing m with
  | nil => rfl
  | cons l ls ih =>
    cases l with
    | nil => exact ih m
    | cons r t => exact ih (min m r.2)
theorem foldl_headStep_none (ls : List (List Run)) : ls.foldl headStep none = (headCounts ls).min? := by
  induction ls with
  | nil => rfl
  | cons l ls ih =>
    cases l with
    | nil => exact ih
    | cons r t => exact foldl_headStep_some ls r.2
theorem headMin_eq (ls : List (List Run)) : headMin ls = (headCounts ls).min?.getD 0 := congrArg (·.getD 0) (foldl_headStep_none ls)
theorem mem_headCounts {ls : List (List Run)} {r : Run} {t : List Run} (h : r :: t ∈ ls) : r.2 ∈ headCounts ls :=
  List.mem_filterMap.mpr ⟨r :: t, h, rfl⟩
theorem exists_of_mem_headCounts {ls : List (List Run)} {c : Nat} (h : c ∈ headCounts ls) : ∃ v t, (v, c) :: t ∈ ls := by
  obtain ⟨l, hl, hc⟩ := List.mem_filterMap.mp h
  cases l with
  | nil => simp at hc
  | cons r t =>
    obtain rfl : r.2 = c := by simpa using hc
    exact ⟨r.1, t, hl⟩
theorem headMin_mem {ls : List (List Run)} (hne : ls ≠ []) (h : ∀ l ∈ ls, l ≠ []) : headMin ls ∈ headCounts ls := by
  have hc : headCounts ls ≠ [] := by
    obtain ⟨l, hl⟩ := List.exists_mem_of_ne_nil ls hne
    obtain ⟨r, t, rfl⟩ := List.exists_cons_of_ne_nil (h l hl)
    exact List.ne_nil_of_mem (mem_headCounts hl)
  obtain ⟨m, hm⟩ := Option.isSome_iff_exists.mp (List.isSome_min?_of_ne_nil hc)
  rw [headMin_eq, hm]
  exact List.min?_mem hm
theorem headMin_le {ls : List (List Run)} {r : Run} {t : List Run} (h : r :: t ∈ ls) : headMin ls ≤ r.2 := by
  have hr := mem_headCounts h
  obtain ⟨m, hm⟩ := Option.isSome_iff_exists.mp (List.isSome_min?_of_mem hr)
  rw [headMin_eq, hm]
  exact (List.min?_eq_some_iff.mp hm).2 _ hr

/-! ## Elements off the front -/

theorem spreadRuns_takeOff {n : Nat} {r : Run} (t : List Run) (h : n ≤ r.2) : spreadRuns (r :: t) = List.replicate n r.1 ++ spreadRuns (takeOff n (r :: t)) := by
  rw [takeOff]
  split
  · next hc => rw [spreadRuns_cons, le_antisymm hc h]
  · rw [spreadRuns_cons, spreadRuns_cons, ← List.append_assoc, List.replicate_append_replicate, Nat.add_sub_cancel' h]
theorem takeOff_pos {n : Nat} {l : List Run} (h : ∀ r ∈ l, 0 < r.2) : ∀ r ∈ takeOff n l, 0 < r.2 := by
  cases l with
  | nil => exact h
  | cons q t =>
    obtain ⟨hq, ht⟩ := List.forall_mem_cons.mp h
    rw [takeOff]
    split
    · exact ht
    · next hc => exact List.forall_mem_cons.mpr ⟨by simpa using hc, ht⟩
theorem length_takeOff_le (n : Nat) (l : List Run) : (takeOff n l).length ≤ l.length := by
  cases l with
  | nil => exact le_rfl
  | cons q t => rw [takeOff]; split <;> simp
theorem takeOff_whole (v n : Nat) (t : List Run) : takeOff n ((v, n) :: t) = t := if_pos le_rfl

/-! ## Pieces -/

/-- The lists of runs of one length that a word aligns. -/
def SameLength (ls : List (List Run)) (n : Nat) : Prop := ∀ l ∈ ls, (∀ r ∈ l, 0 < r.2) ∧ (spreadRuns l).length = n
/-- The values at element `i`. -/
def column (ls : List (List Run)) (i : Nat) : List Nat := ls.map fun l => (spreadRuns l).getD i 0
/-- The elements of a list of pieces: each piece's values, as often as it has elements. -/
def spreadPieces (ps : List (List Nat × Nat)) : List (List Nat) := ps.flatMap fun p => List.replicate p.2 p.1

theorem SameLength.takeOff {ls : List (List Run)} {n k : Nat} (h : SameLength ls n) (hk : ∀ r t, r :: t ∈ ls → k ≤ r.2) (hne : ∀ l ∈ ls, l ≠ []) :
    SameLength (ls.map (takeOff k)) (n - k) := by
  intro l' hl'
  obtain ⟨l, hl, rfl⟩ := List.mem_map.mp hl'
  obtain ⟨hpos, hlen⟩ := h l hl
  refine ⟨takeOff_pos hpos, ?_⟩
  obtain ⟨r, t, rfl⟩ := List.exists_cons_of_ne_nil (hne l hl)
  rw [spreadRuns_takeOff t (hk r t hl), List.length_append, List.length_replicate] at hlen
  omega

/-- The pieces hold the elements of the lists, in their order, and each holds an element. -/
theorem spreadPieces_align {k : Nat} {ls : List (List Run)} {n : Nat} (hne : ls ≠ []) (h : SameLength ls n) (hk : (ls.map List.length).sum < k) :
    spreadPieces (align k ls) = (List.range n).map (column ls) ∧ ∀ p ∈ align k ls, 0 < p.2 := by
  induction k generalizing ls n with
  | zero => omega
  | succ k ih =>
    have hls : ls.isEmpty = false := by simpa using hne
    by_cases hemp : ∃ l ∈ ls, l = []
    · obtain ⟨l, hl, rfl⟩ := hemp
      obtain rfl : 0 = n := (h [] hl).2
      have hany : ls.any List.isEmpty = true := List.any_eq_true.mpr ⟨[], hl, rfl⟩
      rw [align, hls, hany]
      exact ⟨rfl, by simp⟩
    · have hfull : ∀ l ∈ ls, l ≠ [] := fun l hl h0 => hemp ⟨l, hl, h0⟩
      have hany : ls.any List.isEmpty = false := by simpa [List.any_eq_false] using hfull
      have hmem := headMin_mem hne hfull
      obtain ⟨v, t, hat⟩ := exists_of_mem_headCounts hmem
      have hpos : 0 < headMin ls := (h _ hat).1 _ List.mem_cons_self
      have hle : headMin ls ≤ n := by
        have hlen := (h _ hat).2
        rw [spreadRuns_cons, List.length_append, List.length_replicate] at hlen
        omega
      have hrest := h.takeOff (fun r t hr => headMin_le hr) hfull
      have hsum : ((ls.map (takeOff (headMin ls))).map List.length).sum < k := by
        have hlt : (ls.map fun l => (takeOff (headMin ls) l).length).sum < (ls.map List.length).sum :=
          List.sum_lt_sum _ _ (fun l _ => length_takeOff_le _ l) ⟨_, hat, by rw [takeOff_whole]; simp⟩
        rw [List.map_map]
        exact lt_of_lt_of_le hlt (Nat.lt_succ_iff.mp hk)
      obtain ⟨hspread, hp⟩ := ih (by simpa using hne) hrest hsum
      have hstep : align (k + 1) ls = (ls.map (fun l => ((l.head?).map Prod.fst).getD 0), headMin ls) :: align k (ls.map (takeOff (headMin ls))) := by
        rw [align, hls, hany]; rfl
      rw [hstep]
      refine ⟨?_, List.forall_mem_cons.mpr ⟨hpos, hp⟩⟩
      -- the first piece is the first `headMin` elements, the others those behind them
      have hfront : ∀ i < headMin ls, column ls i = ls.map fun l => ((l.head?).map Prod.fst).getD 0 := by
        intro i hi
        refine List.map_congr_left fun l hl => ?_
        obtain ⟨r, t, rfl⟩ := List.exists_cons_of_ne_nil (hfull l hl)
        rw [spreadRuns_takeOff t (headMin_le hl), List.getD_append _ _ _ _ (by simpa using hi)]
        simp [hi]
      have hback : ∀ i, column ls (headMin ls + i) = column (ls.map (takeOff (headMin ls))) i := by
        intro i
        rw [column, column, List.map_map]
        refine List.map_congr_left fun l hl => ?_
        obtain ⟨r, t, rfl⟩ := List.exists_cons_of_ne_nil (hfull l hl)
        rw [spreadRuns_takeOff t (headMin_le hl), List.getD_append_right _ _ _ _ (by simp)]
        simp
      have hrange : List.range n = List.range (headMin ls) ++ (List.range (n - headMin ls)).map (headMin ls + ·) := by
        rw [← List.range_add, Nat.add_sub_cancel' hle]
      rw [spreadPieces, List.flatMap_cons, ← spreadPieces, hspread, hrange, List.map_append, List.map_map]
      congr 1
      · rw [List.map_congr_left fun i hi => hfront i (List.mem_range.mp hi), List.map_const', List.length_range]
      · exact List.map_congr_left fun i _ => (hback i).symm
theorem spreadPieces_piecesAligned {ls : List (List Run)} {n : Nat} (hne : ls ≠ []) (h : SameLength ls n) :
    spreadPieces (piecesAligned ls) = (List.range n).map (column ls) ∧ ∀ p ∈ piecesAligned ls, 0 < p.2 := by
  have hsum : ls.foldl (fun a l => a + l.length) 0 = (ls.map List.length).sum := by
    rw [List.sum_eq_foldl, List.foldl_map]
  exact spreadPieces_align hne h (by rw [hsum]; exact Nat.lt_succ_self _)

/-- A value for each piece is a value for each element. -/
theorem spreadRuns_mapPieces (f : List Nat → Nat) (ps : List (List Nat × Nat)) : spreadRuns (ps.map fun p => (f p.1, p.2)) = (spreadPieces ps).map f := by
  induction ps with
  | nil => rfl
  | cons p ps ih => rw [List.map_cons, spreadRuns_cons, ih, spreadPieces, spreadPieces, List.flatMap_cons, List.map_append, List.map_replicate]
theorem mem_spreadPieces {ps : List (List Nat × Nat)} (h : ∀ p ∈ ps, 0 < p.2) {v : List Nat} : v ∈ spreadPieces ps ↔ ∃ p ∈ ps, p.1 = v := by
  simp only [spreadPieces, List.mem_flatMap, List.mem_replicate]
  exact ⟨fun ⟨p, hp, _, hv⟩ => ⟨p, hp, hv.symm⟩, fun ⟨p, hp, hv⟩ => ⟨p, hp, (h p hp).ne', hv.symm⟩⟩

/-! ## Flags -/

theorem getLsbD_flagsOr (l : List Flags) (i : Nat) : (flagsOr l).getLsbD i = l.any (·.getLsbD i) := by
  have hfold : ∀ (l : List Flags) (a : Flags), (l.foldl (· ||| ·) a).getLsbD i = (a.getLsbD i || l.any (·.getLsbD i)) := by
    intro l
    induction l with
    | nil => simp
    | cons x l ih => intro a; rw [List.foldl_cons, ih, BitVec.getLsbD_or, List.any_cons, Bool.or_assoc]
  rw [flagsOr, hfold]
  simp
/-- The OR of flags depends on which flags are raised, not on how often. -/
theorem flagsOr_eq {l k : List Flags} (h : ∀ f, f ≠ 0 → (f ∈ l ↔ f ∈ k)) : flagsOr l = flagsOr k := by
  refine BitVec.eq_of_getLsbD_eq fun i hi => ?_
  rw [getLsbD_flagsOr, getLsbD_flagsOr, Bool.eq_iff_iff, List.any_eq_true, List.any_eq_true]
  have hne : ∀ f : Flags, f.getLsbD i = true → f ≠ 0 := by rintro f hf rfl; simp at hf
  exact ⟨fun ⟨f, hf, hb⟩ => ⟨f, (h f (hne f hb)).mp hf, hb⟩, fun ⟨f, hf, hb⟩ => ⟨f, (h f (hne f hb)).mpr hf, hb⟩⟩

/-! ## Usable sources -/

theorem runs_pos (g : Grp) (et : Nat) : ∀ r ∈ g.runs et, 0 < r.2 := by
  intro r hr
  obtain ⟨v, _, hv⟩ := List.mem_flatMap.mp hr
  exact ((pairsOf_fits _ _ _ _).1 r hv).2.1
theorem bits_pos (g : Grp) : ∀ r ∈ g.bits, 0 < r.2 := by
  intro r hr
  obtain ⟨v, _, hv⟩ := List.mem_flatMap.mp hr
  exact ((pairsOf_fits _ _ _ _).1 r hv).2.1


/-- The sources of an elementwise word are usable and of length `n` (R123, R172): some source bears a length; no source, predicate or old destination is stale or of another type or length. -/
structure Usable (s : State) (w : VEC) (a : ElemArgs) (old : Option (Grp × List Run)) (vo : Option Nat) (n : Nat) : Prop where
  nonempty : a.groups ≠ [] ∨ a.masks ≠ []
  groups : ∀ g ∈ a.groups, SoundGroup g.1 g.2 n
  masks : ∀ m ∈ a.masks, SoundMask m n
  pred : ∀ m, predMask s w = some m → SoundMask m n
  old : ∀ o, old = some o → match vo with | some et => SoundGroup o.1 et n ∧ o.2 = o.1.runs et | none => SoundMask o.1 n ∧ o.2 = o.1.bits

/-- The lists of runs of the operands that the operation reads, and of all that the word aligns. -/
def operandRuns (a : ElemArgs) : List (List Run) := a.groups.map (fun g => g.1.runs g.2) ++ a.masks.map Grp.bits
def alignedRuns (s : State) (w : VEC) (a : ElemArgs) (old : Option (Grp × List Run)) : List (List Run) :=
  operandRuns a ++ (predMask s w).toList.map Grp.bits ++ old.toList.map Prod.snd

/-- The predicate enables an element whose value in the predicate's mask is `x`. -/
def enabled (s : State) (w : VEC) (x : Nat) : Bool := match predMask s w with | none => true | some _ => (x != 0) != w.hdr.pn
/-- The value and the flags of a piece from the values of all that the word aligns (R171, R173). -/
def pieceResult (s : State) (w : VEC) (a : ElemArgs) (old : Option (Grp × List Run)) (v : List Nat) : Nat × Flags :=
  let k := a.groups.length + a.masks.length
  if enabled s w (v.getD k 0) then a.op (v.take k) else (if old.isSome then v.getLastD 0 else 0, 0)

section
variable {s : State} {w : VEC} {a : ElemArgs} {old : Option (Grp × List Run)} {vo : Option Nat} {n : Nat} (h : Usable s w a old vo n)
include h

theorem Usable.old_fields {o : Grp × List Run} (ho : old = some o) : o.1.stale = false ∧ o.1.ll = n ∧ (∀ r ∈ o.2, 0 < r.2) ∧ (spreadRuns o.2).length = n := by
  have hold := h.old o ho
  cases vo with
  | none =>
    obtain ⟨⟨hst, hll, hlen⟩, hbits⟩ := hold
    exact ⟨hst, hll, by rw [hbits]; exact bits_pos _, by rw [hbits]; exact hlen⟩
  | some et =>
    obtain ⟨⟨hst, -, hll, hlen⟩, hruns⟩ := hold
    exact ⟨hst, hll, by rw [hruns]; exact runs_pos _ _, by rw [hruns]; exact hlen⟩
theorem Usable.sameLength : SameLength (alignedRuns s w a old) n := by
  intro l hl
  simp only [alignedRuns, operandRuns, List.mem_append, List.mem_map, Option.mem_toList] at hl
  obtain ((⟨g, hg, rfl⟩ | ⟨m, hm, rfl⟩) | ⟨m, hm, rfl⟩) | ⟨o, ho, rfl⟩ := hl
  · obtain ⟨-, -, -, hlen⟩ := h.groups g hg
    exact ⟨runs_pos _ _, hlen⟩
  · obtain ⟨-, -, hlen⟩ := h.masks m hm
    exact ⟨bits_pos _, hlen⟩
  · obtain ⟨-, -, hlen⟩ := h.pred m hm
    exact ⟨bits_pos _, hlen⟩
  · obtain ⟨-, -, hpos, hlen⟩ := h.old_fields ho
    exact ⟨hpos, hlen⟩
theorem Usable.alignedRuns_ne_nil : alignedRuns s w a old ≠ [] := by
  obtain hg | hm := h.nonempty
  · simp [alignedRuns, operandRuns, hg]
  · simp [alignedRuns, operandRuns, hm]

/-! ## The checks pass -/

theorem Usable.staleCheck : staleCheck (old.toList.map Prod.fst ++ a.groups.map Prod.fst ++ a.masks ++ (predMask s w).toList) = .ok () := by
  refine staleCheck_ok fun g hg => ?_
  simp only [List.mem_append, List.mem_map, Option.mem_toList] at hg
  obtain ((⟨o, ho, rfl⟩ | ⟨x, hx, rfl⟩) | hm) | hm := hg
  · exact (h.old_fields ho).1
  · exact (h.groups x hx).1
  · exact (h.masks g hm).1
  · exact (h.pred g hm).1
theorem Usable.types : (a.groups.all fun g => g.1.etOk g.2) = true := List.all_eq_true.mpr fun g hg => (h.groups g hg).2.1
/-- The lengths that stand to check 3 are `n`, and there is one. -/
theorem Usable.lengths : let lls := if a.groups.isEmpty then a.masks.map Grp.ll else a.groups.map (·.1.ll)
    (∀ x ∈ lls, x = n) ∧ lls.head? = some n := by
  have hhead : ∀ l : List Nat, l ≠ [] → (∀ x ∈ l, x = n) → l.head? = some n := fun l hl hx => by
    obtain ⟨x, t, rfl⟩ := List.exists_cons_of_ne_nil hl
    rw [List.head?_cons, hx x List.mem_cons_self]
  have hgroups : ∀ x ∈ a.groups.map (·.1.ll), x = n := fun x hx => by
    obtain ⟨g, hg, rfl⟩ := List.mem_map.mp hx
    exact (h.groups g hg).2.2.1
  have hmasks : ∀ x ∈ a.masks.map Grp.ll, x = n := fun x hx => by
    obtain ⟨m, hm, rfl⟩ := List.mem_map.mp hx
    exact (h.masks m hm).2.1
  by_cases he : a.groups = []
  · rw [he]
    exact ⟨hmasks, hhead _ (by simpa using h.nonempty.resolve_left (not_not.mpr he)) hmasks⟩
  · rw [List.isEmpty_eq_false_iff.mpr he]
    exact ⟨hgroups, hhead _ (by simpa using he) hgroups⟩
theorem Usable.otherLengths : (((a.masks ++ (predMask s w).toList ++ old.toList.map Prod.fst).map Grp.ll).all (· = n)) = true := by
  rw [List.all_eq_true]
  intro x hx
  simp only [List.mem_map, List.mem_append, Option.mem_toList] at hx
  obtain ⟨g, (hm | hm) | ⟨o, ho, rfl⟩, rfl⟩ := hx
  · exact decide_eq_true (h.masks g hm).2.1
  · exact decide_eq_true (h.pred g hm).2.1
  · exact decide_eq_true (h.old_fields ho).2.1

/-- Over usable sources an elementwise word answers the results of its pieces. -/
theorem elementwise_ok : elementwise s w a old vo = .ok
    ((piecesAligned (alignedRuns s w a old)).map (fun p => ((pieceResult s w a old p.1).1, p.2)),
     flagsOr ((piecesAligned (alignedRuns s w a old)).map fun p => (pieceResult s w a old p.1).2), (piecesAligned (alignedRuns s w a old)).length,
     a.poi || a.groups.any (·.1.poi) || a.masks.any Grp.poi || (predMask s w).any Grp.poi || old.any (·.1.poi)) := by
  obtain ⟨hall, hhead⟩ := h.lengths
  have hsame : ((if a.groups.isEmpty then a.masks.map Grp.ll else a.groups.map (·.1.ll)).all fun x =>
      some x == (if a.groups.isEmpty then a.masks.map Grp.ll else a.groups.map (·.1.ll)).head?) = true :=
    List.all_eq_true.mpr fun x hx => by rw [hhead, hall x hx]; exact beq_self_eq_true _
  have hfirst : ∀ l : List Nat, ((if a.groups.isEmpty then a.masks.map Grp.ll else a.groups.map (·.1.ll)) ++ l).head? = some n := fun l => by
    rw [List.head?_append, hhead]; rfl
  simp only [elementwise, h.staleCheck, ok_bind, h.types, check_true, hsame, hfirst, h.otherLengths]
  have hpiece : ∀ p : List Nat × Nat, (if enabled s w (p.1.getD (a.groups.length + a.masks.length) 0) = true
      then (((a.op (p.1.take (a.groups.length + a.masks.length))).1, p.2), (a.op (p.1.take (a.groups.length + a.masks.length))).2)
      else ((if old.isSome then p.1.getLastD 0 else 0, p.2), 0)) = (((pieceResult s w a old p.1).1, p.2), (pieceResult s w a old p.1).2) := fun p => by
    rw [pieceResult]
    split <;> rfl
  have hold : ∀ o et, old = some o → vo = some et → o.1.etOk et = true := by
    rintro o et rfl rfl
    exact (h.old o rfl).1.2.1
  refine (congrArg (· >>= _) (?_ : check _ _ _ _ = .ok ())).trans ?_
  · split
    · next o et => rw [hold o et rfl rfl, check_true]
    · rfl
  · rw [ok_bind]
    refine congrArg Except.ok (Prod.ext ?_ (Prod.ext ?_ rfl))
    · exact List.map_map.trans (List.map_congr_left fun p _ => congrArg Prod.fst (hpiece p))
    · exact congrArg flagsOr (List.map_map.trans (List.map_congr_left fun p _ => congrArg Prod.snd (hpiece p)))

end

/-! ## The results, element by element -/

/-- The old destination's element `i`, or 0 where no old destination bears on the word (R171). -/
def oldElem (old : Option (Grp × List Run)) (i : Nat) : Nat := match old with | some o => (spreadRuns o.2).getD i 0 | none => 0
/-- The predicate enables element `i`. -/
def enabledAt (s : State) (w : VEC) (i : Nat) : Bool := match predMask s w with | none => true | some m => ((spreadRuns m.bits).getD i 0 != 0) != w.hdr.pn

theorem column_append (l k : List (List Run)) (i : Nat) : column (l ++ k) i = column l i ++ column k i := List.map_append
theorem length_column_operandRuns (a : ElemArgs) (i : Nat) : (column (operandRuns a) i).length = a.groups.length + a.masks.length := by
  simp [column, operandRuns]
/-- What a piece's result is at the column of element `i`: the operation where the predicate enables it, else the old destination's element, or zero. -/
theorem pieceResult_column {s : State} {w : VEC} {old : Option (Grp × List Run)} (a : ElemArgs) (i : Nat) :
    pieceResult s w a old (column (alignedRuns s w a old) i) = if enabledAt s w i then a.op (column (operandRuns a) i) else (oldElem old i, 0) := by
  have hlen := length_column_operandRuns a i
  have hcol : column (alignedRuns s w a old) i =
      column (operandRuns a) i ++ (column ((predMask s w).toList.map Grp.bits) i ++ column (old.toList.map Prod.snd) i) := by
    rw [alignedRuns, column_append, column_append, List.append_assoc]
  have htake : (column (alignedRuns s w a old) i).take (a.groups.length + a.masks.length) = column (operandRuns a) i := by
    rw [hcol, ← hlen, List.take_left]
  have hat : (column (alignedRuns s w a old) i).getD (a.groups.length + a.masks.length) 0 =
      (column ((predMask s w).toList.map Grp.bits) i ++ column (old.toList.map Prod.snd) i).getD 0 0 := by
    rw [hcol, ← hlen, List.getD_append_right _ _ _ _ le_rfl, Nat.sub_self]
  rw [pieceResult, htake, hat, enabled, enabledAt]
  cases hm : predMask s w with
  | none => rfl
  | some m =>
    cases old with
    | none => rfl
    | some o =>
      have hlast : (column (alignedRuns s w a (some o)) i).getLastD 0 = (spreadRuns o.2).getD i 0 := by
        rw [alignedRuns, column_append]
        simp [column]
      rw [hlast]
      rfl

/-! ## The obligation -/

theorem column_operandRuns (a : ElemArgs) (i : Nat) :
    column (operandRuns a) i = (a.groups.map (fun g => spreadRuns (g.1.runs g.2)) ++ a.masks.map fun m => spreadRuns m.bits).map fun c => c.getD i 0 := by
  simp only [column, operandRuns, List.map_append, List.map_map]
  rfl

/-- Settles O32: the word answers the results of its pieces, and the pieces hold the columns of the elements. -/
theorem elementwiseMeaning : Obligations.ElementwiseMeaning := by
  intro s w a old n vo hne hgroups hmasks hpred _ hold cols on
  have h : Usable s w a old vo n := ⟨hne, hgroups, hmasks, hpred, hold⟩
  obtain ⟨hspread, hpos⟩ := spreadPieces_piecesAligned h.alignedRuns_ne_nil h.sameLength
  have hresult : ∀ i, pieceResult s w a old (column (alignedRuns s w a old) i) =
      if on i then a.op (cols.map fun c => c.getD i 0) else (oldElem old i, 0) := fun i => by
    rw [pieceResult_column a, column_operandRuns]
    rfl
  refine ⟨_, _, _, _, elementwise_ok h, ?_, ?_, rfl⟩
  · rw [spreadRuns_mapPieces fun v => (pieceResult s w a old v).1, hspread, List.map_map]
    refine List.map_congr_left fun i _ => ?_
    rw [Function.comp_apply, hresult]
    split <;> rfl
  · refine flagsOr_eq fun f hf => ?_
    have hmem : ∀ v, (∃ p ∈ piecesAligned (alignedRuns s w a old), p.1 = v) ↔ ∃ i < n, column (alignedRuns s w a old) i = v := fun v => by
      rw [← mem_spreadPieces hpos, hspread]; simp
    simp only [List.mem_map, List.mem_filter, List.mem_range]
    constructor
    · rintro ⟨p, hp, rfl⟩
      obtain ⟨i, hi, hcol⟩ := (hmem p.1).mp ⟨p, hp, rfl⟩
      rw [← hcol, hresult] at hf ⊢
      by_cases hon : on i
      · exact ⟨i, ⟨hi, hon⟩, by rw [if_pos hon]⟩
      · exact absurd (by rw [if_neg hon]) hf
    · rintro ⟨i, ⟨hi, hon⟩, rfl⟩
      obtain ⟨p, hp, hcol⟩ := (hmem _).mpr ⟨i, hi, rfl⟩
      exact ⟨p, hp, by rw [hcol, hresult, if_pos hon]⟩
end Sys2Proof.Laws
end

section
/-! SUPPORT. The mask words (R414-R416) and DACC (R170, R396): what each body answers behind each of its checks, and the elements of KCNT and KFIRST. -/
namespace Sys2Proof.Laws
open Sys2Proof.Machine Sys2Proof.Safety

theorem bind_of_ok {ε α β : Type} {m : Except ε α} {a : α} (h : m = .ok a) (f : α → Except ε β) : (m >>= f) = f a := by rw [h, ok_bind]
theorem bind_of_error {ε α β : Type} {m : Except ε α} {e : ε} (h : m = .error e) (f : α → Except ε β) : (m >>= f) = .error e := by rw [h, error_bind]

/-! ## Words with a mask result -/

theorem readMask_zero (s : State) : readMask s 0 = none := rfl
theorem readMask_pos (s : State) {n : Nat} (h : n ≠ 0) : ∃ m, readMask s n = some m := ⟨_, if_neg h⟩
/-- k0 as a source enables every element (R415): what a source gives where it names k0 and where it does not. -/
theorem ite_readMask_isSome (s : State) (n x y : Nat) : (if (readMask s n).isSome then x else y) = if n = 0 then y else x := by
  by_cases h : n = 0
  · rw [h, readMask_zero]; rfl
  · obtain ⟨m, hm⟩ := readMask_pos s h
    rw [hm, if_neg h]; rfl

section
variable {i : Instr} {s : State} {w : VEC} {body : State → Except Stop Out} {bound : Nat} {a : ElemArgs} (hi : issues i s = true) (hb : body s = elemMask s w bound a)
include hi hb

/-- A word with a mask destination: it stops where its elements or its result stop, and else writes the mask. -/
theorem issue_elemMask : (∀ x, elementwise s w a (oldMask s w) none = .error x → issue i body s = .next (stopWord i x s)) ∧
    ∀ l fl n p, elementwise s w a (oldMask s w) none = .ok (l, fl, n, p) →
      (∀ x, writeMask s w.d.toNat l p = .error x → issue i body s = .next (stopWord i x s)) ∧
      ∀ ws, writeMask s w.d.toNat l p = .ok ws →
        issue i body s = .next (complete i false { s := s, writes := ws, flags := fl, bound := bound, passes := passesOf n 32 } s) := by
  refine ⟨fun x hx => issue_stop hi ?_, fun l fl n p he => ⟨fun x hx => issue_stop hi ?_, fun ws hws => issue_ok hi ?_⟩⟩ <;> rw [hb, elemMask]
  · rw [hx, error_bind]
  · simp only [he, ok_bind, hx, error_bind]
  · simp only [he, ok_bind, hws]
end

section
variable (w : VEC) (s : State) (f : Nat → Nat → Nat)

theorem maskOp_two : maskOp f (some w.a.toNat) (some w.b.toNat) w s = elemMask s w 20
    { groups := [], masks := (readMask s w.a.toNat).toList ++ (readMask s w.b.toNat).toList,
      op := fun v => (f (if w.a.toNat = 0 then 1 else v.getD 0 0) (if w.b.toNat = 0 then 1 else v.getD (if w.a.toNat = 0 then 0 else 1) 0) % 2, 0) } := by
  simp only [maskOp, Option.bind_some, ite_readMask_isSome]
theorem maskOp_one : maskOp f (some w.a.toNat) none w s = elemMask s w 20
    { groups := [], masks := (readMask s w.a.toNat).toList, op := fun v => (f (if w.a.toNat = 0 then 1 else v.getD 0 0) 1 % 2, 0) } := by
  simp only [maskOp, Option.bind_some, Option.bind_none, ite_readMask_isSome, Option.toList_none, List.append_nil, Option.isSome_none, Bool.false_eq_true, if_false]
end

/-! ## The elements of KCNT and KFIRST -/

section
variable {w : VEC} {s : State}

theorem maskElems_stale {x : Stop} (h : staleCheck ((readMask s w.a.toNat).toList ++ (predMask s w).toList) = .error x) : maskElems w s = .error x := by
  rw [maskElems, h, error_bind]
theorem maskElems_lengths (h : staleCheck ((readMask s w.a.toNat).toList ++ (predMask s w).toList) = .ok ()) {a b : Grp} (ha : readMask s w.a.toNat = some a)
    (hb : predMask s w = some b) (hne : a.ll ≠ b.ll) : maskElems w s = .error (.trap 0x09 2 0) := by
  have hall : (([a].map Grp.ll ++ [b].map Grp.ll).all (· = a.ll)) = false := by simpa using Ne.symm hne
  rw [ha, hb] at h
  simp only [maskElems, ha, hb, h, ok_bind]
  show (check (([a].map Grp.ll ++ [b].map Grp.ll).all (· = a.ll)) 0x09 2 0 >>= _) = _
  rw [hall, check_false, error_bind]
theorem maskElems_illegal (ha : readMask s w.a.toNat = none) (hb : predMask s w = none) : maskElems w s = .error (.trap 0x01 1 0) := by
  simp only [maskElems, ha, hb]
  rfl

/-- The masks that KCNT and KFIRST read, and what an element is that has the values `v` in them. -/
def countedMasks (w : VEC) (s : State) : List Grp := (readMask s w.a.toNat).toList ++ (predMask s w).toList
def countedElem (w : VEC) (s : State) (v : List Nat) : Nat :=
  (((readMask s w.a.toNat).isNone || v.headD 0 != 0) && ((predMask s w).isNone || (v.getLastD 0 != 0) != w.hdr.pn)).toNat
theorem maskElems_pieces {n : Nat} (hne : countedMasks w s ≠ []) (h : ∀ m ∈ countedMasks w s, SoundMask m n) :
    maskElems w s = .ok ((piecesAligned ((countedMasks w s).map Grp.bits)).map (fun p => (countedElem w s p.1, p.2)),
      (piecesAligned ((countedMasks w s).map Grp.bits)).length, (readMask s w.a.toNat).any Grp.poi || (predMask s w).any Grp.poi) := by
  have hll : ∀ x ∈ (countedMasks w s).map Grp.ll, x = n := fun x hx => by
    obtain ⟨m, hm, rfl⟩ := List.mem_map.mp hx
    exact (h m hm).2.1
  have hhead : ((countedMasks w s).map Grp.ll).head? = some n := by
    obtain ⟨m, t, hm⟩ := List.exists_cons_of_ne_nil hne
    rw [hm] at hll ⊢
    exact congrArg some (hll _ List.mem_cons_self)
  have hall : (((countedMasks w s).map Grp.ll).all (· = n)) = true := List.all_eq_true.mpr fun x hx => decide_eq_true (hll x hx)
  have hstale : staleCheck (countedMasks w s) = .ok () := staleCheck_ok fun m hm => (h m hm).1
  rw [maskElems, ← List.map_append, ← countedMasks, hstale, ok_bind]
  simp only [hhead, ok_bind, hall, check_true]
  rfl
theorem countedElem_column (i : Nat) : countedElem w s (column ((countedMasks w s).map Grp.bits) i) =
    if ((readMask s w.a.toNat).all fun m => (spreadRuns m.bits).getD i 0 != 0) && ((predMask s w).all fun m => ((spreadRuns m.bits).getD i 0 != 0) != w.hdr.pn)
      then 1 else 0 := by
  rw [countedElem, countedMasks]
  cases readMask s w.a.toNat <;> cases predMask s w <;> exact Bool.cond_eq_ite ..

/-- Over usable masks the elements are those that the mask and the predicate both enable. -/
theorem maskElems_ok {n : Nat} (hne : readMask s w.a.toNat = none → predMask s w ≠ none) (ha : ∀ m, readMask s w.a.toNat = some m → SoundMask m n)
    (hp : ∀ m, predMask s w = some m → SoundMask m n) :
    ∃ l k, maskElems w s = .ok (l, k, (readMask s w.a.toNat).any Grp.poi || (predMask s w).any Grp.poi) ∧
      spreadRuns l = (List.range n).map fun i => if ((readMask s w.a.toNat).all fun m => (spreadRuns m.bits).getD i 0 != 0) &&
        ((predMask s w).all fun m => ((spreadRuns m.bits).getD i 0 != 0) != w.hdr.pn) then 1 else 0 := by
  have hne' : countedMasks w s ≠ [] := by
    rw [countedMasks]
    cases hm : readMask s w.a.toNat with
    | none =>
      obtain ⟨m, hp⟩ := Option.ne_none_iff_exists'.mp (hne hm)
      rw [hp]; simp
    | some m => simp
  have h : ∀ m ∈ countedMasks w s, SoundMask m n := fun m hm => by
    rw [countedMasks, List.mem_append, Option.mem_toList, Option.mem_toList] at hm
    exact hm.elim (ha m) (hp m)
  have hsame : SameLength ((countedMasks w s).map Grp.bits) n := fun l hl => by
    obtain ⟨m, hm, rfl⟩ := List.mem_map.mp hl
    exact ⟨bits_pos m, (h m hm).2.2⟩
  refine ⟨_, _, maskElems_pieces hne' h, ?_⟩
  rw [spreadRuns_mapPieces, (spreadPieces_piecesAligned (by simpa using hne') hsame).1, List.map_map]
  exact List.map_congr_left fun i _ => countedElem_column i

/-- KCNT and KFIRST stop where their elements do. -/
theorem counts_stop {i : Instr} (h : i = .kcnt w ∨ i = .kfirst w) (hi : issues i s = true) {x : Stop} (hx : maskElems w s = .error x) : exec i s = .next (stopWord i x s) := by
  obtain rfl | rfl := h
  · exact issue_stop hi (by rw [kcntBody, hx, error_bind])
  · exact issue_stop hi (by rw [kfirstBody, hx, error_bind])
theorem kcntBody_ok {l : List Run} {n : Nat} {p : Bool} (h : maskElems w s = .ok (l, n, p)) : kcntBody w s =
    .ok { s := s, writes := wrS w.d (BitVec.ofNat 64 (runsTotal (l.filter fun r => r.1 = 1))) p, bound := 32, passes := passesOf n 32 } := by
  rw [kcntBody, h, ok_bind]
theorem kfirstBody_ok {l : List Run} {n : Nat} {p : Bool} (h : maskElems w s = .ok (l, n, p)) : kfirstBody w s =
    .ok { s := s, writes := wrS w.d (BitVec.ofNat 64 (runsTotal (l.takeWhile fun r => r.1 = 0))) p, bound := 32, passes := passesOf n 32 } := by
  rw [kfirstBody, h, ok_bind]
end

/-! ## A position of DACC (R170) -/

theorem badProb_num (a : Bool) (m : Nat) (e : Int) : badProb (.num a m e) = true ↔ a = true ∧ m ≠ 0 := by simp [badProb]
theorem badProb_of_not_num {v : Val} (h : v.isNan = true ∨ v.isInf = true) : badProb v = true := by
  cases v with
  | num => simp [Val.isNan, Val.isInf] at h
  | _ => rfl
theorem daccPos_refused {v u : Val} (r : Nat) (h : badProb v = true ∨ badProb u = true) : daccPos v u r = (false, flagDIN) :=
  if_pos (by simpa using h)
theorem scaled_mul (neg : Bool) (k m : Nat) (e q : Int) : scaled neg (k * m) e q = k * scaled neg m e q := by
  simp only [scaled]; push_cast; ring
/-- A probability that R170 admits has no sign, or is a zero. -/
theorem scaled_of_prob {a : Bool} {m : Nat} (e q : Int) (h : ¬(a = true ∧ m ≠ 0)) : scaled a m e q = scaled false m e q := by
  cases a with
  | false => rfl
  | true =>
    obtain rfl : m = 0 := by simpa using h
    simp [scaled]
theorem daccPos_admitted {a b : Bool} {m n : Nat} (e f : Int) (r : Nat) (ha : ¬(a = true ∧ m ≠ 0)) (hb : ¬(b = true ∧ n ≠ 0)) : daccPos (.num a m e) (.num b n f) r =
    (decide (scaled false n f (min e f) ≤ scaled false m e (min e f) ∨ r * scaled false n f (min e f) < scaled false m e (min e f) * 2 ^ 24), 0) := by
  have hp : badProb (.num a m e) = false := by rw [← Bool.not_eq_true, badProb_num]; exact ha
  have hq : badProb (.num b n f) = false := by rw [← Bool.not_eq_true, badProb_num]; exact hb
  have hbelow : vLt (.num a m e) (.num b n f) = decide (scaled false m e (min e f) < scaled false n f (min e f)) := by
    rw [← scaled_of_prob e _ ha, ← scaled_of_prob f _ hb]; rfl
  have hdraw : vLt (vMul (Val.ofInt r) (.num b n f)).1 (vMul (.num a m e) (Val.ofInt (2 ^ 24))).1 =
      decide (r * scaled false n f (min e f) < scaled false m e (min e f) * 2 ^ 24) := by
    have hr : (vMul (Val.ofInt r) (.num b n f)).1 = .num b (r * n) f := by simp [Val.ofInt, vMul, Int.not_lt.mpr (Int.natCast_nonneg r)]
    have h24 : (vMul (.num a m e) (Val.ofInt (2 ^ 24))).1 = .num a (2 ^ 24 * m) e := by simp [Val.ofInt, vMul, mul_comm]
    have hlt : vLt (.num b (r * n) f) (.num a (2 ^ 24 * m) e) = decide (scaled b (r * n) f (min f e) < scaled a (2 ^ 24 * m) e (min f e)) := rfl
    rw [hr, h24, hlt, min_comm f e, scaled_mul, scaled_mul, scaled_of_prob e _ ha, scaled_of_prob f _ hb, mul_comm (2 ^ 24 : Nat).cast]
    norm_cast
  simp only [daccPos, hp, hq, hbelow, hdraw, Bool.or_self, Bool.false_eq_true, if_false, ← decide_not, not_lt, Bool.decide_or]

/-! ## DACC (R396) -/

/-- The register of supplied draws, where the form has one, and the draws. -/
def daccDraws (w : VEC) (s : State) : List Grp := if w.sub = 0 then [] else [readGroup s w.c 1]
def daccDraw (w : VEC) (s : State) : List Nat :=
  if w.sub = 0 then (List.range (readGroup s (w.imm.extractLsb' 0 7) 1).ll).map fun i => nbits (hashr (rdS s w.a).v ((rdS s w.b).v + BitVec.ofNat 64 i)).toNat 40 24
  else (elementsOf ((readGroup s w.c 1).runs 12)).map (· % 2 ^ 24)
/-- The types and the lengths that DACC asks of its operands. -/
def DaccTypes (gp gq : Grp) (gr : List Grp) : Prop := gp.etOk 14 = true ∧ gq.etOk 14 = true ∧ ∀ g ∈ gr, g.etOk 12 = true ∨ g.etOk 13 = true
def DaccLengths (gp gq : Grp) (gr : List Grp) : Prop := gp.ll = gq.ll ∧ ∀ g ∈ gr, g.ll = gp.ll
/-- The positions' answers. -/
def daccAnswers (w : VEC) (s : State) : List (Bool × Flags) :=
  let p := (elementsOf ((readGroup s (w.imm.extractLsb' 0 7) 1).runs 14)).map (fmtS.decode (ftzOn (curBank s)))
  let q := (elementsOf ((readGroup s (w.imm.extractLsb' 7 7) 1).runs 14)).map (fmtS.decode (ftzOn (curBank s)))
  (List.zip p (List.zip q (daccDraw w s))).map fun e => daccPos e.1 e.2.1 e.2.2
def daccPoi (w : VEC) (s : State) : Bool :=
  (readGroup s (w.imm.extractLsb' 0 7) 1).poi || (readGroup s (w.imm.extractLsb' 7 7) 1).poi || (daccDraws w s).any Grp.poi ||
    (decide (w.sub = 0) && ((rdS s w.a).poi || (rdS s w.b).poi))

theorem daccBody_eq (w : VEC) (s : State) : daccBody w s = (do
    let gp := readGroup s (w.imm.extractLsb' 0 7) 1
    let gq := readGroup s (w.imm.extractLsb' 7 7) 1
    staleCheck ([gp, gq] ++ daccDraws w s)
    check (gp.etOk 14 && gq.etOk 14 && (daccDraws w s).all fun g => g.etOk 12 || g.etOk 13) 0x09 4 0
    check (gp.ll = gq.ll && (daccDraws w s).all fun g => g.ll = gp.ll) 0x09 0 0
    check (gp.ll ≤ 64) 0x09 1 0
    let ws ← writeMask s (w.imm.extractLsb' 14 4).toNat ((daccAnswers w s).map fun e => (e.1.toNat, 1)) (daccPoi w s)
    .ok { s := s, writes := wrS w.d (BitVec.ofNat 64 (((daccAnswers w s).map Prod.fst).takeWhile id).length) (daccPoi w s) ++ ws,
          flags := flagsOr ((daccAnswers w s).map Prod.snd), bound := 32 }) := by
  by_cases h : w.sub = 0
  · have hsup : (w.sub != 0) = false := by rw [h]; rfl
    simp only [daccBody, daccAnswers, daccPoi, daccDraws, daccDraw, if_pos h, decide_eq_true h, hsup, Bool.false_eq_true, if_false, Bool.not_false]
  · have hsup : (w.sub != 0) = true := bne_iff_ne.mpr h
    simp only [daccBody, daccAnswers, daccPoi, daccDraws, daccDraw, if_neg h, decide_eq_false h, hsup, if_true, Bool.not_true, List.flatMap_cons, List.flatMap_nil,
      List.append_nil]

section
variable {gp gq : Grp} {gr : List Grp}
theorem daccTypes_iff : (gp.etOk 14 && gq.etOk 14 && gr.all fun g => g.etOk 12 || g.etOk 13) = true ↔ DaccTypes gp gq gr := by
  simp only [DaccTypes, Bool.and_eq_true, List.all_eq_true, Bool.or_eq_true, and_assoc]
theorem daccLengths_iff : (gp.ll = gq.ll && gr.all fun g => g.ll = gp.ll) = true ↔ DaccLengths gp gq gr := by
  simp only [DaccLengths, Bool.and_eq_true, List.all_eq_true, decide_eq_true_eq]
end

section
variable {w : VEC} {s : State} {gp gq : Grp} (hp : readGroup s (w.imm.extractLsb' 0 7) 1 = gp) (hq : readGroup s (w.imm.extractLsb' 7 7) 1 = gq)
include hp hq

theorem daccBody_stale {x : Stop} (h : staleCheck ([gp, gq] ++ daccDraws w s) = .error x) : daccBody w s = .error x := by
  rw [daccBody_eq]
  simp only [hp, hq, h, error_bind]
variable (hs : staleCheck ([gp, gq] ++ daccDraws w s) = .ok ())
include hs
theorem daccBody_types (h : ¬DaccTypes gp gq (daccDraws w s)) : daccBody w s = .error (.trap 0x09 4 0) := by
  rw [← daccTypes_iff, Bool.not_eq_true] at h
  rw [daccBody_eq]
  simp only [hp, hq, hs, ok_bind, h, check_false, error_bind]
variable (ht : DaccTypes gp gq (daccDraws w s))
include ht
theorem daccBody_lengths (h : ¬DaccLengths gp gq (daccDraws w s)) : daccBody w s = .error (.trap 0x09 0 0) := by
  rw [← daccLengths_iff, Bool.not_eq_true] at h
  rw [daccBody_eq]
  simp only [hp, hq, hs, ok_bind, daccTypes_iff.mpr ht, check_true, h, check_false, error_bind]
variable (hl : DaccLengths gp gq (daccDraws w s))
include hl
theorem daccBody_long (h : 64 < gp.ll) : daccBody w s = .error (.trap 0x09 1 0) := by
  rw [daccBody_eq]
  simp only [hp, hq, hs, ok_bind, daccTypes_iff.mpr ht, check_true, daccLengths_iff.mpr hl, decide_eq_false (not_le.mpr h), check_false, error_bind]
/-- DACC past its checks: the accepted mask, where its register takes it, and how many positions are accepted before the first that is not. -/
theorem daccBody_answers (h : gp.ll ≤ 64) : daccBody w s = (do
    let ws ← writeMask s (w.imm.extractLsb' 14 4).toNat ((daccAnswers w s).map fun e => (e.1.toNat, 1)) (daccPoi w s)
    .ok { s := s, writes := wrS w.d (BitVec.ofNat 64 (((daccAnswers w s).map Prod.fst).takeWhile id).length) (daccPoi w s) ++ ws,
          flags := flagsOr ((daccAnswers w s).map Prod.snd), bound := 32 }) := by
  rw [daccBody_eq]
  simp only [hp, hq, hs, ok_bind, daccTypes_iff.mpr ht, check_true, daccLengths_iff.mpr hl, decide_eq_true h]
end

/-! ## The obligation -/

/-- Settles O40, word by word: the masks' operations, the elements that are counted, DACC's checks in their order, and its positions. -/
theorem maskWords : Obligations.MaskWords := by
  intro w s ma mb pred
  refine ⟨fun hi => issue_elemMask hi (maskOp_two w s (· &&& ·)), fun hi => issue_elemMask hi (maskOp_two w s (· ||| ·)), fun hi => issue_elemMask hi (maskOp_two w s (· ^^^ ·)),
    fun hi => issue_elemMask hi (maskOp_one w s fun x _ => 1 - x), fun hi => issue_elemMask hi (maskOp_one w s fun x _ => x), fun h => by rw [← readMask_zero s, ← h],
    fun h => readMask_pos s (Nat.pos_iff_ne_zero.mp h), fun n => maskElems_ok, fun i h hi => ⟨fun x hx => counts_stop h hi (maskElems_stale hx), ?_, fun ha hp => ?_⟩,
    fun l n p h => ⟨fun hi => issue_ok hi (kcntBody_ok h), fun hi => issue_ok hi (kfirstBody_ok h)⟩, fun hi => ?_, fun a b m n e f r => ?_, fun v u r h => ?_⟩
  · rintro hs ⟨a, b, ha, hb, hne⟩
    exact counts_stop h hi (maskElems_lengths hs ha hb hne)
  · exact counts_stop h hi (maskElems_illegal ha hp)
  · refine ⟨fun x hx => issue_stop hi (daccBody_stale rfl rfl hx), fun hs => ⟨fun ht => issue_stop hi (daccBody_types rfl rfl hs ht),
      fun ht hl => issue_stop hi (daccBody_lengths rfl rfl hs ht hl), fun ht hl h => issue_stop hi (daccBody_long rfl rfl hs ht hl h), fun ht hl h => ⟨fun x hx => ?_, fun ws hws => ?_⟩⟩⟩
    · exact issue_stop hi ((daccBody_answers rfl rfl hs ht hl h).trans (bind_of_error hx _))
    · exact issue_ok hi ((daccBody_answers rfl rfl hs ht hl h).trans (bind_of_ok hws _))
  · by_cases h : (a = true ∧ m ≠ 0) ∨ (b = true ∧ n ≠ 0)
    · rw [if_pos h]
      exact daccPos_refused r (h.imp (badProb_num a m e).mpr (badProb_num b n f).mpr)
    · rw [if_neg h]
      exact daccPos_admitted e f r (not_or.mp h).1 (not_or.mp h).2
  · refine daccPos_refused r ?_
    obtain h | h | h | h := h
    · exact .inl (badProb_of_not_num (.inl h))
    · exact .inl (badProb_of_not_num (.inr h))
    · exact .inr (badProb_of_not_num (.inl h))
    · exact .inr (badProb_of_not_num (.inr h))
end Sys2Proof.Laws
end

section
/-! SUPPORT. The narrow formats' statement (R154-R157) at a descriptor whose SPV is none of 00 to 11. -/
namespace Sys2Proof.Laws
open Sys2Proof.Machine Sys2Proof.Safety

/-- A descriptor of five bits with an SPV that no two-bit field holds: the statement takes SPV as any number, R155 refuses 3 alone, and no rule says what 4 means. -/
def widerSpv : NDesc := { e := 2, m := 2, s := true, spv := 4, bias := 0, ovs := false }
theorem widerSpv_legal : widerSpv.legal = true := by decide
/-- The model has no NaN code for it and rounds a NaN to 0, without IO. -/
theorem round_nan_widerSpv (rm : Nat) (sig : Bool) : widerSpv.round rm (.nan sig) = (0, 0) := rfl

/-- Refutes O35: under `widerSpv`, an SPV of 4, a NaN rounds to code 0, where the clause of the narrow formats gives the NaN code of SPV 10, here 14. -/
theorem not_integerElementArithmetic : ¬ Obligations.IntegerElementArithmetic := by
  rintro ⟨hnarrow, -⟩
  obtain ⟨-, hnan, -⟩ := hnarrow widerSpv 0 widerSpv_legal (Nat.zero_le 4)
  have hcode : ((0, 0) : Nat × Flags) = (14, 0) := (round_nan_widerSpv 0 false).symm.trans (hnan false)
  exact absurd hcode (by decide)
end Sys2Proof.Laws
end

section
/-! SUPPORT. A row sum of the array on a word that a strand waits on (R256, R436): the write frees the wait's entry. -/
namespace Sys2Proof.Laws
open Sys2Proof.Machine Sys2Proof.Safety

/-- MROWSUM .row of one row, by core 0, into the word at the start of its scratchpad. -/
def rowSumCmd : MCmd := { w := .mrowsum ⟨⟨0, 0, false⟩, 0, 0, 0, 0, 0, 0, 0, 0, 0, 0, 0⟩, core := 0, task := 0, bank := 0, ent := 0 }
/-- A wait of a strand of core 0 on that word, at scope CORE: its entry is in the cluster's wait table (R256). -/
def scratchWait : WaitEnt := { key := .word (scratchPa 0 0), task := 0, st := some .e, core := 0 }
def waitingState : State := { clusters := [(0, { waits := [scratchWait] })] }

/-- An entry is freed when it is woken (R256), and the write of the sum wakes this one. -/
theorem waits_rowSum : (clusterOf waitingState 0).waits = [scratchWait] ∧ (clusterOf (runUnit waitingState rowSumCmd 0 false) 0).waits = [] := by decide

/-- Refutes O43: its clause on MROWSUM (and so that on MDRAIN to the scratchpad) has the unit leave every cluster as it is, but the unit's write may wake a wait on the bytes that it
writes, and then the cluster's wait table has lost the entry. -/
theorem not_arrayCommandWords : ¬ Obligations.ArrayCommandWords := by
  rintro ⟨-, -, -, hunits, -⟩
  obtain ⟨-, -, -, -, hrowsum, -⟩ := hunits waitingState rowSumCmd 0 false
  obtain ⟨hclusters, -⟩ := hrowsum rfl rfl
  obtain ⟨hbefore, hafter⟩ := waits_rowSum
  have hsame : clusterOf (runUnit waitingState rowSumCmd 0 false) 0 = clusterOf waitingState 0 := congrArg (tget · 0 {}) hclusters
  rw [hsame, hbefore] at hafter
  exact absurd hafter (by decide)
end Sys2Proof.Laws
end

section
/-! SUPPORT. The reductions, the segments and the scan (R177-R179, R495-R497): what each body answers behind its checks. -/
namespace Sys2Proof.Laws
open Sys2Proof.Machine Sys2Proof.Safety

/-! ## The pieces of a reduction -/

/-- A piece holds one value of each list that is aligned. -/
theorem length_of_mem_align {k : Nat} {ls : List (List Run)} {p : List Nat × Nat} (h : p ∈ align k ls) : p.1.length = ls.length := by
  induction k generalizing ls with
  | zero => simp [align] at h
  | succ k ih =>
    rw [align] at h
    split at h
    · simp at h
    · obtain rfl | h := List.mem_cons.mp h
      · exact List.length_map _
      · exact (ih h).trans (List.length_map _)

section
variable {s : State} {w : VEC} {gs : List Grp} {l : List (List Nat × Nat)} {raw : Nat} {p : Bool}

/-- The pieces that a reduction folds are among those of its groups and the predicate. -/
theorem mem_of_reducePieces (h : reducePieces s w gs = .ok (l, raw, p)) {e : List Nat × Nat} (he : e ∈ l) :
    e ∈ piecesAligned (gs.map (fun g => g.canon (vet w)) ++ (predMask s w).toList.map Grp.joined) := by
  simp only [reducePieces, bind, Except.bind] at h
  repeat' split at h
  all_goals simp only [reduceCtorEq, Except.ok.injEq, Prod.mk.injEq] at h
  obtain ⟨rfl, -, -⟩ := h
  exact List.mem_of_mem_filter he

/-- Of a group's pieces the first value is the whole of what the reduction reads. -/
theorem firstValues_eq {g : Grp} (h : reducePieces s w [g] = .ok (l, raw, p)) : (l.flatMap fun e => e.1.take 1) = l.map fun e => e.1.headD 0 := by
  have hone : ∀ e ∈ l, e.1.take 1 = [e.1.headD 0] := fun e he => by
    have hlen := length_of_mem_align (mem_of_reducePieces h he)
    obtain ⟨v, t, hv⟩ := List.exists_cons_of_length_pos (l := e.1) (by rw [hlen]; simp)
    rw [hv]; rfl
  rw [List.flatMap_congr hone, List.map_eq_flatMap]

theorem reduceBody_ok {fn : Nat} (h : reducePieces s w [readGroup s w.a (vg w)] = .ok (l, raw, p)) : reduceBody fn w s =
    .ok (reduceOut s w fn (l.foldl (fun x e => accOp fn (vctx s w) x (e.1.headD 0) e.2) .none_) (sigFlag (vctx s w) (l.flatMap fun e => e.1.take 1)) raw p) := by
  rw [firstValues_eq h, reduceBody, h, ok_bind]
theorem reduceBody_error {fn : Nat} {x : Stop} (h : reducePieces s w [readGroup s w.a (vg w)] = .error x) : reduceBody fn w s = .error x := by
  rw [reduceBody, h, error_bind]
theorem vrdotBody_ok (h : reducePieces s w [readGroup s w.a (vg w), readGroup s w.b (vg w)] = .ok (l, raw, p)) : vrdotBody w s =
    .ok (reduceOut s w 0 (l.foldl (fun x e => accDot (vctx s w) x (e.1.getD 0 0) (e.1.getD 1 0) e.2) .none_) (sigFlag (vctx s w) (l.flatMap fun e => e.1.take 2)) raw p) := by
  rw [vrdotBody, h, ok_bind]
theorem vrdotBody_error {x : Stop} (h : reducePieces s w [readGroup s w.a (vg w), readGroup s w.b (vg w)] = .error x) : vrdotBody w s = .error x := by
  rw [vrdotBody, h, error_bind]
end

/-! ## The checks of a segmented word -/

/-- The checks of VSEGSUM, VSEGMAX and VSCAN, in their order (R178, R179). -/
def segChecks (w : VEC) (s : State) : Except Stop Unit := do
  staleCheck (readGroup s w.a (vg w) :: (readMask s w.c.toNat).toList)
  etCheck [readGroup s w.a (vg w)] (vet w)
  check ((readMask s w.c.toNat).all fun k => k.ll = (readGroup s w.a (vg w)).ll) 0x09 2 0

/-- The pieces of a segmented word's source: split at the segments that its mask cuts. -/
def cutPieces (w : VEC) (s : State) (whole : Nat) : List (Nat × Nat × Nat) :=
  segPieces ((readGroup s w.a (vg w)).canon (vet w)) ((readMask s w.c.toNat).map Grp.joined) whole

/-- What a segmented word leaves of its results: each a value, its flags and a count. -/
def segOut (w : VEC) (s : State) (r : List ((Nat × Flags) × Nat)) : Except Stop Out := do
  let g := readGroup s w.a (vg w)
  let m := readMask s w.c.toNat
  let ws ← writeGroup s w.d.toNat (vg w) (vet w) (r.map fun e => (e.1.1, e.2)) (g.poi || m.any Grp.poi)
  .ok { s := s, writes := ws, flags := flagsOr (r.map (·.1.2)) ||| sigFlag (vctx s w) ((g.canon (vet w)).map Prod.fst), bound := 48,
        passes := passesOf (piecesAligned (g.runs (vet w) :: m.toList.map Grp.bits)).length 32 }

section
variable {w : VEC} {s : State}

theorem segBody_eq (fn : Nat) : segBody fn w s = (segChecks w s >>= fun _ =>
    segOut w s ((segments (accOp fn (vctx s w)) none (cutPieces w s 1)).map fun e => (accOut (vctx s w) fn e.1, e.2))) := by
  simp only [segBody, segChecks, bind_assoc]; rfl
theorem vscanBody_eq : vscanBody w s = (segChecks w s >>= fun _ =>
    segOut w s ((scanAll (fun x v => accOp w.sub.toNat (vctx s w) x v 1) 0 .none_ (cutPieces w s 0)).map fun a => (accOut (vctx s w) w.sub.toNat a, 1))) := by
  simp only [vscanBody, segChecks, segOut, cutPieces, bind_assoc, List.map_map]; rfl

theorem segmented_stop {i : Instr} (h : i = .vsegsum w ∨ i = .vsegmax w ∨ i = .vscan w) (hi : issues i s = true) {x : Stop} (hx : segChecks w s = .error x) :
    exec i s = .next (stopWord i x s) := by
  rcases h with rfl | rfl | rfl
  · exact issue_stop (body := segBody 0 w) hi (by rw [segBody_eq, hx, error_bind])
  · exact issue_stop (body := segBody 1 w) hi (by rw [segBody_eq, hx, error_bind])
  · exact issue_stop (body := vscanBody w) hi (by rw [vscanBody_eq, hx, error_bind])

theorem segChecks_stale (h : (readGroup s w.a (vg w)).stale = true) : segChecks w s = .error (.trap 0x0A 0 (readGroup s w.a (vg w)).code) := by
  rw [segChecks, staleCheck_cons_stale _ h, error_bind]

variable (hg : (readGroup s w.a (vg w)).stale = false)
include hg

theorem segChecks_staleMask {k : Grp} (hm : readMask s w.c.toNat = some k) (hk : k.stale = true) : segChecks w s = .error (.trap 0x0A 0 k.code) := by
  have hcheck : staleCheck [readGroup s w.a (vg w), k] = .error (.trap 0x0A 0 k.code) := by
    rw [staleCheck, hg]
    exact staleCheck_cons_stale [] hk
  rw [segChecks, hm, Option.toList_some, hcheck, error_bind]

variable (hm : ∀ k ∈ readMask s w.c.toNat, k.stale = false)
include hm

theorem staleCheck_segmented : staleCheck (readGroup s w.a (vg w) :: (readMask s w.c.toNat).toList) = .ok () :=
  staleCheck_ok (List.forall_mem_cons.mpr ⟨hg, fun k hk => hm k (Option.mem_toList.mp hk)⟩)
theorem segChecks_type (ht : (readGroup s w.a (vg w)).etOk (vet w) = false) : segChecks w s = .error (.trap 0x09 4 0) := by
  simp only [segChecks, staleCheck_segmented hg hm, ok_bind, etCheck, List.all_cons, ht, Bool.false_and, check_false, error_bind]

variable (ht : (readGroup s w.a (vg w)).etOk (vet w) = true)
include ht

theorem segChecks_length (hl : ∃ k ∈ readMask s w.c.toNat, k.ll ≠ (readGroup s w.a (vg w)).ll) : segChecks w s = .error (.trap 0x09 2 0) := by
  obtain ⟨k, hk, hne⟩ := hl
  have hall : ((readMask s w.c.toNat).all fun k => k.ll = (readGroup s w.a (vg w)).ll) = false := by
    rw [Option.mem_def.mp hk]
    exact decide_eq_false hne
  simp only [segChecks, staleCheck_segmented hg hm, ok_bind, etCheck, List.all_cons, List.all_nil, ht, Bool.and_true, check_true, hall, check_false]
theorem segChecks_ok (hl : ∀ k ∈ readMask s w.c.toNat, k.ll = (readGroup s w.a (vg w)).ll) : segChecks w s = .ok () := by
  have hall : ((readMask s w.c.toNat).all fun k => k.ll = (readGroup s w.a (vg w)).ll) = true := by
    cases hm : readMask s w.c.toNat with
    | none => rfl
    | some k => exact decide_eq_true (hl k hm)
  simp only [segChecks, staleCheck_segmented hg hm, ok_bind, etCheck, List.all_cons, List.all_nil, ht, Bool.and_true, check_true, hall]
end

/-- Results that their group holds complete the word. -/
theorem segOut_ok {w : VEC} {s : State} {r : List ((Nat × Flags) × Nat)} {ws : List Write}
    (hw : writeGroup s w.d.toNat (vg w) (vet w) (r.map fun e => (e.1.1, e.2)) ((readGroup s w.a (vg w)).poi || (readMask s w.c.toNat).any Grp.poi) = .ok ws) :
    segOut w s r = .ok
      { s := s, writes := ws, flags := flagsOr (r.map (·.1.2)) ||| sigFlag (vctx s w) (((readGroup s w.a (vg w)).canon (vet w)).map Prod.fst), bound := 48,
        passes := passesOf (piecesAligned ((readGroup s w.a (vg w)).runs (vet w) :: (readMask s w.c.toNat).toList.map Grp.bits)).length 32 } := by
  simp only [segOut, hw, ok_bind]

/-! ## The obligation -/

/-- Settles O39: a reduction is the fold of its pieces, and a segmented word its results behind its three checks. -/
theorem reductionWords : Obligations.ReductionWords := by
  intro w s c a red
  refine ⟨?_, ?_, ?_, ?_, ?_, ?_⟩
  · exact fun hi => ⟨fun _ _ _ h => issue_ok (body := reduceBody 0 w) hi (reduceBody_ok h), fun _ h => issue_stop (body := reduceBody 0 w) hi (reduceBody_error h)⟩
  · exact fun hi => ⟨fun _ _ _ h => issue_ok (body := reduceBody 1 w) hi (reduceBody_ok h), fun _ h => issue_stop (body := reduceBody 1 w) hi (reduceBody_error h)⟩
  · exact fun hi => ⟨fun _ _ _ h => issue_ok (body := reduceBody 2 w) hi (reduceBody_ok h), fun _ h => issue_stop (body := reduceBody 2 w) hi (reduceBody_error h)⟩
  · exact fun hi => ⟨fun _ _ _ h => issue_ok (body := vrdotBody w) hi (vrdotBody_ok h), fun _ h => issue_stop (body := vrdotBody w) hi (vrdotBody_error h)⟩
  · intro m i h hi
    exact ⟨fun hg => segmented_stop h hi (segChecks_stale hg), fun hg k hm hk => segmented_stop h hi (segChecks_staleMask hg hm hk),
      fun hg hm ht => segmented_stop h hi (segChecks_type hg hm ht), fun hg hm ht hl => segmented_stop h hi (segChecks_length hg hm ht hl)⟩
  · intro m hg ht hm
    have hchecks : segChecks w s = .ok () := segChecks_ok hg (fun k hk => (hm k hk).1) ht fun k hk => (hm k hk).2
    refine ⟨fun hi ws hw => ?_, fun hi ws hw => ?_, fun hi ws hw => ?_⟩
    · exact issue_ok (body := segBody 0 w) hi (by rw [segBody_eq, hchecks, ok_bind]; exact segOut_ok hw)
    · exact issue_ok (body := segBody 1 w) hi (by rw [segBody_eq, hchecks, ok_bind]; exact segOut_ok hw)
    · have hvalues : ∀ r : List Acc1, ((r.map fun x => (accOut c w.sub.toNat x, 1)).map fun e : (Nat × Flags) × Nat => (e.1.1, e.2)) =
          (r.map (accOut c w.sub.toNat)).map fun e => (e.1, 1) := fun r => by rw [List.map_map, List.map_map]; rfl
      have hflags : ∀ r : List Acc1, (r.map fun x => (accOut c w.sub.toNat x, 1)).map (·.1.2) = (r.map (accOut c w.sub.toNat)).map (·.2) := fun r => by
        rw [List.map_map, List.map_map]; rfl
      rw [← hvalues] at hw
      rw [← hflags]
      exact issue_ok (body := vscanBody w) hi (by rw [vscanBody_eq, hchecks, ok_bind]; exact segOut_ok hw)
end Sys2Proof.Laws
end

section
/-! SUPPORT. Taking a trap and ERET (R313-R320, R399): the handler that a system core enters and leaves, and the record and the mark that a trap in a task leaves. -/
namespace Sys2Proof.Laws
open Sys2Proof.Machine Sys2Proof.Safety

/-! ## The handler of a system core (R319, R320) -/

/-- E of a core that enters its handler: at the slate of TVEC. -/
def handlerE (k : Core) : StrandSt :=
  { (fgBank k).se with phase := .slate, pc := k.tvec.setWidth 64, repIdx := 0, rep := none, stall := none, park := none, execs := [], claimed := none, sync := 0, ready := (fgBank k).se.busy }
/-- A core that enters its handler, but for E. -/
def handlerCore (cause : W64) (epc tval : Nat) (k : Core) : Core :=
  { k with cause := cause, epc := BitVec.ofNat 57 epc, tval := BitVec.ofNat 64 tval, ppm := k.pm, pie := k.ie, pm := true, ie := false, amStopped := true,
           savedE := (fgBank k).se :: k.savedE }

section
variable (s : State) (c : Nat) (cause : W64) (epc tval : Nat)

theorem coreOf_enterHandler : coreOf (enterHandler s c cause epc tval) c =
    setBank (handlerCore cause epc tval (coreOf s c)) (coreOf s c).fg { fgBank (coreOf s c) with se := handlerE (coreOf s c) } := coreOf_updCore s c _
theorem fgBank_enterHandler : fgBank (coreOf (enterHandler s c cause epc tval) c) = { fgBank (coreOf s c) with se := handlerE (coreOf s c) } := by
  rw [coreOf_enterHandler]; exact fgBank_setBank (handlerCore cause epc tval (coreOf s c)) _
theorem coreOf_enterHandler_ne {d : Nat} (h : d ≠ c) : coreOf (enterHandler s c cause epc tval) d = coreOf s d := coreOf_updCore_ne s _ h
end

/-- E after ERET (R399): of the code `v` that the handler stopped, at `pc`; `e` is E as the handler leaves it. -/
def resumedE (e v : StrandSt) (pc : W64) : StrandSt :=
  let v := { v with flight := e.flight, nextId := e.nextId, late := e.late, stall := none, ready := 0 }
  if v.phase = .run && inSection v.base v.slate pc.toNat then { v with pc := pc, rep := if pc = v.pc then v.rep else none }
  else if v.phase = .again && pc = v.pc then v
  else if v.phase = .run then { execIssued v true false with phase := .slate, pc := pc, repIdx := 0, rep := none }
  else { v with phase := .slate, pc := pc, repIdx := 0, rep := none }

theorem resumedE_pc (e v : StrandSt) (pc : W64) : (resumedE e v pc).pc = pc := by
  rw [resumedE]
  split
  · rfl
  split
  · next hagain =>
    simp only [Bool.and_eq_true, decide_eq_true_eq] at hagain
    exact hagain.2.symm
  split <;> rfl

/-- ERET to the place that the trap stopped gives E back as it was there. -/
theorem resumedE_same {e v : StrandSt} (hf : e.flight = v.flight) (hn : e.nextId = v.nextId) (hl : e.late = v.late)
    (h : (v.phase = .run ∧ inSection v.base v.slate v.pc.toNat = true) ∨ v.phase = .again) : resumedE e v v.pc = { v with stall := none, ready := 0 } := by
  rw [resumedE, hf, hn, hl]
  obtain ⟨hp, hs⟩ | hp := h
  · simp only [hp, hs, decide_true, Bool.and_self, if_true]
  · simp [hp]

theorem coreOf_leaveHandler {s : State} {c : Nat} {v : StrandSt} {l : List StrandSt} (h : (coreOf s c).savedE = v :: l) : coreOf (leaveHandler s c) c =
    setBank { coreOf s c with pm := (coreOf s c).ppm, ie := (coreOf s c).pie, amStopped := false, savedE := l } (coreOf s c).fg
      { fgBank (coreOf s c) with se := resumedE (fgBank (coreOf s c)).se v ((coreOf s c).epc.setWidth 64) } := by
  simp only [leaveHandler, coreOf_updCore, h]
  rfl

theorem setWidth_epc {pc : W64} (h : pc.toNat < 2 ^ 57) : (BitVec.ofNat 57 pc.toNat).setWidth 64 = pc := by
  refine BitVec.eq_of_toNat_eq ?_
  rw [BitVec.toNat_setWidth, BitVec.toNat_ofNat, Nat.mod_eq_of_lt h, Nat.mod_eq_of_lt pc.isLt]

/-- What entering the handler and leaving it at once leave of a core: E's place again, the rest as it was. -/
theorem coreOf_leave_enter (s : State) (c : Nat) (cause : W64) (tval : Nat) {k : Core} {e : StrandSt} (hk : coreOf s c = k) (he : (fgBank k).se = e) (hpc : e.pc.toNat < 2 ^ 57) :
    coreOf (leaveHandler (enterHandler s c cause e.pc.toNat tval) c) c =
      setBank { handlerCore cause e.pc.toNat tval k with pm := k.pm, ie := k.ie, amStopped := false, savedE := k.savedE } k.fg
        { fgBank k with se := resumedE (handlerE k) e e.pc } := by
  have hsaved : (coreOf (enterHandler s c cause e.pc.toNat tval) c).savedE = e :: k.savedE := by rw [coreOf_enterHandler, hk, setBank_savedE, handlerCore, he]
  have hepc : (coreOf (enterHandler s c cause e.pc.toNat tval) c).epc.setWidth 64 = e.pc := by rw [coreOf_enterHandler, setBank_epc]; exact setWidth_epc hpc
  rw [coreOf_leaveHandler hsaved, hepc, fgBank_enterHandler, coreOf_enterHandler, hk]
  by_cases hfg : k.fg = 0 <;> simp [setBank, hfg, handlerCore]

/-! ## A trap, on a system core and in a task (R313-R316, R319) -/

/-- What a trap starts from: a TVAL that the spec does not state takes a free value (log entry 109). -/
def trapFrom (s : State) (cause : Nat) : State := if tvalStated cause then s else useFresh s
/-- TVAL as a trap gives it. -/
def trapTval (s : State) (cause tv : Nat) : Nat := if tvalStated cause then tv else freeAt s 997

theorem trapFrom_fields (s : State) (cause : Nat) : let u := trapFrom s cause
    u.mem = s.mem ∧ u.cores = s.cores ∧ u.clusters = s.clusters ∧ u.dies = s.dies ∧ u.tasks = s.tasks ∧ u.cycle = s.cycle := by
  rw [trapFrom]
  split <;> exact ⟨rfl, rfl, rfl, rfl, rfl, rfl⟩
theorem coreOf_trapFrom (s : State) (cause d : Nat) : coreOf (trapFrom s cause) d = coreOf s d := by
  rw [trapFrom]
  split <;> rfl

/-- A trap in a task: its record posted, and the bank marked. -/
def postTrap (s : State) (c : Nat) (st : Strand) (cause sub tval cursor estat : Nat) : State :=
  updBank (postRecord s (dieOfCore c) (trapRecord s c (coreOf s c).fg (strandNum st) cause sub tval cursor estat) (some c)) c (coreOf s c).fg fun b =>
    { b with trap := some { cause := cause, sub := sub, st := strandNum st, cursor := cursor, at_ := s.cycle }, tretIssued := false }

section
variable {s : State} {c : Nat} {st : Strand} {cause sub tv cursor estat : Nat}

theorem takeTrap_handler (hsys : (coreOf s c).sys = true) (htask : (fgBank (coreOf s c)).task = none) : takeTrap s c st cause sub tv cursor estat =
    enterHandler (trapFrom s cause) c (BitVec.ofNat 64 (cause + 256 * sub)) (strandSel (fgBank (coreOf s c)) st).pc.toNat (trapTval s cause tv) := by
  have hcore := coreOf_trapFrom s cause c
  simp only [takeTrap, trapFrom, trapTval] at hcore ⊢
  simp [hcore, hsys, htask]

/-- In a task a trap posts its record; POISON with subcause 1 also lets the task end as poisoned (R316). -/
theorem takeTrap_record (h : (coreOf s c).sys = false ∨ (fgBank (coreOf s c)).task ≠ none) :
    let u := postTrap (trapFrom s cause) c st cause sub (trapTval s cause tv) cursor estat
    takeTrap s c st cause sub tv cursor estat = match (fgBank (coreOf s c)).task with
      | some t => if cause = 0x15 ∧ sub = 1 then addTodo (updTask u t fun x => { x with failing := some 1 }) failTodo t else u
      | none => u := by
  have hcore := coreOf_trapFrom s cause c
  have hno : ((coreOf s c).sys && (fgBank (coreOf s c)).task.isNone) = false := by
    rw [Bool.and_eq_false_iff]
    exact h.imp_right fun h => Bool.eq_false_iff.mpr fun hn => h (Option.isNone_iff_eq_none.mp hn)
  simp only [takeTrap, trapFrom, trapTval, postTrap] at hcore ⊢
  rw [hcore, if_neg (by simp [hno])]
  rfl

/-- What a trap on a system core without a task leaves. -/
theorem takeTrap_system (hsys : (coreOf s c).sys = true) (htask : (fgBank (coreOf s c)).task = none) :
    let k := coreOf s c
    let b := fgBank k
    let t := takeTrap s c st cause sub tv cursor estat
    coreOf t c = setBank (handlerCore (BitVec.ofNat 64 (cause + 256 * sub)) (strandSel b st).pc.toNat (trapTval s cause tv) k) k.fg { b with se := handlerE k } ∧
      t.mem = s.mem ∧ t.dies = s.dies ∧ t.tasks = s.tasks ∧ ∀ d, d ≠ c → coreOf t d = coreOf s d := by
  intro k b t
  obtain ⟨hmem, -, -, hdies, htasks, -⟩ := trapFrom_fields s cause
  have ht : t = _ := takeTrap_handler hsys htask
  rw [ht]
  refine ⟨?_, hmem, hdies, htasks, fun d hd => ?_⟩
  · rw [coreOf_enterHandler, coreOf_trapFrom]
  · rw [coreOf_enterHandler_ne _ _ _ _ _ hd, coreOf_trapFrom]

theorem postTrap_posts (s : State) (c : Nat) (st : Strand) (cause sub tval cursor estat : Nat) : (dieOf (postTrap s c st cause sub tval cursor estat) (dieOfCore c)).posts =
    (dieOf s (dieOfCore c)).posts ++ [{ img := trapRecord s c (coreOf s c).fg (strandNum st) cause sub tval cursor estat, core := some c }] := by
  show (dieOf (postRecord s _ _ _) _).posts = _
  rw [postRecord, dieOf_updDie]
theorem postTrap_core (s : State) (c : Nat) (st : Strand) (cause sub tval cursor estat : Nat) : coreOf (postTrap s c st cause sub tval cursor estat) c =
    setBank (coreOf s c) (coreOf s c).fg
      { fgBank (coreOf s c) with trap := some { cause := cause, sub := sub, st := strandNum st, cursor := cursor, at_ := s.cycle }, tretIssued := false } :=
  coreOf_updCore (postRecord s _ _ _) c _
theorem postTrap_core_ne (s : State) {c d : Nat} (st : Strand) (cause sub tval cursor estat : Nat) (h : d ≠ c) :
    coreOf (postTrap s c st cause sub tval cursor estat) d = coreOf s d := coreOf_updBank_ne (postRecord s _ _ _) _ _ h

theorem taskOf_updTask_ne (s : State) {i j : Nat} (f : Task → Task) (h : j ≠ i) : taskOf (updTask s i f) j = taskOf s j := by
  rw [taskOf, updTask]
  split
  · exact tget_tset_ne _ _ _ h
  · rfl

/-- What a trap in a task leaves besides the task's own end: a record and a mark. -/
theorem takeTrap_task (h : (coreOf s c).sys = false ∨ (fgBank (coreOf s c)).task ≠ none) :
    let u := postTrap (trapFrom s cause) c st cause sub (trapTval s cause tv) cursor estat
    let t := takeTrap s c st cause sub tv cursor estat
    t.dies = u.dies ∧ t.cores = u.cores ∧ t.mem = s.mem ∧ t.clusters = s.clusters ∧ ((cause ≠ 0x15 ∨ sub ≠ 1) → t.tasks = s.tasks) ∧
      (cause = 0x15 → sub = 1 → ∀ id x, (fgBank (coreOf s c)).task = some id → tfind s.tasks id = some x →
        taskOf t id = { x with failing := some 1 } ∧ ∀ j, j ≠ id → taskOf t j = taskOf s j) := by
  intro u t
  obtain ⟨hmem, -, hclusters, -, htasks, -⟩ := trapFrom_fields s cause
  have ht : t = _ := takeTrap_record h
  have hu : u.tasks = s.tasks := htasks
  cases hb : (fgBank (coreOf s c)).task with
  | none =>
    rw [hb] at ht
    rw [ht]
    exact ⟨rfl, rfl, hmem, hclusters, fun _ => hu, fun _ _ id x hid => nomatch hid⟩
  | some id =>
    rw [hb] at ht
    by_cases hp : cause = 0x15 ∧ sub = 1
    · have ht : t = addTodo (updTask u id fun x => { x with failing := some 1 }) failTodo id := ht.trans (if_pos hp)
      rw [ht]
      refine ⟨updTask_dies u id _, updTask_cores u id _, (updTask_mem u id _).trans hmem, (updTask_clusters u id _).trans hclusters, fun hn => ?_, fun _ _ i x hi hx => ?_⟩
      · exact absurd hp (by omega)
      · obtain rfl : id = i := Option.some.inj hi
        have hfound : tfind u.tasks id = some x := hu ▸ hx
        refine ⟨(taskOf_updTask u id _ (by rw [hfound]; rfl)).trans ?_, fun j hj => (taskOf_updTask_ne u _ hj).trans (by rw [taskOf, hu, taskOf])⟩
        rw [taskOf, tget, hfound]
        rfl
    · have ht : t = u := ht.trans (if_neg hp)
      rw [ht]
      exact ⟨rfl, rfl, hmem, hclusters, fun _ => hu, fun hc hs => absurd ⟨hc, hs⟩ hp⟩
end

/-! ## The strand that traps (R176, R213) -/

theorem trapStrand_waits {s : State} (c sub tval stat : Nat) (h : midPass s = true) : trapStrand s c sub tval stat = stallAs s .other := if_pos h
theorem trapStrand_taken {s : State} (c sub tval stat : Nat) (h : midPass s = false) (hst : s.curSt ≠ .m) : trapStrand s c sub tval stat =
    takeTrap s s.curCore s.curSt c sub tval (match (curStrand s).claimed with | some n => 2 ^ 63 + n | none => 0) stat := by
  simp only [trapStrand, h, if_neg hst, Bool.false_eq_true, if_false]
  rfl
theorem trapStrand_matrix {s : State} (c sub tval stat : Nat) (h : midPass s = false) (hst : s.curSt = .m) :
    let u := modBank (cutMatrix s s.curCore) fun b => { b with mwait := none }
    u.curSt = .m → trapStrand s c sub tval stat = takeTrap u u.curCore .m c sub tval (curBank u).cursor.toNat (leaseWord u u.curCore) := by
  intro u hu
  have hu : (modBank (cutMatrix s s.curCore) fun b => { b with mwait := none }).curSt = .m := hu
  simp only [trapStrand, h, if_pos hst, Bool.false_eq_true, if_false, hu, if_true]
  rfl

/-! ## The obligation -/

/-- Settles O53: a trap enters the handler or posts a record, and ERET puts E back where the handler found it. -/
theorem trapEntryAndReturn : Obligations.TrapEntryAndReturn := by
  refine ⟨fun s c st cause sub tv cursor estat => ?_, fun s c sub tval stat => ?_, fun s c cause tval hpc => ?_⟩
  · intro tval s0 k b t
    refine ⟨fun hsys htask => ?_, fun h => ?_⟩
    · obtain ⟨hcore, hmem, hdies, htasks, hothers⟩ := takeTrap_system (st := st) (cause := cause) (sub := sub) (tv := tv) (cursor := cursor) (estat := estat) hsys htask
      intro k'
      have hk : k' = _ := hcore
      have hbank : fgBank k' = { b with se := handlerE k } := by rw [hk]; exact fgBank_setBank (handlerCore _ _ _ k) _
      rw [hbank, hk]
      exact ⟨setBank_cause .., setBank_epc .., setBank_tval .., setBank_ppm .., setBank_pie .., setBank_pm .., setBank_ie .., setBank_amStopped .., rfl, rfl, rfl, rfl, rfl, rfl,
        rfl, rfl, hmem, hdies, htasks, hothers⟩
    · obtain ⟨hdies, hcores, hmem, hclusters, htasks⟩ := takeTrap_task (st := st) (cause := cause) (sub := sub) (tv := tv) (cursor := cursor) (estat := estat) h
      have hs0 : ∀ d, coreOf s0 d = coreOf s d := coreOf_trapFrom s cause
      have hbase : s0.dies = s.dies ∧ s0.cycle = s.cycle := by
        obtain ⟨-, -, -, hdies0, -, hcycle⟩ := trapFrom_fields s cause
        exact ⟨hdies0, hcycle⟩
      have hdie : dieOf t (dieOfCore c) = dieOf (postTrap s0 c st cause sub tval cursor estat) (dieOfCore c) := congrArg (tget · (dieOfCore c) ({} : Die)) hdies
      have hcore : ∀ d, coreOf t d = coreOf (postTrap s0 c st cause sub tval cursor estat) d := fun d => congrArg (tget · d ({} : Core)) hcores
      have hk : coreOf t c = _ := (hcore c).trans (postTrap_core s0 c st cause sub tval cursor estat)
      rw [hs0, hbase.2] at hk
      refine ⟨?_, ?_, ?_, ?_, hmem, hclusters, fun d hd => ?_, htasks⟩
      · rw [hdie, postTrap_posts, hs0, dieOf, hbase.1, dieOf]
      · rw [hk]; exact fgBank_setBank k _
      · rw [hk]; exact setBank_pm ..
      · rw [hk]; exact setBank_fg ..
      · rw [hcore, postTrap_core_ne _ _ _ _ _ _ _ hd, hs0]
  · exact ⟨trapStrand_waits c sub tval stat, trapStrand_taken c sub tval stat, fun h hst _ hu => trapStrand_matrix c sub tval stat h hst hu⟩
  · intro e k
    have hk : k = _ := coreOf_leave_enter s c cause tval rfl rfl hpc
    have hbank : fgBank k = { fgBank (coreOf s c) with se := resumedE (handlerE (coreOf s c)) e e.pc } := by rw [hk]; exact fgBank_setBank _ _
    rw [hbank, hk]
    refine ⟨setBank_pm .., setBank_ie .., setBank_amStopped .., setBank_savedE .., resumedE_pc .., resumedE_same rfl rfl rfl, rfl, rfl, rfl⟩
end Sys2Proof.Laws
end

section
/-! SUPPORT. What the bytes of a vector load are as elements (R182, R184, R185, R485): rows, pairs and picked elements, and the writes of a load whose bytes are read later. -/
namespace Sys2Proof.Laws
open Sys2Proof.Machine Sys2Proof.Safety

/-! ## Rows and pairs -/

/-- One more row of a dense load: the bytes behind it, and the elements so far. -/
def rowStep (wd : Nat) (a : Nat × List Run) (k : Nat) : Nat × List Run :=
  (a.1 / 256 ^ ((k * wd + 7) / 8), a.2 ++ unpackElems wd k (a.1 % 256 ^ ((k * wd + 7) / 8)))
theorem runs_dense (rows : List Nat) (wd v : Nat) : VForm.runs (.dense rows) wd v = (rows.foldl (rowStep wd) (v, [])).2 := rfl
theorem rowStep_fold (wd : Nat) (rows : List Nat) (v : Nat) (l : List Run) : (rows.foldl (rowStep wd) (v, l)).2 = l ++ VForm.runs (.dense rows) wd v := by
  induction rows generalizing v l with
  | nil => simp [runs_dense]
  | cons k rows ih => rw [runs_dense, List.foldl_cons, List.foldl_cons, rowStep, rowStep, ih, ih, List.nil_append, List.append_assoc]
theorem runs_dense_cons (k : Nat) (rows : List Nat) (wd v : Nat) : VForm.runs (.dense (k :: rows)) wd v =
    unpackElems wd k (v % 256 ^ ceilDiv (k * wd) 8) ++ VForm.runs (.dense rows) wd (v / 256 ^ ceilDiv (k * wd) 8) := by
  rw [runs_dense, List.foldl_cons, rowStep, rowStep_fold, List.nil_append]
  rfl
theorem spreadRuns_unpackElems (wd n v : Nat) : spreadRuns (unpackElems wd n v) = (List.range n).map fun i => v / 2 ^ (wd * i) % 2 ^ wd := by
  simp only [spreadRuns, unpackElems, List.flatMap_map, List.replicate_one, nbits, Nat.shiftRight_eq_div_pow]
  exact List.map_eq_flatMap.symm

section
variable {wd n v : Nat}

theorem runs_pairs_end (h : v / 2 ^ wd % 2 ^ wd = 0) : VForm.runs (.pairs (n + 1)) wd v = [] := by
  simp [VForm.runs, pairsOf, nbits, Nat.shiftRight_eq_div_pow, h]
theorem runs_pairs_cons (h : v / 2 ^ wd % 2 ^ wd ≠ 0) :
    VForm.runs (.pairs (n + 1)) wd v = (v % 2 ^ wd, v / 2 ^ wd % 2 ^ wd) :: VForm.runs (.pairs n) wd (v / 2 ^ (2 * wd)) := by
  simp [VForm.runs, pairsOf, nbits, Nat.shiftRight_eq_div_pow, h, two_mul]
end

/-! ## Picked elements (R173, R485) -/

/-- Where the elements of a piece of `n` come from, from element `a` on. -/
def pickPiece (old : Option (List Run)) (a n : Nat) (on : Bool) : List (Option Nat × Nat) :=
  if on then [(none, n)] else match old with
    | some o => (sliceRuns o a n).map fun r => (some r.1, r.2)
    | none => [(some 0, n)]
/-- Where the elements of pieces come from, the first of which begins at element `a`. -/
def picksFrom (old : Option (List Run)) : Nat → List (Nat × Bool) → List (Option Nat × Nat)
  | _, [] => []
  | a, p :: ps => pickPiece old a p.1 p.2 ++ picksFrom old (a + p.1) ps

theorem pickFold_eq (old : Option (List Run)) (ps : List (Nat × Bool)) (a : Nat) (l : List (Option Nat × Nat)) :
    (ps.foldl (fun a p => (a.1 + p.1, a.2 ++ pickPiece old a.1 p.1 p.2)) (a, l)).2 = l ++ picksFrom old a ps := by
  induction ps generalizing a l with
  | nil => simp [picksFrom]
  | cons p ps ih => rw [List.foldl_cons, ih, picksFrom, List.append_assoc]

/-- The predicate enables the elements of a piece with the values `v`, of which value `k` is the predicate's. -/
def pieceOn (pred : Option (List Run)) (pn : Bool) (k : Nat) (v : List Nat) : Bool := pred.isNone || (v.getD k 0 != 0) != pn
theorem gathPicks_eq (l : List Run) (pred : Option (List Run)) (pn : Bool) (old : Option (List Run)) :
    gathPicks l pred pn old = picksFrom old 0 ((piecesAligned (l :: pred.toList)).map fun p => (p.2, pieceOn pred pn 1 p.1)) :=
  (pickFold_eq old _ 0 []).trans (List.nil_append _)

/-- A list of counts, each with its value, by elements. -/
def spreadCounts {α : Type} (l : List (α × Nat)) : List α := l.flatMap fun e => List.replicate e.2 e.1
/-- Whether each element of pieces is picked. -/
def picked (ps : List (Nat × Bool)) : List Bool := ps.flatMap fun p => List.replicate p.1 p.2

/-- An element that is not picked: the old one at its place, or zero. -/
def keptElem (old : Option (List Run)) (i : Nat) : Nat := match old with | some o => (spreadRuns o).getD i 0 | none => 0

theorem spreadCounts_pickPiece {old : Option (List Run)} {a n : Nat} (on : Bool) (h : ∀ o, old = some o → a + n ≤ (spreadRuns o).length) :
    spreadCounts (pickPiece old a n on) = (List.range n).map fun i => if on then none else some (keptElem old (a + i)) := by
  cases on with
  | true => simp [spreadCounts, pickPiece]
  | false =>
    cases old with
    | none => simp [spreadCounts, pickPiece, keptElem]
    | some o =>
      have hslice : spreadCounts ((sliceRuns o a n).map fun r => (some r.1, r.2)) = (spreadRuns (sliceRuns o a n)).map some := by
        simp [spreadCounts, spreadRuns, List.flatMap_map, List.map_flatMap]
      have hlen := h o rfl
      refine hslice.trans ?_
      rw [spreadRuns_sliceRuns]
      refine List.ext_getElem (by simp; omega) fun i h1 h2 => ?_
      simp only [List.length_map, List.length_range] at h2
      have hat : (spreadRuns o).getD (a + i) 0 = (spreadRuns o)[a + i] := List.getD_eq_getElem _ 0 (by omega)
      simp only [List.getElem_map, List.getElem_take, List.getElem_drop, List.getElem_range, keptElem, hat, Bool.false_eq_true, if_false]

/-- Pieces' picks, element by element. -/
theorem spreadCounts_picksFrom {old : Option (List Run)} (ps : List (Nat × Bool)) (a : Nat) (h : ∀ o, old = some o → a + (picked ps).length ≤ (spreadRuns o).length) :
    spreadCounts (picksFrom old a ps) = (List.range (picked ps).length).map fun i => if (picked ps).getD i false then none else some (keptElem old (a + i)) := by
  induction ps generalizing a with
  | nil => rfl
  | cons p ps ih =>
    have hsplit : picked (p :: ps) = List.replicate p.1 p.2 ++ picked ps := rfl
    have hlen : (picked (p :: ps)).length = p.1 + (picked ps).length := by rw [hsplit, List.length_append, List.length_replicate]
    have hpiece := spreadCounts_pickPiece (old := old) (a := a) (n := p.1) p.2 fun o ho => by have := h o ho; omega
    have hrest := ih (a + p.1) fun o ho => by have := h o ho; omega
    rw [picksFrom, spreadCounts, List.flatMap_append, ← spreadCounts, ← spreadCounts, hpiece, hrest, hlen, List.range_add, List.map_append, List.map_map, hsplit]
    congr 1
    · refine List.map_congr_left fun i hi => ?_
      have hi : i < p.1 := List.mem_range.mp hi
      rw [List.getD_append _ _ _ _ (by simpa using hi), List.getD_replicate _ hi]
    · refine List.map_congr_left fun i _ => ?_
      rw [Function.comp_apply, List.getD_append_right _ _ _ _ (by simp), List.length_replicate, Nat.add_sub_cancel_left, Nat.add_assoc]

/-- A value of each piece, by elements. -/
theorem spreadPieces_mapPieces {α : Type} (f : List Nat → α) (ps : List (List Nat × Nat)) :
    (ps.flatMap fun p => List.replicate p.2 (f p.1)) = (spreadPieces ps).map f := by
  simp [spreadPieces, List.map_flatMap]

/-- The predicate enables element `i`; and so does it in the pieces of what a word aligns with it, behind other lists. -/
def elemOn (pred : Option (List Run)) (pn : Bool) (i : Nat) : Bool := match pred with | none => true | some p => ((spreadRuns p).getD i 0 != 0) != pn
theorem pieceOn_column {ls : List (List Run)} (pred : Option (List Run)) (pn : Bool) (i : Nat) :
    pieceOn pred pn ls.length (column (ls ++ pred.toList) i) = elemOn pred pn i := by
  cases pred with
  | none => rfl
  | some p => simp [pieceOn, column, elemOn]

section
variable {l : List Run} {pred old : Option (List Run)} {n : Nat} (pn : Bool) (hl : (∀ r ∈ l, 0 < r.2) ∧ (spreadRuns l).length = n)
    (hp : ∀ p, pred = some p → (∀ r ∈ p, 0 < r.2) ∧ (spreadRuns p).length = n) (ho : ∀ o, old = some o → (∀ r ∈ o, 0 < r.2) ∧ (spreadRuns o).length = n)
include hl hp ho

/-- R173, R485: an element of VGATH is read where the predicate enables it, and else stands. -/
theorem spreadCounts_gathPicks : spreadCounts (gathPicks l pred pn old) = (List.range n).map fun i =>
    if elemOn pred pn i then none else some (keptElem old i) := by
  have hsame : SameLength ([l] ++ pred.toList) n := by
    intro k hk
    obtain hk | hk := List.mem_append.mp hk
    · obtain rfl := List.mem_singleton.mp hk
      exact hl
    · exact hp k (Option.mem_toList.mp hk)
  obtain ⟨hspread, -⟩ := spreadPieces_piecesAligned (by simp) hsame
  have hpicked : picked ((piecesAligned (l :: pred.toList)).map fun p => (p.2, pieceOn pred pn 1 p.1)) =
      (List.range n).map (elemOn pred pn) := by
    rw [picked, List.flatMap_map, spreadPieces_mapPieces, ← List.singleton_append, hspread, List.map_map]
    exact List.map_congr_left fun i _ => pieceOn_column (ls := [l]) pred pn i
  rw [gathPicks_eq, spreadCounts_picksFrom _ 0 fun o h => by rw [hpicked, (ho o h).2]; simp, hpicked]
  simp only [List.length_map, List.length_range, Nat.zero_add]
  refine List.map_congr_left fun i hi => ?_
  rw [List.getD_eq_getElem _ _ (by simpa using hi)]
  simp
end

/-! ## Bytes that are read later (log entry 10) -/

/-- The parts of a result of the runs `l`, and the register of each. -/
def groupParts (b : Bank) (g et : Nat) (l : List Run) : List (List Run) := chunks (etCap et) g (canonRuns (etMaxCount et) (clean b et l))
def groupWrites (b : Bank) (d g et : Nat) (l : List Run) (poi : Bool) : List Write :=
  (List.zip (List.range g) (groupParts b g et l)).map fun e => .vec (physV b.vrb (d + e.1)) (canonReg et e.2 poi)
/-- The runs fit the group. -/
def fitsGroup (b : Bank) (g et : Nat) (l : List Run) : Bool :=
  decide ((canonRuns (etMaxCount et) (clean b et l)).length ≤ g * etCap et) && (groupParts b g et l).all fun c => runsTotal c ≤ 16777215

/-- What a result's writes are, when there are some. -/
theorem writeGroup_eq {s : State} {d g et : Nat} {l : List Run} {poi : Bool} {ws : List Write} (h : writeGroup s d g et l poi = .ok ws) :
    fitsGroup (curBank s) g et l = true ∧ ws = groupWrites (curBank s) d g et l poi := by
  by_cases hfit : (canonRuns (etMaxCount et) (clean (curBank s) et l)).length ≤ g * etCap et
  · cases hall : (groupParts (curBank s) g et l).all fun c => runsTotal c ≤ 16777215 with
    | false =>
      rw [groupParts] at hall
      simp only [writeGroup, decide_eq_true hfit, check_true, ok_bind, hall, check_false, error_bind, reduceCtorEq] at h
    | true =>
      refine ⟨by rw [fitsGroup, decide_eq_true hfit, hall]; rfl, ?_⟩
      rw [groupParts] at hall
      simp only [writeGroup, decide_eq_true hfit, check_true, ok_bind, hall, Except.ok.injEq] at h
      exact h.symm
  · rw [writeGroup_runovf (Nat.lt_of_not_le hfit)] at h
    exact absurd h (by simp)

theorem getElem?_groupWrites {b : Bank} {d g et j : Nat} {l : List Run} {poi : Bool} (hj : j < g) : (groupWrites b d g et l poi)[j]? =
    some (.vec (physV b.vrb (d + j)) (canonReg et ((groupParts b g et l).getD j []) poi)) := by
  have hlen : (groupParts b g et l).length = g := chunks_length ..
  have hpart : (groupParts b g et l)[j]? = some ((groupParts b g et l).getD j []) := by
    rw [List.getD_eq_getElem _ _ (by omega)]
    exact List.getElem?_eq_getElem _
  have hzip : (List.zip (List.range g) (groupParts b g et l))[j]? = some (j, (groupParts b g et l).getD j []) := by
    rw [List.getElem?_zip_eq_some]
    exact ⟨by simp [hj], hpart⟩
  rw [groupWrites, List.getElem?_map, hzip]
  rfl
theorem length_groupWrites (b : Bank) (d g et : Nat) (l : List Run) (poi : Bool) : (groupWrites b d g et l poi).length = g := by
  simp [groupWrites, groupParts, chunks_length]

/-- R268: a load that reads its bytes later writes what it would have written at its issue. -/
theorem fill_eq {s : State} {d g et v : Nat} {f : VForm} {p poi p0 : Bool} {ws0 ws : List Write} {l0 : List Run} (hf : f ≠ .raw)
    (h0 : writeGroup s d g et l0 p0 = .ok ws0) (h : writeGroup s d g et (f.runs (etWidth et) v) (p || poi) = .ok ws) :
    VLoad.fill { et := et, wd := valWidth (curBank s) et, g := g, form := f, poi := poi } ws0 v p = ws := by
  obtain ⟨-, rfl⟩ := writeGroup_eq h0
  obtain ⟨hfit, rfl⟩ := writeGroup_eq h
  refine (if_pos hfit).trans (List.ext_getElem? fun j => ?_)
  by_cases hj : j < g
  · have hzip : (List.zip (List.range (groupWrites (curBank s) d g et l0 p0).length) (groupWrites (curBank s) d g et l0 p0))[j]? =
        some (j, .vec (physV (curBank s).vrb (d + j)) (canonReg et ((groupParts (curBank s) g et l0).getD j []) p0)) := by
      rw [List.getElem?_zip_eq_some, length_groupWrites]
      exact ⟨by simp [hj], getElem?_groupWrites hj⟩
    rw [List.getElem?_map, hzip, getElem?_groupWrites hj]
    simp only [Option.map_some, VLoad.write, if_neg hf]
    rfl
  · rw [List.getElem?_eq_none (by simp [length_groupWrites]; omega), List.getElem?_eq_none (by rw [length_groupWrites]; omega)]
end Sys2Proof.Laws
end

section
/-! SUPPORT. Which bytes a vector store writes and poisons (R183, R184, R261): stretches of enabled bytes, cut at atoms and joined. -/
namespace Sys2Proof.Laws
open Sys2Proof.Machine Sys2Proof.Safety

/-! ## The bytes of elements (R183) -/

/-- Some stretch holds byte `i`. -/
def Covered (l : List Stretch) (i : Nat) : Prop := ∃ e ∈ l, e.1 ≤ i ∧ i < e.1 + e.2.1

theorem covered_nil (i : Nat) : ¬ Covered [] i := by simp [Covered]
theorem covered_cons (e : Stretch) (l : List Stretch) (i : Nat) : Covered (e :: l) i ↔ (e.1 ≤ i ∧ i < e.1 + e.2.1) ∨ Covered l i := by simp [Covered]
theorem covered_append (l k : List Stretch) (i : Nat) : Covered (l ++ k) i ↔ Covered l i ∨ Covered k i := by simp [Covered, or_and_right, exists_or]

/-- The bytes that element `k` of width `wd` touches. -/
def InElem (wd k i : Nat) : Prop := k * wd / 8 ≤ i ∧ i < ceilDiv ((k + 1) * wd) 8

/-- The bytes from the first of `n` elements to the last are those that the elements touch. -/
theorem between_elems {wd a n i : Nat} (hn : 0 < n) : (a * wd / 8 ≤ i ∧ i < ceilDiv ((a + n) * wd) 8) ↔ ∃ k, k < n ∧ InElem wd (a + k) i := by
  constructor
  · rintro ⟨hlo, hhi⟩
    induction n with
    | zero => omega
    | succ n ih =>
      obtain rfl | hn := Nat.eq_zero_or_pos n
      · exact ⟨0, by omega, hlo, hhi⟩
      · by_cases h : i < ceilDiv ((a + n) * wd) 8
        · obtain ⟨k, hk, hin⟩ := ih hn h
          exact ⟨k, by omega, hin⟩
        · refine ⟨n, by omega, ?_, hhi⟩
          rw [ceilDiv] at h
          omega
  · rintro ⟨k, hk, hlo, hhi⟩
    have hfirst : a * wd ≤ (a + k) * wd := Nat.mul_le_mul_right _ (by omega)
    have hlast : (a + k + 1) * wd ≤ (a + n) * wd := Nat.mul_le_mul_right _ (by omega)
    rw [ceilDiv] at hhi ⊢
    omega

/-- The stretches of pieces of elements, the first of which begins at element `a`: each piece has a count, and stands or not, poisoned or not. -/
def stretchesFrom (wd : Nat) : Nat → List (Nat × Bool × Bool) → List Stretch
  | _, [] => []
  | a, p :: ps =>
    (if p.2.1 then [(a * wd / 8, ceilDiv ((a + p.1) * wd) 8 - a * wd / 8, p.2.2)] else []) ++ stretchesFrom wd (a + p.1) ps

theorem stretchFold_eq (wd : Nat) (ps : List (Nat × Bool × Bool)) (a : Nat) (l : List Stretch) :
    (ps.foldl (fun (a : Nat × List Stretch) p => (a.1 + p.1,
      if p.2.1 then a.2 ++ [(a.1 * wd / 8, ceilDiv ((a.1 + p.1) * wd) 8 - a.1 * wd / 8, p.2.2)] else a.2)) (a, l)).2 = l ++ stretchesFrom wd a ps := by
  induction ps generalizing a l with
  | nil => simp [stretchesFrom]
  | cons p ps ih =>
    rw [List.foldl_cons, ih, stretchesFrom]
    split <;> simp

/-- The pieces of a group's elements under a predicate. -/
def storePieces (g : Grp) (pred : Option Grp) (pn : Bool) : List (Nat × Bool × Bool) :=
  (piecesAligned (((g.regs.map fun r => (r.poi.toNat, r.ll.toNat)).filter fun r => r.2 != 0) :: pred.toList.map Grp.bits)).map fun p =>
    (p.2, pieceOn (pred.map Grp.bits) pn 1 p.1, p.1.headD 0 == 1)
theorem groupStretches_eq (wd : Nat) (g : Grp) (pred : Option Grp) (pn : Bool) : groupStretches wd g pred pn = stretchesFrom wd 0 (storePieces g pred pn) := by
  rw [← List.nil_append (stretchesFrom _ _ _), ← stretchFold_eq, storePieces, List.foldl_map]
  cases pred <;> rfl

/-- Which elements of pieces stand. -/
def standing (ps : List (Nat × Bool × Bool)) : List Bool := ps.flatMap fun p => List.replicate p.1 p.2.1

theorem covered_stretchesFrom {wd : Nat} {ps : List (Nat × Bool × Bool)} (h : ∀ p ∈ ps, 0 < p.1) (a i : Nat) :
    Covered (stretchesFrom wd a ps) i ↔ ∃ k, (standing ps)[k]? = some true ∧ InElem wd (a + k) i := by
  induction ps generalizing a with
  | nil => simp [stretchesFrom, standing, covered_nil]
  | cons p ps ih =>
    obtain ⟨hp, hps⟩ := List.forall_mem_cons.mp h
    have hhead : Covered (if p.2.1 then [(a * wd / 8, ceilDiv ((a + p.1) * wd) 8 - a * wd / 8, p.2.2)] else []) i ↔
        ∃ k, k < p.1 ∧ p.2.1 = true ∧ InElem wd (a + k) i := by
      cases hon : p.2.1 with
      | false => simp [covered_nil]
      | true =>
        have hb := between_elems (wd := wd) (a := a) (i := i) hp
        simp only [if_true, covered_cons, covered_nil, or_false, true_and]
        rw [← hb]
        omega
    rw [stretchesFrom, covered_append, hhead, ih hps]
    have hstand : standing (p :: ps) = List.replicate p.1 p.2.1 ++ standing ps := rfl
    rw [hstand]
    constructor
    · rintro (⟨k, hk, hon, hin⟩ | ⟨k, hk, hin⟩)
      · exact ⟨k, by rw [List.getElem?_append_left (by simpa using hk), List.getElem?_replicate, if_pos hk, hon], hin⟩
      · refine ⟨p.1 + k, ?_, by rwa [← Nat.add_assoc]⟩
        rw [List.getElem?_append_right (by simp), List.length_replicate, Nat.add_sub_cancel_left, hk]
    · rintro ⟨k, hk, hin⟩
      by_cases hlt : k < p.1
      · rw [List.getElem?_append_left (by simpa using hlt), List.getElem?_replicate, if_pos hlt] at hk
        exact .inl ⟨k, hlt, Option.some.inj hk, hin⟩
      · rw [List.getElem?_append_right (by simpa using hlt), List.length_replicate] at hk
        exact .inr ⟨k - p.1, hk, by rwa [show a + p.1 + (k - p.1) = a + k by omega]⟩

theorem spreadRuns_members {g : Grp} {n : Nat} (h : g.ll = n) : let m : List Run := (g.regs.map fun r => (r.poi.toNat, r.ll.toNat)).filter fun r => r.2 != 0
    (∀ r ∈ m, 0 < r.2) ∧ (spreadRuns m).length = n := by
  intro m
  refine ⟨fun r hr => Nat.pos_of_ne_zero (by simpa using (List.mem_filter.mp hr).2), ?_⟩
  rw [spreadRuns_filter, ← runsTotal_eq, runsTotal, List.foldl_map]
  exact h

/-- R183: the bytes of a store are those of the elements that the predicate enables. -/
theorem covered_groupStretches {g : Grp} {n : Nat} (wd i : Nat) {pred : Option Grp} (pn : Bool) (hg : g.ll = n) (hp : ∀ p, pred = some p → SoundMask p n) :
    Covered (groupStretches wd g pred pn) i ↔ ∃ k, k < n ∧ elemOn (pred.map Grp.bits) pn k = true ∧ InElem wd k i := by
  have hsame : SameLength ([(g.regs.map fun r => (r.poi.toNat, r.ll.toNat)).filter fun r => r.2 != 0] ++ (pred.map Grp.bits).toList) n := by
    intro l hl
    obtain hl | hl := List.mem_append.mp hl
    · obtain rfl := List.mem_singleton.mp hl
      exact spreadRuns_members hg
    · obtain ⟨p, hm, rfl⟩ := Option.map_eq_some_iff.mp (Option.mem_toList.mp hl)
      obtain ⟨-, -, hlen⟩ := hp p hm
      exact ⟨bits_pos p, hlen⟩
  obtain ⟨hspread, hpos⟩ := spreadPieces_piecesAligned (by simp) hsame
  have hlists : ((g.regs.map fun r => (r.poi.toNat, r.ll.toNat)).filter fun r => r.2 != 0) :: pred.toList.map Grp.bits =
      [(g.regs.map fun r => (r.poi.toNat, r.ll.toNat)).filter fun r => r.2 != 0] ++ (pred.map Grp.bits).toList := by
    cases pred <;> rfl
  have hstand : standing (storePieces g pred pn) = (List.range n).map (elemOn (pred.map Grp.bits) pn) := by
    rw [standing, storePieces, List.flatMap_map, hlists, spreadPieces_mapPieces (fun v => pieceOn (pred.map Grp.bits) pn 1 v), hspread, List.map_map]
    exact List.map_congr_left fun i _ => pieceOn_column (ls := [_]) _ pn i
  have hcount : ∀ p ∈ storePieces g pred pn, 0 < p.1 := by
    intro p hp
    rw [storePieces, hlists] at hp
    obtain ⟨q, hq, rfl⟩ := List.mem_map.mp hp
    exact hpos q hq
  have hat : ∀ k, ((List.range n).map (elemOn (pred.map Grp.bits) pn))[k]? = some true ↔ k < n ∧ elemOn (pred.map Grp.bits) pn k = true := fun k => by
    simp [List.getElem?_eq_some_iff]
  rw [groupStretches_eq, covered_stretchesFrom hcount, hstand]
  exact exists_congr fun k => by rw [hat, and_assoc, Nat.zero_add]

/-! ## Stretches cut and joined -/

/-- What of the stretches lies in `n` bytes from `o` is what both hold. -/
theorem covered_cutStretches (l : List Stretch) (o n i : Nat) : Covered (cutStretches l o n) i ↔ Covered l i ∧ o ≤ i ∧ i < o + n := by
  constructor
  · rintro ⟨c, hc, hlo, hhi⟩
    obtain ⟨e, he, rfl⟩ := List.mem_map.mp hc
    simp only at hlo hhi
    exact ⟨⟨e, (List.mem_filter.mp he).1, by omega⟩, by omega⟩
  · rintro ⟨⟨e, he, hlo, hhi⟩, ho, hn⟩
    have hmeet : overlaps e.1 e.2.1 o n = true := by
      simp only [overlaps, Bool.and_eq_true, decide_eq_true_eq]
      omega
    exact ⟨_, List.mem_map_of_mem (List.mem_filter.mpr ⟨he, hmeet⟩), by simp only; omega⟩
theorem poisoned_cutStretches {l : List Stretch} {o n : Nat} (hl : ∀ e ∈ l, 0 < e.2.1) (hn : 0 < n) :
    (cutStretches l o n).any (·.2.2) = true ↔ ∃ e ∈ l, e.2.2 = true ∧ ∃ i, o ≤ i ∧ i < o + n ∧ e.1 ≤ i ∧ i < e.1 + e.2.1 := by
  simp only [cutStretches, List.any_map, List.any_filter, List.any_eq_true, Function.comp_apply, overlaps, Bool.and_eq_true, decide_eq_true_eq]
  refine exists_congr fun e => and_congr_right fun he => ?_
  have hpos := hl e he
  constructor
  · rintro ⟨hmeet, hpoi⟩
    exact ⟨hpoi, max e.1 o, by omega⟩
  · rintro ⟨hpoi, i, hi⟩
    exact ⟨by omega, hpoi⟩
theorem cutStretches_sorted {l : List Stretch} (o n : Nat) (hl : l.Pairwise fun a b => a.1 ≤ b.1) : (cutStretches l o n).Pairwise fun a b => a.1 ≤ b.1 := by
  refine List.pairwise_map.mpr ((hl.filter _).imp fun h => ?_)
  exact max_le_max_right o h

/-- One more stretch in front of joined ones: it takes up the first of them where it reaches it. -/
def joinStretch (e : Stretch) : List Stretch → List Stretch
  | (b, m, q) :: t => if b ≤ e.1 + e.2.1 then (e.1, max (e.1 + e.2.1) (b + m) - e.1, e.2.2 || q) :: t else e :: (b, m, q) :: t
  | [] => [e]
theorem joinStretches_cons (e : Stretch) (l : List Stretch) : joinStretches (e :: l) = joinStretch e (joinStretches l) := by
  rw [joinStretches]
  cases joinStretches l <;> rfl
theorem joinStretch_head (e : Stretch) (l : List Stretch) : ((joinStretch e l).head?.map (·.1)) = some e.1 := by
  rcases l with _ | ⟨⟨b, m, q⟩, t⟩
  · rfl
  · rw [joinStretch]
    split <;> rfl
theorem head_joinStretches (l : List Stretch) : (joinStretches l).head?.map (·.1) = l.head?.map (·.1) := by
  cases l with
  | nil => rfl
  | cons e l => rw [joinStretches_cons, joinStretch_head]; rfl

theorem covered_joinStretch {e : Stretch} {l : List Stretch} (h : ∀ f ∈ l.head?, e.1 ≤ f.1) (i : Nat) : Covered (joinStretch e l) i ↔ Covered (e :: l) i := by
  rcases l with _ | ⟨⟨b, m, q⟩, t⟩
  · rfl
  · have hb : e.1 ≤ b := h _ rfl
    rw [joinStretch]
    split
    · simp only [covered_cons]
      rw [← or_assoc]
      refine or_congr_left ?_
      omega
    · rfl
theorem poisoned_joinStretch (e : Stretch) (l : List Stretch) : (joinStretch e l).any (·.2.2) = (e :: l).any (·.2.2) := by
  rcases l with _ | ⟨⟨b, m, q⟩, t⟩
  · rfl
  · rw [joinStretch]
    split
    · simp [Bool.or_assoc]
    · rfl

/-- Joining stretches leaves the bytes that they hold. -/
theorem covered_joinStretches {l : List Stretch} (hl : l.Pairwise fun a b => a.1 ≤ b.1) (i : Nat) : Covered (joinStretches l) i ↔ Covered l i := by
  induction l with
  | nil => rfl
  | cons e l ih =>
    obtain ⟨he, hl⟩ := List.pairwise_cons.mp hl
    have hhead : ∀ f ∈ (joinStretches l).head?, e.1 ≤ f.1 := fun f hf => by
      have heq := head_joinStretches l
      rw [Option.mem_def.mp hf] at heq
      obtain ⟨g, hg, hgf⟩ := Option.map_eq_some_iff.mp heq.symm
      exact le_of_le_of_eq (he g (List.mem_of_mem_head? hg)) hgf
    rw [joinStretches_cons, covered_joinStretch hhead, covered_cons, covered_cons, ih hl]
theorem poisoned_joinStretches (l : List Stretch) : (joinStretches l).any (·.2.2) = l.any (·.2.2) := by
  induction l with
  | nil => rfl
  | cons e l ih => rw [joinStretches_cons, poisoned_joinStretch, List.any_cons, List.any_cons, ih]

/-! ## Atoms -/

/-- Bytes `a` up to `a + n` of one atom, all that the access to `lo` up to `hi` has of it. -/
def AtomPart (lo hi : Nat) (q : Nat × Nat) : Prop := 0 < q.2 ∧ ∀ b, (q.1 ≤ b ∧ b < q.1 + q.2) ↔ (lo ≤ b ∧ b < hi ∧ b / 32 = q.1 / 32)

theorem piecesAt_atoms {k a n : Nat} (h : n = 0 ∨ a % 32 + n ≤ 32 * k) :
    (∀ q ∈ piecesAt 32 k a n, AtomPart a (a + n) q) ∧ ∀ b, a ≤ b → b < a + n → ∃ q ∈ piecesAt 32 k a n, q.1 ≤ b ∧ b < q.1 + q.2 := by
  induction k generalizing a n with
  | zero => exact ⟨by simp [piecesAt], by omega⟩
  | succ k ih =>
    rw [piecesAt]
    split
    · next h0 => exact ⟨by simp, by omega⟩
    · next h0 =>
      have hfirst : AtomPart a (a + n) (a, min n (32 - a % 32)) := ⟨by simp only; omega, fun b => by simp only; omega⟩
      obtain ⟨hrest, hcover⟩ := ih (a := a + min n (32 - a % 32)) (n := n - min n (32 - a % 32)) (by omega)
      refine ⟨List.forall_mem_cons.mpr ⟨hfirst, fun q hq => ?_⟩, fun b hlo hhi => ?_⟩
      · obtain ⟨hpos, hall⟩ := hrest q hq
        refine ⟨hpos, fun b => ?_⟩
        have hq := hall q.1
        have hb := hall b
        omega
      · by_cases hb : b < a + min n (32 - a % 32)
        · exact ⟨_, List.mem_cons_self, hlo, hb⟩
        · obtain ⟨q, hq, hin⟩ := hcover b (by omega) (by omega)
          exact ⟨q, List.mem_cons_of_mem _ hq, hin⟩
theorem pieces_atoms (a n : Nat) :
    (∀ q ∈ pieces 32 a n, AtomPart a (a + n) q) ∧ ∀ b, a ≤ b → b < a + n → ∃ q ∈ pieces 32 a n, q.1 ≤ b ∧ b < q.1 + q.2 :=
  piecesAt_atoms (.inr (by omega))

/-! ## The stores of a vector word (R183, R261) -/

/-- The stretches of a store at `va` in the part `q` of its bytes. -/
def partStretches (va : Nat) (en : List Stretch) (q : Nat × Nat) : List Stretch := joinStretches (cutStretches en (q.1 - va) q.2)
/-- The store of one stretch. -/
def stretchOp (w : VEC) (x : List Xlat) (va v : Nat) (poi : Bool) (e : Stretch) : MemOp :=
  { vmOp w .store (va + e.1) e.2.1
      ((x.find? fun p => p.va ≤ va + e.1 && va + e.1 < p.va + p.n).map fun p => { p with va := va + e.1, n := e.2.1, pa := p.pa + (va + e.1 - p.va) }).toList with
    data := v / 256 ^ e.1, pdata := poi }

theorem storeOps_atoms {w : VEC} {x : List Xlat} (va n v : Nat) (en : List Stretch) (hx : (x.all fun p => p.kind != .mmio && p.kind != .window) = true) :
    storeOps w x va n v en = (pieces 32 va n).flatMap fun q => (partStretches va en q).map (stretchOp w x va v ((partStretches va en q).any (·.2.2))) := by
  have hkind : ∀ p ∈ x, p.kind ≠ .mmio ∧ p.kind ≠ .window := by simpa using hx
  have hmmio : (x.any fun p => p.kind = .mmio) = false := by simpa [List.any_eq_false] using fun p hp => (hkind p hp).1
  have hwindow : (x.any fun p => p.kind = .window && (x.length != 1 || 32 < p.pa % 32 + p.n)) = false := by
    rw [List.any_eq_false]
    exact fun p hp => by simp [(hkind p hp).2]
  rw [storeOps, hmmio, hwindow]
  rfl

section
variable {va n i : Nat} {en : List Stretch} (hsort : en.Pairwise fun a b => a.1 ≤ b.1) (hen : ∀ e ∈ en, 0 < e.2.1 ∧ e.1 + e.2.1 ≤ n)
include hsort

theorem covered_partStretches (q : Nat × Nat) (i : Nat) : Covered (partStretches va en q) i ↔ Covered en i ∧ q.1 - va ≤ i ∧ i < q.1 - va + q.2 := by
  rw [partStretches, covered_joinStretches (cutStretches_sorted _ _ hsort), covered_cutStretches]

/-- A stretch of a part lies in the part. -/
theorem part_of_stretch {q : Nat × Nat} {e : Stretch} (he : e ∈ partStretches va en q) (hlo : e.1 ≤ i) (hhi : i < e.1 + e.2.1) :
    Covered en i ∧ (q.1 - va ≤ e.1 ∧ e.1 < q.1 - va + q.2) ∧ q.1 - va ≤ i ∧ i < q.1 - va + q.2 := by
  obtain ⟨hi, hin⟩ := (covered_partStretches hsort q i).mp ⟨e, he, hlo, hhi⟩
  obtain ⟨-, hfirst⟩ := (covered_partStretches hsort q e.1).mp ⟨e, he, le_rfl, by omega⟩
  exact ⟨hi, hfirst, hin⟩
include hen

omit hsort in
/-- The bytes of a part that some stretch holds, where they are poisoned: they stand in the atom of the part. -/
theorem poisoned_partStretches {q : Nat × Nat} (hq : AtomPart va (va + n) q) :
    (partStretches va en q).any (·.2.2) = true ↔ ∃ e ∈ en, e.2.2 = true ∧ ∃ j, j < n ∧ (va + j) / 32 = q.1 / 32 ∧ e.1 ≤ j ∧ j < e.1 + e.2.1 := by
  obtain ⟨hpos, hall⟩ := hq
  have hfirst := hall q.1
  rw [partStretches, poisoned_joinStretches, poisoned_cutStretches (fun e he => (hen e he).1) hpos]
  refine exists_congr fun e => and_congr_right fun _ => and_congr_right fun _ => exists_congr fun j => ?_
  have hj := hall (va + j)
  omega

/-- R183, R261: every byte of an enabled stretch is in a store, which holds bytes of its atom alone, and is poisoned where a poisoned stretch touches that atom. -/
theorem storeOps_bytes {w : VEC} {x : List Xlat} (v : Nat) (hx : (x.all fun p => p.kind != .mmio && p.kind != .window) = true) (hi : i < n) :
    let holds := fun (o : MemOp) => o.va ≤ va + i ∧ va + i < o.va + o.n
    ((∃ o ∈ storeOps w x va n v en, holds o) ↔ Covered en i) ∧
    (∀ o ∈ storeOps w x va n v en, holds o → o.kind = .store ∧ o.scope = vmScope w ∧ o.ord = vmOrd w ∧ o.va / 32 = (va + i) / 32 ∧
      o.data / 256 ^ (va + i - o.va) % 256 = v / 256 ^ i % 256 ∧
      (o.pdata = true ↔ ∃ e ∈ en, e.2.2 = true ∧ ∃ j, j < n ∧ (va + j) / 32 = (va + i) / 32 ∧ e.1 ≤ j ∧ j < e.1 + e.2.1)) := by
  intro holds
  obtain ⟨hparts, hcover⟩ := pieces_atoms va n
  rw [storeOps_atoms va n v en hx]
  refine ⟨⟨fun ⟨o, ho, hin⟩ => ?_, fun hc => ?_⟩, fun o ho hin => ?_⟩
  · obtain ⟨q, hq, ho⟩ := List.mem_flatMap.mp ho
    obtain ⟨e, he, rfl⟩ := List.mem_map.mp ho
    have hin : va + e.1 ≤ va + i ∧ va + i < va + e.1 + e.2.1 := hin
    exact (part_of_stretch (va := va) (i := i) hsort he (by omega) (by omega)).1
  · obtain ⟨q, hq, hqi⟩ := hcover (va + i) (by omega) (by omega)
    have hfrom := ((hparts q hq).2 q.1).mp ⟨le_rfl, by have := (hparts q hq).1; omega⟩
    obtain ⟨e, he, hei⟩ := (covered_partStretches (va := va) hsort q i).mpr ⟨hc, by omega⟩
    refine ⟨_, List.mem_flatMap.mpr ⟨q, hq, List.mem_map_of_mem he⟩, ?_⟩
    show va + e.1 ≤ va + i ∧ va + i < va + e.1 + e.2.1
    omega
  · obtain ⟨q, hq, ho⟩ := List.mem_flatMap.mp ho
    obtain ⟨e, he, rfl⟩ := List.mem_map.mp ho
    have hin : va + e.1 ≤ va + i ∧ va + i < va + e.1 + e.2.1 := hin
    obtain ⟨-, hfirst, hlast⟩ := part_of_stretch (va := va) (i := i) hsort he (by omega) (by omega)
    obtain ⟨hpos, hall⟩ := hparts q hq
    have hfrom := (hall q.1).mp ⟨le_rfl, by omega⟩
    have he32 := (hall (va + e.1)).mp (by omega)
    have hi32 := (hall (va + i)).mp (by omega)
    refine ⟨rfl, rfl, rfl, he32.2.2.trans hi32.2.2.symm, ?_, ?_⟩
    · show v / 256 ^ e.1 / 256 ^ (va + i - (va + e.1)) % 256 = v / 256 ^ i % 256
      rw [Nat.div_div_eq_div_mul, ← Nat.pow_add, show e.1 + (va + i - (va + e.1)) = i by omega]
    · rw [hi32.2.2]
      exact poisoned_partStretches hen ⟨hpos, hall⟩
end
end Sys2Proof.Laws
end

section
/-! SUPPORT. The ranges, the loads and the stores of the vector memory words (R231, R261, R266, R268): every page before any effect, then the bytes. -/
namespace Sys2Proof.Laws
open Sys2Proof.Machine Sys2Proof.Safety

/-! ## Every range before any effect -/

section
variable {α β ε : Type} {f : α → Except ε β}

theorem allOk_cons_ok {a : α} {b : β} (l : List α) (h : f a = .ok b) : allOk f (a :: l) = (allOk f l >>= fun r => .ok (b :: r)) := by rw [allOk, h, ok_bind]
theorem allOk_cons_error {a : α} {e : ε} (l : List α) (h : f a = .error e) : allOk f (a :: l) = .error e := by rw [allOk, h, error_bind]

/-- What passes on every element answers what it answers on each. -/
theorem allOk_forall₂ {l : List α} {x : List β} (h : allOk f l = .ok x) : List.Forall₂ (fun a b => f a = .ok b) l x := by
  induction l generalizing x with
  | nil =>
    obtain rfl : [] = x := Except.ok.inj h
    exact .nil
  | cons a l ih =>
    cases ha : f a with
    | error e => rw [allOk_cons_error l ha] at h; cases h
    | ok b =>
      rw [allOk_cons_ok l ha] at h
      cases hl : allOk f l with
      | error e => rw [hl, error_bind] at h; cases h
      | ok r =>
        rw [hl, ok_bind] at h
        obtain rfl : b :: r = x := Except.ok.inj h
        exact .cons ha (ih hl)
/-- The first element that fails is the answer. -/
theorem allOk_first {l₁ l₂ : List α} {a : α} {e : ε} (h : ∀ q ∈ l₁, ∃ b, f q = .ok b) (ha : f a = .error e) : allOk f (l₁ ++ a :: l₂) = .error e := by
  induction l₁ with
  | nil => exact allOk_cons_error l₂ ha
  | cons q l₁ ih =>
    obtain ⟨⟨b, hb⟩, hl⟩ := List.forall_mem_cons.mp h
    rw [List.cons_append, allOk_cons_ok _ hb, ih hl, error_bind]
end

section
variable {s : State} {acc : Acc} {raw : Bool}

/-- The pages of one range. -/
def xlatRange (s : State) (acc : Acc) (raw : Bool) (r : Nat × Nat) : Except PageFault (List Xlat) :=
  if r.2 = 0 then .ok [] else xlatAscending s (curCtx s) acc raw r.1 r.2
theorem xlatRanges_eq (l : List (Nat × Nat)) : xlatRanges s acc raw l = liftFault (allOk (xlatRange s acc raw) l) := rfl

theorem xlatRanges_ok {l : List (Nat × Nat)} {x : List (List Xlat)} (h : xlatRanges s acc raw l = .ok x) : x.length = l.length ∧
    ∀ (j : Nat) (r : Nat × Nat) (p : List Xlat), l[j]? = some r → x[j]? = some p → (r.2 = 0 → p = []) ∧ (r.2 ≠ 0 → xlatAscending s (curCtx s) acc raw r.1 r.2 = .ok p) := by
  have hall : allOk (xlatRange s acc raw) l = .ok x := by
    rw [xlatRanges_eq] at h
    cases hr : allOk (xlatRange s acc raw) l with
    | error f => rw [hr, liftFault_error] at h; cases h
    | ok y => rw [hr, liftFault_ok] at h; exact congrArg _ (Except.ok.inj h)
  obtain ⟨hlen, hget⟩ := List.forall₂_iff_get.mp (allOk_forall₂ hall)
  refine ⟨hlen.symm, fun j r p hr hp => ?_⟩
  obtain ⟨hjl, rfl⟩ := List.getElem?_eq_some_iff.mp hr
  obtain ⟨hjx, rfl⟩ := List.getElem?_eq_some_iff.mp hp
  have hone : xlatRange s acc raw l[j] = .ok x[j] := hget j hjl hjx
  rw [xlatRange] at hone
  refine ⟨fun h0 => ?_, fun h0 => ?_⟩
  · rw [if_pos h0] at hone
    exact (Except.ok.inj hone).symm
  · rwa [if_neg h0] at hone
theorem xlatRanges_first {l₁ l₂ : List (Nat × Nat)} {r : Nat × Nat} {f : PageFault}
    (h : ∀ q ∈ l₁, q.2 = 0 ∨ ∃ p, xlatAscending s (curCtx s) acc raw q.1 q.2 = .ok p) (hr : r.2 ≠ 0) (hf : xlatAscending s (curCtx s) acc raw r.1 r.2 = .error f) :
    xlatRanges s acc raw (l₁ ++ r :: l₂) = .error (.trap f.cause f.sub f.va) := by
  have hbefore : ∀ q ∈ l₁, ∃ p, xlatRange s acc raw q = .ok p := fun q hq => by
    rw [xlatRange]
    split
    · exact ⟨_, rfl⟩
    · next h0 => exact (h q hq).resolve_left h0
  rw [xlatRanges_eq, allOk_first hbefore ((if_neg hr).trans hf), liftFault_error]
end

/-! ## Loads -/

section
variable {w : VEC} {s : State} {l : List (Nat × Nat)} {f : VForm} {poi : Bool} {va n passes : Nat}

theorem vmRead_fault {e : Stop} (h : xlatRanges s .read false l = .error e) : vmRead w s l = .error e := by simp only [vmRead, vmAccess, h, error_bind]
theorem vmLoad_fault {e : Stop} (h : xlatRanges s .read false l = .error e) : vmLoad w s l f poi va n passes = .error e := by simp only [vmLoad, vmAccess, h, error_bind]

/-- The access of a load of the ranges, and the state with its translations used. -/
def loadOp (w : VEC) (l : List (Nat × Nat)) (x : List (List Xlat)) : MemOp :=
  { vmOp w .load ((l.map Prod.fst).headD 0) ((l.map Prod.snd).foldl (· + ·) 0) [] with pieces := x.flatMap piecesOf }
def usedBy (s : State) (x : List (List Xlat)) : State := x.foldl (fun s p => useXlats s (curCtx s) .read false p) s
/-- The bytes that the access reads at its issue, and the state behind them. -/
def readNow (s : State) (o : MemOp) : (Nat × Bool) × State := performOp (drainFor s o) (drainFor s o).curCore (curFg (drainFor s o)) (drainFor s o).curSt o

theorem vmPerform_waits {o : MemOp} (h : waitsBehind s o = true) : vmPerform s o = .error (.stall .other) := if_pos h
theorem vmPerform_ok {o : MemOp} (h : waitsBehind s o = false) : vmPerform s o = .ok (readNow s o) := if_neg (by simp [h])

/-- What a load leaves outstanding: the reply of what it has read, or its access, of a free choice (log entry 10). -/
theorem vmLater_cases (o : MemOp) (y : VLoad) : vmLater w s va n o y = vmReply w va n ∨ vmLater w s va n o y = some { o with kind := .vload y } := by
  rw [vmLater]
  split
  · exact .inr rfl
  · exact .inl rfl

variable {x : List (List Xlat)} (hx : xlatRanges s .read false l = .ok x)
include hx

theorem vmAccess_ok : vmAccess w s l = .ok (loadOp w l x, usedBy s x) := by rw [vmAccess, hx, ok_bind]; rfl
theorem vmRead_waits (h : waitsBehind (usedBy s x) (loadOp w l x) = true) : vmRead w s l = .error (.stall .other) := by
  rw [vmRead, vmAccess_ok hx, ok_bind, vmPerform_waits h]
theorem vmLoad_waits (h : waitsBehind (usedBy s x) (loadOp w l x) = true) : vmLoad w s l f poi va n passes = .error (.stall .other) := by
  rw [vmLoad, vmAccess_ok hx, ok_bind, vmPerform_waits h, error_bind]
theorem vmRead_ok (h : waitsBehind (usedBy s x) (loadOp w l x) = false) : vmRead w s l = .ok (readNow (usedBy s x) (loadOp w l x)) := by
  rw [vmRead, vmAccess_ok hx, ok_bind, vmPerform_ok h]

variable (h : waitsBehind (usedBy s x) (loadOp w l x) = false)
include h

theorem vmLoad_overflow {e : Stop} (hw : let r := readNow (usedBy s x) (loadOp w l x)
      writeGroup s w.d.toNat (vg w) (vet w) (f.runs (etWidth (vet w)) r.1.1) (r.1.2 || poi) = .error e) : vmLoad w s l f poi va n passes = .error e := by
  rw [vmLoad, vmAccess_ok hx, ok_bind, vmPerform_ok h, ok_bind, hw, error_bind]
theorem vmLoad_ok {ws : List Write} (hw : let r := readNow (usedBy s x) (loadOp w l x)
      writeGroup s w.d.toNat (vg w) (vet w) (f.runs (etWidth (vet w)) r.1.1) (r.1.2 || poi) = .ok ws) :
    let r := readNow (usedBy s x) (loadOp w l x)
    vmLoad w s l f poi va n passes = .ok (r.1.2,
      { s := r.2, writes := ws, op := vmLater w s va n (loadOp w l x) { et := vet w, wd := valWidth (curBank s) (vet w), g := vg w, form := f, poi := poi },
        bound := vmBound w, passes := passes }) := by
  rw [vmLoad, vmAccess_ok hx, ok_bind, vmPerform_ok h, ok_bind, hw, ok_bind]
end

/-- A load whose bytes are read at its point (R268): the writes are filled with them and land. -/
theorem performFlight_vload {s : State} {core bank id : Nat} {st : Strand} {f : Flight} {o : MemOp} {x : VLoad}
    (hf : (strandOf s core bank st).flight.find? (fun f => f.id = id && !f.landed) = some f) (ho : f.op = some o) (hk : o.kind = .vload x) :
    let r := performOp s core bank st o
    performFlight s core bank st id = thaw (updBank (updStrand r.2 core bank st fun y =>
      { y with flight := y.flight.map fun g => if g.id = id then { g with writes := x.fill f.writes r.1.1 r.1.2 } else g }) core bank fun b => landFlight b st id (coreTime s core))
      core (freezeTime s core) := by
  simp only [performFlight, hf, ho, hk]

/-! ## Stores -/

/-- The stores of a word: a release alone where they are none. -/
def sentOps (w : VEC) (l : List MemOp) : List MemOp := if l.isEmpty && vmOrd w = 2 then [vmOp w .store 0 0 []] else l

section
variable {w : VEC} {u : State} {l : List MemOp} {loose : Bool} {passes : Nat}

theorem vmStores_fenced (h : (sentOps w l).any (fenced u) = true) : vmStores w u l loose passes = .error (.stall .other) := if_pos h
theorem vmStores_ok (h : (sentOps w l).any (fenced u) = false) : vmStores w u l loose passes = .ok { s := u, stores := sentOps w l, loose := loose, passes := passes } :=
  if_neg (by rw [← sentOps, h]; simp)
theorem sentOps_of_ne_nil (h : l ≠ []) : sentOps w l = l := by
  rw [sentOps, List.isEmpty_eq_false_iff.mpr h]
  rfl
end
end Sys2Proof.Laws
end

section
/-! SUPPORT. The tensor forms of VLD and VST (R184, R488): what they ask of a tile, its rows, and the data of each row. -/
namespace Sys2Proof.Laws
open Sys2Proof.Machine Sys2Proof.Safety

/-! ## Addresses -/

/-- With an order, the address is a multiple of 32 (R478). -/
def OrderedAt (w : VEC) (va : Nat) : Prop := vmOrd w = 0 ∨ va % 32 = 0
theorem vmAligned_ok {w : VEC} {va : Nat} (h : OrderedAt w va) : vmAligned w va = .ok () := by
  rw [vmAligned]
  split
  · rfl
  · next h0 => exact aligned_ok (h.resolve_left h0)
theorem vmAligned_error {w : VEC} {va : Nat} (h : ¬OrderedAt w va) : vmAligned w va = .error (.trap 0x04 0 va) := by
  obtain ⟨h0, h32⟩ := not_or.mp h
  rw [vmAligned, if_neg h0, aligned_error h32]

/-! ## What the tensor forms ask of a tile -/

section
variable {w : VEC} {t : TForm}

theorem alignedRows_ok {l : List (Nat × Nat)} (h : ∀ r ∈ l, OrderedAt w r.1) : (l.foldl (fun r p => do r; vmAligned w p.1) (.ok ()) : Except Stop Unit) = .ok () := by
  induction l with
  | nil => rfl
  | cons r l ih =>
    obtain ⟨hr, hl⟩ := List.forall_mem_cons.mp h
    rw [List.foldl_cons, ok_bind, vmAligned_ok hr]
    exact ih hl

theorem tformRows_layout (h : tagLay t.tag.tag ≠ 0 ∨ (tagSpc t.tag.tag ≠ 0 ∧ tagSpc t.tag.tag ≠ 4)) : tformRows w t = .error (.trap 0x09 4 0) := by
  have hbad : (tagLay t.tag.tag = 0 && (tagSpc t.tag.tag = 0 || tagSpc t.tag.tag = 4)) = false := by
    rw [Bool.and_eq_false_iff, Bool.or_eq_false_iff]
    exact h.imp decide_eq_false fun h => ⟨decide_eq_false h.1, decide_eq_false h.2⟩
  rw [tformRows, hbad, check_false, error_bind]
section
variable (hlay : tagLay t.tag.tag = 0)
include hlay

theorem tformRows_pairs (h : tagSpc t.tag.tag = 4) : tformRows w t = (do
    check (t.row0 = 0 && t.n = tdTr t.e && !tileClipped t.e t.i && tdTcl t.e ≥ 1) 0x09 4 0
    (t.rows (etWidth (vet w))).foldl (fun r p => do r; vmAligned w p.1) (.ok ())) := by
  simp only [tformRows, hlay, h, decide_true, Bool.or_true, Bool.and_self, check_true, ok_bind, if_true]
theorem tformRows_dense (h : tagSpc t.tag.tag = 0) : tformRows w t = (do
    check (t.row0 + t.n ≤ tileRows t.e t.i) 0x09 0 0
    (t.rows (etWidth (vet w))).foldl (fun r p => do r; vmAligned w p.1) (.ok ())) := by
  simp only [tformRows, hlay, h, decide_true, Bool.true_or, Bool.and_self, check_true, ok_bind, if_neg (show (0 : Nat) ≠ 4 by decide)]

theorem tformRows_partTile (h : tagSpc t.tag.tag = 4) (hbad : t.row0 ≠ 0 ∨ t.n ≠ tdTr t.e ∨ tileClipped t.e t.i = true ∨ tdTcl t.e = 0) :
    tformRows w t = .error (.trap 0x09 4 0) := by
  have hall : (t.row0 = 0 && t.n = tdTr t.e && !tileClipped t.e t.i && tdTcl t.e ≥ 1) = false := by
    rw [Bool.eq_false_iff]
    intro hall
    simp only [Bool.and_eq_true, decide_eq_true_eq, Bool.not_eq_true'] at hall
    obtain ⟨⟨⟨h1, h2⟩, h3⟩, h4⟩ := hall
    obtain hb | hb | hb | hb := hbad
    · exact hb h1
    · exact hb h2
    · rw [h3] at hb; cases hb
    · omega
  rw [tformRows_pairs hlay h, hall, check_false, error_bind]
theorem tformRows_beyond (h : tagSpc t.tag.tag = 0) (hbad : tileRows t.e t.i < t.row0 + t.n) : tformRows w t = .error (.trap 0x09 0 0) := by
  rw [tformRows_dense hlay h, decide_eq_false (Nat.not_le.mpr hbad), check_false, error_bind]
theorem tformRows_ok (h : (tagSpc t.tag.tag = 4 ∧ t.row0 = 0 ∧ t.n = tdTr t.e ∧ tileClipped t.e t.i = false ∧ 0 < tdTcl t.e) ∨
      (tagSpc t.tag.tag = 0 ∧ t.row0 + t.n ≤ tileRows t.e t.i)) (hrows : ∀ r ∈ t.rows (etWidth (vet w)), OrderedAt w r.1) : tformRows w t = .ok () := by
  obtain ⟨hspc, h1, h2, h3, h4⟩ | ⟨hspc, hle⟩ := h
  · have hall : (t.row0 = 0 && t.n = tdTr t.e && !tileClipped t.e t.i && tdTcl t.e ≥ 1) = true := by
      simp only [h1, h2, h3, decide_true, Bool.not_false, Bool.and_self, Bool.true_and, decide_eq_true_eq]
      omega
    rw [tformRows_pairs hlay hspc, hall, check_true, ok_bind, alignedRows_ok hrows]
  · rw [tformRows_dense hlay hspc, decide_eq_true hle, check_true, ok_bind, alignedRows_ok hrows]
end
end

/-! ## Packed elements -/

theorem packElems_cons (wd x : Nat) (l : List Nat) : packElems wd (x :: l) = x % 2 ^ wd + 2 ^ wd * packElems wd l := rfl
theorem packElems_lt (wd : Nat) (l : List Nat) : packElems wd l < 2 ^ (wd * l.length) := by
  induction l with
  | nil => exact Nat.one_pos
  | cons x l ih =>
    rw [packElems_cons, List.length_cons, Nat.mul_succ, Nat.add_comm (wd * l.length), Nat.pow_add]
    have hx : x % 2 ^ wd < 2 ^ wd := Nat.mod_lt _ (Nat.two_pow_pos wd)
    calc x % 2 ^ wd + 2 ^ wd * packElems wd l < 2 ^ wd * (packElems wd l + 1) := by rw [Nat.mul_succ]; omega
      _ ≤ 2 ^ wd * 2 ^ (wd * l.length) := Nat.mul_le_mul_left _ ih

/-- A string of pairs, packed (R184). -/
def pairString (wd : Nat) (p : List Run) : Nat := p.foldr (fun r a => r.1 % 2 ^ wd + 2 ^ wd * r.2 + 2 ^ (2 * wd) * a) 0
/-- It is its values and counts packed in turn, and the empty pair behind it. -/
theorem pairString_eq {wd : Nat} {p : List Run} (h : ∀ r ∈ p, r.2 < 2 ^ wd) : pairString wd p = packElems wd ((p.map fun r => [r.1 % 2 ^ wd, r.2]).flatten ++ [0, 0]) := by
  induction p with
  | nil => simp [pairString, packElems]
  | cons r p ih =>
    obtain ⟨hr, hp⟩ := List.forall_mem_cons.mp h
    have hstep : pairString wd (r :: p) = r.1 % 2 ^ wd + 2 ^ wd * r.2 + 2 ^ (2 * wd) * pairString wd p := rfl
    have hlist : ((r :: p).map fun r => [r.1 % 2 ^ wd, r.2]).flatten ++ [0, 0] = r.1 % 2 ^ wd :: r.2 :: ((p.map fun r => [r.1 % 2 ^ wd, r.2]).flatten ++ [0, 0]) := rfl
    rw [hstep, ih hp, hlist, packElems_cons, packElems_cons, Nat.mod_mod, Nat.mod_eq_of_lt hr, two_mul, Nat.pow_add]
    ring
theorem count_canonRuns_lt {et : Nat} {l : List Run} {r : Run} (h : r ∈ canonRuns (etMaxCount et) l) : r.2 < 2 ^ etWidth et :=
  etMaxCount_lt ((canonRuns_isCanon (etMaxCount_pos et) l).counts r h).2

/-- A byte below the bits that another value stands above. -/
theorem byte_below {x y k i : Nat} (h : i < k) : (x % 2 ^ (8 * k) + y * 2 ^ (8 * k)) / 256 ^ i % 256 = x / 256 ^ i % 256 := by
  have hbits : ∀ z : Nat, z / 256 ^ i % 256 = nbits z (8 * i) 8 := fun z => by rw [nbits, Nat.shiftRight_eq_div_pow, Nat.pow_mul]; rfl
  rw [hbits, hbits, ← nbits_mod _ (show 8 * i + 8 ≤ 8 * k by omega), ← nbits_mod x (show 8 * i + 8 ≤ 8 * k by omega), Nat.add_mul_mod_self_right, Nat.mod_mod]

/-! ## The data of each row (R184, R488) -/

/-- The bytes of a string of `n` pairs and of the empty pair behind it, where there is room for `cap` pairs. -/
def stringBytes (wd n cap : Nat) : Nat := (if n < cap then n + 1 else n) * wd / 4
theorem lt_stringBytes {et n cap k i : Nat} (hn : n ≤ cap) (h : 8 * i + 8 ≤ min (2 * etWidth et * (n + 1)) (2 * etWidth et * cap) - 8 * k) : i < stringBytes (etWidth et) n cap - k := by
  rw [stringBytes]
  obtain hw | hw | hw | hw := etWidth_cases et
  all_goals
    rw [hw] at h ⊢
    split <;> omega

section
variable {s : State} {w : VEC} {t : TForm} {g : Grp}

theorem tensorData_overflow (h : tagSpc t.tag.tag = 4) (hlen : t.n * t.clip / 2 < (canonRuns (etMaxCount (vet w)) (g.runs (vet w))).length) :
    tensorData s w t g = .error (.trap 0x08 1 0) := by
  simp only [tensorData, if_pos h, decide_eq_false (Nat.not_le.mpr hlen), check_false, error_bind]
theorem tensorData_length (h : tagSpc t.tag.tag ≠ 4) (hlen : g.ll ≠ t.n * t.clip) : tensorData s w t g = .error (.trap 0x09 0 0) := by
  simp only [tensorData, if_neg h, decide_eq_false hlen, check_false, error_bind]

/-- The rows of a pair string: its bytes in turn, and free values behind it. -/
theorem tensorData_pairs {d : List (Nat × List Stretch)} (h : tagSpc t.tag.tag = 4) (hd : tensorData s w t g = .ok d) :
    let wd := etWidth (vet w)
    let nb := ceilDiv (t.clip * wd) 8
    let p := canonRuns (etMaxCount (vet w)) (g.runs (vet w))
    d.length = t.n ∧ ∀ j r, d[j]? = some r → r.2 = [(0, nb, g.poi)] ∧
      ∀ i, 8 * i + 8 ≤ min (2 * wd * (p.length + 1)) (2 * wd * (t.n * t.clip / 2)) - 8 * nb * j → i < nb →
        r.1 / 256 ^ i % 256 = packElems wd ((p.map fun r => [r.1 % 2 ^ wd, r.2]).flatten ++ [0, 0]) / 256 ^ (nb * j + i) % 256 := by
  intro wd nb p
  have hfit : p.length ≤ t.n * t.clip / 2 := by
    by_contra hlong
    rw [tensorData_overflow h (Nat.lt_of_not_le hlong)] at hd
    cases hd
  let k := fun j => min nb (stringBytes wd p.length (t.n * t.clip / 2) - nb * j)
  have hrows : d = (List.range t.n).map fun j =>
      (nbits (pairString wd p) (8 * nb * j) (8 * k j) + freeAt s (3000 + j) % 2 ^ (8 * (nb - k j)) * 2 ^ (8 * k j), [(0, nb, g.poi)]) := by
    simp only [tensorData, if_pos h] at hd
    rw [show decide ((canonRuns (etMaxCount (vet w)) (g.runs (vet w))).length ≤ t.n * t.clip / 2) = true from decide_eq_true hfit, check_true, ok_bind] at hd
    exact (Except.ok.inj hd).symm
  rw [hrows]
  refine ⟨by simp, fun j r hr => ?_⟩
  obtain ⟨hj, rfl⟩ := List.getElem?_eq_some_iff.mp hr
  rw [List.getElem_map, List.getElem_range]
  refine ⟨rfl, fun i hi hin => ?_⟩
  have hik : i < k j := lt_min hin (lt_stringBytes hfit (by rwa [← Nat.mul_assoc]))
  rw [nbits, byte_below hik, Nat.shiftRight_eq_div_pow, pairString_eq fun r hr => count_canonRuns_lt hr, Nat.mul_assoc, Nat.pow_mul, Nat.div_div_eq_div_mul, ← Nat.pow_add]

/-- The rows of dense elements. -/
theorem tensorData_dense {d : List (Nat × List Stretch)} (h : tagSpc t.tag.tag ≠ 4) (hd : tensorData s w t g = .ok d) :
    let wd := etWidth (vet w)
    d.length = t.n ∧ ∀ j r, d[j]? = some r → r.1 % 2 ^ (t.clip * wd) = packElems wd (((spreadRuns (g.runs (vet w))).drop (j * t.clip)).take t.clip) := by
  intro wd
  have hlen : g.ll = t.n * t.clip := by
    by_contra hlen
    rw [tensorData_length h hlen] at hd
    cases hd
  simp only [tensorData, if_neg h, decide_eq_true hlen, check_true, ok_bind, Except.ok.injEq] at hd
  rw [← hd]
  refine ⟨by simp, fun j r hr => ?_⟩
  obtain ⟨hj, rfl⟩ := List.getElem?_eq_some_iff.mp hr
  rw [List.getElem_map, List.getElem_range]
  have hlt : packElems wd (((spreadRuns (g.runs (vet w))).drop (j * t.clip)).take t.clip) < 2 ^ (t.clip * wd) :=
    (packElems_lt _ _).trans_le (Nat.pow_le_pow_right Nat.two_pos (by rw [Nat.mul_comm wd]; exact Nat.mul_le_mul_right _ (List.length_take_le _ _)))
  simp only
  split
  · exact Nat.mod_eq_of_lt hlt
  · rw [Nat.add_mul_mod_self_right]
    exact Nat.mod_eq_of_lt hlt
end
end Sys2Proof.Laws
end

section
/-! SUPPORT. The vector memory words, check by check (R478, R485, R487, R488, R490, R491): where each body stops, and what it answers behind its checks. -/
namespace Sys2Proof.Laws
open Sys2Proof.Machine Sys2Proof.Safety

/-! ## What the words share -/

/-- A word runs as its body answers. -/
theorem runs_body {i : Instr} {s : State} {body : State → Except Stop Out} {r : Except Stop Out} (he : exec i s = issue i body s) (hi : issues i s = true) (hb : body s = r) :
    Runs i s r := by
  refine ⟨fun o ho => ?_, fun x hx => ?_⟩
  · rw [he]; exact issue_ok hi (hb.trans ho)
  · rw [he]; exact issue_stop hi (hb.trans hx)

section
variable {w : VEC} {s : State}

theorem vecAddr_poisoned (h : (rdS s w.a).poi = true) : vecAddr s w = .error (.trap 0x15 0 0) := by simp only [vecAddr, h, Bool.not_true, check_false, error_bind, causePoison]
theorem vecAddr_ok (h : (rdS s w.a).poi = false) : vecAddr s w = .ok ((rdS s w.a).v + vmOff w).toNat := by simp only [vecAddr, h, Bool.not_false, check_true, ok_bind]
theorem countArg_poisoned {f : BitVec 7} (h : (rdS s f).poi = true) : countArg s f = .error (.trap 0x15 0 0) := by
  simp only [countArg, h, Bool.not_true, check_false, error_bind, causePoison]
theorem countArg_ok {f : BitVec 7} (h : (rdS s f).poi = false) : countArg s f = .ok (rdS s f).v.toNat := by simp only [countArg, h, Bool.not_false, check_true, ok_bind]

theorem etCheck_one (g : Grp) (et : Nat) : etCheck [g] et = check (g.etOk et) 0x09 4 0 := by rw [etCheck, List.all_cons, List.all_nil, Bool.and_true]
theorem staleCheck_cons_fresh {g : Grp} (l : List Grp) (h : g.stale = false) : staleCheck (g :: l) = staleCheck l := by rw [staleCheck, h]; rfl

/-- Every mask that a word names has the length `n`. -/
theorem lengthsAre {o : Option Grp} {n : Nat} (h : ∀ p, o = some p → p.ll = n) : (o.all fun p => p.ll = n) = true := by
  cases o with
  | none => rfl
  | some p => exact decide_eq_true (h p rfl)
theorem lengthsAre_not {p : Grp} {n : Nat} (h : p.ll ≠ n) : ((some p).all fun p => p.ll = n) = false := decide_eq_false h
end

/-! ## VLD, plain (R487) -/

section
variable {w : VEC} {s : State}

theorem vldPlain_poisoned (h : (rdS s w.a).poi = true ∨ (rdS s w.b).poi = true) : vldPlain w s = .error (.trap 0x15 0 0) := by
  cases ha : (rdS s w.a).poi with
  | true => rw [vldPlain, vecAddr_poisoned ha, error_bind]
  | false => rw [vldPlain, vecAddr_ok ha, ok_bind, countArg_poisoned (h.resolve_left (by simp [ha])), error_bind]

variable (ha : (rdS s w.a).poi = false) (hb : (rdS s w.b).poi = false)
include ha hb

theorem vldPlain_misaligned (h : ¬OrderedAt w ((rdS s w.a).v + vmOff w).toNat) : vldPlain w s = .error (.trap 0x04 0 ((rdS s w.a).v + vmOff w).toNat) := by
  rw [vldPlain, vecAddr_ok ha, ok_bind, countArg_ok hb, ok_bind, vmAligned_error h, error_bind]
theorem vldPlain_long (h : OrderedAt w ((rdS s w.a).v + vmOff w).toNat) (hm : 16777215 < (rdS s w.b).v.toNat) : vldPlain w s = .error (.trap 0x09 1 0) := by
  rw [vldPlain, vecAddr_ok ha, ok_bind, countArg_ok hb, ok_bind, vmAligned_ok h, ok_bind, lengthOk, decide_eq_false (Nat.not_le.mpr hm), check_false, error_bind]
theorem vldPlain_ok (h : OrderedAt w ((rdS s w.a).v + vmOff w).toNat) (hm : (rdS s w.b).v.toNat ≤ 16777215) :
    let va := ((rdS s w.a).v + vmOff w).toNat
    let n := ceilDiv ((rdS s w.b).v.toNat * etWidth (vet w)) 8
    vldPlain w s = (Prod.snd <$> vmLoad w s [(va, n)] (.dense [(rdS s w.b).v.toNat]) false va n (passesOf n 512)) := by
  rw [vldPlain, vecAddr_ok ha, ok_bind, countArg_ok hb, ok_bind, vmAligned_ok h, ok_bind, lengthOk, decide_eq_true hm, check_true, ok_bind]
end

/-! ## VST, plain (R487) -/

section
variable {w : VEC} {s : State} {g : Grp} {pred : Option Grp} (hg : readGroup s w.d (vg w) = g) (hp : predMask s w = pred)
include hg hp

theorem vstPlain_stale {x : Stop} (h : staleCheck (g :: pred.toList) = .error x) : vstPlain w s = .error x := by rw [vstPlain, hg, hp, h, error_bind]

variable (hst : staleCheck (g :: pred.toList) = .ok ())
include hst

theorem vstPlain_poisoned (h : (rdS s w.a).poi = true) : vstPlain w s = .error (.trap 0x15 0 0) := by
  rw [vstPlain, hg, hp, hst, ok_bind, vecAddr_poisoned h, error_bind]

variable (ha : (rdS s w.a).poi = false)
include ha

theorem vstPlain_misaligned (h : ¬OrderedAt w ((rdS s w.a).v + vmOff w).toNat) : vstPlain w s = .error (.trap 0x04 0 ((rdS s w.a).v + vmOff w).toNat) := by
  rw [vstPlain, hg, hp, hst, ok_bind, vecAddr_ok ha, ok_bind, vmAligned_error h, error_bind]

variable (hal : OrderedAt w ((rdS s w.a).v + vmOff w).toNat)
include hal

theorem vstPlain_type (h : g.etOk (vet w) = false) : vstPlain w s = .error (.trap 0x09 4 0) := by
  rw [vstPlain, hg, hp, hst, ok_bind, vecAddr_ok ha, ok_bind, vmAligned_ok hal, ok_bind, etCheck_one, h, check_false, error_bind]

variable (ht : g.etOk (vet w) = true)
include ht

theorem vstPlain_odd (hw : etWidth (vet w) = 4) (h : g.ll % 2 = 1) : vstPlain w s = .error (.trap 0x09 0 0) := by
  have hodd : (etWidth (vet w) != 4 || g.ll % 2 = 0) = false := by simp [hw, h]
  simp only [vstPlain, hg, hp, hst, ok_bind, vecAddr_ok ha, vmAligned_ok hal, etCheck_one, ht, check_true, hodd, check_false, error_bind]

variable (heven : etWidth (vet w) = 4 → g.ll % 2 = 0)
include heven

/-- VST behind the checks of its data: the predicate's length, its pages, its stores. -/
theorem vstPlain_data : vstPlain w s = (do
    check (pred.all fun p => p.ll = g.ll) 0x09 2 0
    let va := ((rdS s w.a).v + vmOff w).toNat
    let n := ceilDiv (g.ll * etWidth (vet w)) 8
    let x := (← xlatRanges s .write true [(va, n)]).flatten
    vmStores w (useXlats s (curCtx s) .write true x)
      (storeOps w x va n (packElems (etWidth (vet w)) (spreadRuns (g.runs (vet w)))) (groupStretches (etWidth (vet w)) g pred w.hdr.pn)) true
      (passesOf (piecesAligned (g.runs (vet w) :: pred.toList.map Grp.bits)).length 32)) := by
  have hev : (etWidth (vet w) != 4 || g.ll % 2 = 0) = true := by
    rw [Bool.or_eq_true, decide_eq_true_eq]
    by_cases h : etWidth (vet w) = 4
    · exact .inr (heven h)
    · exact .inl (bne_iff_ne.mpr h)
  simp only [vstPlain, hg, hp, hst, ok_bind, vecAddr_ok ha, vmAligned_ok hal, etCheck_one, ht, check_true, hev]

theorem vstPlain_length {p : Grp} (h : pred = some p) (hl : p.ll ≠ g.ll) : vstPlain w s = .error (.trap 0x09 2 0) := by
  rw [vstPlain_data hg hp hst ha hal ht heven, h, lengthsAre_not hl, check_false, error_bind]

variable (hl : ∀ p, pred = some p → p.ll = g.ll)
include hl

theorem vstPlain_fault {x : Stop} (h : xlatRanges s .write true [(((rdS s w.a).v + vmOff w).toNat, ceilDiv (g.ll * etWidth (vet w)) 8)] = .error x) :
    vstPlain w s = .error x := by
  simp only [vstPlain_data hg hp hst ha hal ht heven, lengthsAre hl, check_true, ok_bind, h, error_bind]
theorem vstPlain_sends {x : List (List Xlat)} (h : xlatRanges s .write true [(((rdS s w.a).v + vmOff w).toNat, ceilDiv (g.ll * etWidth (vet w)) 8)] = .ok x) :
    let va := ((rdS s w.a).v + vmOff w).toNat
    vstPlain w s = vmStores w (useXlats s (curCtx s) .write true x.flatten)
      (storeOps w x.flatten va (ceilDiv (g.ll * etWidth (vet w)) 8) (packElems (etWidth (vet w)) (spreadRuns (g.runs (vet w)))) (groupStretches (etWidth (vet w)) g pred w.hdr.pn)) true
      (passesOf (piecesAligned (g.runs (vet w) :: pred.toList.map Grp.bits)).length 32) := by
  simp only [vstPlain_data hg hp hst ha hal ht heven, lengthsAre hl, check_true, ok_bind, h]
end

/-! ## VLDP and VSTP (R490) -/

section
variable {w : VEC} {s : State}

theorem vldpBody_poisoned (h : (rdS s w.a).poi = true) : vldpBody w s = .error (.trap 0x15 0 0) := by rw [vldpBody, vecAddr_poisoned h, error_bind]
theorem vstpBody_poisoned (h : (rdS s w.a).poi = true) : vstpBody w s = .error (.trap 0x15 0 0) := by rw [vstpBody, vecAddr_poisoned h, error_bind]

variable (ha : (rdS s w.a).poi = false)
include ha

theorem vldpBody_misaligned (h : ¬OrderedAt w ((rdS s w.a).v + vmOff w).toNat) : vldpBody w s = .error (.trap 0x04 0 ((rdS s w.a).v + vmOff w).toNat) := by
  rw [vldpBody, vecAddr_ok ha, ok_bind, vmAligned_error h, error_bind]
theorem vstpBody_misaligned (h : ¬OrderedAt w ((rdS s w.a).v + vmOff w).toNat) : vstpBody w s = .error (.trap 0x04 0 ((rdS s w.a).v + vmOff w).toNat) := by
  rw [vstpBody, vecAddr_ok ha, ok_bind, vmAligned_error h, error_bind]

variable (hal : OrderedAt w ((rdS s w.a).v + vmOff w).toNat)
include hal

theorem vldpBody_fault {x : Stop} (h : xlatRanges s .read false [(((rdS s w.a).v + vmOff w).toNat, 512 * vg w)] = .error x) : vldpBody w s = .error x := by
  simp only [vldpBody, vecAddr_ok ha, ok_bind, vmAligned_ok hal, vmAccess, h, error_bind]
theorem vstpBody_fault {x : Stop} (h : xlatRanges s .write true [(((rdS s w.a).v + vmOff w).toNat, 512 * vg w)] = .error x) : vstpBody w s = .error x := by
  simp only [vstpBody, vecAddr_ok ha, ok_bind, vmAligned_ok hal, h, error_bind]
theorem vstpBody_ok {x : List (List Xlat)} (h : xlatRanges s .write true [(((rdS s w.a).v + vmOff w).toNat, 512 * vg w)] = .ok x) :
    let g := readGroup s w.d (vg w)
    vstpBody w s = vmStores w (useXlats s (curCtx s) .write true x.flatten)
      (storeOps w x.flatten ((rdS s w.a).v + vmOff w).toNat (512 * vg w) (g.regs.foldr (fun r a => r.pairs.toNat + 2 ^ 4096 * a) 0)
        ((List.zip (List.range (vg w)) g.regs).map fun e => (512 * e.1, 512, e.2.poi))) true (vg w) := by
  simp only [vstpBody, vecAddr_ok ha, ok_bind, vmAligned_ok hal, h]

/-- VLDP's registers hold the bytes raw, and are stale. -/
theorem vldpBody_ok {r : (Nat × Bool) × State} (h : vmRead w s [(((rdS s w.a).v + vmOff w).toNat, 512 * vg w)] = .ok r) : ∃ op, vldpBody w s = .ok
    { s := useFresh r.2,
      writes := (List.range (vg w)).map fun j => Write.vec (physV (curBank s).vrb (w.d.toNat + j)) (rawReg s j w.et (nbits r.1.1 (4096 * j) 4096) r.1.2),
      op := op, bound := classBound (vmDc w), passes := vg w } := by
  cases hacc : vmAccess w s [(((rdS s w.a).v + vmOff w).toNat, 512 * vg w)] with
  | error e => rw [vmRead, hacc, error_bind] at h; cases h
  | ok a =>
    rw [vmRead, hacc, ok_bind] at h
    refine ⟨vmLater w s ((rdS s w.a).v + vmOff w).toNat (512 * vg w) a.1 { et := vet w, wd := 0, g := vg w, form := .raw }, ?_⟩
    simp only [vldpBody, vecAddr_ok ha, ok_bind, vmAligned_ok hal, hacc, h, vmBound]
end

theorem toNat_ofNat_mod (n x : Nat) : (BitVec.ofNat n (x % 2 ^ n)).toNat = x % 2 ^ n := by rw [BitVec.toNat_ofNat, Nat.mod_mod]
theorem rawReg_pairs (s : State) (j : Nat) (et : BitVec 4) (v lo : Nat) (p : Bool) : (rawReg s j et (nbits v lo 4096) p).pairs.toNat = v / 2 ^ lo % 2 ^ 4096 := by
  rw [← Nat.shiftRight_eq_div_pow]
  exact toNat_ofNat_mod 4096 (v >>> lo)

/-! ## VLD and VST, tensor (R488) -/

/-- A tile that VLD takes: of the element type's format and descriptor, its tag known and not stale. -/
def UsableTile (s : State) (w : VEC) (t : TForm) : Prop :=
  tagFmt t.tag.tag = etFmtCode (vet w) ∧ (vet w = 4 → (curBank s).fd0 = tdNda t.e) ∧ (vet w = 5 → (curBank s).fd1 = tdNdb t.e) ∧ tagUnk t.tag.tag = false ∧ t.stale = false
/-- The load of a tile's rows. -/
def tileLoad (w : VEC) (t : TForm) (u : State) : Except Stop (Bool × Out) :=
  let wd := etWidth (vet w)
  let n := ceilDiv (t.clip * wd) 8 * t.n
  vmLoad w u (t.rows wd) (if tagSpc t.tag.tag = 4 then .pairs (t.n * t.clip / 2) else .dense (List.replicate t.n t.clip)) (tagPoi t.tag.tag || t.tag.poi)
    (((t.rows wd).map Prod.fst).headD 0) n (passesOf n 512)

section
variable {w : VEC} {s u : State} {t : TForm}

theorem vldTensor_form {x : Stop} (h : tensorForm w s = .error x) : vldTensor w s = .error x := by rw [vldTensor, h, error_bind]

/-- The check of VLD's tile. -/
theorem vldTensor_eq (hf : tensorForm w s = .ok (t, u)) : ∃ ok : Bool, (ok = true ↔ UsableTile s w t) ∧ vldTensor w s = (do
    check ok 0x09 4 0
    tformRows w t
    Prod.snd <$> tileLoad w t u) := by
  have hnd : (if vet w = 4 then (curBank s).fd0 = tdNda t.e else if vet w = 5 then (curBank s).fd1 = tdNdb t.e else True) ↔
      (vet w = 4 → (curBank s).fd0 = tdNda t.e) ∧ (vet w = 5 → (curBank s).fd1 = tdNdb t.e) := by
    split
    · next h => simp [h]
    · next h => split <;> simp_all
  refine ⟨_, ?_, by rw [vldTensor, hf, ok_bind]; rfl⟩
  simp only [Bool.and_eq_true, decide_eq_true_eq, Bool.not_eq_true', hnd, UsableTile, and_assoc]

theorem vldTensor_unusable (hf : tensorForm w s = .ok (t, u)) (h : ¬UsableTile s w t) : vldTensor w s = .error (.trap 0x09 4 0) := by
  obtain ⟨ok, hok, heq⟩ := vldTensor_eq hf
  rw [heq, Bool.eq_false_iff.mpr (hok.not.mpr h), check_false, error_bind]
theorem vldTensor_usable (hf : tensorForm w s = .ok (t, u)) (h : UsableTile s w t) : vldTensor w s = (tformRows w t >>= fun _ => Prod.snd <$> tileLoad w t u) := by
  obtain ⟨ok, hok, heq⟩ := vldTensor_eq hf
  rw [heq, hok.mpr h, check_true, ok_bind]

/-! The rows of VST's tile with their data, and its stores (R70, R488). -/

def tileRowData (w : VEC) (t : TForm) (d : List (Nat × List Stretch)) : List (Nat × Nat × Nat × List Stretch) :=
  (List.zip (t.rows (etWidth (vet w))) d).filterMap fun (e : (Nat × Nat) × Nat × List Stretch) =>
    let n : Nat := (e.2.2.getLast?.map fun (q : Stretch) => q.1 + q.2.1).getD 0
    if n = 0 then none else some (e.1.1, n, e.2)
def tileStores (w : VEC) (t : TForm) (rows : List (Nat × Nat × Nat × List Stretch)) (x : List (List Xlat)) : List MemOp :=
  ((List.zip rows x).flatMap fun e => storeOps w e.2 e.1.1 e.1.2.1 e.1.2.2.1 e.1.2.2.2).map fun o => { o with typed := 1 + etFmtCode (vet w) + tagSpc t.tag.tag * 2 ^ 5 }
/-- The state with the translations of VST's rows used, and the tiles that they touch claimed. -/
def usedTyped (w : VEC) (s u : State) (x : List (List Xlat)) : State :=
  x.foldl (fun t p => useTyped t (curCtx t) ((curBank s).task.getD 0) (etWidth (vet w)) p) u

variable {g : Grp} (hg : readGroup s w.d (vg w) = g)
include hg

theorem vstTensor_stale (h : g.stale = true) : vstTensor w s = .error (.trap 0x0A 0 g.code) := by rw [vstTensor, hg, staleCheck_cons_stale _ h, error_bind]

variable (hst : g.stale = false)
include hst

theorem vstTensor_form {x : Stop} (h : tensorForm w s = .error x) : vstTensor w s = .error x := by
  rw [vstTensor, hg, staleCheck_cons_fresh _ hst, staleCheck, ok_bind, h, error_bind]

/-- VST behind its tile. -/
theorem vstTensor_eq (hf : tensorForm w s = .ok (t, u)) : vstTensor w s = (do
    tformRows w t
    check (g.etOk (vet w)) 0x09 4 0
    let d ← tensorData s w t g
    let x ← xlatRanges u .write false ((tileRowData w t d).map fun r => (r.1, r.2.1))
    let ops := tileStores w t (tileRowData w t d) x
    if ops.any (fenced (usedTyped w s u x)) then .error (.stall .other) else vmStores w (useFresh (usedTyped w s u x)) ops true (passesOf g.rc 32)) := by
  rw [vstTensor, hg, staleCheck_cons_fresh _ hst, staleCheck, ok_bind, hf, ok_bind]
  simp only [etCheck_one]
  rfl

variable (hf : tensorForm w s = .ok (t, u))
include hf

theorem vstTensor_rows {x : Stop} (h : tformRows w t = .error x) : vstTensor w s = .error x := by rw [vstTensor_eq hg hst hf, h, error_bind]

variable (hr : tformRows w t = .ok ())
include hr

theorem vstTensor_type (h : g.etOk (vet w) = false) : vstTensor w s = .error (.trap 0x09 4 0) := by
  rw [vstTensor_eq hg hst hf, hr, ok_bind, h, check_false, error_bind]

variable (ht : g.etOk (vet w) = true)
include ht

theorem vstTensor_data {x : Stop} (h : tensorData s w t g = .error x) : vstTensor w s = .error x := by
  rw [vstTensor_eq hg hst hf, hr, ok_bind, ht, check_true, ok_bind, h, error_bind]

variable {d : List (Nat × List Stretch)} (hd : tensorData s w t g = .ok d)
include hd

theorem vstTensor_fault {x : Stop} (h : xlatRanges u .write false ((tileRowData w t d).map fun r => (r.1, r.2.1)) = .error x) : vstTensor w s = .error x := by
  rw [vstTensor_eq hg hst hf, hr, ok_bind, ht, check_true, ok_bind, hd, ok_bind, h, error_bind]

variable {x : List (List Xlat)} (hx : xlatRanges u .write false ((tileRowData w t d).map fun r => (r.1, r.2.1)) = .ok x)
include hx

theorem vstTensor_fenced (h : (tileStores w t (tileRowData w t d) x).any (fenced (usedTyped w s u x)) = true) : vstTensor w s = .error (.stall .other) := by
  rw [vstTensor_eq hg hst hf, hr, ok_bind, ht, check_true, ok_bind, hd, ok_bind, hx, ok_bind]
  exact if_pos h
/-- Stores that no fence holds are left outstanding. -/
theorem vstTensor_sends (hne : tileStores w t (tileRowData w t d) x ≠ []) (h : (tileStores w t (tileRowData w t d) x).any (fenced (usedTyped w s u x)) = false) :
    vstTensor w s = .ok { s := useFresh (usedTyped w s u x), stores := tileStores w t (tileRowData w t d) x, loose := true, passes := passesOf g.rc 32 } := by
  have hsent : (sentOps w (tileStores w t (tileRowData w t d) x)).any (fenced (useFresh (usedTyped w s u x))) = false := by
    rw [sentOps_of_ne_nil hne]
    exact h
  rw [vstTensor_eq hg hst hf, hr, ok_bind, ht, check_true, ok_bind, hd, ok_bind, hx, ok_bind]
  refine (if_neg (by rw [h]; exact Bool.false_ne_true)).trans ((vmStores_ok hsent).trans ?_)
  rw [sentOps_of_ne_nil hne]
end

/-! ## VLDRG (R491) -/

/-- The lengths that VLDRG's table gives, its rows, and the bytes of both. -/
def raggedLens (w : VEC) (s : State) (v : Nat) : List Nat := (List.range (nbits (rdS s w.c).v.toNat 0 16)).map fun j => nbits v (16 * j) 16
def raggedRows (w : VEC) (s : State) (lens : List Nat) : List (Nat × Nat) :=
  (List.zip (List.range (nbits (rdS s w.c).v.toNat 0 16)) lens).map fun e =>
    (wrapN 64 ((rdS s w.a).v.toNat + e.1 * sintN 32 (nbits (rdS s w.c).v.toNat 32 32)), ceilDiv (e.2 * etWidth (vet w)) 8)
/-- The load of VLDRG's rows behind its table. -/
def raggedLoad (w : VEC) (s : State) (t : (Nat × Bool) × State) : Except Stop (Bool × Out) :=
  let lens := raggedLens w s t.1.1
  let rows := raggedRows w s lens
  let all := 2 * nbits (rdS s w.c).v.toNat 0 16 + (rows.map Prod.snd).foldl (· + ·) 0
  vmLoad w t.2 rows (.dense lens) t.1.2 (rdS s w.b).v.toNat all (passesOf all 512)
/-- Where its rows start, as a mask. -/
def raggedStarts (lens : List Nat) : List Run := lens.flatMap fun k => if k = 0 then [] else [(1, 1), (0, k - 1)]

section
variable {w : VEC} {s : State}

theorem vldrgBody_poisoned (h : (rdS s w.a).poi = true ∨ (rdS s w.b).poi = true ∨ (rdS s w.c).poi = true) : vldrgBody w s = .error (.trap 0x15 0 0) := by
  cases ha : (rdS s w.a).poi with
  | true => rw [vldrgBody, countArg_poisoned ha, error_bind]
  | false =>
    cases hb : (rdS s w.b).poi with
    | true => rw [vldrgBody, countArg_ok ha, ok_bind, countArg_poisoned hb, error_bind]
    | false =>
      have hc : (rdS s w.c).poi = true := by simpa [ha, hb] using h
      rw [vldrgBody, countArg_ok ha, ok_bind, countArg_ok hb, ok_bind, countArg_poisoned hc, error_bind]

variable (ha : (rdS s w.a).poi = false) (hb : (rdS s w.b).poi = false) (hc : (rdS s w.c).poi = false)
include ha hb hc

theorem vldrgBody_misaligned (h : ¬OrderedAt w (rdS s w.a).v.toNat) : vldrgBody w s = .error (.trap 0x04 0 (rdS s w.a).v.toNat) := by
  rw [vldrgBody, countArg_ok ha, ok_bind, countArg_ok hb, ok_bind, countArg_ok hc, ok_bind, vmAligned_error h, error_bind]
/-- VLDRG behind its scalars: the table, its lengths, the rows, and their starts. -/
theorem vldrgBody_table (h : OrderedAt w (rdS s w.a).v.toNat) : vldrgBody w s = (do
    let t ← vmRead w s [((rdS s w.b).v.toNat, 2 * nbits (rdS s w.c).v.toNat 0 16)]
    check ((raggedLens w s t.1.1).all fun k => k ≤ nbits (rdS s w.c).v.toNat 16 16) 0x09 3 0
    let r ← raggedLoad w s t
    let wm ← writeMask s (w.imm.extractLsb' 0 4).toNat (raggedStarts (raggedLens w s t.1.1)) (t.1.2 || r.1)
    .ok { r.2 with writes := r.2.writes ++ wm }) := by
  rw [vldrgBody, countArg_ok ha, ok_bind, countArg_ok hb, ok_bind, countArg_ok hc, ok_bind, vmAligned_ok h, ok_bind]
  rfl

variable (hal : OrderedAt w (rdS s w.a).v.toNat)
include hal

theorem vldrgBody_fault {x : Stop} (h : vmRead w s [((rdS s w.b).v.toNat, 2 * nbits (rdS s w.c).v.toNat 0 16)] = .error x) : vldrgBody w s = .error x := by
  rw [vldrgBody_table ha hb hc hal, h, error_bind]

variable {t : (Nat × Bool) × State} (ht : vmRead w s [((rdS s w.b).v.toNat, 2 * nbits (rdS s w.c).v.toNat 0 16)] = .ok t)
include ht

theorem vldrgBody_long (h : ∃ k ∈ raggedLens w s t.1.1, nbits (rdS s w.c).v.toNat 16 16 < k) : vldrgBody w s = .error (.trap 0x09 3 0) := by
  have hall : ((raggedLens w s t.1.1).all fun k => k ≤ nbits (rdS s w.c).v.toNat 16 16) = false := by simpa [List.all_eq_false] using h
  rw [vldrgBody_table ha hb hc hal, ht, ok_bind, hall, check_false, error_bind]

variable (hlens : ∀ k ∈ raggedLens w s t.1.1, k ≤ nbits (rdS s w.c).v.toNat 16 16)
include hlens

/-- VLDRG behind its table. -/
theorem vldrgBody_rows : vldrgBody w s = (do
    let r ← raggedLoad w s t
    let wm ← writeMask s (w.imm.extractLsb' 0 4).toNat (raggedStarts (raggedLens w s t.1.1)) (t.1.2 || r.1)
    .ok { r.2 with writes := r.2.writes ++ wm }) := by
  have hall : ((raggedLens w s t.1.1).all fun k => k ≤ nbits (rdS s w.c).v.toNat 16 16) = true := by simpa using hlens
  rw [vldrgBody_table ha hb hc hal, ht, ok_bind, hall, check_true, ok_bind]
theorem vldrgBody_load {x : Stop} (h : raggedLoad w s t = .error x) : vldrgBody w s = .error x := by rw [vldrgBody_rows ha hb hc hal ht hlens, h, error_bind]
theorem vldrgBody_starts {r : Bool × Out} {x : Stop} (h : raggedLoad w s t = .ok r)
    (hm : writeMask s (w.imm.extractLsb' 0 4).toNat (raggedStarts (raggedLens w s t.1.1)) (t.1.2 || r.1) = .error x) : vldrgBody w s = .error x := by
  rw [vldrgBody_rows ha hb hc hal ht hlens, h, ok_bind, hm, error_bind]
theorem vldrgBody_ok {r : Bool × Out} {wm : List Write} (h : raggedLoad w s t = .ok r)
    (hm : writeMask s (w.imm.extractLsb' 0 4).toNat (raggedStarts (raggedLens w s t.1.1)) (t.1.2 || r.1) = .ok wm) :
    vldrgBody w s = .ok { r.2 with writes := r.2.writes ++ wm } := by
  rw [vldrgBody_rows ha hb hc hal ht hlens, h, ok_bind, hm, ok_bind]
end

/-! ## VGATH and VSCAT (R485) -/

/-- The predicate enables a piece of what a word aligns, whose value `k` is the predicate's. -/
def enabledPiece (s : State) (w : VEC) (k : Nat) (p : List Nat × Nat) : Bool := (predMask s w).isNone || (p.1.getD k 0 != 0) != w.hdr.pn

/-- The pieces of VGATH's index group under the predicate, and the addresses of those that it reads. -/
def gatherPieces (w : VEC) (s : State) : List (List Nat × Nat) := piecesAligned ((readGroup s w.b (vg w)).runs 13 :: (predMask s w).toList.map Grp.bits)
def gatherAddrs (w : VEC) (s : State) (va : Nat) : List (Nat × Nat) :=
  ((gatherPieces w s).filter (enabledPiece s w 1)).map fun p => (idxAddr va (etWidth (vet w)) (p.1.headD 0), etWidth (vet w) / 8)

section
variable {w : VEC} {s : State} {b : Grp} {old : Option (Grp × List Run)} {pred : Option Grp} (hb : readGroup s w.b (vg w) = b) (ho : oldGroup s w (vg w) (vet w) = old)
    (hp : predMask s w = pred)
include hb ho hp

theorem vgathBody_stale {x : Stop} (h : staleCheck (old.toList.map Prod.fst ++ [b] ++ pred.toList) = .error x) : vgathBody w s = .error x := by
  rw [vgathBody, hb, ho, hp, h, error_bind]

variable (hst : staleCheck (old.toList.map Prod.fst ++ [b] ++ pred.toList) = .ok ())
include hst

theorem vgathBody_index (h : b.poi = true) : vgathBody w s = .error (.trap 0x01 1 0) := by
  rw [vgathBody, hb, ho, hp, hst, ok_bind, h, Bool.not_true, check_false, error_bind]

variable (hpoi : b.poi = false)
include hpoi

theorem vgathBody_poisoned (h : (rdS s w.a).poi = true) : vgathBody w s = .error (.trap 0x15 0 0) := by
  rw [vgathBody, hb, ho, hp, hst, ok_bind, hpoi, Bool.not_false, check_true, ok_bind, vecAddr_poisoned h, error_bind]

variable (ha : (rdS s w.a).poi = false)
include ha

/-- VGATH behind its base: the types, the lengths, and the elements that it reads. -/
theorem vgathBody_types : vgathBody w s = (do
    check (idxOk b) 0x09 4 0
    check (old.all fun o => o.1.etOk (vet w)) 0x09 4 0
    check ((pred.toList ++ old.toList.map Prod.fst).all fun g => g.ll = b.ll) 0x09 2 0
    let va := ((rdS s w.a).v + vmOff w).toNat
    let l := gatherAddrs w s va
    Prod.snd <$> vmLoad w s l (.picks (gathPicks (b.runs 13) (pred.map Grp.bits) w.hdr.pn (old.map Prod.snd))) (pred.any Grp.poi || old.any (·.1.poi)) va
      (etWidth (vet w) / 8 * l.length) (passesOf (gatherPieces w s).length 32)) := by
  have hon : enabledPiece s w 1 = fun p => pred.isNone || (p.1.getD 1 0 != 0) != w.hdr.pn := by rw [← hp]; rfl
  simp only [gatherAddrs, gatherPieces, hon, hb, hp, List.length_map]
  rw [vgathBody, hb, ho, hp, hst, ok_bind, hpoi, Bool.not_false, check_true, ok_bind, vecAddr_ok ha, ok_bind]
  cases old <;> rfl

theorem vgathBody_type (h : idxOk b = false ∨ ∃ o, old = some o ∧ o.1.etOk (vet w) = false) : vgathBody w s = .error (.trap 0x09 4 0) := by
  rw [vgathBody_types hb ho hp hst hpoi ha]
  cases hidx : idxOk b with
  | false => rw [check_false, error_bind]
  | true =>
    obtain ⟨o, rfl, hbad⟩ := h.resolve_left (by simp [hidx])
    rw [check_true, ok_bind, Option.all_some, hbad, check_false, error_bind]

variable (hidx : idxOk b = true) (hold : ∀ o, old = some o → o.1.etOk (vet w) = true)
include hidx hold

/-- VGATH behind its types. -/
theorem vgathBody_lengths : vgathBody w s = (do
    check ((pred.toList ++ old.toList.map Prod.fst).all fun g => g.ll = b.ll) 0x09 2 0
    let va := ((rdS s w.a).v + vmOff w).toNat
    let l := gatherAddrs w s va
    Prod.snd <$> vmLoad w s l (.picks (gathPicks (b.runs 13) (pred.map Grp.bits) w.hdr.pn (old.map Prod.snd))) (pred.any Grp.poi || old.any (·.1.poi)) va
      (etWidth (vet w) / 8 * l.length) (passesOf (gatherPieces w s).length 32)) := by
  have hall : (old.all fun o => o.1.etOk (vet w)) = true := by
    cases old with
    | none => rfl
    | some o => exact hold o rfl
  rw [vgathBody_types hb ho hp hst hpoi ha, hidx, check_true, ok_bind, hall, check_true, ok_bind]
theorem vgathBody_length (h : (∃ p, pred = some p ∧ p.ll ≠ b.ll) ∨ ∃ o, old = some o ∧ o.1.ll ≠ b.ll) : vgathBody w s = .error (.trap 0x09 2 0) := by
  have hall : ((pred.toList ++ old.toList.map Prod.fst).all fun g => g.ll = b.ll) = false := by
    rw [List.all_append, Bool.and_eq_false_iff]
    obtain ⟨p, rfl, hne⟩ | ⟨o, rfl, hne⟩ := h
    · exact .inl (by simpa using hne)
    · exact .inr (by simpa using hne)
  rw [vgathBody_lengths hb ho hp hst hpoi ha hidx hold, hall, check_false, error_bind]
theorem vgathBody_ok (hpl : ∀ p, pred = some p → p.ll = b.ll) (hol : ∀ o, old = some o → o.1.ll = b.ll) :
    let va := ((rdS s w.a).v + vmOff w).toNat
    let l := gatherAddrs w s va
    vgathBody w s = (Prod.snd <$> vmLoad w s l (.picks (gathPicks (b.runs 13) (pred.map Grp.bits) w.hdr.pn (old.map Prod.snd))) (pred.any Grp.poi || old.any (·.1.poi)) va
      (etWidth (vet w) / 8 * l.length) (passesOf (gatherPieces w s).length 32)) := by
  have hall : ((pred.toList ++ old.toList.map Prod.fst).all fun g => g.ll = b.ll) = true := by
    rw [List.all_eq_true]
    intro g hg
    simp only [List.mem_append, Option.mem_toList, List.mem_map] at hg
    obtain hg | ⟨o, hg, rfl⟩ := hg
    · exact decide_eq_true (hpl g hg)
    · exact decide_eq_true (hol o hg)
  rw [vgathBody_lengths hb ho hp hst hpoi ha hidx hold, hall, check_true, ok_bind]
end

/-- The pieces that VSCAT stores: its index group's, its data's and their members' under the predicate; their places, and the stores. -/
def scatterPieces (w : VEC) (s : State) : List (List Nat × Nat) :=
  let d := readGroup s w.d (vg w)
  let members : List Run := (d.regs.map fun r => (r.poi.toNat, r.ll.toNat)).filter fun r => r.2 != 0
  (piecesAligned ([(readGroup s w.b (vg w)).runs 13, d.runs (vet w), members] ++ (predMask s w).toList.map Grp.bits)).filter (enabledPiece s w 3)
def scatterAddrs (w : VEC) (s : State) (va : Nat) : List (Nat × Nat) := (scatterPieces w s).map fun p => (idxAddr va (etWidth (vet w)) (p.1.headD 0), etWidth (vet w) / 8)
def scatterOps (w : VEC) (s : State) (va : Nat) (x : List (List Xlat)) : List MemOp :=
  (List.zip (scatterPieces w s) (List.zip (scatterAddrs w s va) x)).map fun e =>
    { vmOp w .store e.2.1.1 e.2.1.2 e.2.2 with data := e.1.1.getD 1 0, pdata := e.1.1.getD 2 0 = 1 }

section
variable {w : VEC} {s : State} {b d : Grp} {pred : Option Grp} (hd : readGroup s w.d (vg w) = d) (hb : readGroup s w.b (vg w) = b) (hp : predMask s w = pred)
include hd hb hp

theorem vscatBody_stale {x : Stop} (h : staleCheck ([d, b] ++ pred.toList) = .error x) : vscatBody w s = .error x := by rw [vscatBody, hd, hb, hp, h, error_bind]

variable (hst : staleCheck ([d, b] ++ pred.toList) = .ok ())
include hst

theorem vscatBody_index (h : b.poi = true) : vscatBody w s = .error (.trap 0x01 1 0) := by
  rw [vscatBody, hd, hb, hp, hst, ok_bind, h, Bool.not_true, check_false, error_bind]

variable (hpoi : b.poi = false)
include hpoi

theorem vscatBody_poisoned (h : (rdS s w.a).poi = true) : vscatBody w s = .error (.trap 0x15 0 0) := by
  rw [vscatBody, hd, hb, hp, hst, ok_bind, hpoi, Bool.not_false, check_true, ok_bind, vecAddr_poisoned h, error_bind]

variable (ha : (rdS s w.a).poi = false)
include ha

/-- VSCAT behind its base: the types, the lengths, the pages, and its stores. -/
theorem vscatBody_types : vscatBody w s = (do
    check (idxOk b) 0x09 4 0
    check (d.etOk (vet w)) 0x09 4 0
    check (d.ll = b.ll) 0x09 0 0
    check (pred.all fun p => p.ll = b.ll) 0x09 2 0
    let va := ((rdS s w.a).v + vmOff w).toNat
    let x ← xlatRanges s .write true (scatterAddrs w s va)
    vmStores w (x.foldl (fun s p => useXlats s (curCtx s) .write true p) s) (scatterOps w s va x) false
      (passesOf (piecesAligned ([b.runs 13, d.runs (vet w)] ++ pred.toList.map Grp.bits)).length 32)) := by
  have hon : enabledPiece s w 3 = fun p => pred.isNone || (p.1.getD 3 0 != 0) != w.hdr.pn := by rw [← hp]; rfl
  simp only [scatterOps, scatterAddrs, scatterPieces, hon, hd, hb, hp]
  rw [vscatBody, hd, hb, hp, hst, ok_bind, hpoi, Bool.not_false, check_true, ok_bind, vecAddr_ok ha, ok_bind, etCheck_one]

theorem vscatBody_type (h : idxOk b = false ∨ d.etOk (vet w) = false) : vscatBody w s = .error (.trap 0x09 4 0) := by
  rw [vscatBody_types hd hb hp hst hpoi ha]
  cases hidx : idxOk b with
  | false => rw [check_false, error_bind]
  | true => rw [check_true, ok_bind, h.resolve_left (by simp [hidx]), check_false, error_bind]

variable (hidx : idxOk b = true) (ht : d.etOk (vet w) = true)
include hidx ht

theorem vscatBody_length (h : d.ll ≠ b.ll) : vscatBody w s = .error (.trap 0x09 0 0) := by
  rw [vscatBody_types hd hb hp hst hpoi ha, hidx, check_true, ok_bind, ht, check_true, ok_bind, decide_eq_false h, check_false, error_bind]

variable (hl : d.ll = b.ll)
include hl

theorem vscatBody_predLength {p : Grp} (h : pred = some p) (hne : p.ll ≠ b.ll) : vscatBody w s = .error (.trap 0x09 2 0) := by
  rw [vscatBody_types hd hb hp hst hpoi ha, hidx, check_true, ok_bind, ht, check_true, ok_bind, decide_eq_true hl, check_true, ok_bind, h, lengthsAre_not hne, check_false,
    error_bind]

variable (hpl : ∀ p, pred = some p → p.ll = b.ll)
include hpl

/-- VSCAT behind its checks: the pages, and its stores. -/
theorem vscatBody_stores : vscatBody w s = (do
    let va := ((rdS s w.a).v + vmOff w).toNat
    let x ← xlatRanges s .write true (scatterAddrs w s va)
    vmStores w (x.foldl (fun s p => useXlats s (curCtx s) .write true p) s) (scatterOps w s va x) false
      (passesOf (piecesAligned ([b.runs 13, d.runs (vet w)] ++ pred.toList.map Grp.bits)).length 32)) := by
  rw [vscatBody_types hd hb hp hst hpoi ha, hidx, check_true, ok_bind, ht, check_true, ok_bind, decide_eq_true hl, check_true, ok_bind, lengthsAre hpl, check_true, ok_bind]
theorem vscatBody_fault {x : Stop} (h : xlatRanges s .write true (scatterAddrs w s ((rdS s w.a).v + vmOff w).toNat) = .error x) : vscatBody w s = .error x := by
  simp only [vscatBody_stores hd hb hp hst hpoi ha hidx ht hl hpl, h, error_bind]
theorem vscatBody_sends {x : List (List Xlat)} (h : xlatRanges s .write true (scatterAddrs w s ((rdS s w.a).v + vmOff w).toNat) = .ok x) :
    vscatBody w s = vmStores w (x.foldl (fun s p => useXlats s (curCtx s) .write true p) s) (scatterOps w s ((rdS s w.a).v + vmOff w).toNat x) false
      (passesOf (piecesAligned ([b.runs 13, d.runs (vet w)] ++ pred.toList.map Grp.bits)).length 32) := by
  simp only [vscatBody_stores hd hb hp hst hpoi ha hidx ht hl hpl, h, ok_bind]
end
end Sys2Proof.Laws
end

section
/-! SUPPORT. The vector memory words in every form (R478, R485, R487, R488, R490, R491): each is its body behind the gate. -/
namespace Sys2Proof.Laws
open Sys2Proof.Machine Sys2Proof.Safety

/-! ## Which body a word runs -/

section
variable {w : VEC} {s : State} (hi : issues (.vld w) s = true)
include hi

theorem vld_runs_plain (h : w.sub = 0) {r : Except Stop Out} (hb : vldPlain w s = r) : Runs (.vld w) s r :=
  runs_body (body := fun s => if w.sub = 0 then vldPlain w s else vldTensor w s) rfl hi ((if_pos h).trans hb)
theorem vld_runs_tensor (h : w.sub = 1) {r : Except Stop Out} (hb : vldTensor w s = r) : Runs (.vld w) s r :=
  runs_body (body := fun s => if w.sub = 0 then vldPlain w s else vldTensor w s) rfl hi ((if_neg (by rw [h]; decide)).trans hb)
end

section
variable {w : VEC} {s : State} (hi : issues (.vst w) s = true)
include hi

theorem vst_runs_plain (h : w.sub = 0) {r : Except Stop Out} (hb : vstPlain w s = r) : Runs (.vst w) s r :=
  runs_body (body := fun s => if w.sub = 0 then vstPlain w s else vstTensor w s) rfl hi ((if_pos h).trans hb)
theorem vst_runs_tensor (h : w.sub = 1) {r : Except Stop Out} (hb : vstTensor w s = r) : Runs (.vst w) s r :=
  runs_body (body := fun s => if w.sub = 0 then vstPlain w s else vstTensor w s) rfl hi ((if_neg (by rw [h]; decide)).trans hb)
end

/-- A word that runs as its body's stop stops there. -/
theorem runs_stops {i : Instr} {s : State} {x : Stop} (h : Runs i s (.error x)) : exec i s = .next (stopWord i x s) := h.2 x rfl
theorem runs_completes {i : Instr} {s : State} {o : Out} (h : Runs i s (.ok o)) : exec i s = .next (complete i false o s) := h.1 o rfl

/-- A word that runs as its stores waits behind a fence that orders one of them, and else leaves them outstanding. -/
theorem runs_sends {i : Instr} {s u : State} {w : VEC} {l : List MemOp} {loose : Bool} {passes : Nat} (h : Runs i s (vmStores w u l loose passes)) :
    ((sentOps w l).any (fenced u) = true → exec i s = .next (stallAs s .other)) ∧
    ((sentOps w l).any (fenced u) = false → exec i s = .next (complete i false { s := u, stores := sentOps w l, loose := loose, passes := passes } s)) :=
  ⟨fun hf => h.2 _ (vmStores_fenced hf), fun hf => h.1 _ (vmStores_ok hf)⟩

theorem vldp_runs {w : VEC} {s : State} (hi : issues (.vldp w) s = true) {r : Except Stop Out} (hb : vldpBody w s = r) : Runs (.vldp w) s r := runs_body rfl hi hb
theorem vstp_runs {w : VEC} {s : State} (hi : issues (.vstp w) s = true) {r : Except Stop Out} (hb : vstpBody w s = r) : Runs (.vstp w) s r := runs_body rfl hi hb
theorem vldrg_runs {w : VEC} {s : State} (hi : issues (.vldrg w) s = true) {r : Except Stop Out} (hb : vldrgBody w s = r) : Runs (.vldrg w) s r := runs_body rfl hi hb
theorem vgath_runs {w : VEC} {s : State} (hi : issues (.vgath w) s = true) {r : Except Stop Out} (hb : vgathBody w s = r) : Runs (.vgath w) s r := runs_body rfl hi hb
theorem vscat_runs {w : VEC} {s : State} (hi : issues (.vscat w) s = true) {r : Except Stop Out} (hb : vscatBody w s = r) : Runs (.vscat w) s r := runs_body rfl hi hb

/-! ## The obligation -/

/-- Settles O41: the bytes of a load as elements, the bytes of a store, the ranges, and then each word's stops in their order and its completion. -/
theorem vectorMemoryWords : Obligations.VectorMemoryWords := by
  refine ⟨fun wd v k n rows l x _ => ?_, fun l pred old pn n hpos hlen hp ho => ?_, fun g et wd n i pred pn _ _ hg hp => ?_,
    fun w x va n v i en hx hsort hen hi => ?_, fun s acc raw l => ?_, fun w s l f poi va n passes => ?_, fun s d g et v v0 f p poi p0 ws0 ws l0 hf h0 h => fill_eq hf h0 h,
    fun s core bank id st f o x hf ho hk => performFlight_vload hf ho hk, fun w s => ?_⟩
  · exact ⟨rfl, runs_dense_cons k rows wd v, spreadRuns_unpackElems wd n v, runs_pairs_end, rfl, runs_pairs_cons, rfl, rfl, rfl⟩
  · exact spreadCounts_gathPicks pn ⟨hpos, hlen⟩ hp ho
  · obtain ⟨-, -, hll, -⟩ := hg
    refine (covered_groupStretches wd i pn hll hp).trans (exists_congr fun k => and_congr_right fun _ => ?_)
    cases pred <;> rfl
  · exact storeOps_bytes (hsort.imp And.left) hen v hx hi
  · refine ⟨fun x => xlatRanges_ok, ?_⟩
    rintro l₁ r l₂ f rfl
    exact xlatRanges_first
  · refine ⟨fun e h => ⟨vmRead_fault h, vmLoad_fault h⟩, fun x hx => ⟨fun h => ⟨vmRead_waits hx h, vmLoad_waits hx h⟩,
      fun h => ⟨vmRead_ok hx h, fun e hw => vmLoad_overflow hx h hw, fun ws hw => ⟨_, vmLoad_ok hx h hw, vmLater_cases ..⟩⟩⟩⟩
  intro et wd base va pred even on sends stops
  refine ⟨?_, ?_, ?_, ?_, ?_, ?_, ?_, ?_, ?_, ?_, ?_, ?_⟩
  · -- VLD, plain
    exact fun hi h0 => ⟨fun h => runs_stops (vld_runs_plain hi h0 (vldPlain_poisoned h)), fun ha hb => ⟨fun h => runs_stops (vld_runs_plain hi h0 (vldPlain_misaligned ha hb h)),
      fun h hm => runs_stops (vld_runs_plain hi h0 (vldPlain_long ha hb h hm)), fun h hm => vld_runs_plain hi h0 (vldPlain_ok ha hb h hm)⟩⟩
  · -- the tile of the tensor forms
    exact fun t => ⟨rfl, tformRows_layout, fun hl => tformRows_partTile hl, fun hl => tformRows_beyond hl, fun hl => tformRows_ok hl⟩
  · -- VLD, tensor
    refine fun hi h1 => ⟨fun x hx => runs_stops (vld_runs_tensor hi h1 (vldTensor_form hx)), fun t u hf => ⟨fun h => runs_stops (vld_runs_tensor hi h1 (vldTensor_unusable hf h)),
      fun h x hx => runs_stops (vld_runs_tensor hi h1 ?_), fun h hr => vld_runs_tensor hi h1 ?_⟩⟩
    · rw [vldTensor_usable hf h, hx, error_bind]
    · rw [vldTensor_usable hf h, hr, ok_bind]; rfl
  · -- VST, plain
    intro hi h0 g n
    have run : ∀ {r}, vstPlain w s = r → Runs (.vst w) s r := fun hb => vst_runs_plain hi h0 hb
    have stop : ∀ {x}, vstPlain w s = .error x → exec (.vst w) s = .next (stopWord (.vst w) x s) := fun hb => runs_stops (run hb)
    refine ⟨fun h => stop (vstPlain_stale rfl rfl (staleCheck_cons_stale _ h)), fun h p hp hst => ?_, fun hg hp => ?_⟩
    · have hpred : predMask s w = some p := hp
      exact stop (vstPlain_stale rfl rfl (by rw [staleCheck_cons_fresh _ h, hpred]; exact staleCheck_cons_stale [] hst))
    have hst : staleCheck (g :: pred.toList) = .ok () := staleCheck_ok (List.forall_mem_cons.mpr ⟨hg, fun p h => hp p (Option.mem_toList.mp h)⟩)
    refine ⟨fun ha => stop (vstPlain_poisoned rfl rfl hst ha), fun ha h => stop (vstPlain_misaligned rfl rfl hst ha h), fun ha hal =>
      ⟨fun ht => stop (vstPlain_type rfl rfl hst ha hal ht), fun ht hw hodd => stop (vstPlain_odd rfl rfl hst ha hal ht hw hodd), fun ht hev =>
        ⟨fun p hp hl => stop (vstPlain_length rfl rfl hst ha hal ht hev hp hl), fun hl =>
          ⟨fun x hx => stop (vstPlain_fault rfl rfl hst ha hal ht hev hl hx), fun x hx => runs_sends (run (vstPlain_sends rfl rfl hst ha hal ht hev hl hx))⟩⟩⟩⟩
  · -- VST, tensor: the data of each row
    intro t g nb p str
    refine ⟨tensorData_overflow, tensorData_length, fun d hd => ?_⟩
    by_cases h : tagSpc t.tag.tag = 4
    · obtain ⟨hlen, hrows⟩ := tensorData_pairs h hd
      exact ⟨hlen, fun j r hr => ⟨fun hn => absurd h hn, fun _ => hrows j r hr⟩⟩
    · obtain ⟨hlen, hrows⟩ := tensorData_dense h hd
      exact ⟨hlen, fun j r hr => ⟨fun _ => hrows j r hr, fun h4 => absurd h4 h⟩⟩
  · -- VST, tensor
    intro hi h1 g
    have run : ∀ {r}, vstTensor w s = r → Runs (.vst w) s r := fun hb => vst_runs_tensor hi h1 hb
    have stop : ∀ {x}, vstTensor w s = .error x → exec (.vst w) s = .next (stopWord (.vst w) x s) := fun hb => runs_stops (run hb)
    refine ⟨fun h => stop (vstTensor_stale rfl h), fun hst => ⟨fun x hx => stop (vstTensor_form rfl hst hx), fun t u hf =>
      ⟨fun x hx => stop (vstTensor_rows rfl hst hf hx), fun hr ht => stop (vstTensor_type rfl hst hf hr ht), fun hr ht =>
        ⟨fun x hx => stop (vstTensor_data rfl hst hf hr ht hx), fun d hd => ⟨fun x hx => stop (vstTensor_fault rfl hst hf hr ht hd hx), fun x hx =>
          ⟨fun h => stop (vstTensor_fenced rfl hst hf hr ht hd hx h), fun hne h => runs_completes (run (vstTensor_sends rfl hst hf hr ht hd hx hne h))⟩⟩⟩⟩⟩⟩
  · -- VLDP and VSTP, their stops
    have hld : decide (Instr.vldp w = .vstp w) = false := decide_eq_false nofun
    have hst : (if Instr.vstp w = .vldp w then Acc.read else .write) = .write := if_neg nofun
    have hst' : decide (Instr.vstp w = .vstp w) = true := decide_eq_true rfl
    rintro i (rfl | rfl) hi
    · exact ⟨fun h => runs_stops (vldp_runs hi (vldpBody_poisoned h)), fun ha h => runs_stops (vldp_runs hi (vldpBody_misaligned ha h)),
        fun ha hal x hx => runs_stops (vldp_runs hi (vldpBody_fault ha hal (by rwa [if_pos rfl, hld] at hx)))⟩
    · exact ⟨fun h => runs_stops (vstp_runs hi (vstpBody_poisoned h)), fun ha h => runs_stops (vstp_runs hi (vstpBody_misaligned ha h)),
        fun ha hal x hx => runs_stops (vstp_runs hi (vstpBody_fault ha hal (by rwa [hst, hst'] at hx)))⟩
  · -- VLDP
    intro hi ha hal r hr
    obtain ⟨op, hop⟩ := vldpBody_ok ha hal hr
    refine ⟨_, op, runs_completes (vldp_runs hi hop), fun j hj => ⟨rawReg s j w.et (nbits r.1.1 (4096 * j) 4096) r.1.2, ?_, rawReg_pairs .., rfl, rfl, rfl⟩⟩
    rw [List.getElem?_map, List.getElem?_range hj]
    rfl
  · -- VSTP
    exact fun hi ha hal x hx => runs_sends (vstp_runs hi (vstpBody_ok ha hal hx))
  · -- VLDRG
    intro hi
    have run : ∀ {r}, vldrgBody w s = r → Runs (.vldrg w) s r := fun hb => vldrg_runs hi hb
    have stop : ∀ {x}, vldrgBody w s = .error x → exec (.vldrg w) s = .next (stopWord (.vldrg w) x s) := fun hb => runs_stops (run hb)
    refine ⟨fun h => stop (vldrgBody_poisoned h), fun ha hb hc => ⟨fun h => stop (vldrgBody_misaligned ha hb hc h), fun hal =>
      ⟨fun x hx => stop (vldrgBody_fault ha hb hc hal hx), fun t ht => ⟨fun h => stop (vldrgBody_long ha hb hc hal ht h), fun hl =>
        ⟨fun x hx => stop (vldrgBody_load ha hb hc hal ht hl hx), fun r hr => ⟨fun x hm => stop (vldrgBody_starts ha hb hc hal ht hl hr hm),
          fun wm hm => runs_completes (run (vldrgBody_ok ha hb hc hal ht hl hr hm))⟩⟩⟩⟩⟩⟩
  · -- VGATH
    intro hi
    have run : ∀ {r}, vgathBody w s = r → Runs (.vgath w) s r := fun hb => vgath_runs hi hb
    have stop : ∀ {x}, vgathBody w s = .error x → exec (.vgath w) s = .next (stopWord (.vgath w) x s) := fun hb => runs_stops (run hb)
    refine ⟨fun x h => stop (vgathBody_stale rfl rfl rfl h), fun hst => ⟨fun h => stop (vgathBody_index rfl rfl rfl hst h),
      fun hpoi h => stop (vgathBody_poisoned rfl rfl rfl hst hpoi h), fun hpoi ha => ⟨fun h => stop (vgathBody_type rfl rfl rfl hst hpoi ha h), fun hidx hold =>
        ⟨fun h => stop (vgathBody_length rfl rfl rfl hst hpoi ha hidx hold h), fun hpl hol => run (vgathBody_ok rfl rfl rfl hst hpoi ha hidx hold hpl hol)⟩⟩⟩⟩
  · -- VSCAT
    intro hi
    have run : ∀ {r}, vscatBody w s = r → Runs (.vscat w) s r := fun hb => vscat_runs hi hb
    have stop : ∀ {x}, vscatBody w s = .error x → exec (.vscat w) s = .next (stopWord (.vscat w) x s) := fun hb => runs_stops (run hb)
    refine ⟨fun x h => stop (vscatBody_stale rfl rfl rfl h), fun hst => ⟨fun h => stop (vscatBody_index rfl rfl rfl hst h),
      fun hpoi h => stop (vscatBody_poisoned rfl rfl rfl hst hpoi h), fun hpoi ha => ⟨fun h => stop (vscatBody_type rfl rfl rfl hst hpoi ha h), fun hidx ht =>
        ⟨fun h => stop (vscatBody_length rfl rfl rfl hst hpoi ha hidx ht h),
          fun hl ⟨p, hp, hne⟩ => stop (vscatBody_predLength rfl rfl rfl hst hpoi ha hidx ht hl hp hne), fun hl hpl =>
          ⟨fun x hx => stop (vscatBody_fault rfl rfl rfl hst hpoi ha hidx ht hl hpl hx),
            fun x hx => runs_sends (run (vscatBody_sends rfl rfl rfl hst hpoi ha hidx ht hl hpl hx))⟩⟩⟩⟩⟩
end Sys2Proof.Laws
end

section
/-! SUPPORT. The matrix words that need no lease (R187, R190, R425, R429, R431): what each body answers behind its checks. -/
namespace Sys2Proof.Laws
open Sys2Proof.Machine Sys2Proof.Safety

/-! ## The lease of a core -/

section
variable {s : State} {core : Nat}

theorem holdsLease_iff : holdsLease s core = true ↔ (clusterOf s (clusterOfCore core)).holder = some (core % 4) := decide_eq_true_iff
theorem not_holdsLease (h : (clusterOf s (clusterOfCore core)).holder ≠ some (core % 4)) : holdsLease s core = false := decide_eq_false h

/-- A core that asks for the lease stands among those that want it, whether or not it stood there before. -/
theorem wantLease_wants (s : State) (core : Nat) : (clusterOf (wantLease s core) (clusterOfCore core)).want.contains (core % 4) = true := by
  rw [wantLease, clusterOf_updCluster]
  split_ifs with h
  · exact h
  · simp

/-- The release of a held lease clears the holder; the commands in the array stand. -/
theorem clusterOf_releaseLease {cl h : Nat} (hold : (clusterOf s cl).holder = some h) :
    clusterOf (releaseLease s cl) cl = { setHolder (clusterOf s cl) none s.cycle (dieClock s (cl / 32)) with lastHolder := h } := by
  rw [releaseLease, clusterOf_updCluster]
  simp only [hold]
end

/-! ## MACQ and MREL -/

section
variable {s : State}

theorem macqBody_held (h : (clusterOf s (clusterOfCore s.curCore)).holder = some (s.curCore % 4)) : macqBody s = .ok { s := s } := if_pos (holdsLease_iff.mpr h)
theorem macqBody_wants (h : (clusterOf s (clusterOfCore s.curCore)).holder ≠ some (s.curCore % 4)) :
    macqBody s = .ok { s := stallAs (wantLease s s.curCore) .other, issued := false } := by
  rw [macqBody, not_holdsLease h]; rfl

theorem mrelBody_other (h : (clusterOf s (clusterOfCore s.curCore)).holder ≠ some (s.curCore % 4)) : mrelBody s = .ok { s := s } := by
  rw [mrelBody, not_holdsLease h]; rfl

/-- No command of the core is in its cluster's array: MREL releases the lease at once. -/
def arrayDone (s : State) : Bool :=
  let k := clusterOf s (clusterOfCore s.curCore)
  (k.running.toList ++ k.behind.toList).all fun m => m.core != s.curCore
/-- What MREL of the lease's holder leaves. -/
def released (s : State) : State :=
  let cl := clusterOfCore s.curCore
  if arrayDone s then releaseLease s cl else updCluster s cl fun k => { k with releasing := true }

theorem mrelBody_holder (h : (clusterOf s (clusterOfCore s.curCore)).holder = some (s.curCore % 4)) : mrelBody s = .ok { s := released s } := by
  rw [mrelBody, holdsLease_iff.mpr h]; rfl

/-- The core's array is done exactly when neither the running command nor the one behind it is the core's. -/
theorem arrayDone_iff : arrayDone s = true ↔
    ∀ m, (clusterOf s (clusterOfCore s.curCore)).running = some m ∨ (clusterOf s (clusterOfCore s.curCore)).behind = some m → m.core ≠ s.curCore := by
  simp [arrayDone, or_imp, forall_and]

theorem released_atOnce (h : arrayDone s = true) : released s = releaseLease s (clusterOfCore s.curCore) := if_pos h
theorem released_later (h : arrayDone s = false) : released s = updCluster s (clusterOfCore s.curCore) fun k => { k with releasing := true } := by
  rw [released, h]; rfl
/-- Either way MREL changes the cluster alone. -/
theorem released_frame (s : State) : (released s).mem = s.mem ∧ (released s).cores = s.cores := by
  rw [released]; split_ifs <;> exact ⟨rfl, rfl⟩
end

/-! ## MCFG -/

section
variable {w : MAT} {s : State}

theorem offReg_poisoned {n : BitVec 3} (h : (readIdx (coreTime s s.curCore) (curBank s) n.toNat).poi = true) : offReg s n = .error (.trap 0x15 0 0) := by
  simp only [offReg, h, Bool.not_true, check_false, error_bind, causePoison]
theorem offReg_ok {n : BitVec 3} (h : (readIdx (coreTime s s.curCore) (curBank s) n.toNat).poi = false) :
    offReg s n = .ok (readIdx (coreTime s s.curCore) (curBank s) n.toNat).v := by
  simp only [offReg, h, Bool.not_false, check_true, ok_bind]

/-- The MCONF that MCFG makes of its two index registers (R429). -/
def mcfgWord (w : MAT) (s : State) : W64 :=
  (readIdx (coreTime s s.curCore) (curBank s) w.ia.toNat).v ++ (readIdx (coreTime s s.curCore) (curBank s) w.ib.toNat).v

theorem mcfgBody_poisoned (ha : (readIdx (coreTime s s.curCore) (curBank s) w.ia.toNat).poi = true) : mcfgBody w s = .error (.trap 0x15 0 0) := by
  rw [mcfgBody, offReg_poisoned ha, error_bind]

variable (ha : (readIdx (coreTime s s.curCore) (curBank s) w.ia.toNat).poi = false) (hb : (readIdx (coreTime s s.curCore) (curBank s) w.ib.toNat).poi = false)
include ha hb

/-- Behind the poison checks only the legality of the new MCONF is left. -/
theorem mcfgBody_clean : mcfgBody w s = (do
    check (mconfOk (mcfgWord w s)) 0x01 1 0
    .ok { s := modBank s fun b => { b with mconf := mcfgWord w s } }) := by
  rw [mcfgBody, offReg_ok ha, ok_bind, offReg_ok hb, ok_bind]; rfl
theorem mcfgBody_illegal (h : mconfOk (mcfgWord w s) = false) : mcfgBody w s = .error (.trap 0x01 1 0) := by
  rw [mcfgBody_clean ha hb, h, check_false, error_bind]
theorem mcfgBody_ok (h : mconfOk (mcfgWord w s) = true) : mcfgBody w s = .ok { s := modBank s fun b => { b with mconf := mcfgWord w s } } := by
  rw [mcfgBody_clean ha hb, h, check_true, ok_bind]
end

/-! ## MIDX -/

/-- The register that MIDX writes, in its three forms (R431). -/
def midxResult (w : MAT) (s : State) : IReg :=
  let a := readIdx (coreTime s s.curCore) (curBank s) w.ia.toNat
  let b := readIdx (coreTime s s.curCore) (curBank s) w.ib.toNat
  if w.sub = 0 then { v := midxImm w } else if w.sub = 1 then { v := a.v + midxImm w, poi := a.poi } else { v := a.v + b.v, poi := a.poi || b.poi }

/-- MIDX completes with that register whatever its operands hold: a poisoned one traps nothing. -/
theorem midx_done {w : MAT} {s : State} {r : IReg} (hi : issues (.midx w) s = true) (h : midxResult w s = r) :
    exec (.midx w) s = .next (done (.midx w) s [.idx w.ia.toNat r] 2) := by
  subst h
  exact issue_ok (body := midxBody w) hi rfl

/-! ## The obligation -/

/-- Settles O42, word by word: each is its body behind the gate, and the body answers as its checks and the lease say. -/
theorem leaseAndIndexWords : Obligations.LeaseAndIndexWords := by
  intro w s cl k ix
  refine ⟨fun hi => ⟨fun h => ?_, fun h => ⟨?_, wantLease_wants s s.curCore⟩⟩, fun hi => ⟨fun h => ?_, fun h => ?_⟩, fun hi => ⟨fun ha => ?_, fun ha hb => ⟨fun h => ?_, fun h => ?_⟩⟩,
    fun hi => ⟨fun h => ?_, fun h => ?_, fun h => ?_⟩⟩
  · exact issue_ok hi (macqBody_held h)
  · exact issue_ok (o := { s := stallAs (wantLease s s.curCore) .other, issued := false }) hi (macqBody_wants h)
  · exact issue_ok hi (mrelBody_other h)
  · -- MREL of the holder
    obtain ⟨hmem, hcores⟩ := released_frame s
    refine ⟨released s, issue_ok hi (mrelBody_holder h), fun hdone => ?_, fun m hm hmine => ?_, hmem, hcores⟩
    · rw [released_atOnce (arrayDone_iff.mpr hdone), clusterOf_releaseLease h]
      exact ⟨rfl, rfl, rfl, rfl⟩
    · have hbusy : arrayDone s = false := Bool.eq_false_iff.mpr fun hdone => arrayDone_iff.mp hdone m hm hmine
      rw [released_later hbusy, clusterOf_updCluster]
  · exact issue_stop hi (mcfgBody_poisoned ha)
  · exact issue_stop hi (mcfgBody_illegal ha hb h)
  · exact issue_ok hi (mcfgBody_ok ha hb h)
  · exact midx_done hi (if_pos h)
  · exact midx_done hi ((if_neg (by rw [h]; decide)).trans (if_pos h))
  · exact midx_done hi ((if_neg (by rw [h]; decide)).trans (if_neg (by rw [h]; decide)))
end Sys2Proof.Laws
end

section
/-! SUPPORT. A command that stands issued (R187, R428): its checks are behind it, and M waits at it for the lease. -/
namespace Sys2Proof.Laws
open Sys2Proof.Machine Sys2Proof.Safety

section
variable {s : State} {m : MCmd}

/-- The checks of a command that stands issued are not made again. -/
theorem issued_standing {i : Instr} (checks : Except Stop Out) (hm : (curBank s).mwait = some m) (hw : m.w = i) : issued i s checks = acceptCmd s m := by
  simp only [issued, hm, if_pos hw]

/-- A command that names no weight slot, without the lease: M asks for it and stands at the word. -/
theorem acceptCmd_noLease (hslot : m.usesSlot = false) (h : (clusterOf s (clusterOfCore s.curCore)).holder ≠ some (s.curCore % 4)) :
    acceptCmd s m = .ok (waitMatrix (wantLease s s.curCore) { m with bank := curFg s }) := by
  have hready : slotFor s { m with bank := curFg s } = (.ready { m with bank := curFg s }, s) := by
    have hslot' : MCmd.usesSlot { m with bank := curFg s } = false := hslot
    rw [slotFor, hslot']; rfl
  have hne : ((clusterOf s (clusterOfCore s.curCore)).holder != some (s.curCore % 4)) = true := bne_iff_ne.mpr h
  rw [acceptCmd, hready]
  exact if_pos hne

/-- MDRAIN that stands issued without the lease stands on, whatever its index register names by now. -/
theorem mdrain_standing {w : MAT} (hi : issues (.mdrain w) s = true) (hm : (curBank s).mwait = some m) (hw : m.w = .mdrain w)
    (h : (clusterOf s (clusterOfCore s.curCore)).holder ≠ some (s.curCore % 4)) :
    exec (.mdrain w) s = .next (waitMatrix (wantLease s s.curCore) { m with bank := curFg s }).s := by
  have hslot : m.usesSlot = false := by rw [MCmd.usesSlot, hw]
  exact issue_ok (body := mdrainBody w) hi ((issued_standing _ hm hw).trans (acceptCmd_noLease hslot h))
theorem waitMatrix_mwait (s : State) (m : MCmd) : (curBank (waitMatrix s m).s).mwait = some m := by rw [waitMatrix, curBank_modBank]
end

/-- MDRAIN.t of acc0's row 0 by i0. -/
def drainWord : MAT := ⟨⟨0, 0, false⟩, 0, 0, 0, 0, 4, 0, 0, 0, 0, 0, 0⟩
/-- The command as it stands issued: at its issue i0 named TID 0, the one tensor of the task's table. -/
def drainCmd : MCmd := { w := .mdrain drainWord, core := 0, task := 1, bank := 0, ent := 0 }
/-- M of core 0 stands at the command and waits for the lease; i0 names TID 1 by now, which is outside the table. -/
def standingState : State :=
  { curSt := .m, cores := [(0, { b0 := { task := some 1, accmap := 32, i := [(0, { v := 0x400000 })], mwait := some drainCmd } })],
    tasks := [(1, { launch := 1 })], launches := [(1, { img := 2 ^ 192, root := 0, key := 0, die := 0, src := 0, prio := 0 })] }

theorem standingState_issues : issues (.mdrain drainWord) standingState = true := by decide
/-- The register names a tensor outside the table, which holds what the command latched. -/
theorem standingState_outside : lrTdtn (taskLr standingState 1) ≤ refTid 0x400000 ∧ refTid drainCmd.ia.toNat < lrTdtn (taskLr standingState 1) := by decide +kernel
/-- A trap on M takes the command that stands issued away. -/
theorem standingState_trap : (curBank (stopWord (.mdrain drainWord) (.trap 0x06 0 0x500) standingState)).mwait = none := by decide

/-- Refutes O44: its clause on MDRAIN leaves out that the command may stand issued already (R428 makes the checks at issue). In `standingState` M waits on for the lease where the clause
says that it traps. -/
theorem not_weightLoadWord : ¬ Obligations.WeightLoadWord := by
  intro h
  obtain ⟨-, -, hdrain⟩ := h drainWord standingState
  obtain ⟨houtside, -⟩ := standingState_outside
  have htrap := hdrain standingState_issues rfl rfl (.inl rfl) rfl houtside
  have hwait := mdrain_standing standingState_issues (m := drainCmd) rfl rfl (by decide)
  have hsame := Host.Outcome.next.inj (hwait.symm.trans htrap)
  have hstands := waitMatrix_mwait (wantLease standingState standingState.curCore) { drainCmd with bank := curFg standingState }
  rw [hsame, standingState_trap] at hstands
  exact Option.some_ne_none _ hstands.symm
end Sys2Proof.Laws
end

section
/-! SUPPORT. Bytes at the homes (R5, R219, R222): what a write leaves of every byte and of every atom's mark, and that the canonical form is canonical. -/
namespace Sys2Proof.Laws
open Sys2Proof.Machine

/-! ## The canonical form is canonical -/

/-- Two canonical lists that read alike everywhere are equal. -/
theorem cellsFrom_ext {c d : List Host.Cell} {lo : Nat} (hc : cellsFrom lo c = true) (hd : cellsFrom lo d = true) (h : ∀ a, getCell c a = getCell d a) : c = d := by
  induction c generalizing lo d with
  | nil =>
    cases d with
    | nil => rfl
    | cons e d =>
      obtain ⟨j, y⟩ := e
      simp only [cellsFrom, Bool.and_eq_true, bne_iff_ne] at hd
      exact absurd ((h j).trans (if_pos rfl)).symm hd.1.2
  | cons e c ih =>
    obtain ⟨i, x⟩ := e
    cases d with
    | nil =>
      simp only [cellsFrom, Bool.and_eq_true, bne_iff_ne] at hc
      exact absurd ((if_pos rfl).symm.trans (h i)) hc.1.2
    | cons e d =>
      obtain ⟨j, y⟩ := e
      simp only [cellsFrom, Bool.and_eq_true, decide_eq_true_eq, bne_iff_ne] at hc hd
      obtain ⟨⟨-, hx⟩, hc⟩ := hc
      obtain ⟨⟨-, hy⟩, hd⟩ := hd
      have hi := h i
      have hj := h j
      simp only [getCell, if_true] at hi hj
      have hij : i = j := by
        by_contra hne
        rw [if_neg hne] at hi
        rw [if_neg (Ne.symm hne)] at hj
        obtain hlt | hgt := Nat.lt_or_gt_of_ne hne
        · exact hx (hi.trans (getCell_below hd (by omega)))
        · exact hy (hj.symm.trans (getCell_below hc (by omega)))
      subst hij
      rw [if_pos rfl] at hi
      subst hi
      refine congrArg _ (ih hc hd fun a => ?_)
      by_cases ha : a = i
      · subst ha
        rw [getCell_below hc (Nat.lt_succ_self _), getCell_below hd (Nat.lt_succ_self _)]
      · simpa only [getCell, if_neg ha] using h a

/-- Settles O21, each operation by its law. -/
theorem memoryStaysCanonical : Obligations.MemoryStaysCanonical :=
  ⟨rfl,
    fun _ a n v lo hi tag k p b h => ⟨memSetByte_wf a b h, homeWrite_wf a n v p h, memUndef_wf lo hi tag h, memZero_wf lo hi h, setPoison_wf k p h⟩,
    fun _ ln d w q h => homeMerge_wf ln d w q h, fun _ _ hc hd h => cellsFrom_ext hc hd h⟩

/-! ## The bytes after a write -/

/-- The tag under which a byte is undefined. -/
def undefTag (l : List Span) (x : Nat) : Option Nat := (l.find? fun sp => decide (sp.lo ≤ x ∧ x < sp.hi)).map Span.tag

theorem memByte_eq (m : Memory) (x : Nat) : memByte m x = (undefTag m.undef x).elim (getCell m.cells x) fun t => Config.freeByte t x := by
  rw [memByte, undefTag]
  cases m.undef.find? (fun sp => decide (sp.lo ≤ x ∧ x < sp.hi)) <;> rfl
/-- A byte depends on the cells and on the undefined spans alone. -/
theorem memByte_congr {m m' : Memory} (hc : m'.cells = m.cells) (hu : m'.undef = m.undef) (x : Nat) : memByte m' x = memByte m x := by
  rw [memByte_eq, memByte_eq, hc, hu]

/-- A span that loses address `a` still holds its other addresses, under its tag. -/
theorem undefTag_cut_one (sp : Span) (l : List Span) {a x : Nat} (hx : x ≠ a) : undefTag (cutSpans [sp] a ++ l) x = undefTag (sp :: l) x := by
  simp only [cutSpans, List.flatMap_cons, List.flatMap_nil, List.append_nil]
  split_ifs with h h1 h2 h2 <;> simp only [undefTag, List.cons_append, List.nil_append, List.find?_cons]
  all_goals grind
theorem undefTag_cutSpans (l : List Span) {a x : Nat} (hx : x ≠ a) : undefTag (cutSpans l a) x = undefTag l x := by
  induction l with
  | nil => rfl
  | cons sp l ih =>
    have hcons : cutSpans (sp :: l) a = cutSpans [sp] a ++ cutSpans l a := by rw [cutSpans, cutSpans, cutSpans, List.flatMap_cons, List.flatMap_singleton]
    rw [hcons, undefTag_cut_one _ _ hx]
    simp only [undefTag, List.find?_cons] at ih ⊢
    split
    · rfl
    · exact ih
theorem memByte_memSetByte_other (m : Memory) {a x : Nat} (b : Byte) (hx : x ≠ a) : memByte (memSetByte m a b) x = memByte m x := by
  rw [memByte_eq, memByte_eq, memSetByte, undefTag_cutSpans _ hx, getCell_setCell_ne _ _ hx]
theorem memByte_memWrite_other (m : Memory) {a n v x : Nat} (hx : x < a ∨ a + n ≤ x) : memByte (memWrite m a n v) x = memByte m x := by
  induction n generalizing m a v with
  | zero => rfl
  | succ n ih => rw [memWrite, ih _ (by omega), memByte_memSetByte_other _ _ (by omega)]
theorem memByte_memWrite {m : Memory} (a v : Nat) {n j : Nat} (h : m.wf = true) (hj : j < n) : memByte (memWrite m a n v) (a + j) = BitVec.ofNat 8 (v / 256 ^ j) := by
  induction n generalizing m a v j with
  | zero => exact absurd hj (Nat.not_lt_zero _)
  | succ n ih =>
    rw [memWrite]
    cases j with
    | zero => rw [memByte_memWrite_other _ (.inl (by omega)), Nat.add_zero, memByte_memSetByte _ _ h, Nat.pow_zero, Nat.div_one]
    | succ j =>
      rw [show a + (j + 1) = a + 1 + j by omega, ih _ _ (memSetByte_wf _ _ h) (Nat.lt_of_succ_lt_succ hj), Nat.div_div_eq_div_mul, Nat.pow_succ, Nat.mul_comm 256]
/-- A number is read back from its bytes, lowest first (R5). -/
theorem memRead_of_bytes {m : Memory} {a n v : Nat} (h : ∀ j, j < n → memByte m (a + j) = BitVec.ofNat 8 (v / 256 ^ j)) : memRead m a n = v % 256 ^ n := by
  induction n generalizing a v with
  | zero => rw [Nat.pow_zero, Nat.mod_one]; rfl
  | succ n ih =>
    have hrest : memRead m (a + 1) n = v / 256 % 256 ^ n := ih fun j hj => by
      rw [show a + 1 + j = a + (j + 1) by omega, h _ (by omega), Nat.div_div_eq_div_mul, ← Nat.pow_succ']
    have hfirst : memByte m a = BitVec.ofNat 8 v := by simpa using h 0 (Nat.succ_pos n)
    have hpow : 256 ^ (n + 1) = 256 * 256 ^ n := Nat.pow_succ'
    rw [memRead, hrest, hfirst, BitVec.toNat_ofNat, hpow, Nat.mod_mul]

/-! ## The marks after a write -/

theorem memByte_setPoison (m : Memory) (k : Nat) (p : Bool) (x : Nat) : memByte (setPoison m k p) x = memByte m x := rfl
/-- One atom's part of a write's effect on the marks. -/
def markAtom (a n : Nat) (p : Bool) (m : Memory) (k : Nat) : Memory :=
  if p then setPoison m k true else if a ≤ 32 * k ∧ 32 * k + 32 ≤ a + n then setPoison m k false else m
theorem poisonWrite_eq (m : Memory) (a n : Nat) (p : Bool) : poisonWrite m a n p = (atomsOf a n).foldl (markAtom a n p) m := rfl
theorem markAtom_bytes (a n : Nat) (p : Bool) (m : Memory) (k : Nat) : (markAtom a n p m k).cells = m.cells ∧ (markAtom a n p m k).undef = m.undef := by
  rw [markAtom]
  split_ifs <;> exact ⟨rfl, rfl⟩
theorem memByte_poisonWrite (m : Memory) (a n : Nat) (p : Bool) (x : Nat) : memByte (poisonWrite m a n p) x = memByte m x := by
  rw [poisonWrite_eq]
  induction atomsOf a n generalizing m with
  | nil => rfl
  | cons k l ih => rw [List.foldl_cons, ih, memByte_congr (markAtom_bytes a n p m k).1 (markAtom_bytes a n p m k).2]

theorem mem_insertAsc_iff {l : List Nat} {k x : Nat} : x ∈ insertAsc l k ↔ x = k ∨ x ∈ l := by
  induction l with
  | nil => simp [insertAsc]
  | cons i l ih =>
    rw [insertAsc]
    split_ifs with h1 h2
    · subst h1; simp
    · simp
    · rw [List.mem_cons, ih, List.mem_cons]; tauto
theorem mem_atomsOf {a n k : Nat} (hn : 0 < n) : k ∈ atomsOf a n ↔ a / 32 ≤ k ∧ k ≤ (a + n - 1) / 32 := by
  rw [atomsOf, if_neg hn.ne', List.mem_map]
  constructor
  · rintro ⟨j, hj, rfl⟩
    have hj := List.mem_range.mp hj
    omega
  · exact fun hk => ⟨k - a / 32, List.mem_range.mpr (by omega), by omega⟩

/-- The mark that the write of the bytes leaves on an atom of theirs that was marked as `old` says. -/
def MarkAfter (a n : Nat) (p : Bool) (k : Nat) (old : Prop) : Prop := p = true ∨ (old ∧ ¬(a ≤ 32 * k ∧ 32 * k + 32 ≤ a + n))
theorem mem_markAtom_same (a n : Nat) (p : Bool) (m : Memory) (k : Nat) : k ∈ (markAtom a n p m k).poison ↔ MarkAfter a n p k (k ∈ m.poison) := by
  rw [markAtom, MarkAfter]
  split_ifs with hp hw
  · simp [hp, setPoison, mem_insertAsc_iff]
  · simp [hp, hw, setPoison]
  · simp [hp, hw]
theorem mem_markAtom_other (a n : Nat) (p : Bool) (m : Memory) {j k : Nat} (h : k ≠ j) : k ∈ (markAtom a n p m j).poison ↔ k ∈ m.poison := by
  rw [markAtom]
  split_ifs
  · simp [setPoison, mem_insertAsc_iff, h]
  · simp [setPoison, h]
  · rfl
theorem markAfter_idem {a n : Nat} {p : Bool} {k : Nat} {old : Prop} : MarkAfter a n p k (MarkAfter a n p k old) ↔ MarkAfter a n p k old := by
  simp only [MarkAfter]; tauto
theorem mem_foldl_markAtom (a n : Nat) (p : Bool) (l : List Nat) (m : Memory) (k : Nat) :
    k ∈ (l.foldl (markAtom a n p) m).poison ↔ if k ∈ l then MarkAfter a n p k (k ∈ m.poison) else k ∈ m.poison := by
  induction l generalizing m with
  | nil => simp
  | cons j l ih =>
    rw [List.foldl_cons, ih]
    by_cases hj : k = j
    · subst hj
      rw [if_pos List.mem_cons_self, mem_markAtom_same, markAfter_idem, ite_self]
    · simp only [mem_markAtom_other a n p m hj, List.mem_cons, hj, false_or]
theorem memWrite_poison (m : Memory) (a n v : Nat) : (memWrite m a n v).poison = m.poison := by
  induction n generalizing m a v with
  | zero => rfl
  | succ n ih => exact ih _ _ _

/-! ## The obligation -/

theorem memByte_homeWrite_other (m : Memory) {a n v x : Nat} (p : Bool) (hx : x < a ∨ a + n ≤ x) : memByte (homeWrite m a n v p) x = memByte m x :=
  (memByte_poisonWrite _ _ _ _ _).trans (memByte_memWrite_other m hx)
theorem memByte_homeWrite {m : Memory} (a v : Nat) {n j : Nat} (p : Bool) (h : m.wf = true) (hj : j < n) :
    memByte (homeWrite m a n v p) (a + j) = BitVec.ofNat 8 (v / 256 ^ j) := (memByte_poisonWrite _ _ _ _ _).trans (memByte_memWrite a v h hj)
theorem memRead_homeWrite {m : Memory} (a n v : Nat) (p : Bool) (h : m.wf = true) : memRead (homeWrite m a n v p) a n = v % 256 ^ n :=
  memRead_of_bytes fun _ hj => memByte_homeWrite a v p h hj

/-- Settles O20. -/
theorem homeBytesReadBack : Obligations.HomeBytesReadBack := by
  intro m a n v p
  refine ⟨fun h => ⟨memRead_homeWrite a n v p h, fun j hj => memByte_homeWrite a v p h hj⟩, fun x hx => memByte_homeWrite_other m p hx, fun k hn => ?_⟩
  simp only [List.contains_iff_mem]
  rw [homeWrite, poisonWrite_eq, mem_foldl_markAtom, memWrite_poison]
  simp only [mem_atomsOf hn, MarkAfter]
end Sys2Proof.Laws
end

section
/-! SUPPORT. The canonical form of memory through the whole machine (R219, R222, R261; log entry 4): what every function that makes a state leaves of it,
from the updates of the state to the run loop. A lemma has its function's name. -/
namespace Sys2Proof.Laws
open Sys2Proof.Machine

/-- Memory has its canonical form (log entry 4). -/
def Canon (s : State) : Prop := s.mem.wf = true

/-- What a computation that may stop answers has the property. -/
def Answers {ε α : Type} (P : α → Prop) (x : Except ε α) : Prop := ∀ a, x = .ok a → P a

namespace Answers
variable {ε α β : Type} {P : α → Prop} {Q : β → Prop}

theorem ok {a : α} (h : P a) : Answers P (.ok a : Except ε α) := fun _ hb => by cases hb; exact h
theorem error {e : ε} : Answers P (.error e) := fun _ h => nomatch h
theorem bind {x : Except ε β} {f : β → Except ε α} (hx : Answers Q x) (hf : ∀ b, Q b → Answers P (f b)) : Answers P (x >>= f) := by
  cases x with
  | error e => exact error
  | ok b => exact hf b (hx b rfl)
/-- What stands before the rest may be a check, or a read, of which nothing is asked. -/
theorem check {x : Except ε β} {f : β → Except ε α} (hf : ∀ b, Answers P (f b)) : Answers P (x >>= f) :=
  bind (Q := fun _ => True) (fun _ _ => trivial) fun b _ => hf b
theorem ite {c : Prop} [Decidable c] {x y : Except ε α} (hx : Answers P x) (hy : Answers P y) : Answers P (if c then x else y) := by
  split
  · exact hx
  · exact hy
/-- A check in one case alone. -/
theorem either {c : Prop} [Decidable c] {x y : Except ε β} {f : β → Except ε α} (hf : ∀ b, Answers P (f b)) : Answers P
    (if c then x >>= f else y >>= f) :=
  ite (check hf) (check hf)
/-- An answer that is looked for in one case alone. -/
theorem okOr {c : Prop} [Decidable c] {x : Except ε β} {b : β} {f : β → Except ε α} (hx : Answers Q x) (hb : Q b) (hf : ∀ b, Q b → Answers P
    (f b)) :
    Answers P (if c then x >>= f else .ok b >>= f) := ite (bind hx hf) (hf b hb)
theorem map {x : Except ε β} {f : β → α} (hx : Answers (fun b => P (f b)) x) : Answers P (f <$> x) := by
  cases x with
  | error e => exact error
  | ok b => exact ok (hx b rfl)
end Answers

/-- What several branches start from is spoken of once. -/
theorem Canon.after {s t : State} (h : Canon s) (k : Canon s → Canon t) : Canon t := k h
theorem Canon.ite {c : Prop} [Decidable c] {s t : State} (hs : Canon s) (ht : Canon t) : Canon (if c then s else t) := by
  split
  · exact hs
  · exact ht
theorem Canon.foldl {α : Type} {f : State → α → State} {l : List α} {s : State} (hf : ∀ {s} (x), Canon s → Canon (f s x)) (h : Canon s) : Canon
    (l.foldl f s) := by
  induction l generalizing s with
  | nil => exact h
  | cons x l ih => exact ih (hf x h)
theorem foldl_keeps {α β : Type} {P : β → Prop} {f : β → α → β} {l : List α} {b : β} (hf : ∀ {b} (x), P b → P (f b x)) (h : P b) : P
    (l.foldl f b) := by
  induction l generalizing b with
  | nil => exact h
  | cons x l ih => exact ih (hf x h)
theorem Canon.foldr {α : Type} {f : α → State → State} {l : List α} {s : State} (hf : ∀ {s} (x), Canon s → Canon (f x s)) (h : Canon s) : Canon
    (l.foldr f s) := by
  induction l with
  | nil => exact h
  | cons x l ih => exact hf x ih
theorem Canon.getD {o : Option State} {s : State} (ho : ∀ t ∈ o, Canon t) (h : Canon s) : Canon (o.getD s) := by
  cases o with
  | none => exact h
  | some t => exact ho t rfl
theorem forall_mem_map {α β : Type} {P : β → Prop} {f : α → β} {o : Option α} (h : ∀ a ∈ o, P (f a)) : ∀ b ∈ o.map f, P b := by
  cases o with
  | none => exact fun _ hb => nomatch hb
  | some a =>
    rintro _ ⟨⟩
    exact h a rfl
theorem forall_mem_bind {α β : Type} {P : β → Prop} {f : α → Option β} {o : Option α} (h : ∀ a ∈ o, ∀ b ∈ f a, P b) : ∀ b ∈ o.bind f, P b := by
  cases o with
  | none => exact fun _ hb => nomatch hb
  | some a => exact h a rfl
theorem outsideMem_wf {m : Memory} (h : m.wf = true) : (outsideMem m).wf = true := cellsFrom_filter _ h
theorem layCells_wf {m : Memory} (l : List (Nat × Byte)) (h : m.wf = true) : (layCells m l).wf = true :=
  foldl_wf _ _ (fun _ _ hm => memSetByte_wf _ _ hm) h
theorem Answers.liftFault {α : Type} {P : α → Prop} {x : Except PageFault α} (hx : Answers P x) : Answers P (Machine.liftFault x) := by
  cases x with
  | error f => exact .error
  | ok a => exact .ok (hx a rfl)
theorem Canon.setPool {s : State} {p : Pool} (h : Canon s) : Canon { s with pool := p } := h
theorem Canon.snd {α : Type} {p : α × State} {a : α} {t : State} (h : Canon p.2) (hp : p = (a, t)) : Canon t := by subst hp; exact h
variable {s s0 t u : State}

/-! ## Updates of the state -/
theorem Canon.updCore {c f} (h : Canon s) : Canon (Machine.updCore s c f) := h
theorem Canon.updCluster {k f} (h : Canon s) : Canon (Machine.updCluster s k f) := h
theorem Canon.updDie {d f} (h : Canon s) : Canon (Machine.updDie s d f) := h
theorem Canon.updTask {t f} (h : Canon s) : Canon (Machine.updTask s t f) := by
  simp only [Machine.updTask]
  split
  · exact h
  · exact h
theorem Canon.updLaunch {l f} (h : Canon s) : Canon (Machine.updLaunch s l f) := by
  simp only [Machine.updLaunch]
  split
  · exact h
  · exact h
theorem Canon.updBank {c b f} (h : Canon s) : Canon (Machine.updBank s c b f) := h.updCore
theorem Canon.updStrand {c b st f} (h : Canon s) : Canon (Machine.updStrand s c b st f) := h.updBank
theorem Canon.modBank {f} (h : Canon s) : Canon (Machine.modBank s f) := h.updBank
theorem Canon.modStrand {f} (h : Canon s) : Canon (Machine.modStrand s f) := h.updStrand
theorem Canon.noteSet {off mask} (h : Canon s) : Canon (Machine.noteSet s off mask) := h
theorem Canon.useFresh (h : Canon s) : Canon (Machine.useFresh s) := h
theorem Canon.landCore {c} (h : Canon s) : Canon (Machine.landCore s c) := h.updCore
theorem Canon.thaw {c was} (h : Canon s) : Canon (Machine.thaw s c was) := by
  simp only [Machine.thaw]
  split
  · exact h
  · exact .ite h h.updCore
theorem Canon.postRecord {d img core unit} (h : Canon s) : Canon (Machine.postRecord s d img core unit) := h.updDie
theorem Canon.addTodo {off v} (h : Canon s) : Canon (Machine.addTodo s off v) := h
theorem Canon.enterHandler {c cause epc tval} (h : Canon s) : Canon (Machine.enterHandler s c cause epc tval) := h.updCore
theorem Canon.takeTrap {c st cause sub tval0 cursor estat} (h : Canon s0) : Canon (Machine.takeTrap s0 c st cause sub tval0 cursor estat) := by
  simp only [Machine.takeTrap]
  refine .ite (.enterHandler (.ite h h.useFresh)) ?_
  split
  · exact .after (.ite h h.useFresh) fun h1 => .after (.updBank (.postRecord h1)) fun h2 => .ite (.addTodo (.updTask h2)) h2
  · exact .updBank (.postRecord (.ite h h.useFresh))
theorem Canon.leaveHandler {c} (h : Canon s) : Canon (Machine.leaveHandler s c) := h.updCore

/-! ## Homes, caches and translations -/
theorem Canon.setAgentCache {p l} (h : Canon s) : Canon (Machine.setAgentCache s p l) := .ite h h
theorem Canon.setPerm {ln own} (h : Canon s) : Canon (Machine.setPerm s ln own) := h
theorem Canon.permit {ln own} (h : Canon s) : Canon (Machine.permit s ln own) := .ite h h.setPerm
theorem Canon.headMerge {ln data mask poison} (h : Canon s) : Canon (Machine.headMerge s ln data mask poison) := by
  have hm := homeMerge_wf ln data mask poison h
  simp only [Machine.headMerge, Canon]
  split
  · exact hm
  · split
    · refine foldl_wf _ _ (fun m k hk => ?_) hm
      split
      · exact hk
      · exact setPoison_wf _ _ hk
    · refine foldl_wf _ _ (fun m k hk => ?_) hm
      split
      · exact hk
      · exact memUndef_wf _ _ _ hk
theorem Canon.wakeEnt {e} (h : Canon s) : Canon (Machine.wakeEnt s e) := by
  simp only [Machine.wakeEnt]
  split
  · exact h.updTask
  · refine .ite h.updStrand ?_
    split
    · exact h.updTask.updBank
    · exact h.updTask.updTask
theorem Canon.wakeWhere {hit} (h : Canon s) : Canon (Machine.wakeWhere s hit) := .ite h (.foldl (fun _ h1 => h1.wakeEnt) h)
theorem Canon.wakeBytes {a n} (h : Canon s) : Canon (Machine.wakeBytes s a n) := h.wakeWhere
theorem Canon.wakeSnooped {a n} (h : Canon s) : Canon (Machine.wakeSnooped s a n) := h.wakeWhere
theorem Canon.keepCode {pa n v} (h : Canon s) : Canon (Machine.keepCode s pa n v) := .ite h h
theorem Canon.noteFetch {task pas} (h : Canon s) : Canon (Machine.noteFetch s task pas) := .ite h h
theorem Canon.dropCode {task} (h : Canon s) : Canon (Machine.dropCode s task) := h
/-- What the host has modified goes to the homes byte by byte (R304). -/
theorem Canon.recallHost {pa n} (h : Canon s) : Canon (Machine.recallHost s pa n) := by
  refine Canon.foldl (fun _ h1 => h1.wakeBytes) ?_
  refine foldl_wf _ _ (fun m x hm => foldl_wf _ _ (fun m i hi => ?_) hm) (Canon.foldl (fun _ h1 => h1.keepCode) h)
  split
  · exact homeWrite_wf _ _ _ _ hi
  · exact hi
theorem Canon.touchRow {pa} (h : Canon s) : Canon (Machine.touchRow s pa) := .ite h h
theorem Canon.homeStore {pa n v p} (h : Canon s) : Canon (Machine.homeStore s pa n v p) := .wakeBytes (homeWrite_wf pa n v p h.recallHost.touchRow)
theorem Canon.hideGranule {g} (h : Canon s) : Canon (Machine.hideGranule s g) := .ite h (.useFresh (.ite h.recallHost h))
theorem Canon.admitWrite {c acc x} (h : Canon s) : Canon (Machine.admitWrite s c acc x) := .ite h.hideGranule h
theorem Canon.setPrtState {i st} (h : Canon s) : Canon (Machine.setPrtState s i st) := h.homeStore
theorem Canon.useXlat {c acc raw x} (h : Canon s) : Canon (Machine.useXlat s c acc raw x) :=
  .after (.ite h.admitWrite h.admitWrite.homeStore) fun h1 => .after (.ite h1 (.updDie h1)) fun h2 => .ite h1 (.updCluster (.ite h2 (.updCore h2)))
theorem Canon.useXlats {c acc raw l} (h : Canon s) : Canon (Machine.useXlats s c acc raw l) := .foldl (fun _ h1 => h1.useXlat) h
theorem Canon.postPool {head code sub addr detail idx} (h : Canon s) : Canon (Machine.postPool s head code sub addr detail idx) := h.postRecord
theorem Canon.cleanAgentLine {p ln} (h : Canon s) : Canon (Machine.cleanAgentLine s p ln) := by
  simp only [Machine.cleanAgentLine]
  split
  · exact h
  · refine .ite h ?_
    split
    · exact .ite (.postPool h.setAgentCache) h.headMerge.setAgentCache
    · exact h.headMerge.setAgentCache
theorem Canon.evictAgent {p ln} (h : Canon s) : Canon (Machine.evictAgent s p ln) := by
  simp only [Machine.evictAgent]
  split
  · exact .ite h.cleanAgentLine.setAgentCache h.cleanAgentLine
  · exact h.cleanAgentLine
theorem Canon.putAgent {p x} (h : Canon s) : Canon (Machine.putAgent s p x) := by
  simp only [Machine.putAgent]
  refine .ite (.ite h h.headMerge) ?_
  refine .setAgentCache (.ite h ?_)
  split
  · exact h.useFresh.evictAgent
  · exact h
theorem Canon.writeBeyond {k ln data mask poison} (h : Canon s) : Canon (Machine.writeBeyond s k ln data mask poison) :=
  .ite h (.ite h (.wakeBytes (.ite (homeMerge_wf ln data mask poison h.recallHost.touchRow) h.putAgent.permit)))
theorem Canon.cleanLine {k ln} (h : Canon s) : Canon (Machine.cleanLine s k ln) := by
  simp only [Machine.cleanLine]
  split
  · exact h
  · exact .ite h h.writeBeyond.updCluster
theorem Canon.evictCluster {k ln} (h : Canon s) : Canon (Machine.evictCluster s k ln) := by
  simp only [Machine.evictCluster]
  split
  · exact .ite h.cleanLine.updCluster h.cleanLine
  · exact h.cleanLine
theorem Canon.clusterRoom {k ln} (h : Canon s) : Canon (Machine.clusterRoom s k ln) := by
  simp only [Machine.clusterRoom]
  refine .ite h ?_
  split
  · exact h.useFresh.evictCluster
  · exact h
theorem Canon.recallLine {ln} (h : Canon s) : Canon (Machine.recallLine s ln) := .evictAgent (.foldl (fun _ h1 => h1.evictCluster) h)
theorem Canon.filterRoom {kind ln} (h : Canon s) : Canon (Machine.filterRoom s kind ln) := by
  simp only [Machine.filterRoom]
  refine .ite h ?_
  refine .ite h ?_
  split
  · exact h.useFresh.recallLine
  · exact h
theorem Canon.markDamage {ln p} (h : Canon s) : Canon (Machine.markDamage s ln p) := by
  refine .useFresh (foldl_wf _ _ (fun m k hm => ?_) h)
  split
  · exact setPoison_wf _ _ hm
  · exact hm
theorem Canon.agentFetch {p ln} (h : Canon s) : Canon (Machine.agentFetch s p ln).2 := by
  simp only [Machine.agentFetch]
  split
  · exact h
  · split
    · exact h.useFresh
    · exact .permit (.putAgent (.markDamage (.ite h.filterRoom h)))
theorem Canon.beyondFetch {ln} (h : Canon s) : Canon (Machine.beyondFetch s ln).2.2 := by
  simp only [Machine.beyondFetch]
  split
  · exact h.touchRow
  · exact h.agentFetch
theorem Canon.releaseCore {core} (h : Canon s) : Canon (Machine.releaseCore s core) := .foldl (fun _ h1 => .ite h1 h1.writeBeyond.updCluster) h
theorem Canon.releaseAction {core scope} (h : Canon s) : Canon (Machine.releaseAction s core scope) := .ite h h.releaseCore
theorem Canon.dropClean {k pick} (h : Canon s) : Canon (Machine.dropClean s k pick) := h.updCluster
theorem Canon.acquireAction {core scope} (h : Canon s) : Canon (Machine.acquireAction s core scope) := .ite h h.dropClean
theorem Canon.startAcquire {core} (h : Canon s) : Canon (Machine.startAcquire s core) := h.dropClean.updCore

/-! ## Windows and barriers -/
theorem Canon.noteBar {core n} (h : Canon s) : Canon (Machine.noteBar s core n) := h
theorem Canon.barChange {core n k v err own} (h : Canon s) : Canon (Machine.barChange s core n k v err own) := .ite h h
theorem Canon.settleBar {core n} (h : Canon s) : Canon (Machine.settleBar s core n) := .ite h.updCore.wakeWhere h.updCore
theorem Canon.settleBars (h : Canon s) : Canon (Machine.settleBars s) := .foldl (fun _ h1 => h1.settleBar) h
theorem Canon.keepOld {core bank it} (h : Canon s) : Canon (Machine.keepOld s core bank it) := by
  simp only [Machine.keepOld]
  split
  · exact h
  · exact .ite h h
theorem Canon.noteBars {pa n} (h : Canon s) : Canon (Machine.noteBars s pa n) := .ite (.foldl (fun _ h1 => h1.noteBar) h) h
theorem Canon.winPiece {pa k v p} (h : Canon s) : Canon (Machine.winPiece s pa k v p) := by
  simp only [Machine.winPiece]
  split
  · exact h
  · split
    · exact .ite (homeWrite_wf pa k v p h) h
    · split
      · split
        · exact h.updCore
        · split
          · exact h
          · exact h.landCore.keepOld.updBank.useFresh
      · exact .ite h.updCluster h
theorem Canon.winSplit {p fuel pa n v} (h : Canon s) : Canon (Machine.winSplit s p fuel pa n v) := by
  induction fuel generalizing s pa n v with
  | zero => exact h
  | succ fuel ih => exact .ite h (ih h.winPiece)
theorem Canon.winWrite {pa n v p} (h : Canon s) : Canon (Machine.winWrite s pa n v p) := .ite (.ite (.ite h.barChange h.barChange) h) h.winSplit
theorem Canon.releaseHeld {core} (h : Canon s) : Canon (Machine.releaseHeld s core) := .foldl (fun _ h1 => h1.winPiece) h.updCore

/-! ## Pieces of an access -/
theorem Canon.storeRefused {ln} (h : Canon s) : Canon (Machine.storeRefused s ln) := by
  simp only [Machine.storeRefused]
  split
  · exact .setAgentCache h
  · exact h
theorem Canon.storeBeyond {pa n v p} (h : Canon s) : Canon (Machine.storeBeyond s pa n v p) :=
  .ite h.storeRefused (.ite (.wakeBytes (.permit (.putAgent (.ite h.filterRoom h)))) h.homeStore)
theorem Canon.loadBeyond {pa n} (h : Canon s) : Canon (Machine.loadBeyond s pa n).2 := h.beyondFetch
theorem Canon.storeRange {pa n v p} (h : Canon s) : Canon (Machine.storeRange s pa n v p) :=
  foldl_keeps (P := fun a : State × Nat => Canon a.1) (fun _ h1 => h1.storeBeyond) h
theorem Canon.readLine {k q} (h : Canon s) : Canon (Machine.readLine s k q).2 := by
  unfold Machine.readLine
  extract_lets ln t x
  have ht : Canon t := .ite h h.filterRoom.clusterRoom
  clear_value t
  split
  · exact ht
  · exact .ite ht.beyondFetch ht.beyondFetch.updCluster
theorem Canon.readCluster {k q} (h : Canon s) : Canon (Machine.readCluster s k q).2 := h.readLine
theorem Canon.writeCluster {k core q v p} (h : Canon s) : Canon (Machine.writeCluster s k core q v p) :=
  .after (.ite h h.filterRoom.clusterRoom) fun h1 => .ite (.writeBeyond h1) (.wakeBytes (.updCluster h1))
theorem Canon.dropBytes {k pa n} (h : Canon s) : Canon (Machine.dropBytes s k pa n) := by
  simp only [Machine.dropBytes]
  split
  · exact h
  · exact h.updCluster
theorem Canon.readPiece {core scope q} (h : Canon s) : Canon (Machine.readPiece s core scope q).2 := by
  simp only [Machine.readPiece]
  split
  · exact h.noteBars
  · split
    · exact h.readCluster
    · exact .after (.ite h.cleanLine.dropBytes h.cleanLine) fun h1 => .loadBeyond (.ite (.recallHost h1) h1)
theorem Canon.writePiece {core scope q v p} (h : Canon s) : Canon (Machine.writePiece s core scope q v p) :=
  .after (.ite h h.keepCode) fun h1 => .ite (.wakeBytes (.winWrite h1)) (.ite (.writeCluster h1) (.storeBeyond (.dropBytes h1)))
theorem Canon.readPieces {core scope l} (h : Canon s) : Canon (Machine.readPieces s core scope l).2 := by
  induction l generalizing s with
  | nil => exact h
  | cons q l ih => exact ih h.readPiece
theorem Canon.writePieces {core scope p l v} (h : Canon s) : Canon (Machine.writePieces s core scope p l v) := by
  induction l generalizing s v with
  | nil => exact h
  | cons q l ih => exact ih h.writePiece
theorem Canon.readMarked {core scope o l} (h : Canon s) : Canon (Machine.readMarked s core scope o l).2 := by
  induction l generalizing s o with
  | nil => exact h
  | cons q l ih => exact ih h.readPieces
theorem Canon.writeMarked {core scope v bad o l} (h : Canon s) : Canon (Machine.writeMarked s core scope v bad o l) := by
  induction l generalizing s o with
  | nil => exact h
  | cons q l ih => exact ih h.writePieces
theorem Canon.fetchCode {c va n} (h : Canon s) : Answers (Canon ·.2) (Machine.fetchCode s c va n) :=
  .check fun _ => .ite (.ok h.useXlats.noteFetch.useFresh) (.ok h.useXlats.noteFetch)

/-! ## Registers of the host -/
theorem Canon.updLq {q f} (h : Canon s) : Canon (Machine.updLq s q f) := h
theorem Canon.ringDoorbell {n v} (h : Canon s) : Canon (Machine.ringDoorbell s n v) := .ite (.noteSet (.updLq h)) (.updLq h)
theorem Canon.writeLqctl {n v} (h : Canon s) : Canon (Machine.writeLqctl s n v) := h.updLq
theorem Canon.lqWrite {n r v ones} (h : Canon s) : Canon (Machine.lqWrite s n r v ones) :=
  .ite h.updLq (.ite h.writeLqctl (.ite h.ringDoorbell (.ite h.updLq (.ite h.updLq h))))
theorem Canon.holdctlSet {die task action} (h : Canon s) : Canon (Machine.holdctlSet s die task action) := h.updDie
theorem Canon.trapctlSet {die task action} (h : Canon s) : Canon (Machine.trapctlSet s die task action) := h.updDie
theorem Canon.cpyresSet {x action} (h : Canon s) : Canon (Machine.cpyresSet s x action) := h.updDie
theorem Canon.dieWrite {die r v ones} (h : Canon s) : Canon (Machine.dieWrite s die r v ones) :=
  .after (.updDie (.ite h.updDie h)) fun h1 => .ite (.addTodo (.holdctlSet (.ite h.updDie h))) (.ite (.addTodo (.trapctlSet (.ite h.updDie h)))
    (.ite (.addTodo (.cpyresSet (.ite h.updDie h))) (.ite (.addTodo h1) h1)))
theorem Canon.poolWrite {r v ones} (h : Canon s) : Canon (Machine.poolWrite s r v ones) := .ite h (.ite h (.ite h (.ite (.addTodo h) h)))
theorem Canon.psctlBar {v} (h : Canon s) : Canon (Machine.psctlBar s v) := .ite h (.addTodo h)
theorem Canon.mgmtWrite {r v ones} (h : Canon s) : Canon (Machine.mgmtWrite s r v ones) := .ite h.psctlBar (.ite h h)
theorem Canon.mmioSet {o v written} (h : Canon s) : Canon (Machine.mmioSet s o v written) :=
  .ite h.dieWrite (.ite h.lqWrite (.ite h.poolWrite (.ite h.mgmtWrite h)))
theorem Canon.mmioWrite {off n v} (h : Canon s) : Canon (Machine.mmioWrite s off n v) := h.mmioSet

/-! ## Tensor tiles and the array's memory -/
theorem Canon.readAt {c scope va n} (h : Canon s) : Answers (Canon ·.2.2) (Machine.readAt s c scope va n) :=
  .check fun _ => .ok h.useXlats.readPieces
theorem Canon.readTd {c tdt tid} (h : Canon s) : Answers (Canon ·.2.2) (Machine.readTd s c tdt tid) := by
  simp only [Machine.readTd]
  refine .bind h.readAt fun _ h1 => ?_
  split
  · exact .ok (.ite h1 h1.updCluster)
  · split
    · exact .ok h1.updCluster.useFresh
    · exact .ok h1.useFresh
theorem Canon.readTdWord {c tdt tid k} (h : Canon s) : Answers (Canon ·.2) (Machine.readTdWord s c tdt tid k) := by
  simp only [Machine.readTdWord]
  refine .bind h.readAt fun _ h1 => ?_
  split
  · exact .ok h1
  · exact .ok h1.useFresh
theorem Canon.dropTds {root tdt n} (h : Canon s) : Canon (Machine.dropTds s root tdt n) := h
theorem Canon.readTag {c e i} (h : Canon s) : Answers (Canon ·.2) (Machine.readTag s c e i) :=
  .ite (.ok h) (.check fun _ => .ite (.ok h) (.ok h.useXlats.readPieces))
theorem Canon.writeTag {pa t} (h : Canon s) : Canon (Machine.writeTag s pa t) := h.storeRange
theorem Canon.useTyped {c task w l} (h : Canon s) : Canon (Machine.useTyped s c task w l) := .foldl (fun _ h1 => h1.useXlat) h
theorem Canon.typedStore {task va n fmt spc lay} (h : Canon s) : Canon (Machine.typedStore s task va n fmt spc lay) :=
  .foldl (fun _ h1 => .ite h1.writeTag h1) h
theorem Canon.notePoison {task va n} (h : Canon s) : Canon (Machine.notePoison s task va n) := h.updTask

/-! ## Accesses that are performed -/
theorem Canon.noteStrong {core bank st o} (h : Canon s) : Canon (Machine.noteStrong s core bank st o) :=
  .ite h (.foldl (fun _ h1 => .ite h1 (.ite h1.postRecord h1)) h)
theorem Canon.mixUp {core o spans r} (h : Canon r.2) : Canon (Machine.mixUp s core o spans r).2 := by
  simp only [Machine.mixUp]
  split
  · exact h
  · split
    · exact h.useFresh
    · exact .useFresh (.foldl (fun _ h1 => .ite h1 h1.readPieces.writePieces) h)
theorem Canon.strongRead {core bank st o} (h : Canon s) : Canon (Machine.strongRead s core bank st o).2 := h.readPieces.mixUp
theorem Canon.readRest {rd did i l} (hr : ∀ {s q}, Canon s → Canon (rd s q).2) (h : Canon s) : Canon (Machine.readRest rd did s i l).2 := by
  induction l generalizing s i with
  | nil => exact h
  | cons q l ih =>
    refine ih ?_
    split
    · exact h
    · exact hr h
theorem Canon.writeRest {core scope p did i l v} (h : Canon s) : Canon (Machine.writeRest s core scope p did i l v) := by
  induction l generalizing s i v with
  | nil => exact h
  | cons q l ih => exact ih (.ite h h.writePiece)
theorem Canon.readOp {core o} (h : Canon s) : Canon (Machine.readOp s core o).2 := by
  simp only [Machine.readOp]
  split
  · split
    · exact h.useFresh
    · exact .readRest (fun h1 => h1.readPiece) h
  · exact h
theorem Canon.writeOp {core o v p} (h : Canon s) : Canon (Machine.writeOp s core o v p) := by
  simp only [Machine.writeOp]
  split
  · exact .ite h.mmioWrite h.writeRest
  · exact h
theorem Canon.putRo {core x} (h : Canon s) : Canon (Machine.putRo s core x) := h.updCore.useFresh
theorem Canon.readRo {core q} (h : Canon s) : Canon (Machine.readRo s core q).2 := by
  simp only [Machine.readRo]
  split
  · exact h
  · exact .ite h.readLine h.readLine.putRo
theorem Canon.readRoAs {fills core q} (h : Canon s) : Canon (Machine.readRoAs fills core s q).2 := by
  simp only [Machine.readRoAs]
  split
  · exact h.readRo
  · exact h.readRo.updCore
theorem Canon.noteStore {core bank o va n p} (h : Canon s) : Canon (Machine.noteStore s core bank o va n p) := by
  simp only [Machine.noteStore]
  split
  · exact h
  · exact .after (.ite h h.typedStore) fun h1 => .ite (.notePoison h1) h1
theorem Canon.writeNoted {core bank o v p carried} (h : Canon s) : Canon (Machine.writeNoted s core bank o v p carried) := h.writeOp.noteStore
theorem Canon.performOp {core bank st o} (h : Canon s) : Canon (Machine.performOp s core bank st o).2 := by
  unfold Machine.performOp
  extract_lets s1 spans t rd r v
  have ht : Canon t := Canon.noteStrong (.ite h.releaseAction h)
  have hr : Canon r.2 := by
    dsimp only [r, rd]
    clear_value t
    split
    · exact ht.readOp
    · exact ht.readOp
    · exact .readRest (fun h1 => h1.readRoAs) ht
    · exact ht.writeNoted
    · exact ht.readOp.writeNoted
    · split
      · exact ht.readOp.writeNoted
      · exact ht.readOp
    any_goals exact ht
    · exact ht.barChange
    · exact ht.barChange
  have hv : Canon v.2 := Canon.mixUp hr
  exact .ite hv.acquireAction hv
theorem Canon.performFlight {core bank st id} (h : Canon s) : Canon (Machine.performFlight s core bank st id) := by
  simp only [Machine.performFlight]
  split
  · exact h
  · split
    · exact h.updBank
    · exact h.performOp.updStrand.updBank.thaw
theorem Canon.performPiece {core bank o e} (h : Canon s) : Canon (Machine.performPiece s core bank o e).2 := by
  simp only [Machine.performPiece]
  split
  · exact h.readPiece
  · exact h.readPiece
  · exact h.readRoAs
  · exact h.writePiece.noteStore
theorem Canon.performNext {core bank st id} (h : Canon s) : Canon (Machine.performNext s core bank st id) := by
  simp only [Machine.performNext]
  split
  · exact h.performFlight
  · refine .ite ?_ h.performFlight
    split
    · exact h.useFresh.performPiece.updStrand
    · exact h.useFresh.performFlight
theorem Canon.drain {core bank st pick} (h : Canon s) : Canon (Machine.drain s core bank st pick) := .foldl (fun _ h1 => h1.performFlight) h
theorem Canon.drainCur (h : Canon s) : Canon (Machine.drainCur s) := h.drain

/-! ## The matrix units -/
theorem Canon.scrWrite {m off n v p} (h : Canon s) : Canon (Machine.scrWrite s m off n v p) := .wakeBytes (homeWrite_wf _ n v p h)
theorem Canon.updTile {m f} (h : Canon s) : Canon (Machine.updTile s m f) := h.updCluster
theorem Canon.mmaUnit {m u bad} (h : Canon s) : Canon (Machine.mmaUnit s m u bad) := .foldl (fun _ h1 => h1.updTile) h
theorem Canon.molaUnit {m u} (h : Canon s) : Canon (Machine.molaUnit s m u) := by
  simp only [Machine.molaUnit]
  split
  · exact .updTile (.ite h.useFresh h)
  · exact h
theorem Canon.msetUnit {m u} (h : Canon s) : Canon (Machine.msetUnit s m u) := h.updTile
theorem Canon.mldaccUnit {m u} (h : Canon s) : Canon (Machine.mldaccUnit s m u) := h.updTile
theorem Canon.mrowsumUnit {m u} (h : Canon s) : Canon (Machine.mrowsumUnit s m u) :=
  .ite h.scrWrite (.foldl (fun _ h1 => .scrWrite (.ite h1.useFresh h1)) h)
theorem Canon.mdrainUnit {m u} (h : Canon s) : Canon (Machine.mdrainUnit s m u) :=
  .after (.ite h.updBank.typedStore.writePieces h.updBank.scrWrite) fun h1 => .ite (.notePoison h1) h1
theorem Canon.runUnit {m u bad} (h : Canon s) : Canon (Machine.runUnit s m u bad) := by
  simp only [Machine.runUnit]
  split
  · exact h.mmaUnit
  · exact h.mmaUnit
  · exact h.molaUnit
  · exact h.msetUnit
  · exact h.mldaccUnit
  · exact h.mrowsumUnit
  · exact h.mdrainUnit
  · exact h
theorem Canon.settleRows {m} (h : Canon s) : Canon (Machine.settleRows s m) := by
  simp only [Machine.settleRows]
  split
  · exact .ite h h.useFresh.updTile
  · exact .ite h h.useFresh.updTile
  · exact .ite h h.useFresh.updTile
  · exact .ite h h.useFresh.updTile
  · exact .ite h h.useFresh.updTile
  · exact h
theorem Canon.runUnits {m upTo given} (h : Canon s) : Canon (Machine.runUnits s m upTo given) :=
  .ite h (.settleRows (.foldl (fun _ h1 => h1.runUnit) (.foldl (fun _ h1 => h1.postRecord) (.ite h.updCore.useFresh h))))
theorem Canon.advance {cl m} (h : Canon s) : Canon (Machine.advance s cl m).1 := by
  unfold Machine.advance
  extract_lets now e
  split
  · exact h
  · exact h.runUnits
theorem Canon.syncMatrix {core} (h : Canon s) : Canon (Machine.syncMatrix s core) := by
  simp only [Machine.syncMatrix]
  split
  · exact .ite h.advance.updCluster h
  · exact h
theorem Canon.releaseLease {cl} (h : Canon s) : Canon (Machine.releaseLease s cl) := h.updCluster
theorem Canon.wantLease {core} (h : Canon s) : Canon (Machine.wantLease s core) := h.updCluster
theorem Canon.cutMatrix {core} (h : Canon s) : Canon (Machine.cutMatrix s core) := by
  simp only [Machine.cutMatrix]
  refine .ite h.updCluster ?_
  refine .ite ?_ ?_
  · refine .releaseLease (.updCluster (.updBank ?_))
    split
    · exact h.updCluster.advance
    · exact h.updCluster
  · refine .updCluster (.updBank ?_)
    split
    · exact h.updCluster.advance
    · exact h.updCluster
theorem Canon.clashRow {core bank tile r} (h : Canon s) : Canon (Machine.clashRow s core bank tile r) := h.updCluster.updBank.useFresh
theorem Canon.mapName {task wn slot x} (h : Canon s) : Canon (Machine.mapName s task wn slot x) := h.updTask
theorem Canon.dropName {task wn} (h : Canon s) : Canon (Machine.dropName s task wn) := h.updTask
theorem Canon.takeSlot {cl x} (h : Canon s) : Canon (Machine.takeSlot s cl x).2 := by
  simp only [Machine.takeSlot]
  split
  · exact h.updCluster
  · split
    · exact h.updCluster
    · exact .updCluster h
theorem Canon.readFeed {core l} (h : Canon s) : Canon (Machine.readFeed s core l).2 := by
  induction l generalizing s with
  | nil => exact h
  | cons q l ih => exact ih h.readPieces
theorem Canon.readTile {c va n} (h : Canon s) : Answers (Canon ·.2) (Machine.readTile s c va n) := .check fun _ => .ok h.useXlats.readFeed
theorem Canon.readSpans {c l} (h : Canon s) : Answers (Canon ·.2) (Machine.readSpans s c l) := by
  induction l generalizing s with
  | nil => exact .ok h
  | cons p l ih => exact .bind h.readTile fun _ h1 => .bind (ih h1) fun _ h2 => .ok h2
theorem Canon.slotContent {w} (h : Canon s) : Answers (Canon ·.2) (Machine.slotContent s w) :=
  .bind h.readTd fun _ h1 => .bind h1.readSpans fun _ h2 => .ite (.bind (.ok h2) fun _ h3 => .ite (.bind (.ok h3) fun _ h4 => .ok h4)
    (.bind h3.readSpans fun _ h4 => .ok h4)) (.bind h2.readTile fun _ h3 => .ite (.bind (.ok h3) fun _ h4 => .ok h4) (.bind h3.readSpans fun _ h4 =>
    .ok h4))
theorem Canon.postFeed {c f} (h : Canon s) : Canon (Machine.postFeed s c f) := h.postRecord
theorem Canon.mldwReads {c tdt ref} (h : Canon s) : Answers (Canon ·.2.2.2) (Machine.mldwReads s c tdt ref) :=
  .bind h.readTd fun _ h1 => .ite (.ok h1) (.bind h1.readTag fun _ h2 => .ite (.ok h2) (.ite (.bind h2.readTile fun _ h3 => .ok h3) (.ok h2)))
theorem Canon.slotFor {m} (h : Canon s) : Canon (Machine.slotFor s m).2 := by
  simp only [Machine.slotFor]
  split
  · exact h
  · split
    · split
      · exact h
      · exact h
    · exact h
    · split
      · exact h
      · split
        · exact h.postFeed.updBank
        · next e1 =>
            split
            · exact (h.mldwReads _ e1)
            · exact (h.mldwReads _ e1).takeSlot.mapName
theorem Canon.trapTile {core} (h : Canon s) : Canon (Machine.trapTile s core) := h.cutMatrix.updBank.takeTrap
theorem Canon.loadNext {core} (h : Canon s) : Canon (Machine.loadNext s core) := by
  simp only [Machine.loadNext]
  refine Canon.ite h ?_
  split
  · exact h
  · split
    · next e1 => exact (Canon.snd (h.slotFor) e1)
    · next e1 => exact Canon.ite (Canon.snd (h.slotFor) e1) (Canon.snd (h.slotFor) e1).trapTile
    · next e1 => exact (Canon.snd (h.slotFor) e1).updBank.updCluster
theorem Canon.loadCut {core} (h : Canon s) : Canon (Machine.loadCut s core) := h.loadNext.loadNext
theorem Canon.resumeMatrix {core} (h : Canon s) : Canon (Machine.resumeMatrix s core) := .ite h (.ite h.loadCut h.wantLease)
theorem Canon.fillSlot {cl n} (h : Canon s) : Canon (Machine.fillSlot s cl n) := by
  simp only [Machine.fillSlot]
  split
  · exact h
  · refine .ite h ?_
    split
    · next e1 =>
        split
        · exact (h.slotContent _ e1).updCluster.loadCut
        · exact (h.slotContent _ e1).updCluster
    · exact h.postFeed.updCluster
theorem Canon.mldwMap {core b wn ref e tag} (h : Canon s) : Canon (Machine.mldwMap s core b wn ref e tag).2 :=
  h.acquireAction.dropName.takeSlot.mapName
theorem Canon.mldwAgain {core x} (h : Canon s) : Canon (Machine.mldwAgain s core x) := by
  simp only [Machine.mldwAgain]
  refine .ite h ?_
  split
  · exact h.postFeed
  · next e1 => exact .ite (h.mldwReads _ e1).mldwMap.updBank (.ite (h.mldwReads _ e1) (h.mldwReads _ e1).updBank.trapTile)
theorem Canon.translateCore {core} (h : Canon s) : Canon (Machine.translateCore s core) := .loadCut (.foldl (fun _ h1 => h1.mldwAgain) h.updBank)
theorem Canon.translateArray {cl} (h : Canon s) : Canon (Machine.translateArray s cl) :=
  .ite h (.foldl (fun _ h1 => h1.translateCore) (.foldl (fun _ h1 => h1.fillSlot) h))

/-! ## Turns, traps and fetching -/
theorem Canon.tick {dt} (h : Canon s) : Canon (Machine.tick s dt) := .ite h (.ite h.settleBars h.settleBars.settleBars)
theorem Canon.stallAs {why} (h : Canon s) : Canon (Machine.stallAs s why) := .ite h h.modStrand
theorem Canon.fetchWord (h : Canon s) : Answers (Canon ·.2) (Machine.fetchWord s) := .bind h.fetchCode fun _ h1 => .ok h1

/-! ## Issuing a word -/
theorem Canon.readVloads (h : Canon s) : Canon (Machine.readVloads s) := h.drain
theorem Canon.trapStrand {c sub tval stat} (h : Canon s) : Canon (Machine.trapStrand s c sub tval stat) :=
  .ite h.stallAs (.takeTrap (.ite h.cutMatrix.modBank h))
theorem Canon.stopWord {i x} (h : Canon s) : Canon (Machine.stopWord i x s) := by
  simp only [Machine.stopWord]
  split
  · exact h.stallAs
  · exact .ite h.readVloads.trapStrand h.trapStrand
theorem Canon.complete {i early o} (ho : Canon o.s) : Canon (Machine.complete i early o s0) := by
  simp only [Machine.complete]
  refine .ite ?_ (.ite ho.modBank.useFresh ho.modBank)
  split
  · exact ho.stopWord
  · exact ho
theorem Canon.completeOff {i early} (h : Canon s) : Canon (Machine.completeOff i early s) := .ite h.modStrand h.modStrand.modBank.useFresh
theorem Canon.setLateCsr {e} (h : Canon s) : Canon (Machine.setLateCsr s e) := .ite h.updCore h.modBank
theorem Canon.withCsrs {i f} (hf : ∀ {s}, Canon s → Canon (f s)) (h : Canon s) : Canon (Machine.withCsrs i f s) := by
  unfold Machine.withCsrs
  extract_lets now live t base late old go r
  have ht : Canon t := .ite h h.modBank
  have hgo {u : State} (hu : Canon u) : Canon (go u) := .ite hu hu.useFresh
  exact .ite (hgo (hf ht)) (hgo (.foldl (fun _ h1 => h1.setLateCsr) (hf (.foldr (fun _ h1 => h1.setLateCsr) ht))))
theorem Canon.issueState {i body} (hb : ∀ {s}, Canon s → Answers (Canon ·.s) (body s)) (h : Canon s) : Canon (Machine.issueState i body s) := by
  simp only [Machine.issueState]
  split
  · exact h.stopWord
  · exact h.completeOff
  · split
    · exact .ite (.complete h) h.stopWord
    · next ho => exact .complete (hb h _ ho)

/-! ## Integer words -/
theorem Canon.alu2 {w bound f} (h : Canon s) : Answers (Canon ·.s) (Machine.alu2 w bound f s) := .ok h
theorem Canon.alu1 {w f} (h : Canon s) : Answers (Canon ·.s) (Machine.alu1 w f s) := .ok h
theorem Canon.divWord {w f} (h : Canon s) : Answers (Canon ·.s) (Machine.divWord w f s) := .ok h
theorem Canon.selBody {w} (h : Canon s) : Answers (Canon ·.s) (Machine.selBody w s) := .ok h
theorem Canon.bfiBody {w} (h : Canon s) : Answers (Canon ·.s) (Machine.bfiBody w s) := .ok h
theorem Canon.addiBody {w} (h : Canon s) : Answers (Canon ·.s) (Machine.addiBody w s) := .ok h
theorem Canon.liBody {w} (h : Canon s) : Answers (Canon ·.s) (Machine.liBody w s) := .ok h
theorem Canon.lihBody {w} (h : Canon s) : Answers (Canon ·.s) (Machine.lihBody w s) := .ok h

/-! ## Control words -/
theorem Canon.brBody {w} (h : Canon s) : Answers (Canon ·.s) (Machine.brBody w s) := .check fun _ => .ok h
theorem Canon.jmpBody {w} (h : Canon s) : Answers (Canon ·.s) (Machine.jmpBody w s) := .ok h
theorem Canon.jmprBody {w} (h : Canon s) : Answers (Canon ·.s) (Machine.jmprBody w s) := .check fun _ => .ok h
theorem Canon.callBody {w} (h : Canon s) : Answers (Canon ·.s) (Machine.callBody w s) := .ok h
theorem Canon.loopBody {w} (h : Canon s) : Answers (Canon ·.s) (Machine.loopBody w s) := .check fun _ => .ok h.modBank
theorem Canon.brqBody {w} (h : Canon s) : Answers (Canon ·.s) (Machine.brqBody w s) := .check fun _ => .ok h
theorem Canon.syncvBody (h : Canon s) : Answers (Canon ·.s) (Machine.syncvBody s) := .ok h.modStrand
theorem Canon.repBody {w} (h : Canon s) : Answers (Canon ·.s) (Machine.repBody w s) :=
  .check fun _ => .check fun _ => .check fun _ => .ok h.modStrand

/-! ## Float words -/
theorem Canon.fround {w v invalid extra p} (h : Canon s) : Canon (Machine.fround s w v invalid extra p).s := h
theorem Canon.fop2 {w f} (h : Canon s) : Answers (Canon ·.s) (Machine.fop2 w f s) := .ok h.fround
theorem Canon.ffmaBody {w} (h : Canon s) : Answers (Canon ·.s) (Machine.ffmaBody w s) := .ok h.fround
theorem Canon.fsqrtBody {w} (h : Canon s) : Answers (Canon ·.s) (Machine.fsqrtBody w s) := .ok h.fround
theorem Canon.fminmaxBody {max w} (h : Canon s) : Answers (Canon ·.s) (Machine.fminmaxBody max w s) := .ok h
theorem Canon.fcmpBody {w} (h : Canon s) : Answers (Canon ·.s) (Machine.fcmpBody w s) := .ok h
theorem Canon.fcvtBody {w} (h : Canon s) : Answers (Canon ·.s) (Machine.fcvtBody w s) := .ok h
theorem Canon.fclassBody {w} (h : Canon s) : Answers (Canon ·.s) (Machine.fclassBody w s) := .ok h

/-! ## Memory words -/
theorem Canon.memOut {o dests} (h : Canon s) : Answers (Canon ·.s) (Machine.memOut s o dests) := .ite .error (.ok h)
theorem Canon.loadBody {w kind acc} (h : Canon s) : Answers (Canon ·.s) (Machine.loadBody w kind acc s) :=
  .check fun _ => .ite (.check fun _ => .check fun _ => h.useXlats.memOut) (.check fun _ => .check fun _ => h.useXlats.memOut)
theorem Canon.stBody {w} (h : Canon s) : Answers (Canon ·.s) (Machine.stBody w s) :=
  .check fun _ => .ite (.check fun _ => .check fun _ => h.useXlats.memOut) (.check fun _ => .check fun _ => h.useXlats.memOut)
theorem Canon.amoBody {w} (h : Canon s) : Answers (Canon ·.s) (Machine.amoBody w s) := .check fun _ => h.useXlats.memOut
theorem Canon.casBody {w} (h : Canon s) : Answers (Canon ·.s) (Machine.casBody w s) := .check fun _ => h.useXlats.memOut
theorem Canon.qfenceBody {w} (h : Canon s) : Answers (Canon ·.s) (Machine.qfenceBody w s) := .ok (.ite h h.updCore)
theorem Canon.roinvBody (h : Canon s) : Answers (Canon ·.s) (Machine.roinvBody s) := .ite .error (.ok h.updCore)
theorem Canon.prefBody {w} (h : Canon s) : Answers (Canon ·.s) (Machine.prefBody w s) := by
  simp only [Machine.prefBody]
  refine .ite (.ok h) ?_
  split
  · exact .ok h
  · exact .ok (.foldl (fun _ h1 => .ite h1 (.ite h1.useXlat.readCluster h1.useXlat.readRo)) h)

/-! ## Futures and barriers -/
theorem Canon.addWait {t e} (h : Canon s) : Canon (Machine.addWait s t e) := by
  simp only [Machine.addWait]
  split
  · exact h.updCluster
  · exact .ite h h
  · exact h
theorem Canon.parkCur {key t cond scope} (h : Canon s) : Canon (Machine.parkCur s key t cond scope) := .modStrand (.stallAs (.ite h h.addWait))
theorem Canon.drainFor {o} (h : Canon s) : Canon (Machine.drainFor s o) := h.drain
theorem Canon.awaitWord {w cond value pe} (h : Canon s) : Answers (Canon ·.s) (Machine.awaitWord w s cond value pe) := by
  simp only [Machine.awaitWord]
  refine .check fun _ => ?_
  refine .ite .error ?_
  refine .ite ?_ ?_
  · refine .ok (.parkCur ?_)
    split
    · exact h.useXlats.drainFor
    · exact h.useXlats.drainFor.strongRead
  · refine .ok (.acquireAction (.noteStrong ?_))
    split
    · exact h.useXlats.drainFor
    · exact h.useXlats.drainFor.strongRead
theorem Canon.fgetBody {w} (h : Canon s) : Answers (Canon ·.s) (Machine.fgetBody w s) := h.awaitWord
theorem Canon.waitaBody {w} (h : Canon s) : Answers (Canon ·.s) (Machine.waitaBody w s) := by
  unfold Machine.waitaBody
  exact h.awaitWord
theorem Canon.futureWrite {w v p} (h : Canon s) : Answers (Canon ·.s) (Machine.futureWrite w v p s) := .check fun _ => h.useXlats.memOut
theorem Canon.barWord1 {n k v} (h : Canon s) : Canon (Machine.barWord1 s n k v).s := by
  simp only [Machine.barWord1]
  split
  · exact h
  · exact h.barChange
theorem Canon.binitBody {w} (h : Canon s) : Answers (Canon ·.s) (Machine.binitBody w s) :=
  .check fun _ => .check fun _ => .check fun _ => .ok h.barWord1
theorem Canon.bexpBody {w} (h : Canon s) : Answers (Canon ·.s) (Machine.bexpBody w s) := by
  simp only [Machine.bexpBody]
  refine .check fun _ => ?_
  refine .check fun _ => ?_
  refine .check fun _ => ?_
  refine .ite ?_ (.check fun _ => .error)
  refine .ok ?_
  split
  · exact h
  · exact h.barWord1
theorem Canon.barrTarget {w} (h : Canon s) : Answers (Canon ·.2.2) (Machine.barrTarget w s) :=
  .ite (.check fun _ => .ok h) (.check fun _ => .check fun _ => .check fun _ => .check fun _ => .ok h.useXlats)
theorem Canon.barrBody {w} (h : Canon s) : Answers (Canon ·.s) (Machine.barrBody w s) := .bind h.barrTarget fun _ h1 => h1.memOut
theorem Canon.phaseBody {w parks} (h : Canon s) : Answers (Canon ·.s) (Machine.phaseBody w parks s) :=
  .check fun _ => .check fun _ => .ite (.ok h.noteBar.parkCur) (.ok (.ite h.noteBar h.noteBar.acquireAction))

/-! ## Queue words -/
theorem Canon.qpushBody {w} (h : Canon s) : Answers (Canon ·.s) (Machine.qpushBody w s) := .ok h
theorem Canon.qstatBody {w} (h : Canon s) : Answers (Canon ·.s) (Machine.qstatBody w s) := .ok h
theorem Canon.qbindBody {w} (h : Canon s) : Answers (Canon ·.s) (Machine.qbindBody w s) :=
  .check fun _ => .check fun _ => .check fun _ => .ite .error (.check fun _ => .check fun _ => .ok h.useXlats.drainFor.readPieces.modBank)

/-! ## Matrix words -/
theorem Canon.waitMatrix {m} (h : Canon s) : Canon (Machine.waitMatrix s m).s := h.stallAs.modBank
theorem Canon.acceptCmd {m} (h : Canon s) : Answers (Canon ·.s) (Machine.acceptCmd s m) := by
  simp only [Machine.acceptCmd]
  split
  · next e1 => exact .error
  · next e1 => exact .ok (Canon.snd (h.slotFor) e1).waitMatrix
  · next e1 => exact .ite (.ok (Canon.snd (h.slotFor) e1).wantLease.waitMatrix) (.ite (.ok (Canon.snd (h.slotFor) e1).waitMatrix) (.ok (Canon.snd
    (h.slotFor) e1).modBank.updCluster))
theorem Canon.issued {i checks} (h : Canon s) (hc : Answers (Canon ·.s) checks) : Answers (Canon ·.s) (Machine.issued i s checks) := by
  simp only [Machine.issued]
  split
  · exact .ite h.acceptCmd hc
  · exact hc
theorem Canon.withSlot {w m go} (h : Canon s) (hg : ∀ {m x}, Answers (Canon ·.s) (go m x)) : Answers (Canon ·.s) (Machine.withSlot s w m go) := by
  refine .ite (.ok h.stallAs) ?_
  split
  · exact .error
  · exact .error
  · exact hg
  · exact hg
theorem Canon.mmaBody {i w sparse} (h : Canon s) : Answers (Canon ·.s) (Machine.mmaBody i w sparse s) :=
  .issued h (.check fun _ => .check fun _ => .ite (.check fun _ => .check fun _ => .withSlot h (.check fun _ => .check fun _ => .check fun _ =>
    .check fun _ => .check fun _ => .check fun _ => h.acceptCmd)) (.check fun _ => .check fun _ => .withSlot h (.check fun _ => .check fun _ =>
    .check fun _ => .check fun _ => .check fun _ => .check fun _ => h.acceptCmd)))
theorem Canon.molaBody {w} (h : Canon s) : Answers (Canon ·.s) (Machine.molaBody w s) :=
  .issued h (.check fun _ => .check fun _ => .withSlot h (.check fun _ => .check fun _ => .check fun _ => .check fun _ => .check fun _ =>
    h.acceptCmd))
theorem Canon.mrowsumBody {w} (h : Canon s) : Answers (Canon ·.s) (Machine.mrowsumBody w s) :=
  .issued h (.ite (.check fun _ => .check fun _ => .check fun _ => .check fun _ => .check fun _ => .check fun _ => h.acceptCmd) (.check fun _ =>
    .withSlot h (.check fun _ => .check fun _ => .check fun _ => h.acceptCmd)))
theorem Canon.msetBody {w} (h : Canon s) : Answers (Canon ·.s) (Machine.msetBody w s) := .issued h (.check fun _ => .check fun _ => h.acceptCmd)
theorem Canon.mldaccBody {w} (h : Canon s) : Answers (Canon ·.s) (Machine.mldaccBody w s) :=
  .issued h (.check fun _ => .check fun _ => .check fun _ => .check fun _ => h.acceptCmd)
theorem Canon.drainTile {m} (h : Canon s) : Answers (Canon ·.2) (Machine.drainTile s m) :=
  .check fun _ => .bind (Answers.liftFault h.readTd) fun _ h1 => .check fun _ => .ok h1
theorem Canon.drainPages {m} (h : Canon s) : Answers (Canon ·.2) (Machine.drainPages s m) :=
  .check fun _ => .ok (.foldl (fun _ h1 => h1.useTyped) h)
/-- A tensor is found, and its pages are used, before the command is placed (R428, R430). -/
theorem Canon.mdrainBody {w} (h : Canon s) : Answers (Canon ·.s) (Machine.mdrainBody w s) :=
  .issued h (.check fun _ => .either fun _ => .check fun _ => .okOr h.drainTile h fun _ h1 => .check fun _ => .check fun _ => .check fun _ => .check
    fun _ => .check fun _ =>
    .check fun _ => .okOr h1.drainPages h1 fun _ h2 => h2.acceptCmd)
theorem Canon.macqBody (h : Canon s) : Answers (Canon ·.s) (Machine.macqBody s) := .ite (.ok h) (.ok h.wantLease.stallAs)
theorem Canon.mrelBody (h : Canon s) : Answers (Canon ·.s) (Machine.mrelBody s) := .ite (.ok h) (.ok (.ite h.releaseLease h.updCluster))
theorem Canon.mcfgBody {w} (h : Canon s) : Answers (Canon ·.s) (Machine.mcfgBody w s) :=
  .check fun _ => .check fun _ => .check fun _ => .ok h.modBank
theorem Canon.midxBody {w} (h : Canon s) : Answers (Canon ·.s) (Machine.midxBody w s) := .ok h
theorem Canon.mldwBody {w} (h : Canon s) : Answers (Canon ·.s) (Machine.mldwBody w s) := by
  refine .check fun _ => .check fun _ => ?_
  dsimp only
  split
  · exact .ok h.postFeed.modBank
  · next hr =>
    have h1 := h.mldwReads _ hr
    refine .check fun _ => .ok ?_
    dsimp only at h1 ⊢
    exact .modBank (.mldwMap h1)

/-! ## Vector words -/
theorem Canon.elemVec {w g et bound a} (h : Canon s) : Answers (Canon ·.s) (Machine.elemVec s w g et bound a) :=
  .check fun _ => .check fun _ => .ok h
theorem Canon.elemMask {w bound a} (h : Canon s) : Answers (Canon ·.s) (Machine.elemMask s w bound a) := .check fun _ => .check fun _ => .ok h
theorem Canon.contentVec {w g et bound l k poi} (h : Canon s) : Answers (Canon ·.s) (Machine.contentVec s w g et bound l k poi) :=
  .check fun _ => .check fun _ => .check fun _ => .ok h

/-! ## Vector arithmetic -/
theorem Canon.vec2 {w bound f} (h : Canon s) : Answers (Canon ·.s) (Machine.vec2 w bound f s) := h.elemVec
theorem Canon.vec1 {w f} (h : Canon s) : Answers (Canon ·.s) (Machine.vec1 w f s) := h.elemVec
theorem Canon.vfmaBody {w} (h : Canon s) : Answers (Canon ·.s) (Machine.vfmaBody w s) := h.elemVec
theorem Canon.vselBody {w} (h : Canon s) : Answers (Canon ·.s) (Machine.vselBody w s) := h.elemVec
theorem Canon.vclampBody {w} (h : Canon s) : Answers (Canon ·.s) (Machine.vclampBody w s) := h.elemVec
theorem Canon.vcvtBody {w} (h : Canon s) : Answers (Canon ·.s) (Machine.vcvtBody w s) := h.elemVec
theorem Canon.vsfuBody {w} (h : Canon s) : Answers (Canon ·.s) (Machine.vsfuBody w s) := h.elemVec

/-! ## Vector data movement -/
theorem Canon.vsplatBody {w} (h : Canon s) : Answers (Canon ·.s) (Machine.vsplatBody w s) :=
  .check fun _ => .check fun _ => .check fun _ => h.contentVec
theorem Canon.viotaBody {w} (h : Canon s) : Answers (Canon ·.s) (Machine.viotaBody w s) :=
  .check fun _ => .check fun _ => .check fun _ => h.contentVec
theorem Canon.vcatBody {w} (h : Canon s) : Answers (Canon ·.s) (Machine.vcatBody w s) := .check fun _ => .check fun _ => h.contentVec
theorem Canon.vrevBody {w} (h : Canon s) : Answers (Canon ·.s) (Machine.vrevBody w s) := .check fun _ => .check fun _ => h.contentVec
theorem Canon.vsliceBody {w} (h : Canon s) : Answers (Canon ·.s) (Machine.vsliceBody w s) :=
  .check fun _ => .check fun _ => .check fun _ => .check fun _ => .check fun _ => h.contentVec
theorem Canon.vextBody {w} (h : Canon s) : Answers (Canon ·.s) (Machine.vextBody w s) :=
  .check fun _ => .check fun _ => .check fun _ => .check fun _ => .ok h
theorem Canon.vinsBody {w} (h : Canon s) : Answers (Canon ·.s) (Machine.vinsBody w s) :=
  .check fun _ => .check fun _ => .check fun _ => .check fun _ => .check fun _ => .ok h
theorem Canon.vlenBody {w} (h : Canon s) : Answers (Canon ·.s) (Machine.vlenBody w s) := .ok h
theorem Canon.vsetlBody {w} (h : Canon s) : Answers (Canon ·.s) (Machine.vsetlBody w s) :=
  .check fun _ => .check fun _ => .check fun _ => .check fun _ => .check fun _ => .ok h
theorem Canon.vrcoBody {w} (h : Canon s) : Answers (Canon ·.s) (Machine.vrcoBody w s) := .check fun _ => .ite (.check fun _ => .ok h) (.ok h)
theorem Canon.vldaBody {w} (h : Canon s) : Answers (Canon ·.s) (Machine.vldaBody w s) :=
  .check fun _ => .ite .error (.check fun _ => .check fun _ => .ok h)
theorem Canon.vstaBody {w} (h : Canon s) : Answers (Canon ·.s) (Machine.vstaBody w s) :=
  .check fun _ => .check fun _ => .check fun _ => .check fun _ => .check fun _ => .ok (.ite (.ite h.clashRow.updCluster h.clashRow) h.updCluster)
theorem Canon.vparkBody {w} (h : Canon s) : Answers (Canon ·.s) (Machine.vparkBody w s) :=
  .check fun _ => .ok (.ite (.ite h.clashRow.updCluster h.clashRow) h.updCluster)
theorem Canon.vunpkBody {w} (h : Canon s) : Answers (Canon ·.s) (Machine.vunpkBody w s) :=
  .check fun _ => .ite (.ok h.clashRow) (.check fun _ => .ok h)

/-! ## Vector reductions -/
theorem Canon.reduceOut {w fn a fl raw poi} (h : Canon s) : Canon (Machine.reduceOut s w fn a fl raw poi).s := h
theorem Canon.reduceBody {fn w} (h : Canon s) : Answers (Canon ·.s) (Machine.reduceBody fn w s) := .check fun _ => .ok h.reduceOut
theorem Canon.vrdotBody {w} (h : Canon s) : Answers (Canon ·.s) (Machine.vrdotBody w s) := .check fun _ => .ok h.reduceOut
theorem Canon.segBody {fn w} (h : Canon s) : Answers (Canon ·.s) (Machine.segBody fn w s) :=
  .check fun _ => .check fun _ => .check fun _ => .check fun _ => .ok h
theorem Canon.vscanBody {w} (h : Canon s) : Answers (Canon ·.s) (Machine.vscanBody w s) :=
  .check fun _ => .check fun _ => .check fun _ => .check fun _ => .ok h
theorem Canon.maskOp {f a b w} (h : Canon s) : Answers (Canon ·.s) (Machine.maskOp f a b w s) := h.elemMask
theorem Canon.kcntBody {w} (h : Canon s) : Answers (Canon ·.s) (Machine.kcntBody w s) := .check fun _ => .ok h
theorem Canon.kfirstBody {w} (h : Canon s) : Answers (Canon ·.s) (Machine.kfirstBody w s) := .check fun _ => .ok h

/-! ## Vector memory words -/
theorem Canon.vmPerform {o} (h : Canon s) : Answers (Canon ·.2) (Machine.vmPerform s o) := .ite .error (.ok h.drainFor.performOp)
theorem Canon.vmStores {w l loose passes} (h : Canon s) : Answers (Canon ·.s) (Machine.vmStores w s l loose passes) := .ite .error (.ok h)
theorem Canon.vmAccess {w l} (h : Canon s) : Answers (Canon ·.2) (Machine.vmAccess w s l) :=
  .check fun _ => .ok (.foldl (fun _ h1 => h1.useXlats) h)
theorem Canon.vmRead {w l} (h : Canon s) : Answers (Canon ·.2) (Machine.vmRead w s l) := .bind h.vmAccess fun _ h1 => h1.vmPerform
theorem Canon.vmLoad {w l f poi va n passes} (h : Canon s) : Answers (Canon ·.2.s) (Machine.vmLoad w s l f poi va n passes) :=
  .bind h.vmAccess fun _ h1 => .bind h1.vmPerform fun _ h2 => .check fun _ => .ok h2
theorem Canon.vldPlain {w} (h : Canon s) : Answers (Canon ·.s) (Machine.vldPlain w s) :=
  .check fun _ => .check fun _ => .check fun _ => .check fun _ => .map h.vmLoad
theorem Canon.vstPlain {w} (h : Canon s) : Answers (Canon ·.s) (Machine.vstPlain w s) :=
  .check fun _ => .check fun _ => .check fun _ => .check fun _ => .check fun _ => .check fun _ => .check fun _ => h.useXlats.vmStores
theorem Canon.operandRef {v} (h : Canon s) : Answers (Canon ·.2) (Machine.operandRef s v) :=
  .check fun _ => .bind (Answers.liftFault h.readTd) fun _ h1 => .check fun _ => .ok h1
theorem Canon.readTagAcq {e i} (h : Canon s) : Answers (Canon ·.2) (Machine.readTagAcq s e i) :=
  .bind (Answers.liftFault h.readTag) fun _ h1 => .check fun _ => .ite (.ok h1) (.ite .error
    (.bind (Answers.liftFault h1.drainFor.readTag) fun _ h2 => .ok h2.acquireAction))
theorem Canon.tensorForm {w} (h : Canon s) : Answers (Canon ·.2) (Machine.tensorForm w s) :=
  .check fun _ => .check fun _ => .bind h.operandRef fun _ h1 => .bind h1.readTagAcq fun _ h2 => .ok h2
theorem Canon.vldTensor {w} (h : Canon s) : Answers (Canon ·.s) (Machine.vldTensor w s) :=
  .bind h.tensorForm fun _ h1 => .check fun _ => .check fun _ => .map h1.vmLoad
theorem Canon.vstTensor {w} (h : Canon s) : Answers (Canon ·.s) (Machine.vstTensor w s) :=
  .check fun _ => .bind h.tensorForm fun _ h1 => .check fun _ => .check fun _ => .check fun _ => .check fun _ => .ite .error (.vmStores (.useFresh
    (.foldl (fun _ h2 => h2.useTyped) h1)))
theorem Canon.vldpBody {w} (h : Canon s) : Answers (Canon ·.s) (Machine.vldpBody w s) :=
  .check fun _ => .check fun _ => .bind h.vmAccess fun _ h1 => .bind h1.vmPerform fun _ h2 => .ok h2.useFresh
theorem Canon.vstpBody {w} (h : Canon s) : Answers (Canon ·.s) (Machine.vstpBody w s) :=
  .check fun _ => .check fun _ => .check fun _ => h.useXlats.vmStores
theorem Canon.vldrgBody {w} (h : Canon s) : Answers (Canon ·.s) (Machine.vldrgBody w s) :=
  .check fun _ => .check fun _ => .check fun _ => .check fun _ => .bind h.vmRead fun _ h1 => .check fun _ => .bind h1.vmLoad fun _ h2 => .check
    fun _ => .ok h2
theorem Canon.vgathBody {w} (h : Canon s) : Answers (Canon ·.s) (Machine.vgathBody w s) :=
  .check fun _ => .check fun _ => .check fun _ => .check fun _ => .check fun _ => .check fun _ => .map h.vmLoad
theorem Canon.vscatBody {w} (h : Canon s) : Answers (Canon ·.s) (Machine.vscatBody w s) :=
  .check fun _ => .check fun _ => .check fun _ => .check fun _ => .check fun _ => .check fun _ => .check fun _ => .check fun _ => .vmStores (.foldl
    (fun _ h1 => h1.useXlats) h)

/-! ## The copy engine -/
theorem Canon.placeCmd {core c} (h : Canon s) : Canon (Machine.placeCmd s core c) := .useFresh (.updCore (.ite h h.barChange))
theorem Canon.setLatch {core task cq} (h : Canon s) : Canon (Machine.setLatch s core task cq) := .ite h.updCore h.updTask
theorem Canon.rcbRead {core pa} (h : Canon s) : Canon (Machine.rcbRead s core pa).2 := h.readPieces
theorem Canon.rcbWrite {core pa off n v} (h : Canon s) : Canon (Machine.rcbWrite s core pa off n v) := h.writePieces
theorem Canon.rcbSetState {core pa v} (h : Canon s) : Canon (Machine.rcbSetState s core pa v) := h.rcbRead.rcbWrite
theorem Canon.reelStop {core rcb} (h : Canon s) : Canon (Machine.reelStop s core rcb) := .ite h.rcbSetState.updCore h
theorem Canon.reelEnded {core rcb cmd status} (h : Canon s) : Canon (Machine.reelEnded s core rcb cmd status) :=
  .after (.ite h.rcbRead.rcbWrite h.rcbRead.rcbWrite.rcbWrite) fun h1 => .reelStop (.ite (.rcbWrite h1) h1)
theorem Canon.endCopy {core slot status} (h : Canon s) : Canon (Machine.endCopy s core slot status) := by
  simp only [Machine.endCopy]
  split
  · exact h
  · split
    · exact .after (.ite h.updCore.barChange h.updCore.barChange) fun h1 => .after (.ite h.updCore h1) fun h2 => .reelEnded (.ite h2 (.setLatch h2))
    · exact .after (.ite h.updCore.barChange h.updCore.barChange) fun h1 => .after (.ite h.updCore h1) fun h2 => .ite h2 (.setLatch h2)
theorem Canon.parkCopy {core slot c acc f} (h : Canon s) : Canon (Machine.parkCopy s core slot c acc f) :=
  .ite h.updCore.postRecord.endCopy h.updCore.postRecord
theorem Canon.finishCopy {core slot} (h : Canon s) : Canon (Machine.finishCopy s core slot) := by
  simp only [Machine.finishCopy]
  split
  · exact h
  · refine .ite h.endCopy ?_
    refine .ite h.endCopy ?_
    split
    · exact h.parkCopy
    · exact .ite h h.useXlats.releaseAction.writePieces.endCopy
theorem Canon.copyIndex {core c i} (h : Canon s) : Answers (Canon ·.2) (Machine.copyIndex s core c i) := .check fun _ => .ok h.useXlats.readPieces
theorem Canon.segAt {core c pos} (h : Canon s) : Answers (Canon ·.2) (Machine.segAt s core c pos) :=
  .ite (.ok h) (.ite (.ok h) (.ite (.bind h.copyIndex fun _ h1 => .ok h1) (.ite (.bind h.copyIndex fun _ h1 => .ok h1) (.ok h))))
theorem Canon.chunkSegs {core c fuel pos sp dp} (h : Canon s) : Canon (Machine.chunkSegs core c fuel s pos sp dp).2.2 := by
  induction fuel generalizing s pos sp dp with
  | zero => exact h
  | succ fuel ih =>
    rw [Machine.chunkSegs]
    split
    · exact h
    · split
      · exact h
      · next hg =>
        split
        · exact h
        · exact ih (h.segAt _ hg)
theorem Canon.copyAtom {core c xs xd pos src dst n} (h : Canon s) : Canon (Machine.copyAtom core c xs xd pos src dst n s) := by
  simp only [Machine.copyAtom]
  refine .ite ?_ ?_
  · refine .notePoison (.writePieces ?_)
    split
    · exact h.readPieces
    · split
      · exact h
      · exact h
  · refine .writePieces ?_
    split
    · exact h.readPieces
    · split
      · exact h
      · exact h
theorem Canon.reduceElems {core c xs xd src dst k} (h : Canon s) : Canon (Machine.reduceElems core c xs xd src dst k s) := by
  induction k generalizing s src dst with
  | zero => exact h
  | succ k ih => exact ih (.ite h.readPieces.readPieces.writePieces.notePoison h.readPieces.readPieces.writePieces)
theorem Canon.flushLine {core scope drop ln} (h : Canon s) : Canon (Machine.flushLine core scope drop s ln) :=
  .after (.foldl (fun _ h1 => h1.cleanLine) h) fun h2 => .after (.cleanAgentLine h2) fun h3 => .after (.foldl (fun _ h1 => h1.updCluster)
    (.ite h3 h2)) fun h4 => .ite (.ite h3 h2) (.ite (.setAgentCache h4) h4)
theorem Canon.chunkWrite {core c segs xs xd} (h : Canon s) : Canon (Machine.chunkWrite s core c segs xs xd) := by
  simp only [Machine.chunkWrite]
  split
  · exact h
  · refine foldl_keeps (P := fun a : Nat × State => Canon a.2) (fun _ h1 => ?_) h
    dsimp only
    split
    · exact h1
    · split
      · exact .foldl (fun _ h2 => h2.flushLine) h1
      · split
        · split
          · exact h1.reduceElems
          · exact h1
        · exact .foldl (fun _ h2 => h2.copyAtom) (.ite h1.typedStore h1)
theorem Canon.chunkLeft {core c} (h : Canon s) : Canon (Machine.chunkLeft s core c).2.2 := h.chunkSegs
theorem Canon.chunkDone {core slot c n} (h : Canon s) : Canon (Machine.chunkDone s core slot c n) := h.updCore.barChange
theorem Canon.copyOver {core slot} (h : Canon s) : Canon (Machine.copyOver s core slot) := by
  simp only [Machine.copyOver]
  split
  · exact .ite h.finishCopy h
  · exact h
theorem Canon.performChunk {core slot c whole} (h : Canon s) : Canon (Machine.performChunk s core slot c whole) := by
  simp only [Machine.performChunk]
  refine .ite h.finishCopy ?_
  refine .ite ?_ ?_
  · split
    · exact .ite h.chunkLeft.parkCopy h.chunkLeft.chunkDone
    · exact h.chunkLeft
  · split
    · exact h.chunkLeft.parkCopy
    · exact h.chunkLeft.parkCopy
    · exact .after (.ite h.chunkLeft.useXlats.useXlats h.chunkLeft) fun h1 => .after (.useFresh (.chunkWrite h1)) fun h2 => .ite h.chunkLeft (.ite
      (.copyOver (.chunkDone h2)) (.updCore h2))
theorem Canon.endChunk {core slot} (h : Canon s) : Canon (Machine.endChunk s core slot) := by
  simp only [Machine.endChunk]
  split
  · exact .ite h h.performChunk
  · exact h
theorem Canon.copyBody {k w} (h : Canon s) : Answers (Canon ·.s) (Machine.copyBody k w s) :=
  .check fun _ => .ite .error (.check fun _ => .ok h.drainCur.placeCmd)

/-! ## Reels -/
theorem Canon.reelBlock {va acc} (h : Canon s) : Answers (Canon ·.2.2) (Machine.reelBlock s va acc) :=
  .check fun _ => .check fun _ => .ite .error (.check fun _ => .ok h.useXlats.drainCur.rcbRead)
theorem Canon.appendImage {core scope task dst img ent} (h : Canon s) : Canon (Machine.appendImage s core scope task dst img ent) :=
  .foldl (fun _ h1 => h1.notePoison) h.readMarked.writeMarked
theorem Canon.scrambleEntry {core scope r l} (h : Canon s) : Canon (Machine.scrambleEntry s core scope r l) := .ite h h.writePieces.useFresh
theorem Canon.reelappBody {w} (h : Canon s) : Answers (Canon ·.s) (Machine.reelappBody w s) :=
  .check fun _ => .check fun _ => .check fun _ => .check fun _ => .check fun _ => .bind h.reelBlock fun _ h1 => .ite .error (.check fun _ => .check
    fun _ => .check fun _ => .ok h1.useXlats.useXlats.appendImage.scrambleEntry.releaseAction.rcbWrite)
theorem Canon.reellnkBody {w} (h : Canon s) : Answers (Canon ·.s) (Machine.reellnkBody w s) :=
  .check fun _ => .check fun _ => .bind h.reelBlock fun _ h1 => .ok h1.rcbWrite
theorem Canon.startReel {core r} (h : Canon s) : Canon (Machine.startReel s core r) := h.rcbSetState.updCore
theorem Canon.reelkickBody {w} (h : Canon s) : Answers (Canon ·.s) (Machine.reelkickBody w s) :=
  .check fun _ => .check fun _ => .bind h.reelBlock fun _ h1 => .ite (.ok h1.releaseAction) (.ite .error (.ok h1.releaseAction.startReel))
theorem Canon.reelstatBody {w} (h : Canon s) : Answers (Canon ·.s) (Machine.reelstatBody w s) :=
  .check fun _ => .check fun _ => .bind h.reelBlock fun _ h1 => .ok h1.acquireAction
theorem Canon.leaveReel {core rcb v} (h : Canon s) : Canon (Machine.leaveReel s core rcb v) := h.rcbSetState.updCore
theorem Canon.parkReel {core r cq f} (h : Canon s) : Canon (Machine.parkReel s core r cq f) := h.postRecord.leaveReel
theorem Canon.badEntry {core r cq img} (h : Canon s) : Canon (Machine.badEntry s core r cq img) := .reelEnded (.setLatch (.ite h.barChange h))
theorem Canon.followLink {core r v} (h : Canon s) : Canon (Machine.followLink s core r v) := by
  simp only [Machine.followLink]
  split
  · exact h.parkReel
  · exact .ite h.parkReel (.ite h.useXlats.leaveReel.rcbRead h.useXlats.leaveReel.rcbRead.startReel)
theorem Canon.fetchEntry {core r v} (h : Canon s) : Canon (Machine.fetchEntry s core r v) := by
  simp only [Machine.fetchEntry]
  split
  · exact h.parkReel
  · refine .ite ?_ ?_
    · refine .badEntry (.rcbWrite ?_)
      split
      · exact h.useXlats.readPieces
      · exact h.useXlats.readPieces.useFresh
    · refine .ite ?_ ?_
      · refine .placeCmd (.rcbWrite ?_)
        split
        · exact h.useXlats.readPieces
        · exact h.useXlats.readPieces.useFresh
      · refine .ite ?_ ?_
        · split
          · exact h.useXlats.readPieces
          · exact h.useXlats.readPieces.useFresh
        · refine .badEntry (.rcbWrite ?_)
          split
          · exact h.useXlats.readPieces
          · exact h.useXlats.readPieces.useFresh
theorem Canon.reelStep {core rcb} (h : Canon s) : Canon (Machine.reelStep s core rcb) := by
  simp only [Machine.reelStep]
  split
  · exact h
  · exact .ite h (.ite (.ite h h.rcbRead.followLink) (.ite h h.rcbRead.fetchEntry))
theorem Canon.stopReels {core} (h : Canon s) : Canon (Machine.stopReels s core) := .foldl (fun _ h1 => h1.reelStop) h.updCore

/-! ## Events of the copy engine -/
theorem Canon.beginCopy {core slot} (h : Canon s) : Canon (Machine.beginCopy s core slot) := by
  simp only [Machine.beginCopy]
  split
  · exact h
  · exact .ite h (.ite h.endCopy (.ite h (.ite h.updCore.finishCopy h.updCore)))
theorem Canon.chunkStep {core slot} (h : Canon s) : Canon (Machine.chunkStep s core slot) := by
  simp only [Machine.chunkStep]
  split
  · exact h
  · exact .ite h.performChunk h
theorem Canon.settleCopy {x action} (h : Canon s) : Canon (Machine.settleCopy s x action) := by
  simp only [Machine.settleCopy]
  split
  · exact h
  · exact .ite h.updCore (.ite h.endCopy h)
theorem Canon.cpyresWrite {x action} (h : Canon s) : Canon (Machine.cpyresWrite s x action) := h.cpyresSet.settleCopy
theorem Canon.pushBlock {core bank q} (h : Canon s) : Canon (Machine.pushBlock s core bank q) := by
  simp only [Machine.pushBlock]
  split
  · exact h
  · refine .ite h ?_
    split
    · exact h.updBank
    · exact h.useXlats.readOp.updBank

/-! ## Launches -/
theorem Canon.deviceWrite {die pa n v} (h : Canon s) : Canon (Machine.deviceWrite s die pa n v) := .ite h.writePieces h.postRecord
theorem Canon.deviceRead {die scope pa n} (h : Canon s) : Canon (Machine.deviceRead s die scope pa n).2 := by
  simp only [Machine.deviceRead]
  split
  · exact h.readPieces
  · exact h.postRecord
theorem Canon.postDaily {die cluster type words} (h : Canon s) : Canon (Machine.postDaily s die cluster type words) :=
  .ite h.updDie.noteSet h.deviceWrite.updDie
theorem Canon.completeFuture {die r root key word bad} (h : Canon s) : Canon (Machine.completeFuture s die r root key word bad) := by
  simp only [Machine.completeFuture]
  split
  · exact h.postRecord
  · refine .ite h.postRecord ?_
    split
    · exact h.postRecord
    · split
      · exact h.postRecord
      · exact h.useXlats.writePieces
theorem Canon.refuseLaunch {die src n r root key check} (h : Canon s) : Canon (Machine.refuseLaunch s die src n r root key check) :=
  h.completeFuture.postDaily
theorem Canon.acceptLaunch {die src r root key prio} (h : Canon s) : Canon (Machine.acceptLaunch s die src r root key prio) := .updDie h
theorem Canon.addTask {t} (h : Canon s) : Canon (Machine.addTask s t) := h

/-! ## The dispatcher -/
theorem Canon.readOpnd {id n} (h : Canon s) : Answers (Canon ·.2) (Machine.readOpnd s id n) :=
  .bind h.readTd fun _ h1 => .ite (.ok h1) (.ite (.ok h1) (.ite (.ok h1) (.ite (.ok h1) (.bind h1.readTag fun _ h2 => .ok h2))))
theorem Canon.setSt {id st} (h : Canon s) : Canon (Machine.setSt s id st) := h.updTask
theorem Canon.holdTask {id reason opnd code tags} (h : Canon s) : Canon (Machine.holdTask s id reason opnd code tags) := h.postRecord.setSt
theorem Canon.waitTask {id f} (h : Canon s) : Canon (Machine.waitTask s id f) := h.postRecord.setSt
theorem Canon.freeArena {id} (h : Canon s) : Canon (Machine.freeArena s id) := .ite h h.updLaunch.updTask
theorem Canon.countRetired {id status} (h : Canon s) : Canon (Machine.countRetired s id status) := .ite h.setSt h.setSt.updLaunch
theorem Canon.retireUnstarted {id status} (h : Canon s) : Canon (Machine.retireUnstarted s id status) := h.updTask.freeArena.countRetired
theorem Canon.containTask {id n l} (h : Canon s) : Canon (Machine.containTask s id n l) :=
  .retireUnstarted (.postDaily (.foldl (fun _ h1 => h1.writeTag) h))
theorem Canon.parkTask {id pa sys} (h : Canon s) : Canon (Machine.parkTask s id pa sys) := .ite h.setSt.updDie h.setSt.addWait
theorem Canon.placeTask {id} (h : Canon s) : ∀ t ∈ Machine.placeTask s id, Canon t := by
  simp only [Machine.placeTask]
  split
  · exact fun _ ht => nomatch ht
  · rintro _ ⟨⟩
    split
    · exact h.updLaunch.updDie.updCluster.updTask
    · exact h.updDie.updCluster.updTask
theorem Canon.turnLaunch {id} (h : Canon s) : Canon (Machine.turnLaunch s id) := .ite h h.updDie.updTask
theorem Canon.enqueueReady {id m} (h : Canon s) : Canon (Machine.enqueueReady s id m) := .getD h.updTask.placeTask h.updTask
/-- One tag of a conversion: what it leaves when the arena has room (R78). -/
theorem Canon.insertOne {id arena n ce} (h : Canon s) : Answers (fun r => ∀ x ∈ r, Canon x.2) (Machine.insertOne s id arena n ce) := by
  simp only [Machine.insertOne]
  split
  · exact .ok fun _ hx => nomatch hx
  · refine .bind h.readTag fun _ h1 => .ok ?_
    rintro _ ⟨⟩
    exact .updTask (.addTask (.updLaunch (.ite h1.writeTag h1)))
theorem Canon.insertAll {id arena l first} (h : Canon s) : Canon (Machine.insertAll s id arena l first) := by
  induction l generalizing s first with
  | nil => cases first with
    | none => exact h.setSt
    | some p => exact h.parkTask
  | cons e l ih =>
    rw [Machine.insertAll]
    split
    · exact h.waitTask
    · exact h.setSt
    · next hr => exact ih (h.insertOne _ hr _ rfl)
theorem Canon.readOpnds {id got l} (h : Canon s) : (∀ t, Machine.readOpnds s id got l = .error t → Canon t) ∧ Answers (Canon ·.2)
    (Machine.readOpnds s id got l) := by
  induction l generalizing s got with
  | nil => exact ⟨fun _ ht => (nomatch ht), .ok h⟩
  | cons n l ih =>
    simp only [Machine.readOpnds]
    split
    · refine ⟨fun _ ht => ?_, .error⟩
      cases ht
      exact h.waitTask
    · next hr =>
      have h1 := h.readOpnd _ hr
      split
      · refine ⟨fun _ ht => ?_, .error⟩
        cases ht
        exact .useFresh (.holdTask h1)
      · exact ih h1
theorem Canon.claimAll {id l} (h : Canon s) : (∀ t, Machine.claimAll s id l = .error t → Canon t) ∧ Answers Canon (Machine.claimAll s id l) := by
  induction l generalizing s with
  | nil => exact ⟨fun _ ht => (nomatch ht), .ok h⟩
  | cons o l ih =>
    simp only [Machine.claimAll]
    split
    · exact ih h
    · split
      · refine ⟨fun _ ht => ?_, .error⟩
        cases ht
        exact h.parkTask
      · exact ih h.writeTag.updTask
theorem Canon.convertOrHold {id tags ops} (h : Canon s) : Canon (Machine.convertOrHold s id tags ops) := by
  simp only [Machine.convertOrHold]
  refine .ite ?_ ?_
  · split
    · exact h.holdTask
    · exact h.holdTask
  · split
    · exact h.waitTask
    · next e1 => exact (h.readTd _ e1).holdTask.useFresh
    · next e1 =>
        split
        · exact (h.readTd _ e1).holdTask
        · exact .ite (h.readTd _ e1).holdTask (h.readTd _ e1).insertAll
theorem Canon.dispatchTask {id} (h : Canon s) : Canon (Machine.dispatchTask s id) := by
  have hread := fun got l => (h.updTask (t := id) (f := fun t => { t with method := none, st := .dispatching })).readOpnds (id := id) (got := got)
    (l := l)
  simp only [Machine.dispatchTask]
  split
  · next hr => exact (hread _ _).1 _ hr
  · next hr =>
    have h1 := (hread _ _).2 _ hr
    split
    · exact Canon.containTask h1
    · split
      · exact Canon.parkTask h1
      · split
        · next hc => exact (Canon.claimAll h1).1 _ hc
        · next hc =>
          have h2 := (Canon.claimAll h1).2 _ hc
          split
          · exact h2.enqueueReady
          · exact h2.convertOrHold
theorem Canon.dispatchWhere {p} (h : Canon s) : Canon (Machine.dispatchWhere s p) := .foldl (fun _ h1 => h1.dispatchTask) h
theorem Canon.retryReads (h : Canon s) : Canon (Machine.retryReads s) := .foldl (fun _ h1 => h1.translateArray) h
theorem Canon.retryHeld {opid} (h : Canon s) : Canon (Machine.retryHeld s opid) := h.dispatchWhere

/-! ## Retirement -/
theorem Canon.deduct {die cls est} (h : Canon s) : Canon (Machine.deduct s die cls est) := h.updDie
theorem Canon.credit {die cls v} (h : Canon s) : Canon (Machine.credit s die cls v) := h.updDie
theorem Canon.meterTask {id} (h : Canon s) : Canon (Machine.meterTask s id) := h.updTask.useFresh
theorem Canon.reachTret {core b} (h : Canon s) : Canon (Machine.reachTret s core b) := .ite h.stopReels h
theorem Canon.freeWaits {id} (h : Canon s) : Canon (Machine.freeWaits s id) := h
theorem Canon.setOutTags {id} (h : Canon s) : Canon (Machine.setOutTags s id) := .foldl (fun _ h1 => h1.writeTag) h
theorem Canon.bankFreed {core} (h : Canon s) : Canon (Machine.bankFreed s core) := h.updCluster
theorem Canon.giveBack {id} (h : Canon s) : Canon (Machine.giveBack s id) := by
  simp only [Machine.giveBack]
  refine .countRetired (.freeArena (.freeWaits (.dropCode (.ite ?_ ?_))))
  · refine .credit (.updTask ?_)
    split
    · refine .updDie ?_
      split
      · exact .updCore (.bankFreed (.updBank (.updCluster (.ite h.releaseLease h))))
      · exact h
    · split
      · exact .updCore (.bankFreed (.updBank (.updCluster (.ite h.releaseLease h))))
      · exact h
  · refine .updTask ?_
    split
    · refine .updDie ?_
      split
      · exact .updCore (.bankFreed (.updBank (.updCluster (.ite h.releaseLease h))))
      · exact h
    · split
      · exact .updCore (.bankFreed (.updBank (.updCluster (.ite h.releaseLease h))))
      · exact h
theorem Canon.retireTask {id} (h : Canon s) : Canon (Machine.retireTask s id) := by
  simp only [Machine.retireTask]
  refine .giveBack (.setOutTags (.meterTask ?_))
  split
  · exact h.drain.drain.drain.releaseAction
  · exact h.releaseAction
theorem Canon.beginFail {id} (h : Canon s) : Canon (Machine.beginFail s id) := by
  unfold Machine.beginFail
  extract_lets _ t k
  have ht : Canon t := by
    dsimp only [t]
    split
    · exact .ite h.cutMatrix h
    · exact h
  exact .ite ht (.freeWaits (.stopReels (.foldl (fun _ h1 => h1.endCopy) ht)))
theorem Canon.failTask {id} (h : Canon s) : Canon (Machine.failTask s id) := by
  simp only [Machine.failTask]
  split
  · exact h.updTask.setOutTags.updTask.freeArena.countRetired
  · exact h.updTask.setOutTags.updTask.freeArena.countRetired
  · exact h.updTask.beginFail

/-! ## Selection of tasks -/
theorem Canon.endWait {id} (h : Canon s) : Canon (Machine.endWait s id) := h.updTask
theorem Canon.unqueue {id} (h : Canon s) : Canon (Machine.unqueue s id) := .ite h h.endWait.updCluster
theorem Canon.requeue {id head kept} (h : Canon s) : Canon (Machine.requeue s id head kept) := h.updTask.updCluster
theorem Canon.giveUnit {core key u} (h : Canon s) : Canon (Machine.giveUnit s core key u) := by
  unfold Machine.giveUnit
  extract_lets lo other m
  have hm : m.wf = true := by
    dsimp only [m]
    split
    · exact memZero_wf _ _ h
    · exact memUndef_wf _ _ _ h
  exact hm
theorem Canon.giveTile {cl key t} (h : Canon s) : Canon (Machine.giveTile s cl key t) := h.updCluster
theorem Canon.groupStarted {id} (h : Canon s) : Canon (Machine.groupStarted s id) := by
  simp only [Machine.groupStarted]
  split
  · exact h
  · exact h.updLaunch
theorem Canon.giveBank {core bank id f} (h : Canon s) : Canon (Machine.giveBank s core bank id f) := by
  unfold Machine.giveBank
  extract_lets s1 x m cl s2 s3 s4 bars s5 kept s6 s7 s8 b
  have h3 : Canon s3 := Canon.foldl (fun _ h1 => h1.giveTile) (Canon.foldl (fun _ h1 => h1.giveUnit) h.unqueue)
  have h6 : Canon s6 := h3
  exact h6.updTask.deduct.updBank.groupStarted
theorem Canon.stageTask {core id f} (h : Canon s) : Canon (Machine.stageTask s core id f) := h.giveBank.updCore
theorem Canon.startFront {core id f} (h : Canon s) : Canon (Machine.startFront s core id f) := h.giveBank.updCore
theorem Canon.unstage {core} (h : Canon s) : Canon (Machine.unstage s core) := by
  simp only [Machine.unstage]
  split
  · exact h
  · exact h.credit.updTask.updBank.updCore.bankFreed.requeue
theorem Canon.energyStall {die} (h : Canon s) : Canon (Machine.energyStall s die) := h.updDie.noteSet
theorem Canon.afterPick {die p} (h : Canon s) : Canon (Machine.afterPick s die p) :=
  .after (.foldl (fun _ h1 => h1.unqueue.dispatchTask) h) fun h2 => .ite (.energyStall h2) h2

/-! ## Swaps of banks -/
theorem Canon.startTask {core} (h : Canon s) : Canon (Machine.startTask s core) := by
  simp only [Machine.startTask]
  split
  · exact h.startAcquire.takeTrap
  · next e1 =>
      refine .ite ?_ ?_
      · refine .takeTrap ?_
        split
        · exact (h.startAcquire.fetchCode _ e1)
        · exact (h.startAcquire.fetchCode _ e1).useFresh
      · refine .updBank ?_
        split
        · exact (h.startAcquire.fetchCode _ e1)
        · exact (h.startAcquire.fetchCode _ e1).useFresh
theorem Canon.beginSwap {core} (h : Canon s) : Canon (Machine.beginSwap s core) := by
  simp only [Machine.beginSwap]
  refine .updCore ?_
  split
  · exact h.cutMatrix.updBank.unqueue
  · exact h.cutMatrix.updBank
theorem Canon.enterFront {core} (h : Canon s) : Canon (Machine.enterFront s core) :=
  .ite h (.ite h.startTask (.ite (.resumeMatrix (.ite h.translateCore h)) h))
theorem Canon.endSwap {core} (h : Canon s) : Canon (Machine.endSwap s core) := h.updCore.updBank.releaseHeld.enterFront
theorem Canon.areaWords {die pa l} (h : Canon s) : Canon (Machine.areaWords s die pa l) := .foldl (fun _ h1 => h1.deviceWrite) h
theorem Canon.writeStrands {die pa core bank b} (h : Canon s) : Canon (Machine.writeStrands s die pa core bank b) := h.areaWords.areaWords.areaWords
theorem Canon.writeStreams {die pa b} (h : Canon s) : Canon (Machine.writeStreams s die pa b) := by
  simp only [Machine.writeStreams]
  refine .foldl (fun _ h1 => ?_) h
  split
  · exact h1.areaWords
  · exact h1
theorem Canon.spillBank {core a} (h : Canon s) : Canon (Machine.spillBank s core a) := by
  simp only [Machine.spillBank]
  split
  · exact h
  · exact Canon.after (Canon.foldl (fun _ h1 => h1.deviceWrite) h.drain.drain.drain) fun h2 => Canon.after (Canon.writeStrands h2) fun h1 =>
    Canon.after (Canon.writeStreams h1) fun h2 => Canon.after (Canon.areaWords (Canon.meterTask h2)) fun h1 => Canon.after (Canon.useFresh
    (Canon.deviceWrite h1)) fun h2 => Canon.releaseHeld (Canon.ite (Canon.bankFreed (Canon.updCore (Canon.updBank (Canon.updDie
    (Canon.updTask h2))))) (Canon.requeue (Canon.bankFreed (Canon.updCore (Canon.updBank (Canon.updDie (Canon.updTask h2)))))))
theorem Canon.areaReads {die pa l} (h : Canon s) : Canon (Machine.areaReads s die pa l).2 := by
  induction l generalizing s with
  | nil => exact h
  | cons e l ih => exact ih h.deviceRead
theorem Canon.restoreArea {core k a} (h : Canon s) : Canon (Machine.restoreArea s core k a) := by
  unfold Machine.restoreArea
  extract_lets die
  split
  · exact h
  · split
    next hi =>
    split
    next hs =>
    split
    next ht => exact (((h.areaReads.snd hi).areaReads.snd hs).areaReads.snd ht).unqueue.updTask.meterTask.updDie.updBank.updCore
theorem Canon.changeArea {id f} (h : Canon s) : Canon (Machine.changeArea s id f) := by
  unfold Machine.changeArea
  extract_lets t
  split
  · extract_lets die
    split
    next hs => exact (h.areaReads.snd hs).writeStrands.updTask
  · exact h

/-! ## Sections -/
theorem Canon.probed (h : Canon t) (h'1 : Canon u) : Canon (Machine.probed t u) := .ite h'1 h.modStrand
theorem Canon.drainCounted {st w} (h : Canon s) : Canon (Machine.drainCounted s st w) := .foldl (fun _ h1 => h1.drain) h
theorem Canon.tryExecution {st base w} (h : Canon s) : Canon (Machine.tryExecution s st base w) := by
  simp only [Machine.tryExecution]
  refine .ite h.stallAs ?_
  split
  · exact .ite h.stallAs h.drainCounted.modStrand
  · exact h.stallAs
  · exact h.trapStrand
theorem Canon.beginSection {core st} (h : Canon s) : Canon (Machine.beginSection s core st) := by
  simp only [Machine.beginSection]
  split
  · exact h.startTask
  · exact h.tryExecution
  · split
    · exact h.trapStrand
    · next e1 => exact .ite (h.fetchCode _ e1).tryExecution (h.fetchCode _ e1).trapStrand
  · exact h
theorem Canon.retireExecution {core bank st} (h : Canon s) : Canon (Machine.retireExecution s core bank st) := by
  simp only [Machine.retireExecution]
  split
  · exact h
  · exact .after (.ite h.updBank.releaseLease h.updBank) fun h1 => .ite (.reachTret h1) h1
theorem Canon.retireArea {core id st} (h : Canon s) : Canon (Machine.retireArea s core id st) := by
  simp only [Machine.retireArea]
  split
  · exact h.changeArea.reachTret
  · exact h.changeArea

/-! ## A strand's turn -/
theorem Canon.abandon {r f} (h : Canon s) : Canon (Machine.abandon s r f) := by
  simp only [Machine.abandon]
  split
  · exact h
  · exact .useFresh (.thaw (.updBank (.updStrand (.ite h.performOp h))))
theorem Canon.expireCore {core} (h : Canon s) : Canon (Machine.expireCore s core) := .foldl (fun _ h1 => h1.abandon) h
theorem Canon.turnState {core st} (h : Canon s) : Canon (Machine.turnState s core st) := .landCore (.updCore (.expireCore h))

/-! ## Events of the scheduler -/
theorem Canon.placePick {core id f} (h : Canon s) : Canon (Machine.placePick s core id f) := by
  simp only [Machine.placePick]
  split
  · exact .ite h.startFront h.stageTask
  · exact h.restoreArea
  · exact .ite h.updCore h
theorem Canon.selectCore {core} (h : Canon s) : Canon (Machine.selectCore s core) := by
  simp only [Machine.selectCore]
  split
  · exact h.afterPick.placePick
  · exact h.afterPick
theorem Canon.endStaging {core} (h : Canon s) : Canon (Machine.endStaging s core) := by
  simp only [Machine.endStaging]
  split
  · exact .ite h.updCore h
  · exact h
theorem Canon.promote {cl id} (h : Canon s) : Canon (Machine.promote s cl id) := h.updCluster.updTask.updCluster
theorem Canon.reserveHead {cl} (h : Canon s) : Canon (Machine.reserveHead s cl) := by
  simp only [Machine.reserveHead]
  split
  · exact .ite h.updCluster h
  · exact h
theorem Canon.clearShadow {core} (h : Canon s) : ∀ r ∈ Machine.clearShadow s core, Canon r.1 := by
  unfold Machine.clearShadow
  extract_lets k
  split
  · rintro _ ⟨⟩
    exact h
  · split
    · split
      · rintro _ ⟨⟩
        exact h.unstage
      · exact fun _ hr => nomatch hr
    · exact forall_mem_map fun _ _ => h.updCore
theorem Canon.preempt {core} (h : Canon s) : Canon (Machine.preempt s core) := by
  simp only [Machine.preempt]
  split
  · exact h
  · refine .ite h ?_
    split
    · refine .ite h.updCore ?_
      refine .ite h ?_
      split
      · exact h.afterPick.unstage.stageTask.updCore
      · split
        · exact h.afterPick.unstage.restoreArea.updCore
        · exact h.afterPick
      · exact h.afterPick
    · split
      · exact h.afterPick
      · refine .ite h.afterPick.unqueue.updCore ?_
        split
        · exact h.afterPick
        · next e1 => exact (h.afterPick.clearShadow _ e1)
        · next e1 => exact (h.afterPick.clearShadow _ e1).placePick.updCore
theorem Canon.applySys {core v} (h : Canon s) : Canon (Machine.applySys s core v) := h.updCore
theorem Canon.changeSys {core v} (h : Canon s) : Canon (Machine.changeSys s core v) := .ite (.ite h.updCore h.applySys) h.updCore
theorem Canon.emptyShadow {core} (h : Canon s) : ∀ t ∈ Machine.emptyShadow s core, Canon t := by
  simp only [Machine.emptyShadow]
  split
  · exact fun _ ht => nomatch ht
  · next hr =>
    rintro _ ⟨⟩
    exact h.clearShadow _ hr
  · split
    · split
      · rintro _ ⟨⟩
        exact h.spillBank
      · exact fun _ ht => nomatch ht
    · exact fun _ ht => nomatch ht
theorem Canon.wantSwap {core} (h : Canon s) : Canon (Machine.wantSwap s core) := h.updCore
theorem Canon.gangOn {core id} (h : Canon s) : ∀ t ∈ Machine.gangOn s core id, Canon t := by
  simp only [Machine.gangOn]
  split
  · exact fun _ ht => nomatch ht
  · split
    · exact fun _ ht => nomatch ht
    · split
      · exact forall_mem_map fun _ _ => h.startFront
      · exact forall_mem_map fun _ ht => (h.emptyShadow _ ht).stageTask.wantSwap
theorem Canon.gangAll {die got l} (h : Canon s) : ∀ t ∈ Machine.gangAll s die got l, Canon t := by
  induction l generalizing s got with
  | nil =>
    rintro _ ⟨⟩
    exact h
  | cons id l ih =>
    intro t ht
    obtain ⟨c, -, hc⟩ := List.exists_of_findSome?_eq_some ht
    obtain ⟨u, hu, ht⟩ := Option.bind_eq_some_iff.mp hc
    exact ih (h.gangOn _ hu) t ht
theorem Canon.placeGang {die id} (h : Canon s) : ∀ r ∈ Machine.placeGang s die id, Canon r.1 := by
  simp only [Machine.placeGang]
  split
  · exact fun _ hr => nomatch hr
  · split
    · rintro _ ⟨⟩
      exact .foldl (fun _ h1 => h1.unqueue.dispatchTask) h
    · exact forall_mem_map h.gangAll
theorem Canon.gangBack {id} (h : Canon s) : ∀ t ∈ Machine.gangBack s id, Canon t := by
  simp only [Machine.gangBack]
  split
  · exact fun _ ht => nomatch ht
  · split
    · rintro _ ⟨⟩
      exact h.unqueue.wantSwap
    · exact forall_mem_map fun _ ht => (h.emptyShadow _ ht).restoreArea.wantSwap
    · exact fun _ ht => nomatch ht
theorem Canon.returnGang {id} (h : Canon s) : ∀ t ∈ Machine.returnGang s id, Canon t := by
  simp only [Machine.returnGang]
  split
  · exact fun _ ht => nomatch ht
  · exact foldl_keeps (P := fun a : Option State => ∀ t ∈ a, Canon t) (fun _ h1 => forall_mem_bind fun _ hu => (h1 _ hu).gangBack) fun _ ht =>
    by cases ht; exact h
theorem Canon.examineGangs {die} (h : Canon s) : Canon (Machine.examineGangs s die) := by
  simp only [Machine.examineGangs]
  split
  · next hp =>
    obtain ⟨i, -, hi⟩ := List.mem_filterMap.mp (List.mem_of_find?_eq_some hp)
    exact h.placeGang _ hi
  · next ht =>
    obtain ⟨i, -, hi⟩ := List.exists_of_findSome?_eq_some ht
    exact h.returnGang _ hi
  · exact .ite h h.energyStall
theorem Canon.moveTask {thief id} (h : Canon s) : Canon (Machine.moveTask s thief id) := by
  simp only [Machine.moveTask]
  refine .requeue (.updTask (.unqueue ?_))
  split
  · exact h.updLaunch
  · exact h
theorem Canon.stealFrom {thief v} (h : Canon s) : Canon (Machine.stealFrom s thief v) :=
  .ite h.updCluster (.postDaily (.foldl (fun _ h1 => h1.moveTask) h))
theorem Canon.steal {cl} (h : Canon s) : Canon (Machine.steal s cl) := by
  simp only [Machine.steal]
  refine .ite h ?_
  split
  · exact h.updCluster
  · exact h.stealFrom

/-! ## Events of launches -/
theorem Canon.readLaunch {die n} (h : Canon s) : Canon (Machine.readLaunch s die n) :=
  .after (.ite h.deviceRead.acceptLaunch.updLq h.deviceRead.refuseLaunch.updLq) fun h1 => .updDie (.updLq (.ite h1 (.noteSet h1)))
theorem Canon.takeDeviceLaunch {die} (h : Canon s) : Canon (Machine.takeDeviceLaunch s die) := by
  simp only [Machine.takeDeviceLaunch]
  split
  · exact h
  · exact .ite h.updDie.acceptLaunch h.updDie.refuseLaunch
theorem Canon.activateLaunch {die} (h : Canon s) : Canon (Machine.activateLaunch s die) := h.updDie
theorem Canon.expandOne {die} (h : Canon s) : Canon (Machine.expandOne s die) := by
  simp only [Machine.expandOne]
  split
  · exact h
  · exact h.addTask.updLaunch
theorem Canon.unspawn {id} (h : Canon s) : Canon (Machine.unspawn s id) := h.updDie
theorem Canon.dispatchOne {id} (h : Canon s) : Canon (Machine.dispatchOne s id) := by
  simp only [Machine.dispatchOne]
  split
  · exact h
  · split
    · exact .turnLaunch (.ite (.getD h.placeTask h) h.unspawn.dispatchTask)
    · exact h.dispatchTask
    · exact h
theorem Canon.pollTags {die} (h : Canon s) : Canon (Machine.pollTags s die) := by
  simp only [Machine.pollTags]
  refine .foldl (fun _ h1 => ?_) h.updDie
  split
  · exact h1.dispatchTask
  · exact h1
theorem Canon.settleHold {die task action} (h : Canon s) : Canon (Machine.settleHold s die task action) :=
  .ite h (.ite h.dispatchTask (.ite h.failTask h))
theorem Canon.holdctlWrite {die task action} (h : Canon s) : Canon (Machine.holdctlWrite s die task action) := h.holdctlSet.settleHold
theorem Canon.resumeTask {task after} (h : Canon s) : Canon (Machine.resumeTask s task after) := by
  simp only [Machine.resumeTask]
  split
  · exact .ite h.updBank.resumeMatrix h.updBank
  · exact h.changeArea.updTask
  · exact h
theorem Canon.settleTrap {die task action} (h : Canon s) : Canon (Machine.settleTrap s die task action) :=
  .ite h (.ite h.failTask (.ite h.resumeTask (.ite h.resumeTask h)))
theorem Canon.trapctlWrite {die task action} (h : Canon s) : Canon (Machine.trapctlWrite s die task action) := h.trapctlSet.settleTrap
theorem Canon.landTask {id} (h : Canon s) : Canon (Machine.landTask s id) := by
  simp only [Machine.landTask]
  split
  · exact h.landCore
  · exact h
theorem Canon.completeLaunch {x} (h : Canon s) : Canon (Machine.completeLaunch s x) := h.dropTds.completeFuture.updLaunch.updDie

/-! ## Task words -/
theorem Canon.readReleased {va n} (h : Canon s) : Answers (Canon ·.2) (Machine.readReleased s va n) :=
  .check fun _ => .ite .error (.ok h.useXlats.drainCur.releaseAction.readPieces)
theorem Canon.tspawnBody {w} (h : Canon s) : Answers (Canon ·.s) (Machine.tspawnBody w s) :=
  .check fun _ => .check fun _ => .bind h.readReleased fun _ h1 => .check fun _ => .check fun _ => .ite .error (.ok h1.addTask.updLaunch.updDie)
theorem Canon.lnchBody {w} (h : Canon s) : Answers (Canon ·.s) (Machine.lnchBody w s) :=
  .check fun _ => .check fun _ => .bind h.readReleased fun _ h1 => .check fun _ => .ite .error (.ok h1.updDie)
theorem Canon.tretBody (h : Canon s) : Answers (Canon ·.s) (Machine.tretBody s) := .ok h.modBank.stallAs.reachTret
theorem Canon.tyieldBody (h : Canon s) : Answers (Canon ·.s) (Machine.tyieldBody s) := by
  simp only [Machine.tyieldBody]
  split
  · exact .ok h
  · refine .ite (.ok h) ?_
    refine .ite .error ?_
    refine .ite .error ?_
    refine .ite (.ok h.modBank.requeue.updCore) ?_
    split
    · exact .ok h
    · exact .ok h.modBank.requeue.updCore.updCore
theorem Canon.ttagrBody {w} (h : Canon s) : Answers (Canon ·.s) (Machine.ttagrBody w s) :=
  .check fun _ => .bind h.operandRef fun _ h1 => .bind h1.readTagAcq fun _ h2 => .ok h2
theorem Canon.ttagwBody {w} (h : Canon s) : Answers (Canon ·.s) (Machine.ttagwBody w s) :=
  .check fun _ => .check fun _ => .bind h.operandRef fun _ h1 => .check fun _ => .check fun _ => .check fun _ => .ite .error
    (.ok h1.useXlats.drainCur.releaseAction.writePieces)
theorem Canon.tdescBody {w} (h : Canon s) : Answers (Canon ·.s) (Machine.tdescBody w s) :=
  .check fun _ => .check fun _ => .bind (Answers.liftFault h.readTdWord) fun _ h1 => .ok h1
theorem Canon.tqryBody {w} (h : Canon s) : Answers (Canon ·.s) (Machine.tqryBody w s) := .ok h
theorem Canon.widfBody {w} (h : Canon s) : Answers (Canon ·.s) (Machine.widfBody w s) := .check fun _ => .ok h
theorem Canon.mtinsBody {w} (h : Canon s) : Answers (Canon ·.s) (Machine.mtinsBody w s) :=
  .check fun _ => .check fun _ => .check fun _ => .ite .error (.ok (.ite (.retryHeld h.useXlats.drainFor.readPieces.acquireAction)
    h.useXlats.drainFor.readPieces.acquireAction))
theorem Canon.mtdelBody {w} (h : Canon s) : Answers (Canon ·.s) (Machine.mtdelBody w s) := .check fun _ => .ok (.ite h h)

/-! ## The pool -/
theorem Canon.wakeRange {hit} (h : Canon s) : Canon (Machine.wakeRange s hit) := h.wakeWhere
theorem Canon.dropLines {hit} (h : Canon s) : Canon (Machine.dropLines s hit) := h
theorem Canon.orphanLines {hit prt bad} (h : Canon s) : Canon (Machine.orphanLines s hit prt bad) := .dropLines (hit := hit) h
theorem Canon.cleanLines {hit} (h : Canon s) : Canon (Machine.cleanLines s hit) :=
  .foldl (fun _ h1 => h1.cleanAgentLine) (.foldl (fun _ h1 => .foldl (fun _ h2 => h2.cleanLine) h1) h)
theorem Canon.loseFlight {core bank st f} (h : Canon s) : Canon (Machine.loseFlight s core bank st f) := h.updStrand.updBank.useFresh
theorem Canon.loseFlights {hit} (h : Canon s) : Canon (Machine.loseFlights s hit) := .foldl (fun _ h1 => h1.loseFlight) h
theorem Canon.updLease {i f} (h : Canon s) : Canon (Machine.updLease s i f) := h
theorem Canon.dropLease {i} (h : Canon s) : Canon (Machine.dropLease s i) := h
theorem Canon.sendRenewal {i} (h : Canon s) : Canon (Machine.sendRenewal s i) := h.updLease
theorem Canon.prtDone {err} (h : Canon s) : Canon (Machine.prtDone s err) := h
theorem Canon.prtFinish {err} (h : Canon s) : Canon (Machine.prtFinish s err) := h.prtDone.retryReads
theorem Canon.requestLease {i e} (h : Canon s) : Canon (Machine.requestLease s i e) := .ite h.prtFinish (.dropLease (i := i) h)
theorem Canon.prtCreate {i} (h : Canon s) : Canon (Machine.prtCreate s i) :=
  .ite h.useFresh.prtFinish (.ite h.useFresh.requestLease h.useFresh.setPrtState.prtFinish)
theorem Canon.dropRegion {e} (h : Canon s) : Canon (Machine.dropRegion s e) := h.dropLines
theorem Canon.prtRetire {i} (h : Canon s) : Canon (Machine.prtRetire s i) :=
  .ite h.prtFinish (.ite h (.prtFinish (.setPrtState (.dropLease (.dropRegion (.ite h.cleanLines h))))))
theorem Canon.prtRejoin {i} (h : Canon s) : Canon (Machine.prtRejoin s i) := .ite h.prtFinish h.requestLease
theorem Canon.leaseGranted {i} (h : Canon s) : Canon (Machine.leaseGranted s i) := by
  simp only [Machine.leaseGranted]
  split
  · exact .ite (.prtFinish (.setPrtState (.updLease (.ite h h.dropRegion)))) h
  · exact h
theorem Canon.loseRegion {i st} (h : Canon s) : Canon (Machine.loseRegion s i st) := h.setPrtState.dropLease.loseFlights.wakeRange
theorem Canon.leaseOut {i} (h : Canon s) : Canon (Machine.leaseOut s i) := h.setPrtState.orphanLines.loseRegion.postPool
theorem Canon.leaseRecord {task sub ln i} (h : Canon s) : Canon (Machine.leaseRecord s task sub ln i) := .ite h.postPool h.postRecord
theorem Canon.lapse {i sub task pa} (h : Canon s) : Canon (Machine.lapse s i sub task pa) := .ite h h.setPrtState.dropLease.leaseRecord
theorem Canon.updHead {x f} (h : Canon s) : Canon (Machine.updHead s x f) := h
theorem Canon.failHead {x sub} (h : Canon s) : Canon (Machine.failHead s x sub) := by
  unfold Machine.failHead
  refine .ite h ?_
  extract_lets on fl s1 lost waiting s2 p s3 s4 home cs s5 before s6 s7
  have h2 : Canon s2 := Canon.foldl (fun _ h1 => h1.setPrtState.dropLease) h.updHead
  have h3 : Canon s3 := .ite h2.setPool.prtFinish h2
  have h5 : Canon s5 := Canon.foldl (fun _ h1 => h1.endCopy) (Canon.foldl (fun _ h1 => h1.loseFlight) h3)
  have h7 : Canon s7 := h5.orphanLines.wakeRange
  exact h7.postPool
theorem Canon.dcDone {err} (h : Canon s) : Canon (Machine.dcDone s err) := h
theorem Canon.zeroExtent {h' g n} (h : Canon s) : Canon (Machine.zeroExtent s h' g n) := memZero_wf _ _ h
theorem Canon.dcAnswer {action x g n} (h : Canon s) : Canon (Machine.dcAnswer s action x g n) :=
  .ite (.ite h.zeroExtent.updHead.dcDone h.dcDone) (.ite (.ite h.updHead.dcDone h.dcDone) (.ite (.ite h.updHead.dcDone h.dcDone) h.dcDone))

/-! ## Pool words -/
theorem Canon.lrenewBody {w} (h : Canon s) : Answers (Canon ·.s) (Machine.lrenewBody w s) := .check fun _ => .ok (.ite h.sendRenewal h)
theorem Canon.readSys {l} (h : Canon s) : Answers (Canon ·.2) (Machine.readSys s l) := .check fun _ => .ok h.readPieces
theorem Canon.copyPayload {rd wr va src dst} (h : Canon s) : Canon (Machine.copyPayload s rd wr va src dst) :=
  .foldl (fun _ h1 => h1.notePoison) h.readMarked.writeMarked
theorem Canon.queueHeader {w dst} (h : Canon s) : Answers (Canon ·.2.2.2.2) (Machine.queueHeader w dst s) :=
  .check fun _ => .check fun _ => .check fun _ => .ite (.check fun _ => .ok h.useXlats) (.check fun _ => .check fun _ => .ite .error
    (.bind h.useXlats.useXlats.drainCur.readSys fun _ h1 => .check fun _ => .ok h1.acquireAction))
theorem Canon.claimIndex {va x idx off i} (h : Canon s) : Answers Canon (Machine.claimIndex s va x idx off i) :=
  .ite (.ok h) (.check fun _ => .ok h.useXlats.writePieces.modStrand)
theorem Canon.stopsAt {x} (h : Canon s) : Canon (Machine.stopsAt s x).s := by
  cases x with
  | trap => exact h
  | stall => exact h.stallAs
theorem Canon.releaseSeq {l v} (h : Canon s) : Canon (Machine.releaseSeq s l v) := h.releaseAction.writePieces.modStrand
/-- What a wait for a sequence word leaves, whether it ends the word or finds the word that it waits for (R298). -/
def seqWaitState : SeqWait → State
  | .got _ _ t => t
  | .ends o => o.s
/-- What stands at the sequence word decides how the wait ends (R298). -/
theorem Canon.seqWait {r : (Nat × Bool) × State} {c : Prop} [Decidable c] {v : Nat} {l : List Xlat} {m f} (h : Canon r.2) (hu : Canon u) :
    Canon (seqWaitState (if r.1.2 then .ends { s := r.2, issued := false, traps := f } else if c then .got v l (Machine.acquireAction r.2 m 3)
      else .ends { s := u, issued := false })) := by
  split
  · exact h
  · split
    · exact h.acquireAction
    · exact hu
theorem Canon.awaitSeq {l want} (h : Canon s) : Canon (seqWaitState (Machine.awaitSeq s l want)) := by
  cases l with
  | error x => exact h.stopsAt
  | ok l =>
    have ht : Canon (Machine.useXlats s (curCtx s) .write true l) := h.useXlats
    simp only [Machine.awaitSeq]
    generalize Machine.useXlats s (curCtx s) .write true l = t at ht ⊢
    have hr : Canon (match (curStrand t).park.bind Park.sat with
        | some v => (v, t)
        | none => Machine.readPieces t t.curCore 3 (entrySeq l)).2 := by
      split
      · exact ht
      · exact ht.readPieces
    exact .seqWait hr hr.parkCur
/-- A word goes on with what its wait leaves. -/
theorem Canon.afterSeq {x : SeqWait} {f : Nat → List Xlat → State → Except Stop Out} (h : Canon (seqWaitState x)) (hf : ∀ v l t, Canon t → Answers
    (fun o : Out => Canon o.s) (f v l t)) :
    Answers (fun o : Out => Canon o.s) (match x with | .ends o => .ok o | .got v l t => f v l t) := by
  cases x with
  | got v l t => exact hf v l t h
  | ends o => exact .ok h
theorem Canon.nqpostBody {w} (h : Canon s) : Answers (Canon ·.s) (Machine.nqpostBody w s) := by
  refine .bind h.queueHeader fun _ h1 => .ite (.ok h1) (.bind h1.claimIndex fun _ h2 => ?_)
  exact .afterSeq h2.awaitSeq fun _ _ _ h3 => .ok h3.copyPayload.releaseSeq
theorem Canon.nqtakeBody {w} (h : Canon s) : Answers (Canon ·.s) (Machine.nqtakeBody w s) := by
  refine .bind h.queueHeader fun r h1 => ?_
  dsimp only
  refine .ite (.check fun _ => .check fun _ => .bind (Q := fun o : Option State => ∀ t ∈ o, Canon t) (.ok fun u hu => ?_) fun o h2 => ?_)
    (.bind (Q := fun o : Option State => ∀ t ∈ o, Canon t) (.ok fun _ hu => nomatch hu) fun o h2 => ?_)
  · split at hu
    · cases hu
      exact h1.useXlats.readPieces
    · exact nomatch hu
  all_goals cases o with
    | some u => exact .ok (.acquireAction (h2 u rfl))
    | none => exact .bind h1.claimIndex fun _ h3 => .afterSeq h3.awaitSeq fun _ _ _ h4 => .ok h4.copyPayload.releaseSeq
theorem Canon.orphxBody {w} (h : Canon s) : Answers (Canon ·.s) (Machine.orphxBody w s) := by
  refine .check fun _ => ?_
  split
  · exact .ok h
  · exact .check fun _ => .check fun _ => .ite .error (.ok h.useXlats.drainCur.writePieces.releaseAction.setPool)

/-! ## System words -/
theorem Canon.csrSet {n v} (h : Canon s) : Canon (Machine.csrSet s n v) :=
  .ite h.updCore (.ite h.updCore (.ite h.updCore (.ite h.updCore (.ite h.updCore (.ite h.modBank (.ite (.ite h h.updCore)
    (.ite h.setLateCsr h)))))))
theorem Canon.csrSync {n} (h : Canon s) : Canon (Machine.csrSync s n) := by
  simp only [Machine.csrSync]
  refine .ite h.syncMatrix ?_
  refine .ite ?_ h
  split
  · exact h.meterTask
  · exact h
theorem Canon.csrWriteBody {f w} (h : Canon s) : Answers (Canon ·.s) (Machine.csrWriteBody f w s) := by
  simp only [Machine.csrWriteBody]
  refine .check fun _ => ?_
  refine .check fun _ => ?_
  refine .ok ?_
  split
  · exact h.csrSync.csrSet.modBank
  · exact h.csrSync.csrSet
theorem Canon.csrrBody {w} (h : Canon s) : Answers (Canon ·.s) (Machine.csrrBody w s) := .ok h.csrSync
theorem Canon.trapErr {die e} (h : Canon s) : Canon (Machine.trapErr s die e) := h.updDie
theorem Canon.eretTask {v} (h : Canon s) : Canon (Machine.eretTask s v) := .ite h.trapErr h.trapErr.settleTrap
theorem Canon.eretHandler {i} (h : Canon s) : Canon (Machine.eretHandler i s) := h.modBank.leaveHandler.modStrand
theorem Canon.eretBody {w} (h : Canon s) : Answers (Canon ·.s) (Machine.eretBody w s) :=
  .check fun _ => .ite (.check fun _ => .ok h.eretHandler) (.ok h.eretTask)
theorem Canon.tlbDrop {sub root va} (h : Canon s) : Canon (Machine.tlbDrop s sub root va) := h
theorem Canon.drainDevice (h : Canon s) : Canon (Machine.drainDevice s) :=
  .foldl (fun _ h1 => .foldl (fun _ h2 => h2.endChunk) (.foldl (fun _ h2 => .foldl (fun _ h3 => h3.drain) h2) h1)) h
theorem Canon.tlbinvDone (h : Canon s) : Canon (Machine.tlbinvDone s) := h.drainDevice.retryReads
theorem Canon.tlbinvBody {w} (h : Canon s) : Answers (Canon ·.s) (Machine.tlbinvBody w s) := by
  simp only [Machine.tlbinvBody]
  refine .check fun _ => ?_
  refine .check fun _ => ?_
  refine .ok ?_
  split
  · exact h.tlbDrop.tlbinvDone
  · exact h.tlbDrop
theorem Canon.haltBody (h : Canon s) : Answers (Canon ·.s) (Machine.haltBody s) := .ok h.updCore
theorem Canon.idleBody (h : Canon s) : Answers (Canon ·.s) (Machine.idleBody s) := .ite (.ok h) .error
theorem Canon.forceSwap {core} (h : Canon s) : Canon (Machine.forceSwap s core) := .ite h.beginSwap h.updCore
theorem Canon.bringIn {id} (h : Canon s) : ∀ t ∈ Machine.bringIn s id, Canon t := by
  simp only [Machine.bringIn]
  split
  · exact forall_mem_map fun _ ht => (h.emptyShadow _ ht).restoreArea
  · rintro _ ⟨⟩
    exact h
theorem Canon.forceSwaps {v} (h : Canon s) : ∀ t ∈ Machine.forceSwaps s v, Canon t :=
  forall_mem_map fun _ ht => .foldl (fun _ h1 => h1.forceSwap)
    (foldl_keeps (P := fun a : Option State => ∀ t ∈ a, Canon t) (fun _ h1 => forall_mem_bind fun _ hu => (h1 _ hu).bringIn) (fun _ ht =>
      by cases ht; exact h) _ ht)
theorem Canon.swapbBody {w} (h : Canon s) : Answers (Canon ·.s) (Machine.swapbBody w s) := by
  simp only [Machine.swapbBody]
  refine .check fun _ => ?_
  refine .ite (.ok h) ?_
  split
  · next e1 => exact .ok (h.forceSwaps _ e1)
  · exact .ok h
theorem Canon.spillAct {v} (h : Canon s) : ∀ r ∈ Machine.spillAct s v, Canon r.1 := by
  simp only [Machine.spillAct]
  split
  · rintro _ ⟨⟩
    exact h
  · split
    · split
      · exact fun _ hr => nomatch hr
      · rintro _ ⟨⟩
        exact h.unstage
    · split
      · exact fun _ hr => nomatch hr
      · split
        · rintro _ ⟨⟩
          exact h
        · split
          · rintro _ ⟨⟩
            exact h.spillBank
          · exact fun _ hr => nomatch hr
theorem Canon.spillBody {w} (h : Canon s) : Answers (Canon ·.s) (Machine.spillBody w s) := by
  simp only [Machine.spillBody]
  refine .check fun _ => ?_
  split
  · exact .ok h
  · next e1 => exact .ok (h.spillAct _ e1)
theorem Canon.daccBody {w} (h : Canon s) : Answers (Canon ·.s) (Machine.daccBody w s) :=
  .check fun _ => .check fun _ => .check fun _ => .check fun _ => .check fun _ => .ok h

/-! ## Events of cores -/
theorem Canon.landAnswer {r v} (h : Canon s) : Canon (Machine.landAnswer s r v) := h.updStrand.updBank.thaw
theorem Canon.landBankOp {r o} (h : Canon s) : ∀ t ∈ Machine.landBankOp s r o, Canon t := by
  simp only [Machine.landBankOp]
  split
  · rintro _ ⟨⟩
    split
    · next ht => exact .updStrand (h.forceSwaps _ ht)
    · exact h
  · rintro _ ⟨⟩
    exact .ite h h.landAnswer
  · rintro _ ⟨⟩
    split
    · next ht => exact .landAnswer (h.spillAct _ ht)
    · exact h
  · rintro _ ⟨⟩
    exact .ite h.tlbinvDone.landAnswer h
  · exact fun _ ht => nomatch ht
theorem Canon.landResult {r} (h : Canon s) : Canon (Machine.landResult s r) := by
  simp only [Machine.landResult]
  split
  · exact h
  · split
    · exact h.abandon
    · split
      · next ht =>
        obtain ⟨o, -, ho⟩ := Option.bind_eq_some_iff.mp ht
        exact h.landBankOp _ ho
      · exact .ite h (.ite h.updBank (.ite h.performNext h))
theorem Canon.leaveIdle {core st} (h : Canon s) : Canon (Machine.leaveIdle s core st) := by
  unfold Machine.leaveIdle
  extract_lets t
  have ht : Canon t := Canon.landCore h
  clear_value t
  split
  · exact h
  · refine .ite h ?_
    split
    · next hr => exact .withCsrs (fun h1 => h1.issueState (fun h2 => h2.idleBody)) (ht.fetchWord _ hr)
    · exact h
theorem Canon.takeInterrupt {die core} (h : Canon s) : Canon (Machine.takeInterrupt s die core) :=
  h.leaveIdle.leaveIdle.updDie.enterHandler.useFresh
theorem Canon.postNext {die} (h : Canon s) : Canon (Machine.postNext s die) := by
  simp only [Machine.postNext]
  split
  · exact h
  · refine .ite h.updDie.noteSet ?_
    split
    · exact .after (.ite h.writePieces h) fun h1 => .updCore (.ite (.updDie h1) (.noteSet (.updDie h1)))
    · exact .after (.ite h.writePieces h) fun h1 => .ite (.updDie h1) (.noteSet (.updDie h1))
theorem Canon.grantLease {cl} (h : Canon s) : Canon (Machine.grantLease s cl) := by
  simp only [Machine.grantLease]
  refine .ite h ?_
  split
  · exact h.updCluster.loadCut
  · exact h
theorem Canon.rearbitrate {cl} (h : Canon s) : Canon (Machine.rearbitrate s cl) := by
  simp only [Machine.rearbitrate]
  split
  · exact h
  · exact .ite h (.ite h.updCluster h.updCluster.loadCut)
theorem Canon.finishCommand {cl miss} (h : Canon s) : Canon (Machine.finishCommand s cl miss) := by
  simp only [Machine.finishCommand]
  split
  · exact h
  · refine .ite h ?_
    split
    · exact h.runUnits.updCluster
    · exact .ite h.runUnits.updCluster.releaseLease h.runUnits.updCluster.loadCut
theorem Canon.evict {c ln} (h : Canon s) : Canon (Machine.evict s c ln) := .ite h.evictCluster (.ite h.updCore h.evictAgent)
theorem Canon.countEcc (h : Canon s) : Canon (Machine.countEcc s) := .useFresh (.noteSet h)

/-! ## Events of the pool -/
theorem Canon.callDevice (h : Canon s) : Canon (Machine.callDevice s) := .ite h h
theorem Canon.prtRun {act i} (h : Canon s) : Canon (Machine.prtRun s act i) := .ite h.prtCreate (.ite h.prtRetire (.ite h.prtRejoin h))
theorem Canon.prtAction {act i} (h : Canon s) : Canon (Machine.prtAction s act i) := .ite (.ite h.prtRun h) (.prtRun h)
theorem Canon.renewed {i} (h : Canon s) : Canon (Machine.renewed s i) := h.updLease
theorem Canon.refuseLine {ln} (h : Canon s) : Canon (Machine.refuseLine s ln) := by
  unfold Machine.refuseLine
  split
  · exact h
  · extract_lets s1 p s2
    have h2 : Canon s2 := h.orphanLines.setPool
    exact h2.postPool.setPrtState.dropLease
theorem Canon.refuseAccess {r} (h : Canon s) : Canon (Machine.refuseAccess s r) := by
  simp only [Machine.refuseAccess]
  split
  · exact h
  · split
    · exact h
    · refine .ite h ?_
      split
      · exact h
      · exact .lapse (.ite h.loseFlight.orphanLines h.loseFlight)
theorem Canon.refuseChunk {core slot} (h : Canon s) : Canon (Machine.refuseChunk s core slot) := by
  simp only [Machine.refuseChunk]
  split
  · exact h
  · split
    · exact h.endCopy.lapse
    · exact h.endCopy
theorem Canon.snoopLine {downgrade ln} (h : Canon s) : Canon (Machine.snoopLine downgrade s ln) :=
  .wakeSnooped (.ite (.ite h.cleanLines.setPerm h.cleanLines) h.cleanLines.dropLines)
theorem Canon.offerExtent {x g n} (h : Canon s) : Canon (Machine.offerExtent s x g n) := h.updHead.postPool
theorem Canon.dcAction {act x g n} (h : Canon s) : Canon (Machine.dcAction s act x g n) := .ite (.ite h.dcAnswer h) (.dcAnswer h)
theorem Canon.declareHead {x} (h : Canon s) : Canon (Machine.declareHead s x) := h.updHead.failHead
theorem Canon.dropLink {x} (h : Canon s) : Canon (Machine.dropLink s x) := .ite h (.ite h.updHead h)
theorem Canon.poisonAtom {a} (h : Canon s) : Canon (Machine.poisonAtom s a) := by
  simp only [Machine.poisonAtom]
  split
  · exact setPoison_wf _ _ h
  · split
    · exact h.setAgentCache
    · exact setPoison_wf _ _ h
theorem Canon.hostWrite {pa data} (h : Canon s) : Canon (Machine.hostWrite s pa data) :=
  .ite h (Canon.wakeBytes (homeWrite_wf _ _ _ _ (Canon.keepCode (.ite h.recallHost.useFresh h))))

/-! ## Events of the platform -/
theorem Canon.powerOff (h : Canon s) : Canon (Machine.powerOff s) := outsideMem_wf h
theorem Canon.updMgmt {f} (h : Canon s) : Canon (Machine.updMgmt s f) := h
theorem Canon.psApply {req} (h : Canon s) : Canon (Machine.psApply s req) :=
  .ite h (.ite (.ite h.updMgmt (.ite h.updMgmt h)) (.ite (.ite h.updMgmt h) (.ite (.ite h.updMgmt h) h.powerOff)))
theorem Canon.psRequest {req} (h : Canon s) : Canon (Machine.psRequest s req) := .ite h (.ite h.updMgmt.psApply.updMgmt h.updMgmt.psApply)
theorem Canon.todoAct {e} (h : Canon s) : Canon (Machine.todoAct s e) :=
  .ite h.beginFail (.ite (.ite h.settleHold (.ite h.settleTrap (.ite h.settleCopy (.ite (.foldl (fun _ h1 => h1.changeSys) h) (.ite (.foldl
    (fun _ h1 => h1.changeSys) h) h))))) (.ite h.psApply (.ite h.failHead h)))
theorem Canon.runTodo (h : Canon s) : Canon (Machine.runTodo s) := Canon.ite h (Canon.foldl (fun _ h1 => h1.todoAct) h)
theorem Canon.registerWrite {off n v} (h : Canon s) : Canon (Machine.registerWrite s off n v) := .ite h.mmioWrite.runTodo h
theorem Canon.setPoint {die p} (h : Canon s) : Canon (Machine.setPoint s die p) := h.updDie
theorem Canon.energyRecord {die} (h : Canon s) : Canon (Machine.energyRecord s die) := .ite h h.postDaily.updDie
theorem Canon.refillBoundary {die watts} (h : Canon s) : Canon (Machine.refillBoundary s die watts) := h.updDie.energyRecord.setPoint.updDie
theorem Canon.junctionTo {die temp} (h : Canon s) : Canon (Machine.junctionTo s die temp) :=
  .ite (.ite h.updMgmt.updDie.setPoint h.updMgmt.updDie) h.updMgmt
theorem Canon.takeStored (h : Canon s) : Canon (Machine.takeStored s) := by
  simp only [Machine.takeStored]
  split
  · exact h.useFresh.updMgmt
  · exact h
theorem Canon.startRuntime (h : Canon s) : Canon (Machine.startRuntime s) := layCells_wf _ h
theorem Canon.trainHbm (h : Canon s) : Canon (Machine.trainHbm s) := outsideMem_wf h
theorem Canon.trainPool {heads} (h : Canon s) : Canon (Machine.trainPool s heads) := .useFresh h
theorem Canon.allPoints {p} (h : Canon s) : Canon (Machine.allPoints s p) := .foldl (fun _ h1 => h1.setPoint) h
theorem Canon.bootBegin {k} (h : Canon s) : Canon (Machine.bootBegin s k) := .ite h.allPoints h
theorem Canon.bootStep {heads k} (h : Canon s) : Canon (Machine.bootStep heads s k) := by
  simp only [Machine.bootStep]
  refine .updMgmt (.ite h.takeStored ?_)
  refine .ite h.trainHbm ?_
  refine .ite h.updMgmt ?_
  refine .ite ?_ (.ite h.allPoints (.ite h.startRuntime h))
  split
  · exact h.trainPool
  · exact h
theorem Canon.bootSteps {heads fail l} (h : Canon s) : Canon (Machine.bootSteps heads fail l s) := by
  induction l generalizing s with
  | nil => exact h
  | cons k l ih => exact .ite h.bootBegin.updMgmt (ih h.bootBegin.bootStep)
theorem Canon.coldState (h : Canon s) : Canon (Machine.coldState s) := outsideMem_wf h
theorem Canon.warmState (h : Canon s) : Canon (Machine.warmState s) := .useFresh h

/-! ## What the run loop keeps -/

/-- A step that goes on leaves memory in its canonical form. -/
def StepsTo (o : Host.Outcome State Fault Refusal) : Prop := ∀ t, o = .next t → Canon t

theorem StepsTo.next (h : Canon t) : StepsTo (.next t) := fun _ hu => by cases hu; exact h
theorem Canon.issue {i body} (h : Canon s) (hb : ∀ {s}, Canon s → Answers (Canon ·.s) (body s)) : StepsTo (Machine.issue i body s) :=
  .next (.withCsrs (fun h1 => h1.issueState hb) h)
/-- Every word and every event, by what it does. -/
theorem Canon.exec (i : Instr) (h : Canon s) : StepsTo (Machine.exec i s) := by
  cases i
  case illegal => exact .next h.stopWord
  case add | sub | mul | mulh | and | or | xor | andn | shl | shr | sra | rotr | min | max | cmp | hashr => exact h.issue fun h1 => h1.alu2
  case div | rem => exact h.issue fun h1 => h1.divWord
  case sel => exact h.issue fun h1 => h1.selBody
  case clz | ctz | popc | bfx => exact h.issue fun h1 => h1.alu1
  case bfi => exact h.issue fun h1 => h1.bfiBody
  case addi => exact h.issue fun h1 => h1.addiBody
  case li => exact h.issue fun h1 => h1.liBody
  case lih => exact h.issue fun h1 => h1.lihBody
  case fadd | fsub | fmul | fdiv => exact h.issue fun h1 => h1.fop2
  case ffma => exact h.issue fun h1 => h1.ffmaBody
  case fsqrt => exact h.issue fun h1 => h1.fsqrtBody
  case fmin | fmax => exact h.issue fun h1 => h1.fminmaxBody
  case fcmp => exact h.issue fun h1 => h1.fcmpBody
  case fcvt => exact h.issue fun h1 => h1.fcvtBody
  case fclass => exact h.issue fun h1 => h1.fclassBody
  case br => exact h.issue fun h1 => h1.brBody
  case jmp => exact h.issue fun h1 => h1.jmpBody
  case jmpr | ret => exact h.issue fun h1 => h1.jmprBody
  case call => exact h.issue fun h1 => h1.callBody
  case loop => exact h.issue fun h1 => h1.loopBody
  case brq => exact h.issue fun h1 => h1.brqBody
  case syncv => exact h.issue fun h1 => h1.syncvBody
  case nop | fence | qmark => exact h.issue fun h1 => .ok h1
  case ld | ldro => exact h.issue fun h1 => h1.loadBody
  case st => exact h.issue fun h1 => h1.stBody
  case roinv => exact h.issue fun h1 => h1.roinvBody
  case amo => exact h.issue fun h1 => h1.amoBody
  case cas => exact h.issue fun h1 => h1.casBody
  case qfence => exact h.issue fun h1 => h1.qfenceBody
  case pref => exact h.issue fun h1 => h1.prefBody
  case fget => exact h.issue fun h1 => h1.fgetBody
  case fset | fclr => exact h.issue fun h1 => h1.futureWrite
  case waita => exact h.issue fun h1 => h1.waitaBody
  case binit => exact h.issue fun h1 => h1.binitBody
  case barr => exact h.issue fun h1 => h1.barrBody
  case bwait | btest => exact h.issue fun h1 => h1.phaseBody
  case bexp => exact h.issue fun h1 => h1.bexpBody
  case qpush => exact h.issue fun h1 => h1.qpushBody
  case qbind => exact h.issue fun h1 => h1.qbindBody
  case qunb => exact h.issue fun h1 => .ok h1.modBank
  case qstat => exact h.issue fun h1 => h1.qstatBody
  case vadd | vsub | vmul | vmin | vmax | vand | vor | vxor | vshl | vshr => exact h.issue fun h1 => h1.vec2
  case vfma => exact h.issue fun h1 => h1.vfmaBody
  case vabs | vneg => exact h.issue fun h1 => h1.vec1
  case vcmp => exact h.issue fun h1 => h1.elemMask
  case vsel => exact h.issue fun h1 => h1.vselBody
  case vclamp => exact h.issue fun h1 => h1.vclampBody
  case vcvt => exact h.issue fun h1 => h1.vcvtBody
  case vsfu => exact h.issue fun h1 => h1.vsfuBody
  case vsplat => exact h.issue fun h1 => h1.vsplatBody
  case viota => exact h.issue fun h1 => h1.viotaBody
  case vrco => exact h.issue fun h1 => h1.vrcoBody
  case vslice => exact h.issue fun h1 => h1.vsliceBody
  case vcat => exact h.issue fun h1 => h1.vcatBody
  case vrev => exact h.issue fun h1 => h1.vrevBody
  case vlen => exact h.issue fun h1 => h1.vlenBody
  case vsetl => exact h.issue fun h1 => h1.vsetlBody
  case vins => exact h.issue fun h1 => h1.vinsBody
  case vext => exact h.issue fun h1 => h1.vextBody
  case vld => exact h.issue fun h1 => .ite h1.vldPlain h1.vldTensor
  case vst => exact h.issue fun h1 => .ite h1.vstPlain h1.vstTensor
  case vldp => exact h.issue fun h1 => h1.vldpBody
  case vstp => exact h.issue fun h1 => h1.vstpBody
  case vldrg => exact h.issue fun h1 => h1.vldrgBody
  case vgath => exact h.issue fun h1 => h1.vgathBody
  case vscat => exact h.issue fun h1 => h1.vscatBody
  case vlda => exact h.issue fun h1 => h1.vldaBody
  case vsta => exact h.issue fun h1 => h1.vstaBody
  case vpark => exact h.issue fun h1 => h1.vparkBody
  case vunpk => exact h.issue fun h1 => h1.vunpkBody
  case vrsum | vrmax | vrmin => exact h.issue fun h1 => h1.reduceBody
  case vrdot => exact h.issue fun h1 => h1.vrdotBody
  case vsegsum | vsegmax => exact h.issue fun h1 => h1.segBody
  case vscan => exact h.issue fun h1 => h1.vscanBody
  case kand | kor | kxor | knot | kmov => exact h.issue fun h1 => h1.maskOp
  case kcnt => exact h.issue fun h1 => h1.kcntBody
  case kfirst => exact h.issue fun h1 => h1.kfirstBody
  case macq => exact h.issue fun h1 => h1.macqBody
  case mrel => exact h.issue fun h1 => h1.mrelBody
  case mcfg => exact h.issue fun h1 => h1.mcfgBody
  case mset => exact h.issue fun h1 => h1.msetBody
  case mma | mmas => exact h.issue fun h1 => h1.mmaBody
  case mola => exact h.issue fun h1 => h1.molaBody
  case mldw => exact h.issue fun h1 => h1.mldwBody
  case mrowsum => exact h.issue fun h1 => h1.mrowsumBody
  case mdrain => exact h.issue fun h1 => h1.mdrainBody
  case mldacc => exact h.issue fun h1 => h1.mldaccBody
  case midx => exact h.issue fun h1 => h1.midxBody
  case cpy | cpys | cpyg | cpysc | cpyr | cpyf | cpyn | pflush | pinv => exact h.issue fun h1 => h1.copyBody
  case reelapp => exact h.issue fun h1 => h1.reelappBody
  case reellnk => exact h.issue fun h1 => h1.reellnkBody
  case reelkick => exact h.issue fun h1 => h1.reelkickBody
  case reelstat => exact h.issue fun h1 => h1.reelstatBody
  case tspawn => exact h.issue fun h1 => h1.tspawnBody
  case lnch => exact h.issue fun h1 => h1.lnchBody
  case tret => exact h.issue fun h1 => h1.tretBody
  case tyield => exact h.issue fun h1 => h1.tyieldBody
  case ttagr => exact h.issue fun h1 => h1.ttagrBody
  case ttagw => exact h.issue fun h1 => h1.ttagwBody
  case tdesc => exact h.issue fun h1 => h1.tdescBody
  case tqry => exact h.issue fun h1 => h1.tqryBody
  case widf => exact h.issue fun h1 => h1.widfBody
  case mtins => exact h.issue fun h1 => h1.mtinsBody
  case mtdel => exact h.issue fun h1 => h1.mtdelBody
  case lrenew => exact h.issue fun h1 => h1.lrenewBody
  case nqpost => exact h.issue fun h1 => h1.nqpostBody
  case nqtake => exact h.issue fun h1 => h1.nqtakeBody
  case orphx => exact h.issue fun h1 => h1.orphxBody
  case dacc => exact h.issue fun h1 => h1.daccBody
  case csrr => exact h.issue fun h1 => h1.csrrBody
  case csrw | csrs | csrc => exact h.issue fun h1 => h1.csrWriteBody
  case trap | bkpt => exact h.issue fun _ => .error
  case eret => exact h.issue fun h1 => h1.eretBody
  case tlbinv => exact h.issue fun h1 => h1.tlbinvBody
  case idle => exact h.issue fun h1 => h1.idleBody
  case halt => exact h.issue fun h1 => h1.haltBody
  case swapb => exact h.issue fun h1 => h1.swapbBody
  case spill => exact h.issue fun h1 => h1.spillBody
  case rep => exact h.issue fun h1 => h1.repBody
  case doorbell => exact .next (.ite h.ringDoorbell h)
  case lqctlWrite => exact .next (.ite h.writeLqctl h)
  case launchRecordRead =>
    refine .next (.ite ?_ h)
    split
    · exact .ite h h.readLaunch
    · exact h
  case deviceLaunchAccept => exact .next (.ite h.takeDeviceLaunch h)
  case launchActivate => exact .next (.ite h.activateLaunch h)
  case taskExpand => exact .next (.ite h.expandOne h)
  case dispatch => exact .next (.ite h.dispatchOne h)
  case dispatchReadRetry => exact .next (.ite h.updTask.dispatchTask h)
  case tagPoll => exact .next (.ite h.pollTags h)
  case holdctlRedispatch | holdctlFail => exact .next (.ite h.holdctlWrite h)
  case taskSelect | taskStage => exact .next (.ite h.selectCore h)
  case agePromote => exact .next (.ite h.promote h)
  case reserveTask => exact .next (.ite h.reserveHead h)
  case gangPlace => exact .next (.ite h.examineGangs h)
  case steal => exact .next (.ite h.steal h)
  case stagingComplete => exact .next (.ite h.endStaging h)
  case preempt => exact .next (.ite h.preempt h)
  case parkSwap => exact .next (.ite h.updCore h)
  case bankSwapBegin => exact .next (.ite h.beginSwap h)
  case bankSwapComplete =>
    refine .next ?_
    split
    · exact .ite h.endSwap h
    · exact h
  case contextSpill =>
    refine .next ?_
    split
    · exact .ite h.spillBank h
    · exact h
  case contextRestore =>
    refine .next ?_
    split
    · exact .ite h.restoreArea h
    · exact h
  case energyRefill => exact .next (.ite h.refillBoundary h)
  case junctionTempThreshold => exact .next (.ite h.junctionTo h)
  case eshareWrite | sysmaskWrite | registerWrite => exact .next (.ite h.registerWrite h)
  case sysmaskApply =>
    refine .next ?_
    split
    · exact h.changeSys
    · exact h
  case bar0UnsupportedAccess | forcedRefresh => exact .next h
  case sectionBegin core st =>
    have h1 : Canon (Machine.landCore { s with curCore := core, curSt := st } core) := Canon.landCore h
    refine .next ?_
    split
    · exact h1.stallAs
    · exact .ite (h1.probed h1.beginSection) h1.beginSection
  case sectionRetire core st =>
    have h1 := h.landCore (c := core)
    refine .next (.ite h1 (.ite h1.retireExecution (.ite h1.retireExecution ?_)))
    split
    · exact h1.retireArea
    · exact h1
  case taskRetire => exact .next (.ite h.landTask.retireTask h.landTask)
  case failedTaskRetire => exact .next (.ite h.landTask.unqueue.retireTask h.landTask)
  case launchComplete =>
    refine .next ?_
    split
    · exact .ite h.completeLaunch h
    · exact h
  case interruptTake =>
    refine .next (.ite ?_ h)
    split
    · exact .ite h.takeInterrupt h
    · exact h
  case trapctlResume | trapctlResumeAfter | trapctlFail => exact .next (.ite h.trapctlWrite h)
  case resultLand | storePerformed => exact .next (.ite h.landResult h)
  case freezeBegin => exact .next (.ite h.landCore.updCore h.landCore)
  case watchdogExpiry =>
    refine .next ?_
    split
    · exact h
    · exact .ite h.abandon h
  case matrixLeaseGrant => exact .next (.ite h.grantLease h)
  case matrixBudgetSpent => exact .next (.ite h.rearbitrate h)
  case matrixCommandComplete => exact .next (.ite h.finishCommand h)
  case slotFillComplete => exact .next (.ite h.fillSlot h)
  case copyCommandBegin => exact .next (.ite h.beginCopy h)
  case chunkPerform => exact .next (.ite h.chunkStep h)
  case cpyresResume | cpyresAbort => exact .next (.ite h.cpyresWrite h)
  case reelFetch => exact .next (.ite h.reelStep h)
  case streamBlockPush => exact .next (.ite h.pushBlock h)
  case barrierWindowWrite => exact .next (.ite h.winWrite h)
  case windowRegisterWrite => exact .next (.ite h.winWrite.wakeBytes h)
  case waitPoll | rowCapture | hostMemRead => exact .next (.ite h h)
  case faultRecordPost => exact .next (.ite h.postNext h)
  case cacheEvict => exact .next (.ite h.evict h)
  case prtcmdCreate | prtcmdRetire | prtcmdRejoin => exact .next (.ite h.prtAction h)
  case leaseGrantAck => exact .next (.ite h.leaseGranted h)
  case coldReset => exact .next h.coldState.bootSteps
  case warmReset => exact .next (.ite h.warmState.bootSteps h)
  case mldwRetranslate => exact .next (.ite h (.ite h.fillSlot (.foldl (fun _ h1 => h1.translateCore) h)))
  case hbmScrub => exact .next (.ite h (.ite (setPoison_wf _ _ h) h.countEcc))
  case leaseRenewal => exact .next (.ite h.sendRenewal h)
  case leaseRenewalAck => exact .next (.ite h.renewed h)
  case leaseExpiryDevice => exact .next (.ite h.leaseOut h)
  case lapseNotice => exact .next (.ite h.lapse.callDevice h)
  case headRefusal =>
    refine .next (.ite h ?_)
    split
    · exact h.refuseLine
    · exact h.refuseAccess
    · exact h.refuseChunk
  case biSnoop => exact .next (.ite (.callDevice (.foldl (fun _ h1 => h1.snoopLine) h)) h)
  case hostSnoop => exact .next (.ite h.snoopLine.callDevice h)
  case dcExtentOffer => exact .next (.ite h.offerExtent.callDevice h)
  case dcReleaseRequest => exact .next (.ite h.postPool.callDevice h)
  case dcaccAccept | dcaccReject | dcaccRelease => exact .next (.ite h.dcAction h)
  case headDeclare => exact .next (.ite h.declareHead h)
  case headFatalNotice => exact .next (.ite h.failHead.callDevice h)
  case linkDown => exact .next (.ite h.dropLink h)
  case linkRetrainTimeout | requestTimeout => exact .next (.ite h.failHead h)
  case ideIntegrityFail => exact .next (.ite h (.ite (.dropLink (.foldl (fun _ h1 => h1.poisonAtom) h)) (.foldl (fun _ h1 => h1.poisonAtom) h)))
  case hostMemWrite => exact .next (.ite h (.ite h.hostWrite (.ite h.hostWrite h)))
  case psctlReqPs0 | psctlReqPs1 | psctlReqPs2 | psctlReqPs3 => exact .next h.psRequest
  case ps1Enter | ps1Wake | attestationReport | mailboxSession => exact .next (.ite h.updMgmt h)
  case mailboxManifest => exact .next (.ite h (.ite h.updMgmt (.ite h h.updMgmt)))
  case mailboxConfidentialSet => exact .next (.ite h (.ite h.hideGranule (.ite h.updMgmt h)))
  case linkRetrain => exact .next (.ite h.updHead (.ite h h))
  case managementControllerMessage => exact .next (.ite h.updDie h)
/-- The state at which a turn stands. -/
def planState : Plan → Option State
  | .done t | .run t _ | .probe t _ => some t
  | .bad => none
theorem Canon.planStrand {core st} (h : Canon s) : ∀ t ∈ planState (Machine.planStrand s core st), Canon t := by
  have h1 := h.turnState (core := core) (st := st)
  simp only [Machine.planStrand]
  split
  · rintro _ ⟨⟩
    exact h
  · split
    · rintro _ ⟨⟩
      exact h1.stallAs
    · split
      · rintro _ ⟨⟩
        exact h1
      · split
        · rintro _ ⟨⟩
          exact .ite h1.stallAs (.trapStrand h1.modStrand)
        · split
          · rintro _ ⟨⟩
            exact h1.trapStrand
          · next hf =>
            rintro _ ⟨⟩
            exact .trapStrand (h1.fetchWord _ hf)
          · next hf =>
            split <;> rintro _ ⟨⟩ <;> exact h1.fetchWord _ hf
theorem Canon.plan (h : Canon s) : ∀ t ∈ planState (Machine.plan s), Canon t := by
  simp only [Machine.plan]
  split
  · exact h.tick.planStrand
  · exact .planStrand (.tick h)
  · split
    · rintro _ ⟨⟩
      exact .tick h
    · exact fun _ ht => nomatch ht
theorem Canon.step (h : Canon s) : StepsTo (Machine.step s) := by
  have hp := h.plan
  cases he : Machine.plan s with
  | done t =>
    rw [step_of_done he]
    exact .next (.runTodo (hp t (he ▸ rfl)))
  | run t i =>
    obtain ⟨u, hu⟩ := exec_next i t
    have ht := hp t (he ▸ rfl)
    rw [step_of_run he hu]
    exact .next (ht.exec i u hu).runTodo
  | probe t i =>
    obtain ⟨u, hu⟩ := exec_next i t
    have ht := hp t (he ▸ rfl)
    rw [step_of_probe he hu]
    exact .next (ht.probed (ht.exec i u hu)).runTodo
  | bad =>
    rw [step_of_bad he]
    exact fun _ ht => nomatch ht
/-- Settles O60: every function of the model that answers a state keeps the form, up to the run loop. -/
theorem stepKeepsMemoryCanonical : Obligations.StepKeepsMemoryCanonical := by
  intro s t h ht
  exact Canon.step h t ht
end Sys2Proof.Laws
end

section
/-! SUPPORT. Accesses of a strand that are performed (R261, R262, R268, R269, R307, R331, R418): what performing one does, what lands in the registers, and which
access precedes which. -/
namespace Sys2Proof.Laws
open Sys2Proof.Machine Sys2Proof.Safety

/-! ## An access of which no piece has been performed -/

theorem readRest_nil (core scope : Nat) (l : List Piece) (s : State) (i : Nat) :
    readRest (fun s q => readPiece s core scope q) [] s i l = readPieces s core scope l := by
  induction l generalizing s i with
  | nil => rfl
  | cons q l ih => simp only [readRest, readPieces, tfind, ih]
theorem writeRest_nil (core scope : Nat) (p : Bool) (l : List Piece) (s : State) (i v : Nat) :
    writeRest s core scope p [] i l v = writePieces s core scope p l v := by
  induction l generalizing s i v with
  | nil => rfl
  | cons q l ih => simp [writeRest, writePieces, tfind, ih]
theorem mixUp_nil (s : State) (core : Nat) (o : MemOp) (r : (Nat × Bool) × State) : mixUp s core o [] r = r := rfl
theorem noteStrong_weak {o : MemOp} (h : o.strong = false) (s : State) (core bank : Nat) (st : Strand) : noteStrong s core bank st o = s := by
  simp only [noteStrong, h, Bool.not_false, if_true]

section
variable {o : MemOp} (hdid : o.did = [])
include hdid

theorem readRo_of_one (s : State) (core : Nat) {q : Piece} (hp : o.pieces = [q]) : readRest (readRoAs true core) o.did s 0 o.pieces = readRo s core q := by
  simp [hdid, hp, readRest, tfind, readRoAs]

variable (hmmio : o.pieces.head?.all (fun q => q.kind != .mmio) = true)
include hmmio

theorem readOp_eq_readPieces (s : State) (core : Nat) : readOp s core o = readPieces s core o.scope o.pieces := by
  cases hl : o.pieces with
  | nil => simp only [readOp, hl, readPieces]
  | cons q l =>
    have hq : q.kind ≠ .mmio := by simpa [hl] using hmmio
    simp only [readOp, hl, if_neg hq, hdid, readRest_nil]
theorem writeOp_eq_writePieces (s : State) (core v : Nat) (p : Bool) : writeOp s core o v p = writePieces s core o.scope p o.pieces v := by
  cases hl : o.pieces with
  | nil => simp only [writeOp, hl, writePieces]
  | cons q l =>
    have hq : q.kind ≠ .mmio := by simpa [hl] using hmmio
    simp only [writeOp, hl, if_neg hq, hdid, writeRest_nil]
end

/-! ## Performing an access (R261, R264, R307) -/

section
variable {s : State} {core bank id : Nat} {st : Strand} {f : Flight} {o : MemOp}

theorem performFlight_land (hf : (strandOf s core bank st).flight.find? (fun f => f.id = id && !f.landed) = some f) (ho : f.op = some o)
    (hk : ∀ x, o.kind ≠ .vload x) :
    let r := performOp s core bank st o
    let ws := if f.writes.isEmpty then loadWrites f.dests o.n r.1.1 o.sx r.1.2 else f.writes
    performFlight s core bank st id = thaw (updBank (updStrand r.2 core bank st fun x =>
      { x with flight := x.flight.map fun g => if g.id = id then { g with writes := ws } else g }) core bank
      fun b => landFlight b st id (coreTime s core)) core (freezeTime s core) := by
  simp only [performFlight, hf, ho]
theorem performNext_whole (hf : (strandOf s core bank st).flight.find? (fun f => f.id = id && !f.landed) = some f) (ho : f.op = some o)
    (h : o.torn = false ∨ o.left.length < 2) : performNext s core bank st id = performFlight s core bank st id := by
  have hc : ¬ (o.torn && decide (2 ≤ o.left.length)) = true := by
    simp only [Bool.and_eq_true, decide_eq_true_eq, not_and, Nat.not_le]
    exact fun ht => h.resolve_left (by simp [ht])
  simp only [performNext, hf, Option.bind_some, ho, if_neg hc]
end

/-- Every flight of the strand with that id has landed. -/
def LandedAt (id : Nat) (x : StrandSt) : Prop := ∀ g ∈ x.flight, g.id = id → g.landed = true

theorem LandedAt.holdStrand {id t : Nat} {x : StrandSt} (h : LandedAt id x) : LandedAt id (holdStrand t x) := h
theorem LandedAt.loseTime {id t n : Nat} {x : StrandSt} (h : LandedAt id x) : LandedAt id (loseTime t n x) := by
  intro g hg hid
  obtain ⟨f, hf, rfl⟩ := List.mem_map.mp hg
  split_ifs at hid ⊢ <;> exact h f hf hid
theorem strandSel_mapStrands (f : StrandSt → StrandSt) (b : Bank) (st : Strand) : strandSel (mapStrands f b) st = f (strandSel b st) := by cases st <;> rfl
theorem LandedAt.landFlight (b : Bank) (st : Strand) (id t : Nat) : LandedAt id (strandSel (landFlight b st id t) st) := by
  intro g hg hid
  cases hf : (strandSel b st).flight.find? (fun f => f.id = id) with
  | none =>
    simp only [Machine.landFlight, hf] at hg
    exact absurd hid (by simpa using List.find?_eq_none.mp hf g hg)
  | some f =>
    rw [landFlight_flight t hf] at hg
    obtain ⟨e, -, rfl⟩ := List.mem_map.mp hg
    by_cases he : e.id = id
    · simp [afterLanding, he]
    · rw [afterLanding, if_neg he] at hid
      split_ifs at hid <;> exact absurd hid he

theorem bankSel_congr (k : Core) {m n : Nat} (h : m = 0 ↔ n = 0) : bankSel k m = bankSel k n := by simp only [bankSel, h]
/-- What holds of the bank that is put and of the bank that stood there holds of what is read. -/
theorem bankSel_setBank_of {P : Bank → Prop} {k : Core} {m n : Nat} {b : Bank} (hb : (m = 0 ↔ n = 0) → P b)
    (hk : P (bankSel k m)) : P (bankSel (setBank k n b) m) := by
  by_cases h : m = 0 ↔ n = 0
  · rw [bankSel_congr _ h, bankSel_setBank]
    exact hb h
  · rwa [bankSel_setBank_ne k b fun he => h (iff_of_eq he)]
theorem LandedAt.thaw {s : State} {core bank id : Nat} {st : Strand} (was : Option Nat) (h : LandedAt id (strandOf s core bank st)) :
    LandedAt id (strandOf (thaw s core was) core bank st) := by
  simp only [Machine.thaw]
  split
  · exact h
  · split
    · exact h
    · simp only [strandOf, bankOf, coreOf_updCore]
      refine bankSel_setBank_of (P := fun b => LandedAt id (strandSel b st)) (fun hm => ?_)
        (bankSel_setBank_of (P := fun b => LandedAt id (strandSel b st)) (fun hm => ?_) h)
      · rw [strandSel_mapStrands, ← bankSel_congr _ hm]
        exact LandedAt.loseTime h
      · rw [strandSel_mapStrands, fgBank, ← bankSel_congr _ hm]
        exact LandedAt.holdStrand h
theorem performFlight_landed {s : State} {core bank id : Nat} {st : Strand} {f : Flight} {o : MemOp}
    (hf : (strandOf s core bank st).flight.find? (fun f => f.id = id && !f.landed) = some f) (ho : f.op = some o) (hk : ∀ x, o.kind ≠ .vload x) :
    LandedAt id (strandOf (performFlight s core bank st id) core bank st) := by
  rw [performFlight_land hf ho hk]
  refine LandedAt.thaw _ ?_
  rw [strandOf, bankOf_updBank]
  exact LandedAt.landFlight _ _ _ _

/-! ## What a load's bytes are in registers (R331, R418) -/

theorem loadWrites_one (k n v : Nat) (p : Bool) (hn : n ≤ 8) : loadWrites [.reg k] n v false p = [.reg k { v := BitVec.ofNat 64 v, poi := p }] := by
  simp [loadWrites, hn]
theorem ofNat_wrapN_sintN (v : Nat) {n : Nat} (h0 : 0 < n) : BitVec.ofNat 64 (wrapN 64 (sintN n v)) = (BitVec.ofNat n v).signExtend 64 := by
  have hint : sintN n v = (BitVec.ofNat n v).toInt := by
    rw [BitVec.toInt_eq_toNat_cond, sintN, BitVec.toNat_ofNat]
    have h2 : 2 ^ n = 2 * 2 ^ (n - 1) := by rw [← Nat.pow_succ']; congr 1; omega
    split_ifs <;> omega
  rw [wrapN, hint, BitVec.signExtend]
  apply BitVec.eq_of_toNat_eq
  rw [BitVec.toNat_ofNat, BitVec.toNat_ofInt]
  exact Nat.mod_eq_of_lt (by omega)
theorem loadWrites_signed (k v : Nat) {n : Nat} (p : Bool) (h : n = 1 ∨ n = 2 ∨ n = 4 ∨ n = 8) :
    loadWrites [.reg k] n v true p = [.reg k { v := (BitVec.ofNat (8 * n) v).signExtend 64, poi := p }] := by
  have hext : BitVec.ofNat 64 (if n < 8 && true then wrapN 64 (sintN (8 * n) v) else v) = (BitVec.ofNat (8 * n) v).signExtend 64 := by
    by_cases h8 : n < 8
    · rw [if_pos (by simpa using h8)]
      exact ofNat_wrapN_sintN v (by omega)
    · obtain rfl : n = 8 := by omega
      simp
  simp [loadWrites, ← hext, show n ≤ 8 by omega]
theorem loadWrites_tuple (k n v : Nat) (sx p : Bool) (hn : 8 < n) : loadWrites ((List.range (n / 8)).map fun j => .reg (k + j)) n v sx p =
    (List.range (n / 8)).map fun j => .reg (k + j) { v := BitVec.ofNat 64 (v / 2 ^ (64 * j)), poi := p } := by
  have hv : ∀ j, BitVec.ofNat 64 (nbits v (64 * j) 64) = BitVec.ofNat 64 (v / 2 ^ (64 * j)) := fun j => by
    apply BitVec.eq_of_toNat_eq
    simp [nbits, Nat.shiftRight_eq_div_pow]
  simp only [loadWrites, if_neg (Nat.not_le.mpr hn), List.length_map, List.length_range, ← hv]
  have hzip : List.zip (List.range (n / 8)) ((List.range (n / 8)).map fun j => Dest.reg (k + j)) = (List.range (n / 8)).map fun j => (j, Dest.reg (k + j)) := by
    simpa using List.zip_map' (f := id) (g := fun j => Dest.reg (k + j)) (l := List.range (n / 8))
  rw [hzip, List.map_map]
  rfl

/-! ## Which access precedes which (R268, R269) -/

/-- A plain access or an atomic: the kinds that R268 orders by their points. -/
def Plain (o : MemOp) : Prop := o.kind = .load ∨ o.kind = .store ∨ (∃ k, o.kind = .amo k) ∨ o.kind = .cas

theorem Plain.isLoad {o : MemOp} (h : Plain o) : o.isLoad = true ↔ o.kind ≠ .store := by
  obtain h | h | ⟨k, h⟩ | h := h <;> simp [MemOp.isLoad, h]
theorem Plain.isStore {o : MemOp} (h : Plain o) : o.isStore = true ↔ o.kind ≠ .load := by
  obtain h | h | ⟨k, h⟩ | h := h <;> simp [MemOp.isStore, h]
theorem Plain.loadOnly {o : MemOp} (h : Plain o) : (o.isLoad && !o.isStore) = true ↔ o.kind = .load := by
  rw [Bool.and_eq_true, Bool.not_eq_true', ← Bool.not_eq_true, h.isLoad, h.isStore, not_not, and_iff_right_iff_imp]
  exact fun hl => by simp [hl]
theorem Plain.storeOnly {o : MemOp} (h : Plain o) : (o.isStore && !o.isLoad) = true ↔ o.kind = .store := by
  rw [Bool.and_eq_true, Bool.not_eq_true', ← Bool.not_eq_true, h.isLoad, h.isStore, not_not, and_iff_right_iff_imp]
  exact fun hs => by simp [hs]
theorem mustPrecede_plain {p o : MemOp} (hp : Plain p) (ho : Plain o) : mustPrecede p o =
    (sameAtom p o || p.acq || o.rel || (o.isStore && p.isLoad) || (samePoint p o && !(o.isLoad && !o.isStore && p.isStore && !p.isLoad))) := by
  obtain hp | hp | ⟨k, hp⟩ | hp := hp <;> obtain ho | ho | ⟨l, ho⟩ | ho := ho <;> simp only [mustPrecede, hp, ho]
/-- A later load may be performed before an earlier store at one point alone (R268). -/
theorem mustPrecede_plain_iff {p o : MemOp} (hp : Plain p) (ho : Plain o) : mustPrecede p o = true ↔
    sameAtom p o = true ∨ p.acq = true ∨ o.rel = true ∨ (o.kind ≠ .load ∧ p.kind ≠ .store) ∨
      (samePoint p o = true ∧ ¬(o.kind = .load ∧ p.kind = .store)) := by
  have hlate : (!(o.isLoad && !o.isStore && p.isStore && !p.isLoad)) = true ↔ ¬(o.kind = .load ∧ p.kind = .store) := by
    rw [Bool.and_assoc, Bool.not_eq_true', ← Bool.not_eq_true, Bool.and_eq_true, ho.loadOnly, hp.storeOnly]
  rw [mustPrecede_plain hp ho]
  simp only [Bool.or_eq_true, Bool.and_eq_true, hlate, ho.isStore, hp.isLoad, or_assoc]
theorem mustPrecede_fence_right {p f : MemOp} (hp : Plain p) (hf : f.kind = .fence) : mustPrecede p f = true ↔ f.rel = true ∨ p.kind ≠ .store := by
  have h : mustPrecede p f = (f.rel || p.isLoad) := by obtain hp | hp | ⟨k, hp⟩ | hp := hp <;> simp only [mustPrecede, hp, hf]
  rw [h, Bool.or_eq_true, hp.isLoad]
theorem mustPrecede_fence_left {f o : MemOp} (ho : Plain o) (hf : f.kind = .fence) :
    mustPrecede f o = true ↔ f.acq = true ∨ o.rel = true ∨ (f.rel = true ∧ o.kind ≠ .load) := by
  have h : mustPrecede f o = (f.acq || o.rel || (f.rel && o.isStore)) := by obtain ho | ho | ⟨k, ho⟩ | ho := ho <;> simp only [mustPrecede, ho, hf]
  rw [h, Bool.or_eq_true, Bool.or_eq_true, Bool.and_eq_true, ho.isStore, or_assoc]
theorem mustPrecede_qmark {p f : MemOp} (hp : Plain p) (hf : f.kind = .qmark) : mustPrecede p f = true ∧ mustPrecede f p = true := by
  obtain hp | hp | ⟨k, hp⟩ | hp := hp <;> simp only [mustPrecede, hp, hf, and_self]

/-! ## The clauses of accesses -/

section
variable {s : State} {core bank : Nat} {st : Strand} {o : MemOp} (hdid : o.did = []) (hmmio : o.pieces.head?.all (fun q => q.kind != .mmio) = true)

/-- The state in which the access is made: past its release, with the access kept (R262, R267). -/
def entered (s : State) (core bank : Nat) (st : Strand) (o : MemOp) : State := noteStrong (if o.rel then releaseAction s core o.scope else s) core bank st o
/-- The answer of an access, past its acquire. -/
def acquired (core : Nat) (o : MemOp) (r : (Nat × Bool) × State) : (Nat × Bool) × State := (r.1, if o.acq then acquireAction r.2 core o.scope else r.2)

theorem entered_plain (h0 : o.ord = 0) (hk : o.kind = .load ∨ o.kind = .store ∨ o.kind = .ldro true) : entered s core bank st o = s := by
  have hweak : o.strong = false := by obtain hk | hk | hk := hk <;> simp [MemOp.strong, hk, h0]
  rw [entered, noteStrong_weak hweak, if_neg (by simp [MemOp.rel, h0])]

variable (hmix : mixedSpans (if o.rel then releaseAction s core o.scope else s) core bank st o = [])
include hmix

theorem performOp_fence (hk : o.kind = .fence ∨ o.kind = .qmark) : performOp s core bank st o = acquired core o ((0, false), entered s core bank st o) := by
  obtain hk | hk := hk <;> simp only [performOp, hmix, hk, mixUp_nil] <;> rfl
include hdid
theorem performOp_ldro {q : Piece} (hk : o.kind = .ldro true) (hp : o.pieces = [q]) :
    performOp s core bank st o = acquired core o (readRo (entered s core bank st o) core q) := by
  simp only [performOp, hmix, hk, mixUp_nil, readRo_of_one hdid _ core hp]
  rfl
include hmmio
theorem performOp_load (hk : o.kind = .load) : performOp s core bank st o = acquired core o (readPieces (entered s core bank st o) core o.scope o.pieces) := by
  simp only [performOp, hmix, hk, mixUp_nil, readOp_eq_readPieces hdid hmmio]
  rfl
theorem performOp_store (hk : o.kind = .store) : performOp s core bank st o =
    acquired core o ((0, false), noteStore (writePieces (entered s core bank st o) core o.scope o.pdata o.pieces o.data) core bank o o.va o.n o.pdata) := by
  simp only [performOp, hmix, hk, mixUp_nil, writeNoted, writeOp_eq_writePieces hdid hmmio]
  rfl
end
end Sys2Proof.Laws
end

section
/-! SUPPORT. Stores and loads at their points (R217, R261, R304): what they leave of the homes and of the cluster's cache, and what a load then returns. -/
namespace Sys2Proof.Laws
open Sys2Proof.Machine Sys2Proof.Safety

/-! ## What a woken wait leaves -/

@[simp] theorem wakeEnt_mem (s : State) (e : WaitEnt) : (wakeEnt s e).mem = s.mem := by
  simp only [wakeEnt]; repeat' split
  all_goals simp
@[simp] theorem wakeEnt_clusters (s : State) (e : WaitEnt) : (wakeEnt s e).clusters = s.clusters := by
  simp only [wakeEnt]; repeat' split
  all_goals simp
theorem foldl_wakeEnt_mem (l : List WaitEnt) (s : State) : (l.foldl wakeEnt s).mem = s.mem := by
  induction l generalizing s with
  | nil => rfl
  | cons e l ih => rw [List.foldl_cons, ih, wakeEnt_mem]
theorem foldl_wakeEnt_clusters (l : List WaitEnt) (s : State) : (l.foldl wakeEnt s).clusters = s.clusters := by
  induction l generalizing s with
  | nil => rfl
  | cons e l ih => rw [List.foldl_cons, ih, wakeEnt_clusters]
@[simp] theorem wakeBytes_mem (s : State) (a n : Nat) : (wakeBytes s a n).mem = s.mem := by
  simp only [wakeBytes, wakeWhere]
  split
  · rfl
  · exact foldl_wakeEnt_mem _ _
theorem cache_mapWaits (g : Cluster → List WaitEnt) (t : Tbl Cluster) (k : Nat) :
    (tget (t.map fun e : Nat × Cluster => (e.1, { e.2 with waits := g e.2 })) k {}).cache = (tget t k {}).cache := by
  induction t with
  | nil => rfl
  | cons e t ih =>
    by_cases he : e.1 = k
    · simp [tget, tfind, he]
    · simpa [tget, tfind, he] using ih
@[simp] theorem cache_wakeBytes (s : State) (a n k : Nat) : (clusterOf (wakeBytes s a n) k).cache = (clusterOf s k).cache := by
  simp only [wakeBytes, wakeWhere]
  split
  · rfl
  · simp only [clusterOf, foldl_wakeEnt_clusters]
    exact cache_mapWaits (fun c => c.waits.filter _) _ k

/-! ## Bytes of a line -/

theorem memRead_lt (m : Memory) (a n : Nat) : memRead m a n < 256 ^ n := by
  induction n generalizing a with
  | zero => exact Nat.one_pos
  | succ n ih =>
    have hb := (memByte m a).isLt
    have hr := ih (a + 1)
    rw [memRead, Nat.pow_succ]
    omega
theorem memRead_add (m : Memory) (a k n : Nat) : memRead m a (k + n) = memRead m a k + 256 ^ k * memRead m (a + k) n := by
  induction k generalizing a with
  | zero => simp [memRead]
  | succ k ih =>
    rw [show k + 1 + n = (k + n) + 1 by omega, memRead, memRead, ih, Nat.pow_succ, show a + 1 + k = a + (k + 1) by omega]
    ring
/-- A stretch of bytes within a longer one. -/
theorem nbits_memRead (m : Memory) (a : Nat) {k n l : Nat} (h : k + n ≤ l) : nbits (memRead m a l) (8 * k) (8 * n) = memRead m (a + k) n := by
  obtain ⟨r, rfl⟩ := Nat.exists_eq_add_of_le h
  have hp : ∀ j, 2 ^ (8 * j) = 256 ^ j := fun j => Nat.pow_mul 2 8 j
  rw [nbits, Nat.shiftRight_eq_div_pow, hp, hp, Nat.add_assoc, memRead_add, Nat.add_mul_div_left _ _ (Nat.pow_pos (by decide)), Nat.div_eq_of_lt (memRead_lt m a k),
    Nat.zero_add, memRead_add, Nat.add_mul_mod_self_left, Nat.mod_eq_of_lt (memRead_lt _ _ _)]

/-- A mask of bytes as a mask of bits: eight for each. -/
theorem spread_bits (m : BitVec 128) (i n : Nat) : ∃ x, spread m i n = 2 ^ (8 * i) * x ∧ ∀ j, x.testBit j = (decide (j / 8 < n) && m.getLsbD (i + j / 8)) := by
  induction n generalizing i with
  | zero => exact ⟨0, by simp [spread], by simp⟩
  | succ n ih =>
    obtain ⟨x, hx, hb⟩ := ih (i + 1)
    refine ⟨2 ^ 8 * x + (if m.getLsbD i then 255 else 0), ?_, fun j => ?_⟩
    · rw [spread, hx, Nat.shiftLeft_eq, Nat.mul_succ 8, Nat.pow_add]
      split <;> ring
    · have hlt : (if m.getLsbD i then 255 else 0) < 2 ^ 8 := by split <;> decide
      rw [Nat.testBit_two_pow_mul_add _ hlt]
      split
      · next hj =>
        have h0 : j / 8 = 0 := by omega
        rw [h0, Nat.add_zero]
        cases m.getLsbD i
        · simp
        · simpa using (Nat.testBit_two_pow_sub_one 8 j).trans (decide_eq_true hj)
      · next hj =>
        rw [hb, show (j - 8) / 8 = j / 8 - 1 by omega, show i + 1 + (j / 8 - 1) = i + j / 8 by omega]
        congr 1
        simp
        omega
theorem testBit_spread (m : BitVec 128) (j : Nat) : (spread m 0 128).testBit j = m.getLsbD (j / 8) := by
  obtain ⟨x, hx, hb⟩ := spread_bits m 0 128
  rw [hx, Nat.mul_zero, Nat.pow_zero, Nat.one_mul, hb, Nat.zero_add]
  by_cases h : j / 8 < 128
  · simp [h]
  · simp [h, BitVec.getLsbD_of_ge _ _ (Nat.not_lt.mp h)]
theorem getLsbD_byteMask (o n i : Nat) : (byteMask o n).getLsbD i = (decide (i < 128) && decide (o ≤ i) && decide (i < o + n)) := by
  rw [byteMask, BitVec.getLsbD_ofNat, Nat.testBit_shiftLeft, Nat.testBit_two_pow_sub_one]
  have hin : (decide (i ≥ o) && decide (i - o < n)) = (decide (o ≤ i) && decide (i < o + n)) := by
    rw [← Bool.decide_and, ← Bool.decide_and, decide_eq_decide]
    omega
  rw [Bool.and_assoc, hin]
/-- The bytes that the mask selects are the new ones. -/
theorem nbits_mixBytes (a b : BitVec 1024) {m : BitVec 128} {o n : Nat} (hm : m &&& byteMask o n = byteMask o n) (h : o + n ≤ 128) :
    nbits (mixBytes a b m).toNat (8 * o) (8 * n) = nbits b.toNat (8 * o) (8 * n) := by
  refine Nat.eq_of_testBit_eq fun j => ?_
  simp only [nbits, Nat.testBit_mod_two_pow, Nat.testBit_shiftRight]
  by_cases hj : j < 8 * n
  · have hsel : m.getLsbD ((8 * o + j) / 8) = true := by
      have hi := congrArg (BitVec.getLsbD · ((8 * o + j) / 8)) hm
      simp only [BitVec.getLsbD_and, getLsbD_byteMask] at hi
      have h1 : (8 * o + j) / 8 < 128 ∧ o ≤ (8 * o + j) / 8 ∧ (8 * o + j) / 8 < o + n := by omega
      simpa [h1] using hi
    have hbit : (BitVec.ofNat 1024 (spread m 0 128)).getLsbD (8 * o + j) = true := by
      rw [BitVec.getLsbD_ofNat, testBit_spread, hsel, Bool.and_true]
      exact decide_eq_true (by omega)
    simp only [mixBytes, BitVec.testBit_toNat, BitVec.getLsbD_or, BitVec.getLsbD_and, BitVec.getLsbD_not, hbit, Bool.not_true,
      Bool.and_false, Bool.and_true, Bool.false_or]
  · simp [hj]

/-! ## Stores and loads at the homes (R261, R304) -/

@[simp] theorem keepCode_mem (s : State) (pa n v : Nat) : (keepCode s pa n v).mem = s.mem := by simp only [keepCode]; split <;> rfl
@[simp] theorem keepCode_hostDirty (s : State) (pa n v : Nat) : (keepCode s pa n v).hostDirty = s.hostDirty := by simp only [keepCode]; split <;> rfl
@[simp] theorem keepCode_clusters (s : State) (pa n v : Nat) : (keepCode s pa n v).clusters = s.clusters := by simp only [keepCode]; split <;> rfl
@[simp] theorem dropBytes_mem (s : State) (k pa n : Nat) : (dropBytes s k pa n).mem = s.mem := by simp only [dropBytes]; split <;> rfl
@[simp] theorem dropBytes_hostDirty (s : State) (k pa n : Nat) : (dropBytes s k pa n).hostDirty = s.hostDirty := by simp only [dropBytes]; split <;> rfl
@[simp] theorem touchRow_mem (s : State) (pa : Nat) : (touchRow s pa).mem = s.mem := by simp only [touchRow]; split <;> rfl
theorem hostClean_congr {s t : State} (h : t.hostDirty = s.hostDirty) (pa n : Nat) : hostClean t pa n = hostClean s pa n := by simp only [hostClean, h]
theorem recallHost_of_clean {s : State} {pa n : Nat} (h : hostClean s pa n = true) : (recallHost s pa n).mem = s.mem :=
  recallHost_mem fun x hx => by simpa using List.all_eq_true.mp h x hx
theorem homeStore_mem (s : State) (pa n v : Nat) (p : Bool) : (homeStore s pa n v p).mem = homeWrite (recallHost s pa n).mem pa n v p := by
  rw [homeStore, wakeBytes_mem]
  exact congrArg (homeWrite · pa n v p) (touchRow_mem _ _)

/-- The state in which a piece is written: what the bytes held is kept for the fetches of an unretired task (log entry 26). -/
def kept (s : State) (core : Nat) (q : Piece) : State := if s.codeOf.isEmpty then s else keepCode s q.pa q.n (peek s core q)
@[simp] theorem kept_mem (s : State) (core : Nat) (q : Piece) : (kept s core q).mem = s.mem := by rw [kept]; split <;> simp
@[simp] theorem kept_hostDirty (s : State) (core : Nat) (q : Piece) : (kept s core q).hostDirty = s.hostDirty := by rw [kept]; split <;> simp
@[simp] theorem kept_clusters (s : State) (core : Nat) (q : Piece) : (kept s core q).clusters = s.clusters := by rw [kept]; split <;> simp

section
variable {s : State} {core scope v : Nat} {q : Piece}

theorem paPool_of_local {pa : Nat} (h : paLocal pa = true) : paPool pa = false := by
  simp only [paLocal, decide_eq_true_eq] at h
  simp only [paPool, Bool.and_eq_false_iff, decide_eq_false_iff_not]
  omega
theorem paLocal_le {a b : Nat} (hab : a ≤ b) (h : paLocal b = true) : paLocal a = true := by
  simp only [paLocal, decide_eq_true_eq] at h ⊢
  omega

section
variable (hk : q.kind = .loc) (hl : paLocal (q.pa + q.n) = true) (hs : 2 ≤ scope)
include hk hl hs

/-- A LOCAL store at DEV or SYS scope is a write at the home; the cluster's copy of the bytes goes. -/
theorem writePiece_home (p : Bool) : writePiece s core scope q v p = homeStore (dropBytes (kept s core q) (clusterOfCore core) q.pa q.n) q.pa q.n v p := by
  have hw : q.kind ≠ .window := by simp [hk]
  have hline : paPool (128 * (q.pa / 128)) = false := paPool_of_local (paLocal_le (by omega) hl)
  have hpa : paPool q.pa = false := paPool_of_local (paLocal_le (by omega) hl)
  simp only [writePiece, if_neg hw, if_neg (Nat.not_le.mpr hs), storeBeyond, lapsedLine, hline, hpa, Bool.false_and, Bool.false_eq_true, if_false]
  rfl
theorem writePiece_home_mem (p : Bool) : (writePiece s core scope q v p).mem =
    homeWrite (recallHost (dropBytes (kept s core q) (clusterOfCore core) q.pa q.n) q.pa q.n).mem q.pa q.n v p := by
  rw [writePiece_home hk hl hs, homeStore_mem]
theorem memRead_writePiece_home (hm : s.mem.wf = true) : memRead (writePiece s core scope q v false).mem q.pa q.n = v % 256 ^ q.n := by
  have hc : Canon (dropBytes (kept s core q) (clusterOfCore core) q.pa q.n) := by rwa [Canon, dropBytes_mem, kept_mem]
  rw [writePiece_home_mem hk hl hs, memRead_homeWrite _ _ _ _ hc.recallHost]
theorem memByte_writePiece_home (hh : hostClean s q.pa q.n = true) {x : Nat} (hx : x < q.pa ∨ q.pa + q.n ≤ x) :
    memByte (writePiece s core scope q v false).mem x = memByte s.mem x := by
  have hclean : hostClean (dropBytes (kept s core q) (clusterOfCore core) q.pa q.n) q.pa q.n = true :=
    (hostClean_congr (by simp) _ _).trans hh
  rw [writePiece_home_mem hk hl hs, memByte_homeWrite_other _ _ hx, recallHost_of_clean hclean, dropBytes_mem, kept_mem]

/-- A LOCAL load at DEV or SYS scope of a line that the cluster does not hold reads the home. -/
theorem readPiece_home (hq : q.pa % 128 + q.n ≤ 128) (hh : scope = 2 ∨ hostClean s q.pa q.n = true)
    (hc : (findLine (clusterOf s (clusterOfCore core)).cache (q.pa / 128)).isNone = true) : (readPiece s core scope q).1.1 = memRead s.mem q.pa q.n := by
  have hw : q.kind ≠ .window := by simp [hk]
  have hline : paPool (128 * (q.pa / 128)) = false := paPool_of_local (paLocal_le (by omega) hl)
  have hclean : cleanLine s (clusterOfCore core) (q.pa / 128) = s := by simp only [cleanLine, Option.isNone_iff_eq_none.mp hc]
  have hdrop : dropBytes s (clusterOfCore core) q.pa q.n = s := by simp only [dropBytes, Option.isNone_iff_eq_none.mp hc]
  have hmem : (if scope = 3 && paLocal q.pa then recallHost s q.pa q.n else s).mem = s.mem := by
    split
    · next h3 =>
      refine recallHost_of_clean (hh.resolve_left ?_)
      simp only [Bool.and_eq_true, decide_eq_true_eq] at h3
      omega
    · rfl
  simp only [readPiece, if_neg hw, if_neg (Nat.not_le.mpr hs), hclean, hdrop, ite_self, loadBeyond, beyondFetch, hline, Bool.not_false, if_true, homeLine, hmem]
  rw [nbits_ofNat _ (by omega), nbits_memRead _ _ hq]
  congr 1
  omega
end

/-! ## Stores and loads in a cluster's cache (R217, R261) -/

section
variable {k : Nat} (hr : roomFor s k q = true)
include hr

theorem roomFor_room (hf : (findLine (clusterOf s k).cache (q.pa / 128)).isSome = false) :
    ((clusterOf s k).cache.filter fun x => x.line % 4096 = q.pa / 128 % 4096).length < 16 ∧
      ((q.kind != .coh && q.kind != .host) = true ∨ (filterSet s (agentOf (128 * (q.pa / 128))) (q.pa / 128)).length < 16) := by
  simpa [roomFor, hf] using hr
/-- A line that there is room for displaces none. -/
theorem clusterRoom_of_room :
    (if (findLine (clusterOf s k).cache (q.pa / 128)).isSome then s else clusterRoom (filterRoom s q.kind (q.pa / 128)) k (q.pa / 128)) = s := by
  cases hf : (findLine (clusterOf s k).cache (q.pa / 128)).isSome with
  | true => rfl
  | false =>
    obtain ⟨hset, hfilter⟩ := roomFor_room hr hf
    have hfr : filterRoom s q.kind (q.pa / 128) = s := by
      simp only [filterRoom]
      split
      · rfl
      · next h =>
        simp [hfilter.resolve_left h]
    simp [hfr, clusterRoom, hset]
theorem clusterStuck_of_room : clusterStuck s k (q.pa / 128) = false := by
  simp only [clusterStuck, Bool.and_eq_false_iff, decide_eq_false_iff_not, Nat.not_le]
  cases hf : findLine (clusterOf s k).cache (q.pa / 128) with
  | none => exact .inl (roomFor_room hr (by simp [hf])).1
  | some x =>
    have hline := line_of_findLine hf
    refine .inr (List.all_eq_false.mpr ⟨x, List.mem_filter.mpr ⟨List.mem_of_find?_eq_some hf, by simp [hline]⟩, by simp [hline]⟩)

/-- The line that a write of a piece makes of the cluster's line, or of a new one. -/
def written (s : State) (k core : Nat) (q : Piece) (v : Nat) (p : Bool) : Line :=
  let x := (findLine (clusterOf s k).cache (q.pa / 128)).getD { line := q.pa / 128, sm := q.sm, tagged := q.tagged, kind := q.kind }
  let y := lineMerge x (BitVec.ofNat 1024 ((v % 256 ^ q.n) <<< (8 * (q.pa % 128)))) (byteMask (q.pa % 128) q.n) (if p then 15 else 0) true
  { y with wrote := tset y.wrote core (tget y.wrote core 0 ||| byteMask (q.pa % 128) q.n) }
omit hr in
theorem written_line (p : Bool) : (written s k core q v p).line = q.pa / 128 := by
  change ((findLine (clusterOf s k).cache (q.pa / 128)).getD { line := q.pa / 128, sm := q.sm, tagged := q.tagged, kind := q.kind }).line = q.pa / 128
  cases hf : findLine (clusterOf s k).cache (q.pa / 128) with
  | none => rfl
  | some x => exact line_of_findLine hf
theorem writeCluster_room (p : Bool) : writeCluster s k core q v p =
    wakeBytes (updCluster s k fun c => { c with cache := putLine c.cache (written s k core q v p) }) q.pa q.n := by
  simp only [writeCluster, clusterRoom_of_room hr, clusterStuck_of_room hr, Bool.false_eq_true, if_false]
  rfl
end

/-- A write of a piece in the cluster's cache. -/
theorem writePiece_cluster (hw : q.kind ≠ .window) (hs : scope ≤ 1) (p : Bool) :
    writePiece s core scope q v p = writeCluster (kept s core q) (clusterOfCore core) core q v p := by
  simp only [writePiece, if_neg hw, if_pos hs]
  rfl
theorem roomFor_kept (k : Nat) : roomFor (kept s core q) k q = roomFor s k q := by
  rw [kept, keepCode]
  split_ifs <;> rfl

section
variable {k : Nat} {x : Line} (hx : findLine (clusterOf s k).cache (q.pa / 128) = some x) (hd : x.dirty &&& byteMask (q.pa % 128) q.n = byteMask (q.pa % 128) q.n)
  (hq : q.pa % 128 + q.n ≤ 128)
include hx hd hq

/-- A read of bytes that the cluster's line holds dirty finds them there, whatever is filled around them (R217). -/
theorem readCluster_dirty : (readCluster s k q).1.1 = nbits x.data.toNat (8 * (q.pa % 128)) (8 * q.n) := by
  have hline : nbits (readLine s k q).1.data.toNat (8 * (q.pa % 128)) (8 * q.n) = nbits x.data.toNat (8 * (q.pa % 128)) (8 * q.n) := by
    simp only [readLine, hx, Option.isSome_some, if_true, Option.getD_some]
    split
    · rfl
    · exact nbits_mixBytes _ _ hd hq
  exact hline
end

/-- The bytes that a write leaves in its line are dirty, and are those written. -/
theorem written_dirty (k : Nat) (p : Bool) : (written s k core q v p).dirty &&& byteMask (q.pa % 128) q.n = byteMask (q.pa % 128) q.n := by
  simp only [written, lineMerge, if_true]
  ext i
  simp
  tauto
theorem nbits_written (k : Nat) (p : Bool) (hq : q.pa % 128 + q.n ≤ 128) :
    nbits (written s k core q v p).data.toNat (8 * (q.pa % 128)) (8 * q.n) = v % 256 ^ q.n := by
  simp only [written, lineMerge]
  rw [nbits_mixBytes _ _ (BitVec.and_self) hq, nbits_ofNat _ (by omega), nbits, Nat.shiftLeft_shiftRight, Nat.pow_mul]
  exact Nat.mod_mod _ _

section
variable (hw : q.kind ≠ .window) (hs : scope ≤ 1) (hr : roomFor s (clusterOfCore core) q = true)
include hw hs hr

/-- A store in a cluster's cache that has room leaves the line there, and no home changed. -/
theorem writePiece_room (p : Bool) : writePiece s core scope q v p = wakeBytes (updCluster (kept s core q) (clusterOfCore core)
    fun c => { c with cache := putLine c.cache (written (kept s core q) (clusterOfCore core) core q v p) }) q.pa q.n := by
  have hroom : roomFor (kept s core q) (clusterOfCore core) q = true := (roomFor_kept _).trans hr
  rw [writePiece_cluster hw hs, writeCluster_room hroom]
theorem writePiece_room_mem (p : Bool) : (writePiece s core scope q v p).mem = s.mem := by
  rw [writePiece_room hw hs hr, wakeBytes_mem, updCluster_mem, kept_mem]
theorem readPiece_writePiece_room (p : Bool) (hq : q.pa % 128 + q.n ≤ 128) {core' : Nat} (hc : clusterOfCore core' = clusterOfCore core) :
    (readPiece (writePiece s core scope q v p) core' scope q).1.1 = v % 256 ^ q.n := by
  have hfind : findLine (clusterOf (writePiece s core scope q v p) (clusterOfCore core)).cache (q.pa / 128) =
      some (written (kept s core q) (clusterOfCore core) core q v p) := by
    rw [writePiece_room hw hs hr, cache_wakeBytes, clusterOf_updCluster]
    simpa only [written_line] using findLine_putLine (clusterOf (kept s core q) (clusterOfCore core)).cache (written (kept s core q) (clusterOfCore core) core q v p)
  rw [readPiece, if_neg hw, if_pos hs, hc, readCluster_dirty hfind (written_dirty _ p) hq, nbits_written _ _ hq]
end
end

/-! ## The obligation -/

/-- Settles O22, clause by clause. -/
theorem storesAndLoadsAtTheirPoints : Obligations.StoresAndLoadsAtTheirPoints := by
  refine ⟨fun s core bank st o hdid hmmio => ?_, fun s core bank id st f o hf ho hk => ?_,
    fun k n v p _ => ⟨fun hn => ?_, fun hn sx => loadWrites_tuple k n v sx p hn⟩,
    fun p o hp ho => ⟨mustPrecede_plain_iff hp ho, fun f hf => ⟨mustPrecede_fence_right hp hf, mustPrecede_fence_left ho hf⟩,
      fun f hf => ⟨(mustPrecede_qmark hp hf).1, (mustPrecede_qmark ho hf).2⟩⟩, fun s core scope v q hm _ hq => ⟨fun hk hl hs => ?_, fun hw _ hs hr => ?_⟩⟩
  · intro t u back hmix
    exact ⟨performOp_load hdid hmmio hmix, fun q => performOp_ldro hdid hmix, performOp_store hdid hmmio hmix, performOp_fence hmix, entered_plain⟩
  · exact ⟨performFlight_land hf ho hk, performFlight_landed hf ho hk, performNext_whole hf ho⟩
  · exact ⟨loadWrites_one k n v p (by omega), loadWrites_signed k v p hn⟩
  · exact ⟨memRead_writePiece_home hk hl hs hm, fun hh x hx => memByte_writePiece_home hk hl hs hh hx, readPiece_home hk hl hs hq⟩
  · exact ⟨writePiece_room_mem hw hs hr false, fun core' hc => readPiece_writePiece_room hw hs hr false hq hc⟩
end Sys2Proof.Laws
end
